-- ==== Sys2Proof/Word.lean ====
section
/-!
DEFINITION. The word types of the LE816 and their plainest arithmetic (00_scope.md R7, R8).
-/

namespace Sys2Proof

/-- A 64-bit register, payload or record word. -/
abbrev Word := BitVec 64

/-- One 32-bit slot of a block's body (R65). -/
abbrev Slot := BitVec 32

/-- One byte of memory. -/
abbrev Byte := BitVec 8

/-- A 40-bit tag: LDIE[39:36] CTX[35:26] SPACE[25:20] GEN[19:16] ITER[15:0] (R46). -/
abbrev Tag := BitVec 40

/-- Bits [hi:lo] of `n`, both ends included (R8). -/
def bitsOf (n hi lo : Nat) : Nat := n / 2 ^ lo % 2 ^ (hi + 1 - lo)

/-- Bit `i` of `n`. -/
def bitOf (n i : Nat) : Bool := n / 2 ^ i % 2 == 1

/-- Bits [hi:lo] of a 64-bit word, as a number. -/
def Word.bits (w : Word) (hi lo : Nat) : Nat := bitsOf w.toNat hi lo

/-- Bit `i` of a 64-bit word. -/
def Word.bit (w : Word) (i : Nat) : Bool := bitOf w.toNat i

/-- A number as a 64-bit word (the low 64 bits). -/
def toWord (n : Nat) : Word := BitVec.ofNat 64 n

/-- An integer as a 64-bit word (two's complement, the low 64 bits). -/
def intWord (z : Int) : Word := BitVec.ofInt 64 z

/-- `n`, read as a `w`-bit two's-complement number. -/
def signedOf (w n : Nat) : Int :=
  if n % 2 ^ w < 2 ^ (w - 1) then (n % 2 ^ w : Nat) else (n % 2 ^ w : Nat) - (2 ^ w : Nat)

/-- The low `w` bits of an integer, as a number: the only narrowing the pseudocode uses (R12). -/
def lowBits (w : Nat) (z : Int) : Nat := (z % (2 ^ w : Nat)).toNat

/-- sext(v, n) of R114. -/
def sextWord (v : Nat) (n : Nat) : Word := intWord (signedOf n v)

/-- zext(v, n) of R114. -/
def zextWord (v : Nat) (n : Nat) : Word := toWord (v % 2 ^ n)

end Sys2Proof
end

