-- ==== Sys2Proof/Machine/Flags.lean ====
section
/-!
DEFINITION. The five exception flags of %fpctl (R112) and when a rounding raises them.
-/

namespace Sys2Proof.Machine

/-- NV, DZ, OF, UF and NX at their bits of %fpctl. -/
def flagNV : Nat := 1
def flagDZ : Nat := 2
def flagOF : Nat := 4
def flagUF : Nat := 8
def flagNX : Nat := 16

/-- A flag when a condition holds. -/
def flagIf (c : Bool) (f : Nat) : Nat := if c then f else 0

/-- NV for a signalling operand (R106). -/
def nvIf (c : Bool) : Nat := flagIf c flagNV

/-- An overflow sets OF and NX (R109). -/
def overflowFlags : Nat := flagOF + flagNX

/-- NX when the result differs from the exact one; UF with it when the result is tiny (R112). -/
def roundFlags (inexact tiny : Bool) : Nat := if inexact then flagNX + flagIf tiny flagUF else 0

end Sys2Proof.Machine
end

