-- ==== Sys2Proof/Machine/Num.lean ====
section
/-!
DEFINITION. Numbers: float encodings and their exact values (R103, R104), exact results (R105-R107), rounding
(R108-R110, R113, R114).
-/

namespace Sys2Proof.Machine

/-! ### Formats (R100, R103) -/

/-- A float format: width, fraction bits, bias, and the encoding of its largest finite magnitude. -/
structure FloatFmt where
  bits : Nat
  m : Nat
  bias : Nat
  max : Nat
  deriving DecidableEq, Repr

/-- The format of a type code 0x8 to 0xD. -/
def floatFmt : Nat → FloatFmt
  | 0x8 => ⟨32, 23, 127, 0x7F7FFFFF⟩
  | 0x9 => ⟨16, 10, 15, 0x7BFF⟩
  | 0xA => ⟨16, 7, 127, 0x7F7F⟩
  | 0xB => ⟨8, 3, 7, 0x7E⟩
  | 0xC => ⟨8, 2, 15, 0x7B⟩
  | _ => ⟨4, 1, 1, 7⟩

/-- The exponent of a format's smallest normal value. -/
def FloatFmt.emin (f : FloatFmt) : Int := 1 - f.bias

/-- A format with infinities: not E4M3, not E2M1. -/
def hasInf (t : Nat) : Bool := t != 0xB && t != 0xD

/-- canon_nan of R114: the canonical NaN; +0 for E2M1. -/
def canonNan : Nat → Nat
  | 0x8 => 0x7FC00000
  | 0x9 => 0x7E00
  | 0xA => 0x7FC0
  | 0xB => 0x7F
  | 0xC => 0x7E
  | 0xE => 0xFF
  | _ => 0

/-- An exact result: NaN, an infinity, a signed zero, or the non-zero number ± n / d. -/
inductive Ex where
  | nan
  | inf (neg : Bool)
  | zero (neg : Bool)
  | fin (neg : Bool) (n d : Nat)
  deriving DecidableEq, Repr

/-- An operand: its exact value and whether it is a signalling NaN. -/
structure Opd where
  ex : Ex
  snan : Bool
  deriving DecidableEq, Repr

/-- n · 2^e as an exact magnitude; zero stays a zero. -/
def scaled (neg : Bool) (n : Nat) (e : Int) : Ex :=
  if n = 0 then .zero neg else if 0 ≤ e then .fin neg (n * 2 ^ e.toNat) 1 else .fin neg n (2 ^ (-e).toNat)

/-- The value of an encoding of type code 0x8 to 0xE (R103, R104). -/
def floatValue (t enc : Nat) : Opd :=
  if t = 0xE then
    if enc % 256 = 0xFF then ⟨.nan, false⟩ else ⟨scaled false 1 ((enc % 256 : Nat) - 127), false⟩
  else
    let f := floatFmt t
    let e := enc % 2 ^ f.bits
    let neg := e / 2 ^ (f.bits - 1) == 1
    let mag := e % 2 ^ (f.bits - 1)
    if f.max < mag then
      if hasInf t && mag == f.max + 1 then ⟨.inf neg, false⟩
      else ⟨.nan, t != 0xB && !bitOf mag (f.m - 1)⟩
    else if mag / 2 ^ f.m = 0 then ⟨scaled neg (mag % 2 ^ f.m) (f.emin - f.m), false⟩
    else ⟨scaled neg (2 ^ f.m + mag % 2 ^ f.m) ((mag / 2 ^ f.m : Nat) - f.bias - f.m), false⟩

/-- An integer as an exact value. -/
def intEx (z : Int) : Ex := if z = 0 then .zero false else .fin (z < 0) z.natAbs 1

/-! ### Rounding (R108-R110, R113, R114) -/

/-- floor(log2 (n / d)) for n, d > 0. -/
def floorLog2 (n d : Nat) : Int :=
  let e : Int := (n.log2 : Int) - d.log2
  if 0 ≤ e then (if d * 2 ^ e.toNat ≤ n then e else e - 1) else (if d ≤ n * 2 ^ (-e).toNat then e else e - 1)

/-- Mode codes of R108; the draw of R110 comes beside. Takes lo or hi for the value k + r / d between k and k + 1. -/
def roundUp (mode u : Nat) (neg : Bool) (k r d : Nat) : Bool :=
  match mode with
  | 0 => d < 2 * r || (2 * r == d && k % 2 == 1)
  | 1 => false
  | 2 => !neg
  | 3 => neg
  | 4 => d ≤ 2 * r
  | _ => u < r * 2 ^ 24 / d

/-- n / d rounded to a multiple of 2^q: the multiple, and whether it differs. -/
def roundAt (mode u : Nat) (neg : Bool) (n d : Nat) (q : Int) : Nat × Bool :=
  let n' := if 0 ≤ q then n else n * 2 ^ (-q).toNat
  let d' := if 0 ≤ q then d * 2 ^ q.toNat else d
  let k := n' / d'
  let r := n' % d'
  if r = 0 then (k, false) else (if roundUp mode u neg k r d' then k + 1 else k, true)

/-- The overflow result of R109, without its sign. -/
def overflowMag (t mode : Nat) (sat neg : Bool) : Nat :=
  let f := floatFmt t
  if t = 0xD then f.max
  else if sat then f.max
  else if t = 0xB then 0x7F
  else if mode = 1 ∨ (mode = 2 ∧ neg = true) ∨ (mode = 3 ∧ neg = false) then f.max
  else f.max + 1

/-- The sign bit of a format set on a magnitude. E4M3's overflow NaN is 0x7F whatever the sign (R109). -/
def withSign (t : Nat) (neg : Bool) (mag : Nat) : Nat :=
  if neg && !(t == 0xB && mag == 0x7F) then 2 ^ ((floatFmt t).bits - 1) + mag else mag

/-- The encoding, without sign and range limit, of k · 2^q in a format. -/
def encodeMag (f : FloatFmt) (k : Nat) (q : Int) : Nat :=
  if k < 2 ^ f.m then k else (q + f.m + f.bias).toNat * 2 ^ f.m + (k - 2 ^ f.m)

/-- The rounding of a non-zero finite value to a float format, with its flags; `inexact` says the value already
differs from the exact result. -/
def roundFin (t mode u : Nat) (sat inexact neg : Bool) (n d : Nat) : Nat × Nat :=
  let f := floatFmt t
  let e := floorLog2 n d
  let q := (max e f.emin) - f.m
  let (k, nx) := roundAt mode u neg n d q
  let enc := encodeMag f k q
  if f.max < enc then (withSign t neg (overflowMag t mode sat neg), overflowFlags)
  else
    let free := (roundAt mode u neg n d (e - f.m)).1
    let tiny := e < f.emin && !(e + 1 == f.emin && free == 2 ^ (f.m + 1))
    (withSign t neg enc, roundFlags (nx || inexact) tiny)

/-- round_mode of R114 to a float type: encoding and flags. The NV of NaN sources is the caller's, but for E2M1's. -/
def roundFloat (t mode u : Nat) (sat : Bool) (x : Ex) (inexact : Bool := false) : Nat × Nat :=
  let f := floatFmt t
  match x with
  | .nan => (canonNan t, if t = 0xD then flagNV else 0)
  | .inf neg =>
    if t = 0xD then (withSign t neg f.max, flagNV)
    else if sat then (withSign t neg f.max, 0)
    else if t = 0xB then (0x7F, 0)
    else (withSign t neg (f.max + 1), 0)
  | .zero neg => (withSign t neg 0, 0)
  | .fin neg n d => roundFin t mode u sat inexact neg n d

/-- round_rne. -/
def roundRne (t : Nat) (x : Ex) : Nat × Nat := roundFloat t 0 0 false x

/-- The range of an integer of w bits. -/
def intMin (w : Nat) (signed : Bool) : Int := if signed then -(2 ^ (w - 1) : Nat) else 0
def intMax (w : Nat) (signed : Bool) : Int := if signed then (2 ^ (w - 1) : Nat) - 1 else (2 ^ w : Nat) - 1

/-- sat of R114 for an integer type. -/
def satInt (w : Nat) (signed : Bool) (z : Int) : Int :=
  if z < intMin w signed then intMin w signed else if intMax w signed < z then intMax w signed else z

/-- round_mode to an integer type of w bits: the value and its flags (R113). -/
def roundInt (w : Nat) (signed : Bool) (mode u : Nat) (x : Ex) : Int × Nat :=
  match x with
  | .nan => (0, flagNV)
  | .inf neg => (if neg then intMin w signed else intMax w signed, flagNV)
  | .zero _ => (0, 0)
  | .fin neg n d =>
    let (k, nx) := roundAt mode u neg n d 0
    let v : Int := if neg then -(k : Int) else k
    if satInt w signed v ≠ v then (satInt w signed v, flagNV) else (v, flagIf nx flagNX)

/-- R110: the draw from a seed, a tag, a slot and an element index. -/
def stochasticDraw (seed : Word) (tag slot idx : Nat) : Nat :=
  let m := 2 ^ 64
  let z0 := seed.toNat ^^^ (tag % 2 ^ 40 * 256) ^^^ slot % 128
  let z1 := (z0 + idx * 0x9E3779B97F4A7C15) % m
  let z2 := (z1 ^^^ z1 / 2 ^ 30) * 0xBF58476D1CE4E5B9 % m
  let z3 := (z2 ^^^ z2 / 2 ^ 27) * 0x94D049BB133111EB % m
  bitsOf (z3 ^^^ z3 / 2 ^ 31) 63 40

/-! ### Exact operations (R105-R107) -/

/-- Either value's sign inverted. -/
def Ex.neg : Ex → Ex
  | .nan => .nan
  | .inf s => .inf !s
  | .zero s => .zero !s
  | .fin s n d => .fin (!s) n d

/-- A rational number as a signed numerator over a denominator. -/
def Ex.ratio : Ex → Int × Nat
  | .fin s n d => (if s then -(n : Int) else n, d)
  | _ => (0, 1)

/-- The exact result z / d; an exact zero takes the sign given. -/
def ofRatio (zeroNeg : Bool) (z : Int) (d : Nat) : Ex := if z = 0 then .zero zeroNeg else .fin (z < 0) z.natAbs d

/-- A sum; NaN for opposite infinities (R107: -0 only from zeros of negative sign). -/
def Ex.add (a b : Ex) : Ex :=
  match a, b with
  | .nan, _ => .nan
  | _, .nan => .nan
  | .inf s, .inf t => if s = t then .inf s else .nan
  | .inf s, _ => .inf s
  | _, .inf t => .inf t
  | .zero s, .zero t => .zero (s && t)
  | a, b =>
    let (x, d) := a.ratio
    let (y, e) := b.ratio
    ofRatio false (x * e + y * d) (d * e)

/-- A product; NaN for zero times infinity. -/
def Ex.mul (a b : Ex) : Ex :=
  match a, b with
  | .nan, _ => .nan
  | _, .nan => .nan
  | .inf _, .zero _ => .nan
  | .zero _, .inf _ => .nan
  | .inf s, .inf t => .inf (s != t)
  | .inf s, .fin t _ _ => .inf (s != t)
  | .fin s _ _, .inf t => .inf (s != t)
  | .zero s, .zero t => .zero (s != t)
  | .zero s, .fin t _ _ => .zero (s != t)
  | .fin s _ _, .zero t => .zero (s != t)
  | .fin s n d, .fin t m e => .fin (s != t) (n * m) (d * e)

/-- A quotient, and whether it divides a finite non-zero value by zero (R144). -/
def Ex.div (a b : Ex) : Ex × Bool :=
  match a, b with
  | .nan, _ => (.nan, false)
  | _, .nan => (.nan, false)
  | .inf _, .inf _ => (.nan, false)
  | .zero _, .zero _ => (.nan, false)
  | .inf s, .zero t => (.inf (s != t), false)
  | .inf s, .fin t _ _ => (.inf (s != t), false)
  | .zero s, .inf t => (.zero (s != t), false)
  | .fin s _ _, .inf t => (.zero (s != t), false)
  | .zero s, .fin t _ _ => (.zero (s != t), false)
  | .fin s _ _, .zero t => (.inf (s != t), true)
  | .fin s n d, .fin t m e => (.fin (s != t) (n * e) (d * m), false)

def Ex.isNan : Ex → Bool
  | .nan => true
  | _ => false

/-- a < b for values that are not NaN; -0 equals +0. -/
def Ex.lt (a b : Ex) : Bool :=
  match a, b with
  | .nan, _ => false
  | _, .nan => false
  | .inf s, .inf t => s && !t
  | .inf s, _ => s
  | _, .inf t => !t
  | a, b => a.ratio.1 * b.ratio.2 < b.ratio.1 * a.ratio.2

/-- a = b as values. -/
def Ex.eq (a b : Ex) : Bool := !a.isNan && !b.isNan && !a.lt b && !b.lt a

/-- NV when a NaN is made from operands that are not (R112), or an operand is a signalling NaN (R106). -/
def nanFlags (ops : List Opd) (y : Ex) : Nat :=
  nvIf (ops.any (·.snan) || (y.isNan && !(ops.any (·.ex.isNan))))

/-- A sum of two encodings of float format `f` (0 FP32, 1 FP16, 2 BF16), rounded to nearest even. -/
def fadd (f a b : Nat) : Nat × Nat :=
  let x := floatValue (8 + f) a
  let y := floatValue (8 + f) b
  let r := roundRne (8 + f) (x.ex.add y.ex)
  (r.1, r.2 ||| nanFlags [x, y] (x.ex.add y.ex))

end Sys2Proof.Machine
end

