-- ==== Sys2Proof/Config.lean ====
section
/-!
DEFINITION. What the implementation fixes, and the free values: constants without a body, so nothing can evaluate one
or prove a value of it (notes/assumptions 8 to 16 say which point of the spec each stands for). Also the plain data
of a loaded image (R88), which `Config.parseLmi` produces.
-/

namespace Sys2Proof

/-- A placement: quad coordinates relative to the region's origin, and an element (R60). -/
structure Placement where
  x : Nat
  y : Nat
  elem : Nat
  deriving DecidableEq, Repr

/-- A `.place` line of a region: the block's byte offset in the code and its 1 to 16 placements in order. -/
structure Place where
  off : Nat
  at' : List Placement
  deriving DecidableEq, Repr

/-- A configured barrier (R280): number, count C, scope code (2 .quad, 3 .die, 4 .pkg, 5 .pod) and the kinds of
engine its member list admits (R410), as the UNIT codes of R367 with 7 for `token` (none: no member list, every engine
admitted). -/
structure BarrierDecl where
  num : Nat
  count : Nat
  scope : Nat
  members : Option (List Nat)
  deriving DecidableEq, Repr

/-- A data section in HBM (R89): its virtual address and bytes. -/
structure DataSection where
  addr : Nat
  bytes : List Byte
  deriving DecidableEq, Repr

/-- A `.region` with everything declared in it: shape, entry, vault split in KiB (R88, R203), placements, barriers,
the bytes of its tile stores' data sections in source order (R310). -/
structure RegionDecl where
  w : Nat
  h : Nat
  entry : Option Nat
  iters : Nat
  framesKiB : Nat
  overflowKiB : Nat
  embersKiB : Nat
  places : List Place
  barriers : List BarrierDecl
  vault : List (List Byte)
  deriving DecidableEq, Repr

/-- A `.tagspace` declaration (R266): level, capacity 2^k, the first number of its pool and the pool's size, and the
region that declares it when it is ordered (R56). -/
structure TagDecl where
  level : Nat
  k : Nat
  first : Nat
  pool : Nat
  ordered : Option Nat
  deriving DecidableEq, Repr

/-- A `.circuit` (R62): the region and quad it starts from, the destination die, block offset and INLET slot. -/
structure Circuit where
  srcLdie : Nat
  srcX : Nat
  srcY : Nat
  dstLdie : Nat
  block : Nat
  slot : Nat
  deriving DecidableEq, Repr

/-- An image as LOAD_IMAGE reads it (R88, R89, R300). `recorded` is the linker's record of R299, one entry a
declaration: level, k, pool and whether the proof holds; none: the image lacks it. -/
structure Image where
  code : List Byte
  regions : List RegionDecl
  tagspaces : List TagDecl
  circuits : List Circuit
  hdata : Nat
  hbm : List DataSection
  recorded : Option (List (Nat × Nat × Nat × Bool))
  deriving DecidableEq, Repr

/-- One frame of an AV1 bitstream, hidden or shown (R252, R255): what its parsing met (0x00 nothing, 0x01 a syntax error,
0x02 a bad OBU, 0x07 the end of the bitstream), the features that decide whether it is supported, width and height
(none when not parsed), whether the stream is monochrome, the slots it refreshes (none when refresh_frame_flags was not
parsed), the slots it reads, its decoded samples by plane in raster order before any film grain, and the position its bits
end at. `level` is seq_level_idx: 19 stands for level 6.3. -/
structure Av1Picture where
  code : Nat
  profile : Nat
  level : Nat
  depth : Nat
  largeScale : Bool
  size : Option (Nat × Nat)
  mono : Bool
  refresh : Option (List Nat)
  reads : List Nat
  planes : List (List Nat)
  stop : Nat
  deriving DecidableEq, Repr, Inhabited

/-- The next shown frame of a bitstream: the frames decoded before it and not shown, the frame itself, its film grain
parameters when it carries any, and where the next temporal unit begins (R252). -/
structure Av1Frame where
  hidden : List Av1Picture
  shown : Av1Picture
  grain : Option (List Nat)
  unitEnd : Nat
  deriving DecidableEq, Repr, Inhabited

namespace Config

/-- The .lmi container's byte layout (the spec gives none: log 8). -/
opaque parseLmi : List Byte → Option Image

/-- The bytes of an image section, or part of one, whose layout R383 does not give (kinds 1, 2, 3, 5, 6 and 7): by section
kind, what the section holds as numbers, and a serial number (log 9). -/
opaque sectionBytes : Nat → List Nat → Nat → List Byte

/-- SHAKE256 with 64 bytes of output (log 10). -/
opaque shake256 : List Byte → List Byte

/-- ML-DSA-65 verification under the Vochapel root key: message, signature (log 10). -/
opaque rootVerify : List Byte → List Byte → Bool

/-- ML-DSA-65 signature by the identity key, 3,309 bytes (log 10). -/
opaque identitySign : List Byte → List Byte

/-- The identity public key, 1,952 bytes, and the Endom ROM's contents (log 10). -/
opaque identityPublic : List Byte
opaque endomRom : List Byte

/-- The parsing and reconstruction of the next shown frame by the AV1 specification: the bitstream's bytes, the position,
whether the length-delimited format is asked for, the reference slots' planes (log 11). -/
opaque av1Frame : List Byte → Nat → Bool → List (List (List Nat)) → Av1Frame

/-- The AV1 specification's film grain synthesis: a frame's grain parameters and its decoded planes (log 11). -/
opaque filmGrain : List Nat → List (List Nat) → List (List Nat)

/-- The calibrated energy of an event class in units of 2^-16 nJ: from the installed calibration record (its bytes)
and the class number (log 12). -/
opaque eventEnergy : List Byte → Nat → Nat

/-- A sensor or shared-cost figure K reads: by kind, die or unit, and the millisecond's number (log 12). -/
opaque sensor : Nat → Nat → Nat → Nat

/-- The set of a stack cache a line goes to, taken modulo 131,072, and the way of a full set that is evicted, by the miss's
serial number, taken modulo 12 (R25; log 13). -/
opaque cacheSet : Nat → Nat
opaque cacheWay : Nat → Nat

/-- The set of the matching store a slot's entry belongs to, by tag, block address and slot, taken modulo 2,048
(R21; log 13). -/
opaque matchSet : Nat → Nat → Nat → Nat

/-- The parts of a signed configuration record's body whose byte positions R396 does not give (log 10): package
number, pod size, the eight masks of enabled quads, sustained and peak power limits in mW, the Ethernet addresses. -/
opaque parseConfig : List Byte → Option (Nat × Nat × List Nat × Nat × Nat × List Nat)

/-- The mesh hops between a quad, by its physical index, and the edge of its die where a packet's way to or from another die
begins (R335; log 93). -/
opaque edgeHops : Nat → Nat

/-- A value the spec leaves open, numbered by the model's counter (log 14). -/
opaque freeWord : Nat → Word

end Config
end Sys2Proof
end

