-- ==== Sys2Proof/Syntax.lean ====
section
/-!
DEFINITION. The syntax: the ten slot formats of R69 as structures, the arbitration points of R293, and `Instr`,
one constructor per row of spec/opcode_table.json (214 instruction forms, 105 indivisible device steps).
-/

namespace Sys2Proof

/-- G format (R69): op[31:23] pr[22:21] xop[20:18] T1[17:9] T0[8:0]. -/
structure FmtG where
  pr : BitVec 2
  xop : BitVec 3
  t1 : BitVec 9
  t0 : BitVec 9
  deriving DecidableEq, Repr

/-- I format: op pr xop imm9[17:9] T0. -/
structure FmtI where
  pr : BitVec 2
  xop : BitVec 3
  imm9 : BitVec 9
  t0 : BitVec 9
  deriving DecidableEq, Repr

/-- R format: op reg[22:18] T1 T0; it has no pr field (R78). -/
structure FmtR where
  reg : BitVec 5
  t1 : BitVec 9
  t0 : BitVec 9
  deriving DecidableEq, Repr

/-- L format: op pr lsid[20:16] imm7[15:9] T0. -/
structure FmtL where
  pr : BitVec 2
  lsid : BitVec 5
  imm7 : BitVec 7
  t0 : BitVec 9
  deriving DecidableEq, Repr

/-- S format: op pr lsid[20:16] imm16[15:0]. -/
structure FmtS where
  pr : BitVec 2
  lsid : BitVec 5
  imm16 : BitVec 16
  deriving DecidableEq, Repr

/-- B format: op pr exit[20:18] off18[17:0]. -/
structure FmtB where
  pr : BitVec 2
  exit : BitVec 3
  off18 : BitVec 18
  deriving DecidableEq, Repr

/-- C format: major[31:27] pr[26:25] imm16[24:9] T0. -/
structure FmtC where
  pr : BitVec 2
  imm16 : BitVec 16
  t0 : BitVec 9
  deriving DecidableEq, Repr

/-- X format, two words: op pr xop exit[17:15] dst[14:10] zero[9:0], then off18[31:14] imm14[13:0]. -/
structure FmtX where
  pr : BitVec 2
  xop : BitVec 3
  exit : BitVec 3
  dst : BitVec 5
  zero : BitVec 10
  off18 : BitVec 18
  imm14 : BitVec 14
  deriving DecidableEq, Repr

/-- E format, two words: word0 as G, word1 lsid[31:27] cmd[26:0]. -/
structure FmtE where
  pr : BitVec 2
  xop : BitVec 3
  t1 : BitVec 9
  t0 : BitVec 9
  lsid : BitVec 5
  cmd : BitVec 27
  deriving DecidableEq, Repr

/-- F format, two words: word0 as G, word1 zero[31:18] T3[17:9] T2[8:0]. -/
structure FmtF where
  pr : BitVec 2
  xop : BitVec 3
  t1 : BitVec 9
  t0 : BitVec 9
  zero : BitVec 14
  t3 : BitVec 9
  t2 : BitVec 9
  deriving DecidableEq, Repr

/-- An arbitration point of R293. `link a b` is the Rosord switch output of the boundary from die a to die b
(dies 0-7 are F0-F7, 8-15 are M0-M7, 16 is K); `ether p` is Ethernet port p. -/
inductive Point where
  | stackPort (m : Nat)
  | streamQueue (m : Nat)
  | decoderQueue (d : Nat)
  | collEngine (m : Nat)
  | link (a b : Nat)
  | ether (p : Nat)
  deriving DecidableEq, Repr

/-- What a pod packet carries (R399): requests of another package, replies and acknowledgements, tokens and
barrier traffic, collective data. The spec gives the classes and no byte layout. -/
inductive PodBody where
  /-- class 0: a read of `n` bytes at package offset `pa`, for a context -/
  | read (vf ctx req pa n : Nat)
  /-- class 0: a write of the low `n` bytes of `v`; `half`: only one nibble of a byte, the high one or the low one; `poison`:
  the bytes carry poison; `whole`: the last packet of an engine's write that replaces all 64 bytes of its line with clean data -/
  | write (vf ctx req pa n : Nat) (v : Word) (half : Option Bool) (poison whole : Bool)
  /-- class 0: a far atomic, by its opcode -/
  | atomic (vf ctx req op xop pa n : Nat) (b x : Word)
  /-- class 1: the reply to a request this package sent; `poisoned` marks a poison reply -/
  | reply (req : Nat) (v : Word) (poisoned : Bool)
  /-- class 1: cumulative acknowledgement of a triple's packets below `upTo` -/
  | ackUpTo (cls upTo : Nat)
  /-- class 2: an arrival at a .pod barrier of the function's launches joined by `key` -/
  | barrier (vf key bar : Nat) (engine err : Bool)
  /-- class 3: a rank's contribution to a function's collective group, with the fields that must be equal across the
  group (COUNT, TYPE, KIND, OP, NRANKS, ROOT); none: a poisoned element -/
  | coll (vf key rank : Nat) (fields : List Nat) (vals : List (Option Word)) (first total : Nat)
  /-- a frame of another EtherType than the pod's, or for another Ethernet address (R398) -/
  | foreign (etherType addr : Nat)
  deriving DecidableEq, Repr

/-- Every row of the opcode table. The forms carry their format's fields; a device step carries the name of the
thing it happens to (a place, an identity number) or, for an input, what the outside world supplies. -/
inductive Instr where
  -- Integer, two-source (R120, R121)
  | add (f : FmtG)
  | sub (f : FmtG)
  | mul (f : FmtG)
  | mulhs (f : FmtG)
  | mulhu (f : FmtG)
  | divs (f : FmtG)
  | divu (f : FmtG)
  | rems (f : FmtG)
  | remu (f : FmtG)
  | andOp (f : FmtG)
  | orOp (f : FmtG)
  | xorOp (f : FmtG)
  | andn (f : FmtG)
  | orn (f : FmtG)
  | shl (f : FmtG)
  | shr (f : FmtG)
  | sar (f : FmtG)
  | rol (f : FmtG)
  | ror (f : FmtG)
  | mins (f : FmtG)
  | minu (f : FmtG)
  | maxs (f : FmtG)
  | maxu (f : FmtG)
  | absd (f : FmtG)
  -- Integer, unary, and NULL (R124)
  | neg (f : FmtG)
  | abs (f : FmtG)
  | notOp (f : FmtG)
  | clz (f : FmtG)
  | ctz (f : FmtG)
  | popc (f : FmtG)
  | brev (f : FmtG)
  | bswap (f : FmtG)
  | sext (f : FmtG)
  | zext (f : FmtG)
  | mov (f : FmtG)
  | nullOp (f : FmtG)
  -- Three-source (R127)
  | bfx (f : FmtG)
  | bfxs (f : FmtG)
  | bfi (f : FmtG)
  | sel (f : FmtG)
  | madd (f : FmtG)
  | fsh (f : FmtG)
  -- Immediate (R125, R126)
  | addi (f : FmtI)
  | muli (f : FmtI)
  | andi (f : FmtI)
  | ori (f : FmtI)
  | xori (f : FmtI)
  | shli (f : FmtI)
  | shri (f : FmtI)
  | sari (f : FmtI)
  | roli (f : FmtI)
  | minsi (f : FmtI)
  | maxsi (f : FmtI)
  | movi (f : FmtI)
  -- Compare (R131)
  | teq (f : FmtG)
  | tne (f : FmtG)
  | tlts (f : FmtG)
  | tles (f : FmtG)
  | tltu (f : FmtG)
  | tleu (f : FmtG)
  | tgts (f : FmtG)
  | tges (f : FmtG)
  | tgtu (f : FmtG)
  | tgeu (f : FmtG)
  -- Compare, immediate (R131)
  | teqi (f : FmtI)
  | tnei (f : FmtI)
  | tltsi (f : FmtI)
  | tlesi (f : FmtI)
  | tltui (f : FmtI)
  | tleui (f : FmtI)
  | tgtsi (f : FmtI)
  | tgesi (f : FmtI)
  -- Predicate and flow (R132-R138)
  | pand (f : FmtG)
  | por (f : FmtG)
  | pxor (f : FmtG)
  | pnot (f : FmtG)
  | steer (f : FmtG)
  | merge (f : FmtG)
  | fan (f : FmtF)
  | rdc (f : FmtR)
  | tagof (f : FmtG)
  | retag (f : FmtG)
  -- Float, two-source (R143)
  | fadd (f : FmtG)
  | fsub (f : FmtG)
  | fmul (f : FmtG)
  | fdiv (f : FmtG)
  | fmin (f : FmtG)
  | fmax (f : FmtG)
  | fminm (f : FmtG)
  | fmaxm (f : FmtG)
  | fcpys (f : FmtG)
  | fscale (f : FmtG)
  -- Float, unary (R147, R150)
  | fabs (f : FmtG)
  | fneg (f : FmtG)
  | fsqrt (f : FmtG)
  | frcp (f : FmtG)
  | frsq (f : FmtG)
  | ex2 (f : FmtG)
  | lg2 (f : FmtG)
  | sinp (f : FmtG)
  | cosp (f : FmtG)
  | tanh (f : FmtG)
  | frnd (f : FmtI)
  | fclass (f : FmtG)
  | ffrac (f : FmtG)
  -- Float, three-source (R146)
  | ffma (f : FmtG)
  | ffms (f : FmtG)
  | fnfma (f : FmtG)
  | fnfms (f : FmtG)
  -- Float compare (R151)
  | fteq (f : FmtG)
  | ftne (f : FmtG)
  | ftlt (f : FmtG)
  | ftle (f : FmtG)
  | ftun (f : FmtG)
  | ftord (f : FmtG)
  -- Convert (R152)
  | fcvt (f : FmtI)
  | fcvts (f : FmtI)
  | fcvtu (f : FmtI)
  | scvtf (f : FmtI)
  | ucvtf (f : FmtI)
  | mxscl (f : FmtI)
  | mxq (f : FmtI)
  -- Near loads (R205)
  | ldd (f : FmtL)
  | ldw (f : FmtL)
  | ldws (f : FmtL)
  | ldh (f : FmtL)
  | ldhs (f : FmtL)
  | ldb (f : FmtL)
  | ldbs (f : FmtL)
  -- Near stores (R207, R209)
  | std (f : FmtS)
  | stw (f : FmtS)
  | sth (f : FmtS)
  | stb (f : FmtS)
  | nstore (f : FmtS)
  -- Posted near atomics (R210)
  | aadd (f : FmtS)
  | amins (f : FmtS)
  | aminu (f : FmtS)
  | amaxs (f : FmtS)
  | amaxu (f : FmtS)
  | aand (f : FmtS)
  | aor (f : FmtS)
  | axor (f : FmtS)
  | afadd (f : FmtS)
  -- Far, fence, circuits (R213, R216, R218, R219, R224)
  | fld (f : FmtX)
  | flda (f : FmtX)
  | fst (f : FmtE)
  | fstr (f : FmtE)
  | faadd (f : FmtX)
  | famins (f : FmtX)
  | faminu (f : FmtX)
  | famaxs (f : FmtX)
  | famaxu (f : FmtX)
  | faand (f : FmtX)
  | faor (f : FmtX)
  | faxor (f : FmtX)
  | faxchg (f : FmtX)
  | facas (f : FmtX)
  | fafadd (f : FmtX)
  | fence (f : FmtS)
  | xmit (f : FmtE)
  | inlet (f : FmtR)
  | fradd (f : FmtE)
  | frfadd (f : FmtE)
  -- Control (R263-R282)
  | br (f : FmtB)
  | bri (f : FmtG)
  | call (f : FmtB)
  | calli (f : FmtG)
  | ret (f : FmtG)
  | endStrand (f : FmtB)
  | tsalloc (f : FmtI)
  | tsfree (f : FmtS)
  | tagnew (f : FmtI)
  | tagrel (f : FmtS)
  | spawn (f : FmtE)
  | spawnr (f : FmtE)
  | joinOp (f : FmtX)
  | bararr (f : FmtS)
  | barwait (f : FmtX)
  | barsync (f : FmtX)
  | waitOp (f : FmtX)
  | yieldOp (f : FmtX)
  -- Engine commands (R226, R227)
  | scopy (f : FmtE)
  | sgather (f : FmtE)
  | sscatter (f : FmtE)
  | sfill (f : FmtE)
  | sparam (f : FmtE)
  | mxcfg (f : FmtE)
  | mxrun (f : FmtE)
  | mxldacc (f : FmtE)
  | mxstacc (f : FmtE)
  | mxrel (f : FmtE)
  | vmap (f : FmtE)
  | vred (f : FmtE)
  | wincfg (f : FmtE)
  | winrun (f : FmtE)
  | decode (f : FmtE)
  | coll (f : FmtE)
  | hquery (f : FmtE)
  | rsquery (f : FmtE)
  | stok (f : FmtE)
  | toks (f : FmtE)
  -- System (R342)
  | srd (f : FmtI)
  | swr (f : FmtI)
  | trap (f : FmtI)
  | bkpt (f : FmtG)
  | enrd (f : FmtG)
  | perfrd (f : FmtI)
  | trace (f : FmtS)
  | clk (f : FmtG)
  | snuff (f : FmtG)
  | fwcall (f : FmtG)
  | assert (f : FmtG)
  -- GENC, APPC (R139)
  | genc (f : FmtC)
  | appc (f : FmtC)
  -- Device steps (95_what_each_step_holds.md)
  | evElementIssue (die : Nat) (idx : Nat) (elem : Nat)
  | evTokenArrival (n : Nat)
  | evBlockFetch (die : Nat) (idx : Nat) (elem : Nat)
  | evBlockInstanceStart (die : Nat) (idx : Nat) (elem : Nat)
  | evBlockStarved (inst : Nat)
  | evCommit (inst : Nat)
  | evFootprintRegistration (n : Nat)
  | evParkedCommitResume (n : Nat)
  | evFrameMoveArrival (n : Nat)
  | evFarAccessAtHome (n : Nat)
  | evPostedEffectAtHome (n : Nat)
  | evPostedAckArrival (n : Nat)
  | evWaitingFarAccessPerform (die : Nat) (idx : Nat) (n : Nat)
  | evBankArbitration (die : Nat) (idx : Nat) (bank : Nat)
  | evBankStarvationPromote (die : Nat) (idx : Nat) (bank : Nat)
  | evFarReplyArrival (n : Nat)
  | evReplyHeldResend (n : Nat)
  | evLamplighterRelight (die : Nat) (idx : Nat)
  | evRangeSplit (die : Nat) (idx : Nat)
  | evFrameWaitGrant (die : Nat) (idx : Nat)
  | evEmberReady (n : Nat)
  | evRefusalCountLimit (n : Nat)
  | evReservationTimeout (n : Nat)
  | evArbitrationGrant (point : Point)
  | evCircuitTokenArrival (n : Nat)
  | evCreditReturn (n : Nat)
  | evBorderCrossing (n : Nat)
  | evMasterFreeze (n : Nat)
  | evSpaceTableItem (n : Nat)
  | evJoinRequest (n : Nat)
  | evLiveCountZero (vf : Nat) (ctx : Nat) (space : Nat)
  | evWaitRequest (n : Nat)
  | evBarrierArrival (n : Nat)
  | evBarrierPhaseComplete (n : Nat)
  | evBarwaitRequest (n : Nat)
  | evTlbWalk (n : Nat)
  | evStreamCommandArrival (n : Nat)
  | evStreamCommandPerform (n : Nat)
  | evStreamRoundBoundary (n : Nat)
  | evStreamPageFaultStop (n : Nat)
  | evEngineLineAccess (n : Nat)
  | evMeCommandPerform (n : Nat)
  | evVsuCommandPerform (n : Nat)
  | evWindowCommandPerform (n : Nat)
  | evDecodeFrame (n : Nat)
  | evCollGroupComplete (n : Nat)
  | evStokElementSend (n : Nat)
  | evToksTokenCapture (n : Nat)
  | evCommandCompletion (n : Nat)
  | evFaultDelivery (vf : Nat) (ctx : Nat)
  | evHandlerDone (vf : Nat) (ctx : Nat) (slot : Nat)
  | evPreciseStop (vf : Nat) (ctx : Nat)
  | evParityFreezeReport (vf : Nat) (ctx : Nat) (die : Nat) (idx : Nat) (hop : Nat) (dir : Nat) (elem : Nat)
  | evSnuffMarkerBroadcast (vf : Nat) (ctx : Nat)
  | evQuadMarkerArrival (die : Nat) (idx : Nat)
  | evChannelMarkerArrival (n : Nat)
  | evQuadStateReadout (vf : Nat) (ctx : Nat)
  | evEngineSnuffStop (n : Nat)
  | evQuadZeroing (die : Nat) (idx : Nat)
  | evQuadZeroComplete (die : Nat) (idx : Nat)
  | evLanternReport
  | evFactorUpdate (die : Nat)
  | evSharedCostSplit
  | evCandlePeriodStart (vf : Nat)
  | evCandleCut (vf : Nat)
  | evClassChange (vf : Nat) (ctx : Nat)
  | evPowerCheck (mw : Nat)
  | evThermalLimit (die : Nat) (deg : Nat)
  | evThermalShutdown (die : Nat) (deg : Nat)
  | evDeviceReset
  | evHostLinkDegrade
  | evCxlMemRead (hpa : Nat) (len : Nat)
  | evCxlMemWrite (hpa : Nat) (bytes : List Byte) (poison : Bool)
  | evCommandDoorbell (vf : Nat) (tail : Nat)
  | evEventHeadWrite (vf : Nat) (head : Nat)
  | evRegisterWrite (vf : Nat) (off : Nat) (val : Word)
  | evFwcallDispatch (n : Nat)
  | evCreateContext (n : Nat)
  | evDestroyContext (n : Nat)
  | evMap (n : Nat)
  | evMapGrant (n : Nat)
  | evMapMove (n : Nat)
  | evMigrationDrainComplete (n : Nat)
  | evMigrationReissue (n : Nat)
  | evUnmap (n : Nat)
  | evUnmapComplete (n : Nat)
  | evLoadImage (n : Nat)
  | evLaunch (n : Nat)
  | evQueryQuiescent (n : Nat)
  | evSaveImage (n : Nat)
  | evSaveImageNonreleasing (n : Nat)
  | evRestoreImage (n : Nat)
  | evSnuffCommand (n : Nat)
  | evSetCandle (n : Nat)
  | evReadLanterns (n : Nat)
  | evSetDieTable (n : Nat)
  | evMarkBadNodes (n : Nat)
  | evAttest (n : Nat)
  | evLoadCalibration (n : Nat)
  | evResetVf (n : Nat)
  | evSetCounting (n : Nat)
  | evPodPacketReceive (src : Nat) (cls : Nat) (seqno : Nat) (port : Nat) (pkt : PodBody)
  | evPodRetransmitTimeout (n : Nat) (port : Nat)
  | evPodPortFailure (port : Nat)
  | evPodLost (pkg : Nat)
  deriving DecidableEq, Repr

end Sys2Proof
end

