-- ==== Sys2Proof/WellFormed.lean ====
section
/-!
DEFINITION. Well-formedness: the field values R93, R94 and R153 admit, constructor by constructor. A word outside
them is an illegal word (R95, checks 3, 4, 6 and 7); Decode.lean states the same by check number.
-/

namespace Sys2Proof

/-- pr of a predicable instruction: 00, 10 or 11 (R76). -/
def prOk (pr : BitVec 2) : Bool := pr != 1

/-- xop holding a width, xop[2] = 0 (R93). -/
def widthOk (x : BitVec 3) : Bool := x.toNat < 4

/-- xop holding a float format: 000, 001 or 010 (R141). -/
def floatOk (x : BitVec 3) : Bool := x.toNat < 3

/-- A rounding code: 000 to 101 (R108). -/
def roundOk (x : Nat) : Bool := x < 6

/-- A scope code: 001 to 110 (R215). -/
def scopeOk (x : Nat) : Bool := 1 ≤ x && x ≤ 6

/-- Source type, destination type, saturate bit of a conversion's imm9 (R152). -/
def convFields (imm9 : BitVec 9) : Nat × Nat × Nat :=
  (bitsOf imm9.toNat 8 5, bitsOf imm9.toNat 4 1, bitsOf imm9.toNat 0 0)

/-- R153, by the low opcode digit 0 to 6: FCVT, FCVTS, FCVTU, SCVTF, UCVTF, MXSCL, MXQ. -/
def convOk (which : Nat) (xop : BitVec 3) (imm9 : BitVec 9) : Bool :=
  let (s, d, sat) := convFields imm9
  let fl := fun t => 8 ≤ t && t ≤ 10
  let sgn := fun t => t < 8 && t % 2 == 1
  let uns := fun t => t < 8 && t % 2 == 0
  let mx := fun t => t == 1 || t == 11 || t == 12 || t == 13
  roundOk xop.toNat &&
  match which with
  | 0 => (8 ≤ s && s ≤ 14) && (8 ≤ d && d ≤ 13)
  | 1 => fl s && sgn d && sat == 0
  | 2 => fl s && uns d && sat == 0
  | 3 => sgn s && fl d
  | 4 => uns s && fl d
  | 5 => fl s && mx d && sat == 0 && (xop == 2 || xop == 3)
  | 6 => fl s && mx d
  | _ => false

/-- The counter indices PERFRD admits (R348). -/
def perfIndexOk (n : Nat) : Bool := n ≤ 0x15 || (0x20 ≤ n && n ≤ 0x27)

/-- The fields of an engine command's second word (R226): BEN, BAR, ENG and the low sixteen bits. -/
def cmdFields (cmd : BitVec 27) : Nat × Nat × Nat × Nat :=
  (bitsOf cmd.toNat 26 26, bitsOf cmd.toNat 25 20, bitsOf cmd.toNat 19 16, bitsOf cmd.toNat 15 0)

/-- A G-format exit BRI, CALLI, RET: T1[14:9] and T0 zero, xop zero (R72). -/
def gExitOk (f : FmtG) : Bool := prOk f.pr && f.xop == 0 && f.t1.toNat % 64 == 0 && f.t0 == 0

/-- An engine command without a barrier field: BEN and BAR zero. -/
def cmdPlain (f : FmtE) : Bool :=
  prOk f.pr && f.xop == 0 && (cmdFields f.cmd).1 == 0 && (cmdFields f.cmd).2.1 == 0 && (cmdFields f.cmd).2.2.1 == 0

/-- An engine command of the quad (ENG 0, low field zero). -/
def cmdQuad (f : FmtE) : Bool :=
  prOk f.pr && f.xop == 0 && (cmdFields f.cmd).2.2.1 == 0 && (cmdFields f.cmd).2.2.2 == 0

/-- A stream command or COLL: ENG 0 to 7 or 0xF, low field zero (R227). -/
def cmdMem (f : FmtE) : Bool :=
  prOk f.pr && f.xop == 0 && ((cmdFields f.cmd).2.2.1 < 8 || (cmdFields f.cmd).2.2.1 == 15)
    && (cmdFields f.cmd).2.2.2 == 0

/-- The words of R93 as instructions: every field holds a value the instruction admits. A device step has no words,
and its operands carry no condition here. -/
def Instr.wf : Instr → Bool
  | .add f | .sub f => prOk f.pr
  | .mul f | .mulhs f | .mulhu f | .divs f | .divu f | .rems f | .remu f | .andOp f | .orOp f | .xorOp f
  | .andn f | .orn f | .shl f | .shr f | .sar f | .rol f | .ror f | .mins f | .minu f | .maxs f | .maxu f
  | .absd f | .neg f | .abs f | .notOp f | .clz f | .ctz f | .popc f | .brev f | .bswap f | .sext f | .zext f
  | .mov f | .teq f | .tne f | .tlts f | .tles f | .tltu f | .tleu f | .tgts f | .tges f | .tgtu f | .tgeu f => prOk f.pr && widthOk f.xop
  | .nullOp f | .pand f | .por f | .pxor f | .pnot f | .steer f | .tagof f | .retag f | .enrd f | .clk f
  | .fwcall f => prOk f.pr && f.xop == 0
  | .bfx f | .bfxs f | .bfi f | .sel f | .madd f | .fsh f => f.pr == 0 && widthOk f.xop
  | .merge f => f.pr == 0 && f.xop == 0
  | .addi f | .muli f | .andi f | .ori f | .xori f | .shli f | .shri f | .sari f | .roli f | .minsi f
  | .maxsi f | .movi f | .teqi f | .tnei f | .tltsi f | .tlesi f | .tltui f | .tleui f | .tgtsi f | .tgesi f => prOk f.pr && widthOk f.xop
  | .fan f => prOk f.pr && f.xop == 0 && f.zero == 0
  | .rdc _ | .inlet _ => true
  | .genc f | .appc f => prOk f.pr
  | .fadd f | .fsub f | .fmul f | .fdiv f | .fmin f | .fmax f | .fminm f | .fmaxm f | .fcpys f | .fscale f
  | .fabs f | .fneg f | .fsqrt f | .frcp f | .frsq f | .ex2 f | .lg2 f | .sinp f | .cosp f | .tanh f
  | .fclass f | .ffrac f | .fteq f | .ftne f | .ftlt f | .ftle f | .ftun f | .ftord f => prOk f.pr && floatOk f.xop
  | .frnd f => prOk f.pr && floatOk f.xop && f.imm9.toNat < 8 && roundOk f.imm9.toNat
  | .ffma f | .ffms f | .fnfma f | .fnfms f => f.pr == 0 && floatOk f.xop
  | .fcvt f => prOk f.pr && convOk 0 f.xop f.imm9
  | .fcvts f => prOk f.pr && convOk 1 f.xop f.imm9
  | .fcvtu f => prOk f.pr && convOk 2 f.xop f.imm9
  | .scvtf f => prOk f.pr && convOk 3 f.xop f.imm9
  | .ucvtf f => prOk f.pr && convOk 4 f.xop f.imm9
  | .mxscl f => prOk f.pr && convOk 5 f.xop f.imm9
  | .mxq f => prOk f.pr && convOk 6 f.xop f.imm9
  | .ldd f | .ldw f | .ldws f | .ldh f | .ldhs f | .ldb f | .ldbs f => prOk f.pr
  | .std f | .stw f | .sth f | .stb f | .aadd f | .amins f | .aminu f | .amaxs f | .amaxu f | .aand f | .aor f
  | .axor f | .afadd f | .trace f => prOk f.pr
  | .nstore f | .tagrel f => prOk f.pr && f.imm16 == 0
  | .fld f | .flda f | .faadd f | .famins f | .faminu f | .famaxs f | .famaxu f | .faand f | .faor f
  | .faxor f | .faxchg f => prOk f.pr && widthOk f.xop && f.zero == 0
  | .facas f => f.pr == 0 && widthOk f.xop && f.zero == 0
  | .fafadd f => prOk f.pr && floatOk f.xop && f.zero == 0
  | .fst f | .fradd f => prOk f.pr && widthOk f.xop && f.t1 == 0 && f.t0 == 0 && bitsOf f.cmd.toNat 26 24 == 0
  | .fstr f => prOk f.pr && widthOk f.xop && f.t1 == 0 && f.t0 == 0 && scopeOk (bitsOf f.cmd.toNat 26 24)
  | .frfadd f => prOk f.pr && floatOk f.xop && f.t1 == 0 && f.t0 == 0 && bitsOf f.cmd.toNat 26 24 == 0
  | .fence f => prOk f.pr && bitsOf f.imm16.toNat 14 3 == 0 && scopeOk (bitsOf f.imm16.toNat 2 0)
  | .xmit f => prOk f.pr && f.xop == 0 && f.t1 == 0 && f.t0 == 0 && bitsOf f.cmd.toNat 26 10 == 0
  | .br f | .call f => prOk f.pr
  | .endStrand f => prOk f.pr && f.off18 == 0
  | .bri f | .calli f | .ret f => gExitOk f
  | .tsalloc f => prOk f.pr && f.xop == 0 && f.imm9.toNat < 64
  | .tagnew f => prOk f.pr && f.xop == 0 && f.imm9 == 0
  | .tsfree f => prOk f.pr && bitsOf f.imm16.toNat 14 0 == 0
  | .bararr f => prOk f.pr && bitsOf f.imm16.toNat 14 6 == 0
  | .spawn f | .spawnr f => prOk f.pr && f.xop == 0 && f.t1 == 0 && f.t0 == 0 && bitsOf f.cmd.toNat 26 18 == 0
  | .joinOp f | .yieldOp f => prOk f.pr && f.xop == 0 && f.zero == 0 && f.dst == 0 && f.imm14 == 0
  | .barwait f | .barsync f => prOk f.pr && f.xop == 0 && f.zero == 0 && f.imm14.toNat < 64
  | .waitOp f => prOk f.pr && f.xop == 0 && f.zero == 0 && f.imm14 == 0
  | .scopy f | .sgather f | .sscatter f | .sfill f | .coll f => cmdMem f
  | .sparam f => cmdPlain f && bitsOf f.cmd.toNat 10 0 == 0
  | .mxcfg f | .mxrun f | .mxldacc f | .mxstacc f | .vmap f | .vred f | .wincfg f | .winrun f => cmdQuad f
  | .mxrel f => prOk f.pr && f.xop == 0 && (cmdFields f.cmd).2.2.1 == 0 && bitsOf f.cmd.toNat 15 1 == 0
  | .decode f => prOk f.pr && f.xop == 0 && (cmdFields f.cmd).2.2.2 == 0
  | .hquery f => cmdPlain f && (cmdFields f.cmd).2.2.2 == 0
  | .rsquery f => cmdPlain f
  | .stok f | .toks f => prOk f.pr && f.xop == 0 && (cmdFields f.cmd).2.2.1 == 0 && bitsOf f.cmd.toNat 15 10 == 0
  | .srd f => prOk f.pr && f.xop == 0 && f.imm9.toNat < 0x14
  | .swr f => prOk f.pr && f.xop == 0 && f.imm9.toNat < 0x14 && f.t0 == 0
  | .trap f => prOk f.pr && f.t0 == 0
  | .bkpt f | .snuff f | .assert f => prOk f.pr && f.xop == 0 && f.t1 == 0 && f.t0 == 0
  | .perfrd f => prOk f.pr && f.xop == 0 && perfIndexOk f.imm9.toNat
  | .evElementIssue _ _ _ | .evTokenArrival _ | .evBlockFetch _ _ _ | .evBlockInstanceStart _ _ _
  | .evBlockStarved _ | .evCommit _ | .evFootprintRegistration _ | .evParkedCommitResume _
  | .evFrameMoveArrival _ | .evFarAccessAtHome _ | .evPostedEffectAtHome _ | .evPostedAckArrival _
  | .evWaitingFarAccessPerform _ _ _ | .evBankArbitration _ _ _ | .evBankStarvationPromote _ _ _
  | .evFarReplyArrival _ | .evReplyHeldResend _ | .evLamplighterRelight _ _ | .evRangeSplit _ _
  | .evFrameWaitGrant _ _ | .evEmberReady _ | .evRefusalCountLimit _ | .evReservationTimeout _
  | .evArbitrationGrant _ | .evCircuitTokenArrival _ | .evCreditReturn _ | .evBorderCrossing _
  | .evMasterFreeze _ | .evSpaceTableItem _ | .evJoinRequest _ | .evLiveCountZero _ _ _ | .evWaitRequest _
  | .evBarrierArrival _ | .evBarrierPhaseComplete _ | .evBarwaitRequest _ | .evTlbWalk _
  | .evStreamCommandArrival _ | .evStreamCommandPerform _ | .evStreamRoundBoundary _
  | .evStreamPageFaultStop _ | .evEngineLineAccess _ | .evMeCommandPerform _ | .evVsuCommandPerform _
  | .evWindowCommandPerform _ | .evDecodeFrame _ | .evCollGroupComplete _ | .evStokElementSend _
  | .evToksTokenCapture _ | .evCommandCompletion _ | .evFaultDelivery _ _ | .evHandlerDone _ _ _
  | .evPreciseStop _ _ | .evParityFreezeReport _ _ _ _ _ _ _ | .evSnuffMarkerBroadcast _ _
  | .evQuadMarkerArrival _ _ | .evChannelMarkerArrival _ | .evQuadStateReadout _ _ | .evEngineSnuffStop _
  | .evQuadZeroing _ _ | .evQuadZeroComplete _ _ | .evLanternReport | .evFactorUpdate _ | .evSharedCostSplit
  | .evCandlePeriodStart _ | .evCandleCut _ | .evClassChange _ _ | .evPowerCheck _ | .evThermalLimit _ _
  | .evThermalShutdown _ _ | .evDeviceReset | .evHostLinkDegrade | .evCxlMemRead _ _ | .evCxlMemWrite _ _ _
  | .evCommandDoorbell _ _ | .evEventHeadWrite _ _ | .evRegisterWrite _ _ _ | .evFwcallDispatch _
  | .evCreateContext _ | .evDestroyContext _ | .evMap _ | .evMapGrant _ | .evMapMove _
  | .evMigrationDrainComplete _ | .evMigrationReissue _ | .evUnmap _ | .evUnmapComplete _ | .evLoadImage _
  | .evLaunch _ | .evQueryQuiescent _ | .evSaveImage _ | .evSaveImageNonreleasing _ | .evRestoreImage _
  | .evSnuffCommand _ | .evSetCandle _ | .evReadLanterns _ | .evSetDieTable _ | .evMarkBadNodes _
  | .evAttest _ | .evLoadCalibration _ | .evResetVf _ | .evSetCounting _ | .evPodPacketReceive _ _ _ _ _
  | .evPodRetransmitTimeout _ _ | .evPodPortFailure _ | .evPodLost _ => true

/-- The instruction is well formed. -/
abbrev Instr.WellFormed (i : Instr) : Prop := i.wf = true

end Sys2Proof
end

