-- ==== Sys2Proof/Decode.lean ====
section
/-!
DEFINITION. Decoding and encoding (R7, R8, R65, R69, R71, R92-R95). `decodeWords` reads one instruction from a slot
and the slot after it and answers the instruction or the number of the first check of R95 that fails; `decode` does
the same on bytes in memory order. `encode` gives a well-formed instruction's slots back. A device step has no words.
-/

namespace Sys2Proof

/-- The formats of R69. -/
inductive Fmt where
  | g | i | r | l | s | b | c | x | e | f
  deriving DecidableEq, Repr

/-- A word pair's fields, laid out by format. -/
inductive Fields where
  | g (f : FmtG)
  | i (f : FmtI)
  | r (f : FmtR)
  | l (f : FmtL)
  | s (f : FmtS)
  | b (f : FmtB)
  | c (f : FmtC)
  | x (f : FmtX)
  | e (f : FmtE)
  | f (f : FmtF)
  deriving DecidableEq, Repr

/-- Why bytes hold no instruction: fewer bytes than the instruction takes, or the check of R95 that fails. -/
inductive Reject where
  | truncated
  | illegalWord (check : Nat)
  deriving DecidableEq, Repr

/-- The format of each defined opcode (R92, R93); none for a reserved code. -/
def opFormat (op : Nat) : Option Fmt :=
  if 0x001 ≤ op ∧ op ≤ 0x018 then some .g
  else if 0x020 ≤ op ∧ op ≤ 0x02B then some .g
  else if 0x030 ≤ op ∧ op ≤ 0x035 then some .g
  else if 0x040 ≤ op ∧ op ≤ 0x04B then some .i
  else if 0x060 ≤ op ∧ op ≤ 0x069 then some .g
  else if 0x070 ≤ op ∧ op ≤ 0x077 then some .i
  else if 0x080 ≤ op ∧ op ≤ 0x085 then some .g
  else if op = 0x086 then some .f
  else if op = 0x087 then some .r
  else if 0x088 ≤ op ∧ op ≤ 0x089 then some .g
  else if 0x0A0 ≤ op ∧ op ≤ 0x0A9 then some .g
  else if 0x0B0 ≤ op ∧ op ≤ 0x0B9 then some .g
  else if op = 0x0BA then some .i
  else if 0x0BB ≤ op ∧ op ≤ 0x0BC then some .g
  else if 0x0C0 ≤ op ∧ op ≤ 0x0C3 then some .g
  else if 0x0C8 ≤ op ∧ op ≤ 0x0CD then some .g
  else if 0x0D0 ≤ op ∧ op ≤ 0x0D6 then some .i
  else if 0x100 ≤ op ∧ op ≤ 0x106 then some .l
  else if 0x108 ≤ op ∧ op ≤ 0x10C then some .s
  else if 0x110 ≤ op ∧ op ≤ 0x118 then some .s
  else if 0x120 ≤ op ∧ op ≤ 0x121 then some .x
  else if 0x122 ≤ op ∧ op ≤ 0x123 then some .e
  else if 0x124 ≤ op ∧ op ≤ 0x12E then some .x
  else if op = 0x12F then some .s
  else if op = 0x130 then some .e
  else if op = 0x131 then some .r
  else if 0x132 ≤ op ∧ op ≤ 0x133 then some .e
  else if op = 0x140 then some .b
  else if op = 0x141 then some .g
  else if op = 0x142 then some .b
  else if 0x143 ≤ op ∧ op ≤ 0x144 then some .g
  else if op = 0x145 then some .b
  else if op = 0x146 then some .i
  else if op = 0x147 then some .s
  else if op = 0x148 then some .i
  else if op = 0x149 then some .s
  else if 0x14A ≤ op ∧ op ≤ 0x14B then some .e
  else if op = 0x14C then some .x
  else if op = 0x14D then some .s
  else if 0x14E ≤ op ∧ op ≤ 0x151 then some .x
  else if 0x160 ≤ op ∧ op ≤ 0x173 then some .e
  else if 0x180 ≤ op ∧ op ≤ 0x182 then some .i
  else if 0x183 ≤ op ∧ op ≤ 0x184 then some .g
  else if op = 0x185 then some .i
  else if op = 0x186 then some .s
  else if 0x187 ≤ op ∧ op ≤ 0x18A then some .g
  else if 0x1E0 ≤ op ∧ op ≤ 0x1FF then some .c
  else none

/-- The G-format opcodes. -/
def buildG (op : Nat) (f : FmtG) : Option Instr :=
  match op with
  | 0x001 => some (.add f)
  | 0x002 => some (.sub f)
  | 0x003 => some (.mul f)
  | 0x004 => some (.mulhs f)
  | 0x005 => some (.mulhu f)
  | 0x006 => some (.divs f)
  | 0x007 => some (.divu f)
  | 0x008 => some (.rems f)
  | 0x009 => some (.remu f)
  | 0x00A => some (.andOp f)
  | 0x00B => some (.orOp f)
  | 0x00C => some (.xorOp f)
  | 0x00D => some (.andn f)
  | 0x00E => some (.orn f)
  | 0x00F => some (.shl f)
  | 0x010 => some (.shr f)
  | 0x011 => some (.sar f)
  | 0x012 => some (.rol f)
  | 0x013 => some (.ror f)
  | 0x014 => some (.mins f)
  | 0x015 => some (.minu f)
  | 0x016 => some (.maxs f)
  | 0x017 => some (.maxu f)
  | 0x018 => some (.absd f)
  | 0x020 => some (.neg f)
  | 0x021 => some (.abs f)
  | 0x022 => some (.notOp f)
  | 0x023 => some (.clz f)
  | 0x024 => some (.ctz f)
  | 0x025 => some (.popc f)
  | 0x026 => some (.brev f)
  | 0x027 => some (.bswap f)
  | 0x028 => some (.sext f)
  | 0x029 => some (.zext f)
  | 0x02A => some (.mov f)
  | 0x02B => some (.nullOp f)
  | 0x030 => some (.bfx f)
  | 0x031 => some (.bfxs f)
  | 0x032 => some (.bfi f)
  | 0x033 => some (.sel f)
  | 0x034 => some (.madd f)
  | 0x035 => some (.fsh f)
  | 0x060 => some (.teq f)
  | 0x061 => some (.tne f)
  | 0x062 => some (.tlts f)
  | 0x063 => some (.tles f)
  | 0x064 => some (.tltu f)
  | 0x065 => some (.tleu f)
  | 0x066 => some (.tgts f)
  | 0x067 => some (.tges f)
  | 0x068 => some (.tgtu f)
  | 0x069 => some (.tgeu f)
  | 0x080 => some (.pand f)
  | 0x081 => some (.por f)
  | 0x082 => some (.pxor f)
  | 0x083 => some (.pnot f)
  | 0x084 => some (.steer f)
  | 0x085 => some (.merge f)
  | 0x088 => some (.tagof f)
  | 0x089 => some (.retag f)
  | 0x0A0 => some (.fadd f)
  | 0x0A1 => some (.fsub f)
  | 0x0A2 => some (.fmul f)
  | 0x0A3 => some (.fdiv f)
  | 0x0A4 => some (.fmin f)
  | 0x0A5 => some (.fmax f)
  | 0x0A6 => some (.fminm f)
  | 0x0A7 => some (.fmaxm f)
  | 0x0A8 => some (.fcpys f)
  | 0x0A9 => some (.fscale f)
  | 0x0B0 => some (.fabs f)
  | 0x0B1 => some (.fneg f)
  | 0x0B2 => some (.fsqrt f)
  | 0x0B3 => some (.frcp f)
  | 0x0B4 => some (.frsq f)
  | 0x0B5 => some (.ex2 f)
  | 0x0B6 => some (.lg2 f)
  | 0x0B7 => some (.sinp f)
  | 0x0B8 => some (.cosp f)
  | 0x0B9 => some (.tanh f)
  | 0x0BB => some (.fclass f)
  | 0x0BC => some (.ffrac f)
  | 0x0C0 => some (.ffma f)
  | 0x0C1 => some (.ffms f)
  | 0x0C2 => some (.fnfma f)
  | 0x0C3 => some (.fnfms f)
  | 0x0C8 => some (.fteq f)
  | 0x0C9 => some (.ftne f)
  | 0x0CA => some (.ftlt f)
  | 0x0CB => some (.ftle f)
  | 0x0CC => some (.ftun f)
  | 0x0CD => some (.ftord f)
  | 0x141 => some (.bri f)
  | 0x143 => some (.calli f)
  | 0x144 => some (.ret f)
  | 0x183 => some (.bkpt f)
  | 0x184 => some (.enrd f)
  | 0x187 => some (.clk f)
  | 0x188 => some (.snuff f)
  | 0x189 => some (.fwcall f)
  | 0x18A => some (.assert f)
  | _ => none

/-- The I-format opcodes. -/
def buildI (op : Nat) (f : FmtI) : Option Instr :=
  match op with
  | 0x040 => some (.addi f)
  | 0x041 => some (.muli f)
  | 0x042 => some (.andi f)
  | 0x043 => some (.ori f)
  | 0x044 => some (.xori f)
  | 0x045 => some (.shli f)
  | 0x046 => some (.shri f)
  | 0x047 => some (.sari f)
  | 0x048 => some (.roli f)
  | 0x049 => some (.minsi f)
  | 0x04A => some (.maxsi f)
  | 0x04B => some (.movi f)
  | 0x070 => some (.teqi f)
  | 0x071 => some (.tnei f)
  | 0x072 => some (.tltsi f)
  | 0x073 => some (.tlesi f)
  | 0x074 => some (.tltui f)
  | 0x075 => some (.tleui f)
  | 0x076 => some (.tgtsi f)
  | 0x077 => some (.tgesi f)
  | 0x0BA => some (.frnd f)
  | 0x0D0 => some (.fcvt f)
  | 0x0D1 => some (.fcvts f)
  | 0x0D2 => some (.fcvtu f)
  | 0x0D3 => some (.scvtf f)
  | 0x0D4 => some (.ucvtf f)
  | 0x0D5 => some (.mxscl f)
  | 0x0D6 => some (.mxq f)
  | 0x146 => some (.tsalloc f)
  | 0x148 => some (.tagnew f)
  | 0x180 => some (.srd f)
  | 0x181 => some (.swr f)
  | 0x182 => some (.trap f)
  | 0x185 => some (.perfrd f)
  | _ => none

/-- The R-format opcodes. -/
def buildR (op : Nat) (f : FmtR) : Option Instr :=
  match op with
  | 0x087 => some (.rdc f)
  | 0x131 => some (.inlet f)
  | _ => none

/-- The L-format opcodes. -/
def buildL (op : Nat) (f : FmtL) : Option Instr :=
  match op with
  | 0x100 => some (.ldd f)
  | 0x101 => some (.ldw f)
  | 0x102 => some (.ldws f)
  | 0x103 => some (.ldh f)
  | 0x104 => some (.ldhs f)
  | 0x105 => some (.ldb f)
  | 0x106 => some (.ldbs f)
  | _ => none

/-- The S-format opcodes. -/
def buildS (op : Nat) (f : FmtS) : Option Instr :=
  match op with
  | 0x108 => some (.std f)
  | 0x109 => some (.stw f)
  | 0x10A => some (.sth f)
  | 0x10B => some (.stb f)
  | 0x10C => some (.nstore f)
  | 0x110 => some (.aadd f)
  | 0x111 => some (.amins f)
  | 0x112 => some (.aminu f)
  | 0x113 => some (.amaxs f)
  | 0x114 => some (.amaxu f)
  | 0x115 => some (.aand f)
  | 0x116 => some (.aor f)
  | 0x117 => some (.axor f)
  | 0x118 => some (.afadd f)
  | 0x12F => some (.fence f)
  | 0x147 => some (.tsfree f)
  | 0x149 => some (.tagrel f)
  | 0x14D => some (.bararr f)
  | 0x186 => some (.trace f)
  | _ => none

/-- The B-format opcodes. -/
def buildB (op : Nat) (f : FmtB) : Option Instr :=
  match op with
  | 0x140 => some (.br f)
  | 0x142 => some (.call f)
  | 0x145 => some (.endStrand f)
  | _ => none

/-- The X-format opcodes. -/
def buildX (op : Nat) (f : FmtX) : Option Instr :=
  match op with
  | 0x120 => some (.fld f)
  | 0x121 => some (.flda f)
  | 0x124 => some (.faadd f)
  | 0x125 => some (.famins f)
  | 0x126 => some (.faminu f)
  | 0x127 => some (.famaxs f)
  | 0x128 => some (.famaxu f)
  | 0x129 => some (.faand f)
  | 0x12A => some (.faor f)
  | 0x12B => some (.faxor f)
  | 0x12C => some (.faxchg f)
  | 0x12D => some (.facas f)
  | 0x12E => some (.fafadd f)
  | 0x14C => some (.joinOp f)
  | 0x14E => some (.barwait f)
  | 0x14F => some (.barsync f)
  | 0x150 => some (.waitOp f)
  | 0x151 => some (.yieldOp f)
  | _ => none

/-- The E-format opcodes. -/
def buildE (op : Nat) (f : FmtE) : Option Instr :=
  match op with
  | 0x122 => some (.fst f)
  | 0x123 => some (.fstr f)
  | 0x130 => some (.xmit f)
  | 0x132 => some (.fradd f)
  | 0x133 => some (.frfadd f)
  | 0x14A => some (.spawn f)
  | 0x14B => some (.spawnr f)
  | 0x160 => some (.scopy f)
  | 0x161 => some (.sgather f)
  | 0x162 => some (.sscatter f)
  | 0x163 => some (.sfill f)
  | 0x164 => some (.sparam f)
  | 0x165 => some (.mxcfg f)
  | 0x166 => some (.mxrun f)
  | 0x167 => some (.mxldacc f)
  | 0x168 => some (.mxstacc f)
  | 0x169 => some (.mxrel f)
  | 0x16A => some (.vmap f)
  | 0x16B => some (.vred f)
  | 0x16C => some (.wincfg f)
  | 0x16D => some (.winrun f)
  | 0x16E => some (.decode f)
  | 0x16F => some (.coll f)
  | 0x170 => some (.hquery f)
  | 0x171 => some (.rsquery f)
  | 0x172 => some (.stok f)
  | 0x173 => some (.toks f)
  | _ => none

/-- The F-format opcodes. -/
def buildF (op : Nat) (f : FmtF) : Option Instr :=
  match op with
  | 0x086 => some (.fan f)
  | _ => none

/-- The two C-format majors (R69): GENC in 0x1E0-0x1EF, APPC in 0x1F0-0x1FF. -/
def buildC (op : Nat) (f : FmtC) : Option Instr :=
  if 0x1E0 ≤ op ∧ op ≤ 0x1EF then some (.genc f) else if 0x1F0 ≤ op ∧ op ≤ 0x1FF then some (.appc f) else none

/-- The instruction an opcode and its fields name. -/
def build (op : Nat) : Fields → Option Instr
  | .g f => buildG op f
  | .i f => buildI op f
  | .r f => buildR op f
  | .l f => buildL op f
  | .s f => buildS op f
  | .b f => buildB op f
  | .c f => buildC op f
  | .x f => buildX op f
  | .e f => buildE op f
  | .f f => buildF op f

/-- The opcode (for GENC and APPC the first code of the major) and fields of an instruction; none for a device step. -/
def Instr.form : Instr → Option (Nat × Fields)
  | .add f => some (0x001, .g f)
  | .sub f => some (0x002, .g f)
  | .mul f => some (0x003, .g f)
  | .mulhs f => some (0x004, .g f)
  | .mulhu f => some (0x005, .g f)
  | .divs f => some (0x006, .g f)
  | .divu f => some (0x007, .g f)
  | .rems f => some (0x008, .g f)
  | .remu f => some (0x009, .g f)
  | .andOp f => some (0x00A, .g f)
  | .orOp f => some (0x00B, .g f)
  | .xorOp f => some (0x00C, .g f)
  | .andn f => some (0x00D, .g f)
  | .orn f => some (0x00E, .g f)
  | .shl f => some (0x00F, .g f)
  | .shr f => some (0x010, .g f)
  | .sar f => some (0x011, .g f)
  | .rol f => some (0x012, .g f)
  | .ror f => some (0x013, .g f)
  | .mins f => some (0x014, .g f)
  | .minu f => some (0x015, .g f)
  | .maxs f => some (0x016, .g f)
  | .maxu f => some (0x017, .g f)
  | .absd f => some (0x018, .g f)
  | .neg f => some (0x020, .g f)
  | .abs f => some (0x021, .g f)
  | .notOp f => some (0x022, .g f)
  | .clz f => some (0x023, .g f)
  | .ctz f => some (0x024, .g f)
  | .popc f => some (0x025, .g f)
  | .brev f => some (0x026, .g f)
  | .bswap f => some (0x027, .g f)
  | .sext f => some (0x028, .g f)
  | .zext f => some (0x029, .g f)
  | .mov f => some (0x02A, .g f)
  | .nullOp f => some (0x02B, .g f)
  | .bfx f => some (0x030, .g f)
  | .bfxs f => some (0x031, .g f)
  | .bfi f => some (0x032, .g f)
  | .sel f => some (0x033, .g f)
  | .madd f => some (0x034, .g f)
  | .fsh f => some (0x035, .g f)
  | .addi f => some (0x040, .i f)
  | .muli f => some (0x041, .i f)
  | .andi f => some (0x042, .i f)
  | .ori f => some (0x043, .i f)
  | .xori f => some (0x044, .i f)
  | .shli f => some (0x045, .i f)
  | .shri f => some (0x046, .i f)
  | .sari f => some (0x047, .i f)
  | .roli f => some (0x048, .i f)
  | .minsi f => some (0x049, .i f)
  | .maxsi f => some (0x04A, .i f)
  | .movi f => some (0x04B, .i f)
  | .teq f => some (0x060, .g f)
  | .tne f => some (0x061, .g f)
  | .tlts f => some (0x062, .g f)
  | .tles f => some (0x063, .g f)
  | .tltu f => some (0x064, .g f)
  | .tleu f => some (0x065, .g f)
  | .tgts f => some (0x066, .g f)
  | .tges f => some (0x067, .g f)
  | .tgtu f => some (0x068, .g f)
  | .tgeu f => some (0x069, .g f)
  | .teqi f => some (0x070, .i f)
  | .tnei f => some (0x071, .i f)
  | .tltsi f => some (0x072, .i f)
  | .tlesi f => some (0x073, .i f)
  | .tltui f => some (0x074, .i f)
  | .tleui f => some (0x075, .i f)
  | .tgtsi f => some (0x076, .i f)
  | .tgesi f => some (0x077, .i f)
  | .pand f => some (0x080, .g f)
  | .por f => some (0x081, .g f)
  | .pxor f => some (0x082, .g f)
  | .pnot f => some (0x083, .g f)
  | .steer f => some (0x084, .g f)
  | .merge f => some (0x085, .g f)
  | .fan f => some (0x086, .f f)
  | .rdc f => some (0x087, .r f)
  | .tagof f => some (0x088, .g f)
  | .retag f => some (0x089, .g f)
  | .fadd f => some (0x0A0, .g f)
  | .fsub f => some (0x0A1, .g f)
  | .fmul f => some (0x0A2, .g f)
  | .fdiv f => some (0x0A3, .g f)
  | .fmin f => some (0x0A4, .g f)
  | .fmax f => some (0x0A5, .g f)
  | .fminm f => some (0x0A6, .g f)
  | .fmaxm f => some (0x0A7, .g f)
  | .fcpys f => some (0x0A8, .g f)
  | .fscale f => some (0x0A9, .g f)
  | .fabs f => some (0x0B0, .g f)
  | .fneg f => some (0x0B1, .g f)
  | .fsqrt f => some (0x0B2, .g f)
  | .frcp f => some (0x0B3, .g f)
  | .frsq f => some (0x0B4, .g f)
  | .ex2 f => some (0x0B5, .g f)
  | .lg2 f => some (0x0B6, .g f)
  | .sinp f => some (0x0B7, .g f)
  | .cosp f => some (0x0B8, .g f)
  | .tanh f => some (0x0B9, .g f)
  | .frnd f => some (0x0BA, .i f)
  | .fclass f => some (0x0BB, .g f)
  | .ffrac f => some (0x0BC, .g f)
  | .ffma f => some (0x0C0, .g f)
  | .ffms f => some (0x0C1, .g f)
  | .fnfma f => some (0x0C2, .g f)
  | .fnfms f => some (0x0C3, .g f)
  | .fteq f => some (0x0C8, .g f)
  | .ftne f => some (0x0C9, .g f)
  | .ftlt f => some (0x0CA, .g f)
  | .ftle f => some (0x0CB, .g f)
  | .ftun f => some (0x0CC, .g f)
  | .ftord f => some (0x0CD, .g f)
  | .fcvt f => some (0x0D0, .i f)
  | .fcvts f => some (0x0D1, .i f)
  | .fcvtu f => some (0x0D2, .i f)
  | .scvtf f => some (0x0D3, .i f)
  | .ucvtf f => some (0x0D4, .i f)
  | .mxscl f => some (0x0D5, .i f)
  | .mxq f => some (0x0D6, .i f)
  | .ldd f => some (0x100, .l f)
  | .ldw f => some (0x101, .l f)
  | .ldws f => some (0x102, .l f)
  | .ldh f => some (0x103, .l f)
  | .ldhs f => some (0x104, .l f)
  | .ldb f => some (0x105, .l f)
  | .ldbs f => some (0x106, .l f)
  | .std f => some (0x108, .s f)
  | .stw f => some (0x109, .s f)
  | .sth f => some (0x10A, .s f)
  | .stb f => some (0x10B, .s f)
  | .nstore f => some (0x10C, .s f)
  | .aadd f => some (0x110, .s f)
  | .amins f => some (0x111, .s f)
  | .aminu f => some (0x112, .s f)
  | .amaxs f => some (0x113, .s f)
  | .amaxu f => some (0x114, .s f)
  | .aand f => some (0x115, .s f)
  | .aor f => some (0x116, .s f)
  | .axor f => some (0x117, .s f)
  | .afadd f => some (0x118, .s f)
  | .fld f => some (0x120, .x f)
  | .flda f => some (0x121, .x f)
  | .fst f => some (0x122, .e f)
  | .fstr f => some (0x123, .e f)
  | .faadd f => some (0x124, .x f)
  | .famins f => some (0x125, .x f)
  | .faminu f => some (0x126, .x f)
  | .famaxs f => some (0x127, .x f)
  | .famaxu f => some (0x128, .x f)
  | .faand f => some (0x129, .x f)
  | .faor f => some (0x12A, .x f)
  | .faxor f => some (0x12B, .x f)
  | .faxchg f => some (0x12C, .x f)
  | .facas f => some (0x12D, .x f)
  | .fafadd f => some (0x12E, .x f)
  | .fence f => some (0x12F, .s f)
  | .xmit f => some (0x130, .e f)
  | .inlet f => some (0x131, .r f)
  | .fradd f => some (0x132, .e f)
  | .frfadd f => some (0x133, .e f)
  | .br f => some (0x140, .b f)
  | .bri f => some (0x141, .g f)
  | .call f => some (0x142, .b f)
  | .calli f => some (0x143, .g f)
  | .ret f => some (0x144, .g f)
  | .endStrand f => some (0x145, .b f)
  | .tsalloc f => some (0x146, .i f)
  | .tsfree f => some (0x147, .s f)
  | .tagnew f => some (0x148, .i f)
  | .tagrel f => some (0x149, .s f)
  | .spawn f => some (0x14A, .e f)
  | .spawnr f => some (0x14B, .e f)
  | .joinOp f => some (0x14C, .x f)
  | .bararr f => some (0x14D, .s f)
  | .barwait f => some (0x14E, .x f)
  | .barsync f => some (0x14F, .x f)
  | .waitOp f => some (0x150, .x f)
  | .yieldOp f => some (0x151, .x f)
  | .scopy f => some (0x160, .e f)
  | .sgather f => some (0x161, .e f)
  | .sscatter f => some (0x162, .e f)
  | .sfill f => some (0x163, .e f)
  | .sparam f => some (0x164, .e f)
  | .mxcfg f => some (0x165, .e f)
  | .mxrun f => some (0x166, .e f)
  | .mxldacc f => some (0x167, .e f)
  | .mxstacc f => some (0x168, .e f)
  | .mxrel f => some (0x169, .e f)
  | .vmap f => some (0x16A, .e f)
  | .vred f => some (0x16B, .e f)
  | .wincfg f => some (0x16C, .e f)
  | .winrun f => some (0x16D, .e f)
  | .decode f => some (0x16E, .e f)
  | .coll f => some (0x16F, .e f)
  | .hquery f => some (0x170, .e f)
  | .rsquery f => some (0x171, .e f)
  | .stok f => some (0x172, .e f)
  | .toks f => some (0x173, .e f)
  | .srd f => some (0x180, .i f)
  | .swr f => some (0x181, .i f)
  | .trap f => some (0x182, .i f)
  | .bkpt f => some (0x183, .g f)
  | .enrd f => some (0x184, .g f)
  | .perfrd f => some (0x185, .i f)
  | .trace f => some (0x186, .s f)
  | .clk f => some (0x187, .g f)
  | .snuff f => some (0x188, .g f)
  | .fwcall f => some (0x189, .g f)
  | .assert f => some (0x18A, .g f)
  | .genc f => some (0x1E0, .c f)
  | .appc f => some (0x1F0, .c f)
  | .evElementIssue _ _ _ | .evTokenArrival _ | .evBlockFetch _ _ _ | .evBlockInstanceStart _ _ _
  | .evBlockStarved _ | .evCommit _ | .evFootprintRegistration _ | .evParkedCommitResume _
  | .evFrameMoveArrival _ | .evFarAccessAtHome _ | .evPostedEffectAtHome _ | .evPostedAckArrival _
  | .evWaitingFarAccessPerform _ _ _ | .evBankArbitration _ _ _ | .evBankStarvationPromote _ _ _
  | .evFarReplyArrival _ | .evReplyHeldResend _ | .evLamplighterRelight _ _ | .evRangeSplit _ _
  | .evFrameWaitGrant _ _ | .evEmberReady _ | .evRefusalCountLimit _ | .evReservationTimeout _
  | .evArbitrationGrant _ | .evCircuitTokenArrival _ | .evCreditReturn _ | .evBorderCrossing _
  | .evMasterFreeze _ | .evSpaceTableItem _ | .evJoinRequest _ | .evLiveCountZero _ _ _ | .evWaitRequest _
  | .evBarrierArrival _ | .evBarrierPhaseComplete _ | .evBarwaitRequest _ | .evTlbWalk _
  | .evStreamCommandArrival _ | .evStreamCommandPerform _ | .evStreamRoundBoundary _
  | .evStreamPageFaultStop _ | .evEngineLineAccess _ | .evMeCommandPerform _ | .evVsuCommandPerform _
  | .evWindowCommandPerform _ | .evDecodeFrame _ | .evCollGroupComplete _ | .evStokElementSend _
  | .evToksTokenCapture _ | .evCommandCompletion _ | .evFaultDelivery _ _ | .evHandlerDone _ _ _
  | .evPreciseStop _ _ | .evParityFreezeReport _ _ _ _ _ _ _ | .evSnuffMarkerBroadcast _ _
  | .evQuadMarkerArrival _ _ | .evChannelMarkerArrival _ | .evQuadStateReadout _ _ | .evEngineSnuffStop _
  | .evQuadZeroing _ _ | .evQuadZeroComplete _ _ | .evLanternReport | .evFactorUpdate _ | .evSharedCostSplit
  | .evCandlePeriodStart _ | .evCandleCut _ | .evClassChange _ _ | .evPowerCheck _ | .evThermalLimit _ _
  | .evThermalShutdown _ _ | .evDeviceReset | .evHostLinkDegrade | .evCxlMemRead _ _ | .evCxlMemWrite _ _ _
  | .evCommandDoorbell _ _ | .evEventHeadWrite _ _ | .evRegisterWrite _ _ _ | .evFwcallDispatch _
  | .evCreateContext _ | .evDestroyContext _ | .evMap _ | .evMapGrant _ | .evMapMove _
  | .evMigrationDrainComplete _ | .evMigrationReissue _ | .evUnmap _ | .evUnmapComplete _ | .evLoadImage _
  | .evLaunch _ | .evQueryQuiescent _ | .evSaveImage _ | .evSaveImageNonreleasing _ | .evRestoreImage _
  | .evSnuffCommand _ | .evSetCandle _ | .evReadLanterns _ | .evSetDieTable _ | .evMarkBadNodes _
  | .evAttest _ | .evLoadCalibration _ | .evResetVf _ | .evSetCounting _ | .evPodPacketReceive _ _ _ _ _
  | .evPodRetransmitTimeout _ _ | .evPodPortFailure _ | .evPodLost _ => none

/-- The opcode of an instruction form, 0x1FF's reserved companion 0 for a device step. -/
def Instr.opcode (i : Instr) : Nat := (i.form.map (·.1)).getD 0

/-- A form of more than one slot (X, E, F: R71). -/
def Fmt.wide : Fmt → Bool
  | .x | .e | .f => true
  | _ => false

/-- The fields of a slot and of the slot after it, by format (R69, R8). -/
def parseFields (fmt : Fmt) (w0 w1 : Slot) : Fields :=
  match fmt with
  | .g => .g ⟨w0.extractLsb' 21 2, w0.extractLsb' 18 3, w0.extractLsb' 9 9, w0.extractLsb' 0 9⟩
  | .i => .i ⟨w0.extractLsb' 21 2, w0.extractLsb' 18 3, w0.extractLsb' 9 9, w0.extractLsb' 0 9⟩
  | .r => .r ⟨w0.extractLsb' 18 5, w0.extractLsb' 9 9, w0.extractLsb' 0 9⟩
  | .l => .l ⟨w0.extractLsb' 21 2, w0.extractLsb' 16 5, w0.extractLsb' 9 7, w0.extractLsb' 0 9⟩
  | .s => .s ⟨w0.extractLsb' 21 2, w0.extractLsb' 16 5, w0.extractLsb' 0 16⟩
  | .b => .b ⟨w0.extractLsb' 21 2, w0.extractLsb' 18 3, w0.extractLsb' 0 18⟩
  | .c => .c ⟨w0.extractLsb' 25 2, w0.extractLsb' 9 16, w0.extractLsb' 0 9⟩
  | .x => .x ⟨w0.extractLsb' 21 2, w0.extractLsb' 18 3, w0.extractLsb' 15 3, w0.extractLsb' 10 5,
      w0.extractLsb' 0 10, w1.extractLsb' 14 18, w1.extractLsb' 0 14⟩
  | .e => .e ⟨w0.extractLsb' 21 2, w0.extractLsb' 18 3, w0.extractLsb' 9 9, w0.extractLsb' 0 9,
      w1.extractLsb' 27 5, w1.extractLsb' 0 27⟩
  | .f => .f ⟨w0.extractLsb' 21 2, w0.extractLsb' 18 3, w0.extractLsb' 9 9, w0.extractLsb' 0 9,
      w1.extractLsb' 18 14, w1.extractLsb' 9 9, w1.extractLsb' 0 9⟩

/-- The slots of an opcode and its fields: the layouts of R69, read the other way. -/
def packFields (op : Nat) : Fields → List Slot
  | .g f => [BitVec.ofNat 9 op ++ f.pr ++ f.xop ++ f.t1 ++ f.t0]
  | .i f => [BitVec.ofNat 9 op ++ f.pr ++ f.xop ++ f.imm9 ++ f.t0]
  | .r f => [BitVec.ofNat 9 op ++ f.reg ++ f.t1 ++ f.t0]
  | .l f => [BitVec.ofNat 9 op ++ f.pr ++ f.lsid ++ f.imm7 ++ f.t0]
  | .s f => [BitVec.ofNat 9 op ++ f.pr ++ f.lsid ++ f.imm16]
  | .b f => [BitVec.ofNat 9 op ++ f.pr ++ f.exit ++ f.off18]
  | .c f => [BitVec.ofNat 5 (op / 16) ++ f.pr ++ f.imm16 ++ f.t0]
  | .x f => [BitVec.ofNat 9 op ++ f.pr ++ f.xop ++ f.exit ++ f.dst ++ f.zero, f.off18 ++ f.imm14]
  | .e f => [BitVec.ofNat 9 op ++ f.pr ++ f.xop ++ f.t1 ++ f.t0, f.lsid ++ f.cmd]
  | .f f => [BitVec.ofNat 9 op ++ f.pr ++ f.xop ++ f.t1 ++ f.t0, f.zero ++ f.t3 ++ f.t2]

/-- The pr field; the R format has none (R78). -/
def Fields.pr : Fields → BitVec 2
  | .g q => q.pr
  | .i q => q.pr
  | .r _ => 0
  | .l q => q.pr
  | .s q => q.pr
  | .b q => q.pr
  | .c q => q.pr
  | .x q => q.pr
  | .e q => q.pr
  | .f q => q.pr

/-- The Pred column of R93 reads "no": MERGE, BFX to FSH, FFMA to FNFMS, FACAS. -/
def neverPredicated (op : Nat) : Bool :=
  (0x030 ≤ op && op ≤ 0x035) || op == 0x085 || (0x0C0 ≤ op && op ≤ 0x0C3) || op == 0x12D

/-- Check 6 of R95: a reserved field is non-zero. -/
def Instr.reservedBad : Instr → Bool
  | .nullOp f | .pand f | .por f | .pxor f | .pnot f | .steer f | .tagof f | .retag f | .enrd f | .clk f
  | .fwcall f | .merge f => f.xop != 0
  | .fan f => f.xop != 0 || f.zero != 0
  | .frnd f => f.imm9.toNat / 8 != 0
  | .fld f | .flda f | .faadd f | .famins f | .faminu f | .famaxs f | .famaxu f | .faand f | .faor f
  | .faxor f | .faxchg f | .facas f | .fafadd f => f.zero != 0
  | .fst f | .fradd f | .frfadd f => f.t1 != 0 || f.t0 != 0 || bitsOf f.cmd.toNat 26 24 != 0
  | .fstr f => f.t1 != 0 || f.t0 != 0
  | .xmit f => f.xop != 0 || f.t1 != 0 || f.t0 != 0 || bitsOf f.cmd.toNat 26 10 != 0
  | .bri f | .calli f | .ret f => f.xop != 0 || f.t1.toNat % 64 != 0 || f.t0 != 0
  | .tsalloc f => f.xop != 0 || f.imm9.toNat / 64 != 0
  | .tagnew f => f.xop != 0 || f.imm9 != 0
  | .spawn f | .spawnr f => f.xop != 0 || f.t1 != 0 || f.t0 != 0 || bitsOf f.cmd.toNat 26 18 != 0
  | .joinOp f | .yieldOp f => f.xop != 0 || f.zero != 0 || f.dst != 0 || f.imm14 != 0
  | .barwait f | .barsync f => f.xop != 0 || f.zero != 0 || f.imm14.toNat / 64 != 0
  | .waitOp f => f.xop != 0 || f.zero != 0 || f.imm14 != 0
  | .scopy f | .sgather f | .sscatter f | .sfill f | .coll f | .mxcfg f | .mxrun f | .mxldacc f | .mxstacc f
  | .vmap f | .vred f | .wincfg f | .winrun f | .decode f | .hquery f => f.xop != 0 || bitsOf f.cmd.toNat 15 0 != 0
  | .sparam f => f.xop != 0 || bitsOf f.cmd.toNat 10 0 != 0
  | .mxrel f => f.xop != 0 || bitsOf f.cmd.toNat 15 1 != 0
  | .rsquery f | .srd f | .perfrd f => f.xop != 0
  | .stok f | .toks f => f.xop != 0 || bitsOf f.cmd.toNat 15 10 != 0
  | .swr f => f.xop != 0 || f.t0 != 0
  | .trap f => f.t0 != 0
  | .bkpt f | .snuff f | .assert f => f.xop != 0 || f.t1 != 0 || f.t0 != 0
  | .add _ | .sub _ | .mul _ | .mulhs _ | .mulhu _ | .divs _ | .divu _ | .rems _ | .remu _ | .andOp _
  | .orOp _ | .xorOp _ | .andn _ | .orn _ | .shl _ | .shr _ | .sar _ | .rol _ | .ror _ | .mins _ | .minu _
  | .maxs _ | .maxu _ | .absd _ | .neg _ | .abs _ | .notOp _ | .clz _ | .ctz _ | .popc _ | .brev _ | .bswap _
  | .sext _ | .zext _ | .mov _ | .bfx _ | .bfxs _ | .bfi _ | .sel _ | .madd _ | .fsh _ | .addi _ | .muli _
  | .andi _ | .ori _ | .xori _ | .shli _ | .shri _ | .sari _ | .roli _ | .minsi _ | .maxsi _ | .movi _
  | .teq _ | .tne _ | .tlts _ | .tles _ | .tltu _ | .tleu _ | .tgts _ | .tges _ | .tgtu _ | .tgeu _ | .teqi _
  | .tnei _ | .tltsi _ | .tlesi _ | .tltui _ | .tleui _ | .tgtsi _ | .tgesi _ | .rdc _ | .fadd _ | .fsub _
  | .fmul _ | .fdiv _ | .fmin _ | .fmax _ | .fminm _ | .fmaxm _ | .fcpys _ | .fscale _ | .fabs _ | .fneg _
  | .fsqrt _ | .frcp _ | .frsq _ | .ex2 _ | .lg2 _ | .sinp _ | .cosp _ | .tanh _ | .fclass _ | .ffrac _
  | .ffma _ | .ffms _ | .fnfma _ | .fnfms _ | .fteq _ | .ftne _ | .ftlt _ | .ftle _ | .ftun _ | .ftord _
  | .fcvt _ | .fcvts _ | .fcvtu _ | .scvtf _ | .ucvtf _ | .mxscl _ | .mxq _ | .ldd _ | .ldw _ | .ldws _
  | .ldh _ | .ldhs _ | .ldb _ | .ldbs _ | .std _ | .stw _ | .sth _ | .stb _ | .nstore _ | .aadd _ | .amins _
  | .aminu _ | .amaxs _ | .amaxu _ | .aand _ | .aor _ | .axor _ | .afadd _ | .fence _ | .inlet _ | .br _
  | .call _ | .endStrand _ | .tsfree _ | .tagrel _ | .bararr _ | .trace _ | .genc _ | .appc _
  | .evElementIssue _ _ _ | .evTokenArrival _ | .evBlockFetch _ _ _ | .evBlockInstanceStart _ _ _
  | .evBlockStarved _ | .evCommit _ | .evFootprintRegistration _ | .evParkedCommitResume _
  | .evFrameMoveArrival _ | .evFarAccessAtHome _ | .evPostedEffectAtHome _ | .evPostedAckArrival _
  | .evWaitingFarAccessPerform _ _ _ | .evBankArbitration _ _ _ | .evBankStarvationPromote _ _ _
  | .evFarReplyArrival _ | .evReplyHeldResend _ | .evLamplighterRelight _ _ | .evRangeSplit _ _
  | .evFrameWaitGrant _ _ | .evEmberReady _ | .evRefusalCountLimit _ | .evReservationTimeout _
  | .evArbitrationGrant _ | .evCircuitTokenArrival _ | .evCreditReturn _ | .evBorderCrossing _
  | .evMasterFreeze _ | .evSpaceTableItem _ | .evJoinRequest _ | .evLiveCountZero _ _ _ | .evWaitRequest _
  | .evBarrierArrival _ | .evBarrierPhaseComplete _ | .evBarwaitRequest _ | .evTlbWalk _
  | .evStreamCommandArrival _ | .evStreamCommandPerform _ | .evStreamRoundBoundary _
  | .evStreamPageFaultStop _ | .evEngineLineAccess _ | .evMeCommandPerform _ | .evVsuCommandPerform _
  | .evWindowCommandPerform _ | .evDecodeFrame _ | .evCollGroupComplete _ | .evStokElementSend _
  | .evToksTokenCapture _ | .evCommandCompletion _ | .evFaultDelivery _ _ | .evHandlerDone _ _ _
  | .evPreciseStop _ _ | .evParityFreezeReport _ _ _ _ _ _ _ | .evSnuffMarkerBroadcast _ _
  | .evQuadMarkerArrival _ _ | .evChannelMarkerArrival _ | .evQuadStateReadout _ _ | .evEngineSnuffStop _
  | .evQuadZeroing _ _ | .evQuadZeroComplete _ _ | .evLanternReport | .evFactorUpdate _ | .evSharedCostSplit
  | .evCandlePeriodStart _ | .evCandleCut _ | .evClassChange _ _ | .evPowerCheck _ | .evThermalLimit _ _
  | .evThermalShutdown _ _ | .evDeviceReset | .evHostLinkDegrade | .evCxlMemRead _ _ | .evCxlMemWrite _ _ _
  | .evCommandDoorbell _ _ | .evEventHeadWrite _ _ | .evRegisterWrite _ _ _ | .evFwcallDispatch _
  | .evCreateContext _ | .evDestroyContext _ | .evMap _ | .evMapGrant _ | .evMapMove _
  | .evMigrationDrainComplete _ | .evMigrationReissue _ | .evUnmap _ | .evUnmapComplete _ | .evLoadImage _
  | .evLaunch _ | .evQueryQuiescent _ | .evSaveImage _ | .evSaveImageNonreleasing _ | .evRestoreImage _
  | .evSnuffCommand _ | .evSetCandle _ | .evReadLanterns _ | .evSetDieTable _ | .evMarkBadNodes _
  | .evAttest _ | .evLoadCalibration _ | .evResetVf _ | .evSetCounting _ | .evPodPacketReceive _ _ _ _ _
  | .evPodRetransmitTimeout _ _ | .evPodPortFailure _ | .evPodLost _ => false

/-- Check 7 of R95: a field holds a value R93, R153, R215 or R227 does not admit. -/
def Instr.valueBad : Instr → Bool
  | .mul f | .mulhs f | .mulhu f | .divs f | .divu f | .rems f | .remu f | .andOp f | .orOp f | .xorOp f
  | .andn f | .orn f | .shl f | .shr f | .sar f | .rol f | .ror f | .mins f | .minu f | .maxs f | .maxu f
  | .absd f | .neg f | .abs f | .notOp f | .clz f | .ctz f | .popc f | .brev f | .bswap f | .sext f | .zext f
  | .mov f | .teq f | .tne f | .tlts f | .tles f | .tltu f | .tleu f | .tgts f | .tges f | .tgtu f | .tgeu f
  | .bfx f | .bfxs f | .bfi f | .sel f | .madd f | .fsh f => !widthOk f.xop
  | .addi f | .muli f | .andi f | .ori f | .xori f | .shli f | .shri f | .sari f | .roli f | .minsi f
  | .maxsi f | .movi f | .teqi f | .tnei f | .tltsi f | .tlesi f | .tltui f | .tleui f | .tgtsi f | .tgesi f => !widthOk f.xop
  | .fld f | .flda f | .faadd f | .famins f | .faminu f | .famaxs f | .famaxu f | .faand f | .faor f
  | .faxor f | .faxchg f | .facas f => !widthOk f.xop
  | .fst f | .fradd f => !widthOk f.xop
  | .fadd f | .fsub f | .fmul f | .fdiv f | .fmin f | .fmax f | .fminm f | .fmaxm f | .fcpys f | .fscale f
  | .fabs f | .fneg f | .fsqrt f | .frcp f | .frsq f | .ex2 f | .lg2 f | .sinp f | .cosp f | .tanh f
  | .fclass f | .ffrac f | .fteq f | .ftne f | .ftlt f | .ftle f | .ftun f | .ftord f | .ffma f | .ffms f
  | .fnfma f | .fnfms f => !floatOk f.xop
  | .fafadd f => !floatOk f.xop
  | .frfadd f => !floatOk f.xop
  | .frnd f => !floatOk f.xop || !roundOk (f.imm9.toNat % 8)
  | .fcvt f => !convOk 0 f.xop f.imm9
  | .fcvts f => !convOk 1 f.xop f.imm9
  | .fcvtu f => !convOk 2 f.xop f.imm9
  | .scvtf f => !convOk 3 f.xop f.imm9
  | .ucvtf f => !convOk 4 f.xop f.imm9
  | .mxscl f => !convOk 5 f.xop f.imm9
  | .mxq f => !convOk 6 f.xop f.imm9
  | .nstore f | .tagrel f => f.imm16 != 0
  | .fstr f => !widthOk f.xop || !scopeOk (bitsOf f.cmd.toNat 26 24)
  | .fence f => bitsOf f.imm16.toNat 14 3 != 0 || !scopeOk (bitsOf f.imm16.toNat 2 0)
  | .endStrand f => f.off18 != 0
  | .tsfree f => bitsOf f.imm16.toNat 14 0 != 0
  | .bararr f => bitsOf f.imm16.toNat 14 6 != 0
  | .scopy f | .sgather f | .sscatter f | .sfill f | .coll f => !((cmdFields f.cmd).2.2.1 < 8 || (cmdFields f.cmd).2.2.1 == 15)
  | .sparam f | .hquery f | .rsquery f => (cmdFields f.cmd).1 != 0 || (cmdFields f.cmd).2.1 != 0 || (cmdFields f.cmd).2.2.1 != 0
  | .mxcfg f | .mxrun f | .mxldacc f | .mxstacc f | .mxrel f | .vmap f | .vred f | .wincfg f | .winrun f
  | .stok f | .toks f => (cmdFields f.cmd).2.2.1 != 0
  | .srd f | .swr f => 0x14 ≤ f.imm9.toNat
  | .perfrd f => !perfIndexOk f.imm9.toNat
  | .add _ | .sub _ | .nullOp _ | .pand _ | .por _ | .pxor _ | .pnot _ | .steer _ | .merge _ | .fan _ | .rdc _
  | .tagof _ | .retag _ | .ldd _ | .ldw _ | .ldws _ | .ldh _ | .ldhs _ | .ldb _ | .ldbs _ | .std _ | .stw _
  | .sth _ | .stb _ | .aadd _ | .amins _ | .aminu _ | .amaxs _ | .amaxu _ | .aand _ | .aor _ | .axor _
  | .afadd _ | .xmit _ | .inlet _ | .br _ | .bri _ | .call _ | .calli _ | .ret _ | .tsalloc _ | .tagnew _
  | .spawn _ | .spawnr _ | .joinOp _ | .barwait _ | .barsync _ | .waitOp _ | .yieldOp _ | .decode _ | .trap _
  | .bkpt _ | .enrd _ | .trace _ | .clk _ | .snuff _ | .fwcall _ | .assert _ | .genc _ | .appc _
  | .evElementIssue _ _ _ | .evTokenArrival _ | .evBlockFetch _ _ _ | .evBlockInstanceStart _ _ _
  | .evBlockStarved _ | .evCommit _ | .evFootprintRegistration _ | .evParkedCommitResume _
  | .evFrameMoveArrival _ | .evFarAccessAtHome _ | .evPostedEffectAtHome _ | .evPostedAckArrival _
  | .evWaitingFarAccessPerform _ _ _ | .evBankArbitration _ _ _ | .evBankStarvationPromote _ _ _
  | .evFarReplyArrival _ | .evReplyHeldResend _ | .evLamplighterRelight _ _ | .evRangeSplit _ _
  | .evFrameWaitGrant _ _ | .evEmberReady _ | .evRefusalCountLimit _ | .evReservationTimeout _
  | .evArbitrationGrant _ | .evCircuitTokenArrival _ | .evCreditReturn _ | .evBorderCrossing _
  | .evMasterFreeze _ | .evSpaceTableItem _ | .evJoinRequest _ | .evLiveCountZero _ _ _ | .evWaitRequest _
  | .evBarrierArrival _ | .evBarrierPhaseComplete _ | .evBarwaitRequest _ | .evTlbWalk _
  | .evStreamCommandArrival _ | .evStreamCommandPerform _ | .evStreamRoundBoundary _
  | .evStreamPageFaultStop _ | .evEngineLineAccess _ | .evMeCommandPerform _ | .evVsuCommandPerform _
  | .evWindowCommandPerform _ | .evDecodeFrame _ | .evCollGroupComplete _ | .evStokElementSend _
  | .evToksTokenCapture _ | .evCommandCompletion _ | .evFaultDelivery _ _ | .evHandlerDone _ _ _
  | .evPreciseStop _ _ | .evParityFreezeReport _ _ _ _ _ _ _ | .evSnuffMarkerBroadcast _ _
  | .evQuadMarkerArrival _ _ | .evChannelMarkerArrival _ | .evQuadStateReadout _ _ | .evEngineSnuffStop _
  | .evQuadZeroing _ _ | .evQuadZeroComplete _ _ | .evLanternReport | .evFactorUpdate _ | .evSharedCostSplit
  | .evCandlePeriodStart _ | .evCandleCut _ | .evClassChange _ _ | .evPowerCheck _ | .evThermalLimit _ _
  | .evThermalShutdown _ _ | .evDeviceReset | .evHostLinkDegrade | .evCxlMemRead _ _ | .evCxlMemWrite _ _ _
  | .evCommandDoorbell _ _ | .evEventHeadWrite _ _ | .evRegisterWrite _ _ _ | .evFwcallDispatch _
  | .evCreateContext _ | .evDestroyContext _ | .evMap _ | .evMapGrant _ | .evMapMove _
  | .evMigrationDrainComplete _ | .evMigrationReissue _ | .evUnmap _ | .evUnmapComplete _ | .evLoadImage _
  | .evLaunch _ | .evQueryQuiescent _ | .evSaveImage _ | .evSaveImageNonreleasing _ | .evRestoreImage _
  | .evSnuffCommand _ | .evSetCandle _ | .evReadLanterns _ | .evSetDieTable _ | .evMarkBadNodes _
  | .evAttest _ | .evLoadCalibration _ | .evResetVf _ | .evSetCounting _ | .evPodPacketReceive _ _ _ _ _
  | .evPodRetransmitTimeout _ _ | .evPodPortFailure _ | .evPodLost _ => false

/-- Checks 3, 4, 6 and 7 of R95 on an instruction's fields, in that order; none when all pass. -/
def Instr.fieldCheck (i : Instr) : Option Nat :=
  match i.form with
  | none => none
  | some (op, f) =>
    if f.pr = 1 then some 3
    else if f.pr ≠ 0 ∧ neverPredicated op = true then some 4
    else if i.reservedBad then some 6
    else if i.valueBad then some 7
    else none

/-- R95 on the slot `w0`, with the slot after it (none in the last slot of a body): the instruction, or the number of
the first check that fails. -/
def decodeWords (w0 : Slot) (w1 : Option Slot) : Except Nat Instr :=
  if w0 = 0 ∨ w0 = 0xFFFFFFFF then .error 1
  else
    match opFormat (w0.toNat / 2 ^ 23) with
    | none => .error 2
    | some fmt =>
      let fields := parseFields fmt w0 (w1.getD 0)
      if fields.pr = 1 then .error 3
      else if fields.pr ≠ 0 ∧ neverPredicated (w0.toNat / 2 ^ 23) = true then .error 4
      else if fmt.wide = true ∧ w1 = none then .error 5
      else
        match build (w0.toNat / 2 ^ 23) fields with
        | none => .error 2
        | some i => if i.reservedBad then .error 6 else if i.valueBad then .error 7 else .ok i

/-- Two slots for the X, E and F formats (R71), one for the others; a device step takes none. -/
def Instr.slots (i : Instr) : Nat :=
  match i.form with
  | some (_, .x _) | some (_, .e _) | some (_, .f _) => 2
  | some _ => 1
  | none => 0

/-- Four bytes in memory order as a slot (R7). -/
def slotOfBytes (b0 b1 b2 b3 : Byte) : Slot := b3 ++ b2 ++ b1 ++ b0

/-- A slot's bytes in memory order (R7). -/
def bytesOfSlot (w : Slot) : List Byte :=
  [w.extractLsb' 0 8, w.extractLsb' 8 8, w.extractLsb' 16 8, w.extractLsb' 24 8]

/-- The decoder on any bytes: the instruction at their start and the bytes after it, or why there is none. -/
def decode : List Byte → Except Reject (Instr × List Byte)
  | b0 :: b1 :: b2 :: b3 :: rest =>
    match rest with
    | c0 :: c1 :: c2 :: c3 :: rest' =>
      match decodeWords (slotOfBytes b0 b1 b2 b3) (some (slotOfBytes c0 c1 c2 c3)) with
      | .ok i => .ok (i, if i.slots = 2 then rest' else rest)
      | .error k => .error (.illegalWord k)
    | _ =>
      match decodeWords (slotOfBytes b0 b1 b2 b3) none with
      | .ok i => .ok (i, rest)
      | .error 5 => .error .truncated
      | .error k => .error (.illegalWord k)
  | _ => .error .truncated

/-- The slots of an instruction (none for a device step, which has no words). -/
def encode (i : Instr) : List Slot :=
  match i.form with
  | some (op, f) => packFields op f
  | none => []

/-- The bytes of an instruction in memory order. -/
def encodeBytes (i : Instr) : List Byte := (encode i).flatMap bytesOfSlot

/-- Slots from a table word: bit 0 the least significant bit of the first slot, the second slot's bits from 32 on. -/
def tableSlots (w : Nat) : Slot × Slot := (BitVec.ofNat 32 w, BitVec.ofNat 32 (w / 2 ^ 32))

/-- What the decoder reads from an instruction whose bits the opcode table numbers as `w` (bits above `nbits` zero):
the two slots are laid out as bytes in memory order and given to `decode`. -/
def decodeTableWord (nbits w : Nat) : Option Instr :=
  match decode ((bytesOfSlot (tableSlots (w % 2 ^ nbits)).1) ++ bytesOfSlot (tableSlots (w % 2 ^ nbits)).2) with
  | .ok (i, _) => some i
  | .error _ => none

end Sys2Proof
end

