-- ==== Sys2Proof/Machine/State.lean ====
section
/-!
DEFINITION. The state: every piece of state the spec gives the LE816, as plain data (INVENTORY.md, State, names the
rule and the reset value of each), the faults and refusals of the model itself, and `State.reset`.
Anything held "one per X" is a list of records; an X without a record has the record's default.
-/

namespace Sys2Proof.Machine

/-! ### Names -/

/-- A quad by physical fabric die (0-7) and physical index y * 10 + x (R19, R20). -/
structure QuadId where
  die : Nat
  idx : Nat
  deriving DecidableEq, Repr, Inhabited

/-- A context: its function and its number in the function (R46, R315). -/
structure CtxId where
  vf : Nat
  num : Nat
  deriving DecidableEq, Repr, Inhabited

/-- The fault codes of R364. -/
inductive FaultCode where
  | illegalWord | illegalTarget | headerMismatch | blockFormat | blockCheck | blockStarved | multiExit
  | nearRange | align | pageFault | permission | poison | emberOverflow | tagspaceInvalid | accLive
  | shapeInvalid | circuitInvalid | isolationBreach | privilege | trap | assert | bkpt | tokenParity | engineError
  deriving DecidableEq, Repr

/-- The code number of a fault (R364). -/
def FaultCode.num : FaultCode → Nat
  | .illegalWord => 0x01 | .illegalTarget => 0x02 | .headerMismatch => 0x03 | .blockFormat => 0x04
  | .blockCheck => 0x05 | .blockStarved => 0x06 | .multiExit => 0x07 | .nearRange => 0x10 | .align => 0x11
  | .pageFault => 0x12 | .permission => 0x13 | .poison => 0x14 | .emberOverflow => 0x15
  | .tagspaceInvalid => 0x16 | .accLive => 0x17 | .shapeInvalid => 0x18 | .circuitInvalid => 0x19
  | .isolationBreach => 0x1A | .privilege => 0x1B | .trap => 0x1C | .assert => 0x1D | .bkpt => 0x1E
  | .tokenParity => 0x1F | .engineError => 0x20

/-- The read-modify-writes of R210, R213 and R216. `fadd f` adds in float format f (0 FP32, 1 FP16, 2 BF16). -/
inductive Rmw where
  | add | minS | minU | maxS | maxU | and | or | xor | xchg | cas
  | fadd (fmt : Nat)
  deriving DecidableEq, Repr

/-- A token: a 64-bit payload, or the null mark and no value (R81). -/
inductive Tok where
  | null
  | val (w : Word)
  deriving DecidableEq, Repr

/-- An operand port (R73). -/
inductive Port where
  | left | right | third
  deriving DecidableEq, Repr

/-! ### Strands -/

/-- A reservation made by TSALLOC or TAGNEW and kept by the strand (R268): by slot of a block. -/
structure TagResv where
  block : Nat
  slot : Nat
  /-- the tag sent -/
  tag : Nat
  /-- the space it reserves (TSALLOC), or none: the iteration (TAGNEW) -/
  fresh : Bool
  deriving DecidableEq, Repr

/-- A replay reservation of R303. -/
inductive Resv where
  /-- 0x81: in the queue of declaration `d`'s pool, for the TSALLOC in a slot of a block -/
  | pool (d block slot : Nat)
  /-- 0x81: in the queue of space `s`, for the TAGNEW in a slot of a block -/
  | iter (s block slot : Nat)
  /-- 0x82: entries asked for, vault by vault, and how many are granted -/
  | entries (want : List (QuadId × Nat × Nat))
  /-- 0x83: the lines [lo, hi) of a vault, until the clock given once relit -/
  | lines (q : QuadId) (lo hi : Nat) (until' : Option Nat)
  deriving DecidableEq, Repr

/-- A fault to be raised against the strand's next instance before it starts (R37, R211). -/
structure PendFault where
  code : FaultCode
  detail : Nat
  addr : Nat
  /-- the block whose commit met it, and its element -/
  block : Nat
  elem : Nat
  deriving DecidableEq, Repr

/-- What a strand carries beside its frame: its tag, and the part no record shows (R268, R302, R351). `sid` is the
model's own name of the strand. -/
structure Strand where
  sid : Nat
  cx : CtxId
  tag : Nat
  refusals : Nat
  resv : Option Resv
  tagResv : List TagResv
  /-- lantern charges since spawn, 2^-16 nJ (R347) -/
  energy : Nat
  /-- in an ordered space: its iteration (R56) -/
  ordered : Option Nat
  /-- ring slot whose handler this strand is (R368) -/
  handler : Option Nat
  pend : Option PendFault
  /-- slot exempt from BKPT in the next instance (R351) -/
  bkptSlot : Option Nat
  /-- posted effects and far accesses the first instance waits for (R275), by identity -/
  after : List Nat
  /-- the reservation its latest counted abandonment entitles it to and that it has not yet been given (R302) -/
  due : Option Resv
  deriving DecidableEq, Repr, Inhabited

/-- Where a frame in a frame area stands (R43, R223, R286, R290): waiting to start its block, or held by a fault
that waits at K or by an EMBER_OVERFLOW of an abandonment (R369, R39). -/
inductive FrameStatus where
  | waiting
  | held
  deriving DecidableEq, Repr

/-- A strand's frame: c0-c31 (R42), the block it is to run and the placement (R60), the order of its start request. -/
structure Frame where
  strand : Strand
  quad : QuadId
  elem : Nat
  block : Nat
  regs : List Word
  status : FrameStatus
  order : Nat
  deriving DecidableEq, Repr

/-- Where an ember's record lies (R39, R50, R368). -/
inductive Pool where
  | vault (q : QuadId)
  | hbm
  | slot (s : Nat)
  | image
  | frameArea (q : QuadId)
  deriving DecidableEq, Repr

/-- What an ember waits for (R294, R39). -/
inductive Wait where
  | reply
  /-- 0x81: a number of a declaration's pool, or an iteration of a space, for a slot of a block -/
  | poolOf (decl block slot : Nat)
  | iterOf (space block slot : Nat)
  /-- 0x82: the vaults with too few entries, and what the commit needed at each vault -/
  | entries (qs : List QuadId) (needs : List (QuadId × Nat))
  /-- 0x83: the command or waiting access that conflicts, by identity, and the refused bytes [lo, hi) -/
  | conflict (q : QuadId) (id lo hi : Nat)
  | oldest
  | restored
  | frameOf (q : QuadId)
  | fault
  | range
  | nothing
  deriving DecidableEq, Repr

/-- An ember (R51): the record's fields, and what it waits for. `regs` has all 32 places, zero where LIVE has no
bit. `cause` is the reply, once accepted. -/
structure Ember where
  id : Nat
  strand : Strand
  quad : QuadId
  elem : Nat
  live : Nat
  regs : List Word
  exit : Nat
  reply : Nat
  reason : Nat
  seq : Nat
  cont : Nat
  source : Nat
  pkg : Nat
  home : Nat
  width : Nat
  op : Nat
  /-- the block whose instance left it, for a fault's record (R367): no part of the record of R51 -/
  block : Nat
  pool : Pool
  addr : Nat
  size : Nat
  wait : Wait
  value : Option Word
  deriving DecidableEq, Repr

/-! ### Engine commands (chapter 11) -/

/-- A half-open byte interval of a vault; empty when hi ≤ lo (R189). -/
structure Interval where
  lo : Nat
  hi : Nat
  deriving DecidableEq, Repr

/-- A command's footprint at one vault (R189). -/
structure Footprint where
  quad : QuadId
  rd : Interval
  wr : Interval
  deriving DecidableEq, Repr

/-- A command as issued: opcode, its handle's fields (R229), its block as copied at firing, its footprint. -/
structure Command where
  id : Nat
  op : Nat
  cx : CtxId
  sid : Nat
  quad : QuadId
  ldie : Nat
  qindex : Nat
  tag : Nat
  lsid : Nat
  block : Nat
  eng : Nat
  bar : Option Nat
  low : Nat
  arg : Word
  val : Word
  bytes : List Byte
  /-- the window register a WINRUN read at firing (R249) -/
  window : List Byte
  /-- %srseed as the issuing instance read it (R110) -/
  seed : Word
  foots : List Footprint
  deriving DecidableEq, Repr

/-- Where a command stands after issue. -/
inductive CmdPhase where
  /-- registering: vaults not yet acknowledged (R188) -/
  | registering (left : List QuadId)
  /-- travelling to its engine, or waiting in its queue -/
  | queued
  /-- taken by engine number `n` of its die -/
  | running (n : Nat)
  /-- stopped by a page fault, the fault waiting or delivered (R240), on engine `n` -/
  | stopped (n : Nat)
  /-- every access done; completes next (R186) -/
  | done
  deriving DecidableEq, Repr

/-- A write an engine has still to make (R187): `n` bytes of `v` at a virtual address, or one nibble of a byte; a mark
with it when the element is poisoned (R238). -/
structure EngWrite where
  va : Nat
  n : Nat
  v : Nat
  /-- FP4: the high nibble or the low one -/
  nibble : Option Bool
  poison : Bool
  /-- a nibble whose byte keeps its mark: its other nibble was written before it, or is not written (R372) -/
  keeps : Bool
  deriving DecidableEq, Repr

/-- A pending command: its phase and progress (R236, R239, R380). -/
structure Pending where
  cmd : Command
  phase : CmdPhase
  /-- element counter, round, marker number -/
  n : Nat
  round : Nat
  marks : Nat
  cond : Nat
  count : Nat
  code : Nat
  /-- an item error that sets ERR beside COUNT and CODE (R231) -/
  itemErr : Bool
  /-- SPARAMs arrived and not applied, in order: command id -/
  sparams : List Nat
  /-- shapes as SPARAM changed them: the block bytes in force -/
  bytes : List Byte
  /-- decoder: bitstream position, the FAULT stop; the bytes of the next frame read so far, none for a poisoned line -/
  pos : Nat
  halted : Bool
  got : List (Option Byte)
  /-- tokens sent and waiting for a circuit credit (R259): next markers to send -/
  pendingMarks : List (Nat × Nat)
  /-- the element's writes, markers included, in order -/
  writes : List EngWrite
  /-- a collective's contribution as read, none for a poisoned element (R258, R373) -/
  vals : List (Option Word)
  /-- pieces of lines read for the next elements and not used yet (R187): virtual address, bytes, value, poison -/
  lines : List (Nat × Nat × Nat × Bool)
  /-- stopped by the snuff marker (R380) -/
  cutOff : Bool
  /-- its place in the order of issue (R230) -/
  issued : Nat
  /-- order of issue, and from its arrival on the order at its engine or queue -/
  order : Nat
  /-- the clock at which its next access enters its arbitration point (R293) -/
  at' : Nat
  deriving DecidableEq, Repr

/-! ### Block instances -/

/-- A buffered effect (R33). -/
inductive Effect where
  | store (ea n : Nat) (v : Word)
  | atomic (op : Rmw) (ea n : Nat) (b : Word)
  | farStore (va n : Nat) (v : Word) (scope : Option Nat)
  | farReduce (op : Rmw) (va n : Nat) (b : Word)
  | fence (scope : Nat)
  | xmit (circ : Nat) (v : Word)
  | arrive (bar : Nat)
  | tsfree (space : Nat) (trig : Bool)
  | tagrel (tag : Nat)
  | spawn (tag block : Nat)
  | spawnr (tag block : Nat) (c1 : Word)
  | command (c : Command)
  | trace (id : Nat) (v : Word)
  deriving DecidableEq, Repr

/-- A buffered effect at its LSID, from its slot (R33). -/
structure Eff where
  lsid : Nat
  slot : Nat
  eff : Effect
  deriving DecidableEq, Repr

/-- The operation of a far exit (R213, R276). -/
inductive FarOp where
  | load (acq : Bool) (va n : Nat)
  | rmw (op : Rmw) (va n : Nat) (b x : Word)
  | join (tag : Nat)
  | barwait (bar : Nat)
  | barsync (bar : Nat)
  | wait (handle : Nat)
  | yield
  deriving DecidableEq, Repr

/-- A fired exit (R263, R350, R49). -/
inductive ExitOp where
  /-- kind: 0 branch, 1 call, 2 return (R356) -/
  | branch (t : Nat) (kind : Nat)
  | finish
  | far (op : FarOp) (opcode cont dst : Nat)
  | trap (code : Nat)
  deriving DecidableEq, Repr

structure Exit where
  id : Nat
  slot : Nat
  op : ExitOp
  deriving DecidableEq, Repr

/-- Operand tokens waiting in the matching store for a slot (R75), or of a slot's issue. -/
structure Operands where
  left : Option Tok
  right : Option Tok
  third : Option Tok
  deriving DecidableEq, Repr, Inhabited

/-- What has become of a slot in an instance (R75, R77). -/
inductive SlotStatus where
  | idle
  /-- matched, or started without operands: in the ready queue (R291) -/
  | ready
  /-- matched while its element's ready queue was full: in the matching store, marked ready (R291) -/
  | marked
  | fired
  /-- the predicate did not match; a bit per port that has absorbed its token -/
  | absorbed (l r x : Bool)
  deriving DecidableEq, Repr

/-- One slot of an instance: its operands, what became of it, the clock its first operand came (R357), whether its entry
of the matching store has spilled to the overflow area (R21), and the spilled operands its histogram row does not count yet. -/
structure SlotState where
  slot : Nat
  ops : Operands
  status : SlotStatus
  first : Option Nat
  spilled : Bool
  owed : Nat
  deriving DecidableEq, Repr

/-- A decoded header (R66). -/
structure Header where
  chk : Nat
  live : Nat
  write : Nat
  effect : Nat
  prof : Bool
  gather : Bool
  far : Bool
  exits : Nat
  size : Nat
  deriving DecidableEq, Repr, Inhabited

/-- A buffered SWR (R345). -/
structure Swr where
  slot : Nat
  reg : Nat
  val : Word
  deriving DecidableEq, Repr

/-- A circuit token waiting in an INLET FIFO (R222). -/
structure FifoTok where
  cx : CtxId
  quad : QuadId
  elem : Nat
  block : Nat
  slot : Nat
  tag : Nat
  circ : Nat
  val : Word
  /-- its entry found its set of the matching store full (R222) -/
  spilled : Bool
  deriving DecidableEq, Repr

/-- A started block instance: everything R33, R34, R77, R80 and R81 keep until commit. The quad's copies sampled at
start are %fpctl, %srseed and the three counters (R344). -/
structure Inst where
  id : Nat
  frame : Frame
  addr : Nat
  header : Header
  body : List Slot
  age : Nat
  startClk : Nat
  fpctl0 : Nat
  seed0 : Word
  mergedrop0 : Word
  capfence0 : Word
  replay0 : Word
  slots : List SlotState
  /-- carry writes: register, slot of the value kept, value (none: resolved by a null) -/
  wbuf : List (Nat × Nat × Option Word)
  effs : List Eff
  resolved : List Nat
  exits : List Exit
  flags : Nat
  drops : Nat
  swrs : List Swr
  /-- accepted FWCALL records, in firing order (R361) -/
  fwcalls : List (List Byte)
  /-- contexts a SNUFF names (R360) -/
  snuffs : List Nat
  /-- tag reservations used by slots that fired (R268) -/
  usedResv : List (Nat × Nat)
  /-- circuit tokens its INLETs took at start (R223) -/
  taken : List FifoTok
  /-- tokens on the element network, by identity -/
  flying : List Nat
  /-- the opcodes of the lanes fired, charged at step 4 or at abandonment (R335) -/
  fired : List Nat
  /-- held by a precise stop's fault: neither committed nor abandoned (R353) -/
  held : Bool
  deriving DecidableEq, Repr

/-- An operand token on an element network (R80), with the slot that produced it. -/
structure Flying where
  id : Nat
  inst : Nat
  from' : Nat
  slot : Nat
  port : Port
  tok : Tok
  deriving DecidableEq, Repr

/-- What a commit past step 2 waits for at step 3 or before its exit (R37, R181, R184, R188, R220, R282). -/
inductive CommitWait where
  | registration (cmd : Nat)
  | acks (scope : Nat)
  | credit (circ : Nat)
  | arrival (bar : Nat)
  deriving DecidableEq, Repr

/-- A commit past step 2: the remaining step-3 effects, and whether it is parked (R221). -/
structure CommitRec where
  inst : Inst
  todo : List Eff
  wait : CommitWait
  parked : Bool
  /-- pool space reserved at step 1 and not yet used: pool, offset, size (R37, R50, R221) -/
  space : List (Pool × Nat × Nat)
  /-- its park entry lies in a pool: the last of these spaces (R221) -/
  poolPark : Bool
  /-- the translations of step 1 (R212, R331): the slot of an effect or exit, the physical address -/
  pas : List (Nat × Nat)
  /-- .sys events capped in this commit (R180) -/
  capped : Nat
  order : Nat
  deriving DecidableEq, Repr

/-- One lane of an issue: an instance's slot with the operands it fires on (R292). -/
structure Lane where
  inst : Nat
  slot : Nat
  ops : Operands
  deriving DecidableEq, Repr

/-! ### The space table, barriers, circuits (chapter 12, R62) -/

/-- One of the 64 tag spaces of a context (R266). Held and reserved iterations are half-open intervals. -/
structure Space where
  num : Nat
  decl : Option Nat
  level : Nat
  k : Nat
  ordered : Bool
  gen : Nat
  allocated : Bool
  closed : Bool
  /-- reserved by a strand that has fired TSALLOC and not committed -/
  reserved : Bool
  held : List (Nat × Nat)
  resvIters : List Nat
  live : Nat
  /-- iterations to be freed when their last strand or command ends (R270) -/
  freeing : List Nat
  /-- ordered: the quad, and the iteration below which every one has retired (R56) -/
  quad : Option QuadId
  retiredBelow : Nat
  deriving DecidableEq, Repr

/-- The speculative buffer's content of one iteration (R57, R58, R59): buffered bytes newest first, read lines, the
iteration's first block, placement element and start frame, whether it has committed its END, its TRACE records. -/
structure SpecIter where
  cx : CtxId
  space : Nat
  iter : Nat
  quad : QuadId
  bytes : List (Nat × Byte)
  /-- buffered bytes that carry a poison mark (R372) -/
  bad : List Nat
  lines : List Nat
  block : Nat
  regs : List Word
  strand : Strand
  ended : Bool
  /-- TRACE records held back: id, slot, payload, block, element (R197, R356) -/
  traces : List (Nat × Nat × Word × Nat × Nat)
  deriving DecidableEq, Repr

/-- Which barrier (R280): the one of a quad, of a region, of a context, or of the launches joined by a pod key. -/
inductive BarrierAt where
  | quad (q : QuadId)
  | region (cx : CtxId) (ldie : Nat)
  | pkg (cx : CtxId)
  | pod (vf key : Nat) (cx : CtxId)
  deriving DecidableEq, Repr

/-- An arrival at a barrier, or a wait for one (R280, R283). -/
structure Arrival where
  engine : Bool
  err : Bool
  /-- the BARSYNC ember that arrived by it -/
  ember : Option Nat
  /-- the strand whose BARARR sent it: a release its FLDAs wait for (R181, R182) -/
  sid : Option Nat
  deriving DecidableEq, Repr

structure Barrier where
  site : BarrierAt
  num : Nat
  count : Nat
  scope : Nat
  members : Option (List Nat)
  phase : Nat
  arrivals : List Arrival
  /-- BARWAIT embers waiting for the next completion -/
  waiters : List Nat
  /-- completions K holds for a context that is cut (R380): ember, report -/
  keptDone : List (Nat × Word)
  deriving DecidableEq, Repr

/-! ### Messages -/

/-- An end of a message: a quad, a memory-port die, an engine of a memory-port die (0 to 7 its stream engines, 8 and 9 its
decoders, 10 its collective engine), K, another package. -/
inductive Node where
  | quad (q : QuadId)
  | mdie (m : Nat)
  | eng (m n : Nat)
  | k
  | pod (p : Nat)
  deriving DecidableEq, Repr

/-- What a write carries beside its bytes: nothing, a poison mark (R238), that it is one FP4 nibble, the high one or the
low one, which leaves the other as it stands (R102), or that it is the last packet of an engine's write which replaces all 64
bytes of its line with clean data (R372). -/
inductive WriteMark where
  | plain
  | poison
  | nibble (hi : Bool)
  | whole
  deriving DecidableEq, Repr

/-- A far access as it travels (R173, R214, R217): physical address (52 bits), what to do. -/
structure Access where
  cx : CtxId
  va : Nat
  pa : Nat
  n : Nat
  write : Bool
  /-- FLDA (R182) -/
  acq : Bool
  op : Option Rmw
  b : Word
  x : Word
  mark : WriteMark
  deriving DecidableEq, Repr

/-- A mesh-link end or border switch (R308): the quad a link leads into with the direction of travel (0 +x, 1 -x, 2 +y,
3 -y), direction 4, the border switch by which a quad's tokens leave its region, or 5, the one by which they enter. -/
structure LinkEnd where
  quad : QuadId
  dir : Nat
  deriving DecidableEq, Repr

/-- What a message says. -/
inductive MsgBody where
  /-- a far exit's access, for the ember -/
  | far (ember : Nat) (a : Access)
  /-- a posted effect, by its identity in `posted` -/
  | posted (a : Access)
  | ack (post : Nat)
  /-- the answer to an exit: its value, or for a poison reply the address and the access's DETAIL code -/
  | reply (ember : Nat) (v : Word) (poison : Option (Nat × Nat))
  /-- a frame that moves; `held`: its place in the target's frame area is taken already, by a relight (R296) -/
  | frame (f : Frame) (held : Bool)
  | token (circ : Nat) (tag : Nat) (v : Word) (border : Bool)
  | credit (cx : CtxId) (circ : Nat)
  | register (cmd : Nat) (q : QuadId)
  | arrive (site : BarrierAt) (bar : Nat) (a : Arrival)
  | barwait (site : BarrierAt) (bar : Nat) (ember : Nat)
  | join (ember : Nat) (tag : Nat)
  | wait (ember : Nat) (handle : Nat)
  | command (cmd : Nat)
  | decode (cmd : Nat)
  | lineOf (cmd : Nat)
  /-- an access of a unit whose bytes its own step has read or written, on its way to the stack's request port; a read's
  data goes back by the second (R17, R18, R293) -/
  | line (write : Bool)
  | lineBack
  | coll (cmd : Nat)
  /-- a request of another package on its way from the port it came in by to its home (R217, R293, R399) -/
  | served (b : PodBody)
  /-- a cumulative acknowledgement of a triple's packets from another package (R399) -/
  | podAck (cls upTo : Nat)
  /-- a rank's contribution to a function's collective group, from or to another package, with the fields that must be
  equal across the group, and its place among the packets of that contribution (R258, R398) -/
  | part (vf key rank : Nat) (fields : List Nat) (vals : List (Option Word)) (first total : Nat)
  /-- an item for the space table: net strands, tokens and ranges of a space, and a STOK token to send once counted -/
  | tableItem (cx : CtxId) (space : Nat) (gen : Nat) (d : Nat) (send : Option (Nat × Nat × Nat × Word))
  /-- the snuff marker on a channel (R378) -/
  | marker
  deriving DecidableEq, Repr

/-- A message in the networks. `hops` are the arbitration points it has still to pass, with the class it entered with
(R293); `at'` the clock it entered the next one. A channel is the pair of ends and the traffic class (R17). -/
structure Msg where
  id : Nat
  cx : CtxId
  src : Node
  dst : Node
  cls : Nat
  prio : Nat
  hops : List Point
  at' : Nat
  /-- the clock at which it left its die, by its first grant at a Rosord boundary (R17) -/
  left : Option Nat
  /-- the clock at which it came to stand in its next point's queue, where it has waited for room (R325) -/
  entered : Option Nat
  /-- passed back by a sealed page and held for reissue (R333), or by a full ready list (R295) -/
  refused : Bool
  /-- link contents put back by a restore: the quad that recorded them and the channel they lay on (R378, R384) -/
  via : Option (QuadId × Nat)
  body : MsgBody
  deriving DecidableEq, Repr

/-- A posted effect issued and not acknowledged (R178, R217). -/
structure Posted where
  id : Nat
  sid : Nat
  cx : CtxId
  quad : QuadId
  /-- a trace record (R356): orders nothing -/
  trace : Bool
  /-- an earlier FSTR the strand's FLDA waits for -/
  release : Bool
  va : Nat
  pa : Nat
  n : Nat
  deriving DecidableEq, Repr

/-! ### Quads (chapter 01, 15) -/

/-- A block mapped in an element (R68, R290). -/
structure Mapped where
  elem : Nat
  addr : Nat
  header : Header
  body : List Slot
  started : Nat
  deriving DecidableEq, Repr

/-- A scoreboard entry (R188, R230): reserved by a commit or a reservation, a pending command's, or a retained
report with its command's place in the order of issue. `seq` is its place in the vault's sequence (R191). -/
inductive Entry where
  | reserved (owner : Nat)
  | pending (cmd : Nat) (seq : Nat) (rd wr : Interval)
  | report (tag lsid : Nat) (r : Word) (issued : Nat)
  deriving DecidableEq, Repr

/-- A far access waiting in a vault's sequence (R192). -/
structure WaitFar where
  seq : Nat
  msg : Msg
  a : Access
  off : Nat
  deriving DecidableEq, Repr

/-- The matrix engine (R241): configuration word, tiles (cells not +0, by tile * 16384 + row * 128 + column), LIVE
marks and row poison marks (tile * 128 + row). -/
structure Me where
  config : Option Word
  acc : List (Nat × BitVec 32)
  live : List Nat
  marks : List Nat
  deriving DecidableEq, Repr, Inhabited

/-- A row of wait histograms (R357). -/
structure HistRow where
  block : Nat
  slot : Nat
  buckets : List Nat
  spilled : Nat
  deriving DecidableEq, Repr

/-- A unit asking a bank in this clock, and for how many clocks it has been refused (R22). `rank` is its place 1-7
in the fixed order. -/
structure BankReq where
  bank : Nat
  rank : Nat
  unit : Nat
  refused : Nat
  deriving DecidableEq, Repr

/-- A page translation held in a quad's TLB (R331). -/
structure TlbEntry where
  cx : CtxId
  va : Nat
  size : Nat
  pa : Nat
  w : Bool
  x : Bool
  dirty : Bool
  poisoned : Bool
  deriving DecidableEq, Repr

/-- What the snuff wave has done at a quad (R378). -/
inductive SnuffState where
  | none
  | marked
  | saved
  deriving DecidableEq, Repr, Inhabited

/-- A quad held by a region, or being zeroed (R319); every other enabled quad is unreserved and zero (R320). -/
structure Quad where
  id : QuadId
  cx : CtxId
  ldie : Nat
  x : Nat
  y : Nat
  zeroing : Bool
  fpctl : Nat
  srseed : Word
  mergedrop : Word
  capfence : Word
  replay : Word
  /-- %width of each element: WSUM, ISSUES -/
  width : List (Nat × Nat)
  /-- age counter of each element (R291) -/
  ages : List Nat
  mapped : List Mapped
  /-- core counters 0x000-0x015 (R348) -/
  counters : List Nat
  /-- embers deposited by (HOME, SOURCE) (R51 SEQ) -/
  seqs : List ((Nat × Nat) × Nat)
  ready : List Nat
  cleared : List Nat
  frameWait : List Nat
  entries : List Entry
  /-- 0x82 entry requests, oldest first: strand, entries still asked for (R303) -/
  entryReqs : List (Nat × Nat)
  vseq : Nat
  waitFar : List WaitFar
  banks : List BankReq
  tlb : List TlbEntry
  me : Me
  window : List Byte
  /-- the window unit's delay line: the input elements of the rows its last output took, by dimension index (R249) -/
  delay : List (Nat × Nat × Nat × Nat)
  hist : List HistRow
  lostMatch : Nat
  /-- trace area: written, dropped; replay log: written, FIRSTLOST, relights (R356, R358) -/
  traced : Nat
  dropped : Nat
  logged : Nat
  firstLost : Option Nat
  relights : Nat
  snuff : SnuffState
  /-- incoming channels a marker has closed, and link contents in arrival order per channel -/
  closed : List Nat
  link : List (Nat × Msg)
  deriving DecidableEq, Repr

/-! ### Contexts -/

/-- The run state of a context (R287, R323, R353, R377). -/
inductive Run where
  | created
  | loaded
  | running
  | stopped
  /-- a violation found, the stop of R323 to come -/
  | freezing
  | frozen
  | cutting (keep : Bool) (destroy : Bool)
  | saved
  deriving DecidableEq, Repr

/-- A fault on its way to delivery (R367, R368): the record's fields and the strand's ember or frame. -/
structure FaultRec where
  code : FaultCode
  kind : Nat
  slotNo : Option Nat
  detail : Nat
  tag : Nat
  block : Nat
  addr : Nat
  handle : Nat
  unitNo : Nat
  unit : Nat
  elem : Nat
  qindex : Nat
  ldie : Nat
  data : Word
  /-- kind 0: the ember (in `embers`) or the frame's strand -/
  ember : Option Nat
  sid : Option Nat
  /-- kind 1: the command it stopped or ended (R240, R370) -/
  cmd : Option Nat
  /-- the LSID of the slot that fired it, an INLET's N, or the command's (R205, R224): the record of R367 has no bits for it
  (notes/assumptions 90) -/
  lsid : Option Nat
  deriving DecidableEq, Repr

/-- An open slot of the fault ring (R366, R370). -/
structure RingSlot where
  slot : Nat
  rec' : FaultRec
  ember : Option Ember
  /-- the handler strand, once its seed is written -/
  sid : Option Nat
  deriving DecidableEq, Repr

/-- A region of a loaded context on the part (R31, R61, R287). -/
structure Region where
  ldie : Nat
  die : Nat
  ox : Nat
  oy : Nat
  deriving DecidableEq, Repr

/-- The launch parameters (R393). -/
structure LaunchParams where
  seed : Word
  budget : Nat
  cls : Nat
  refill : Bool
  bkpts : Bool
  logMode : Nat
  stopMask : Nat
  handler : Nat
  traceBase : Nat
  traceSize : Nat
  traceMask : Nat
  profile : Nat
  logBase : Nat
  logRead : Nat
  podKey : Nat
  deriving DecidableEq, Repr, Inhabited

structure Context where
  id : CtxId
  aperture : Nat
  ring : Nat
  poolBase : Nat
  poolSize : Nat
  /-- ember records in the HBM pool: base, length -/
  poolUsed : List (Nat × Nat)
  imageArea : Nat
  imageMiB : Nat
  root : Nat
  image : Option Image
  imageBytes : List Byte
  codeBase : Nat
  run : Run
  params : LaunchParams
  regions : List Region
  spaces : List Space
  poolQueue : List (Nat × Nat)
  iterQueue : List (Nat × Nat)
  credits : List Nat
  /-- %energy in 2^-16 nJ, %budget in nJ; the copies delivered to the quads (R344) -/
  energy : Nat
  budget : Nat
  energySeen : Nat
  budgetSeen : Nat
  cls : Nat
  clsSeen : Nat
  faultReg : Word
  faultSeen : Word
  faults : List FaultRec
  ringSlots : List RingSlot
  lost : Nat
  delivered : Nat
  /-- EMBER_OVERFLOW records unanswered (R371) -/
  overflow : Nat
  damaged : Bool
  /-- in a precise stop or cut from one (R353): STOPPED of its image -/
  atStop : Bool
  /-- the faults that stopped the context precisely: after a restore each spawns its handler (R353, R362) -/
  stopMsk : List FaultRec
  cutClk : Nat
  /-- destination of the image being cut: command to answer, address -/
  cutCmd : Option Nat
  cutDest : Nat
  /-- the log being replayed: per quad the (tag, SEQ) relights still to come (R359) -/
  replaying : List (QuadId × List (Nat × Nat))
  deriving DecidableEq, Repr

/-! ### K and the host (chapters 15, 18) -/

/-- One function's command window (R387). -/
structure Window where
  sqBase : Nat
  sqTail : Nat
  sqHead : Nat
  eqBase : Nat
  eqHead : Nat
  eqTail : Nat
  eqLost : Nat
  frozen : Bool
  /-- events of the window since device reset (R394) -/
  seq : Nat
  deriving DecidableEq, Repr, Inhabited

/-- A function's policy and candle (R316, R317, R325, R339). -/
structure Function where
  sysScope : Bool
  priv : Bool
  dieTable : Nat
  limits : List Nat
  quota : Option Nat
  period : Nat
  nextPeriod : Option (Option Nat × Nat)
  /-- a SET_CANDLE has set its periods -/
  candled : Bool
  /-- E in 2^-16 nJ, and the millisecond the period began -/
  spent : Nat
  started : Nat
  cut : Bool
  deriving DecidableEq, Repr

/-- A TLB beside the quads' own (R24, R331): a die's second level, or a stream engine's. -/
inductive TlbAt where
  | die (n : Nat)
  | stream (m n : Nat)
  deriving DecidableEq, Repr

/-- The stage of an Endom command between its steps. -/
inductive KPhase where
  | ready
  /-- a move: its pages (place, size) sealed, or copied (old place, new place, size) with requests to be reissued (R333) -/
  | sealed' (ranges : List (Nat × Nat))
  | copied (moved : List (Nat × Nat × Nat))
  /-- an UNMAP: the physical ranges whose accesses are to end (R332) -/
  | unmapping (ranges : List (Nat × Nat))
  /-- every effect performed but K's writes to another package, whose acknowledgements come before the status: the status
  and the result words (R389) -/
  | settling (status : Nat) (result : List Nat)
  /-- a cut or destroy under way, and then the zeroing of what it released -/
  | cutting
  /-- QUERY_QUIESCENT between its two reads (R308): whether every count of the first was zero and every link's sent and
  received equal, and the counters of its links -/
  | round (zero : Bool) (counts : List (LinkEnd × Nat × Nat))
  deriving DecidableEq, Repr

/-- An Endom command read and not finished (R388, R389): the record's words and where it came from. -/
structure KCmd where
  id : Nat
  vf : Nat
  /-- from FWCALL: the context, the calling block, strand tag and quad -/
  from' : Option (CtxId × Nat × Nat × QuadId × Nat)
  words : List Nat
  phase : KPhase
  dispatched : Bool
  deriving DecidableEq, Repr

/-- Who pays a charge (R334). -/
inductive Payer where
  | ctx (cx : CtxId)
  | vf (n : Nat)
  deriving DecidableEq, Repr

/-- A lantern (R334). -/
inductive Lantern where
  | quad (q : QuadId)
  | stack (s : Nat)
  | boundary (a b : Nat)
  | ether (p : Nat)
  | stream (m n : Nat)
  | me (q : QuadId)
  | decoder (d : Nat)
  | coll (m : Nat)
  | kdie
  deriving DecidableEq, Repr

/-- The reference slots of the DECODE command `num`, by slot: the planes it holds, and whether it is corrupt (R255,
R380). They begin unfilled with each command (notes/assumptions 21). -/
structure Decoder where
  num : Nat
  slots : List (Nat × List (List Nat) × Bool)
  deriving DecidableEq, Repr

/-- A frame on the wire to another package (R398, R399): the packet's number, the EtherType and Ethernet address the frame
carries, the content, the clock of sending and the port. -/
structure PodFrame where
  number : Nat
  etherType : Nat
  addr : Nat
  body : PodBody
  at' : Nat
  port : Nat
  deriving DecidableEq, Repr

/-- One direction of the pod transport for a triple (R399). -/
structure PodFlow where
  peer : Nat
  cls : Nat
  nextSend : Nat
  nextRecv : Nat
  /-- frames sent and not acknowledged -/
  unacked : List PodFrame
  /-- packets received out of order -/
  early : List (Nat × PodBody)
  lost : Bool
  /-- the clock since which nothing has come from the peer while packets to it wait for their acknowledgement -/
  silent : Option Nat
  deriving DecidableEq, Repr

/-- A saved image the model keeps by its bytes' place and serial number, so that a restore finds what R383 leaves
without a layout. -/
structure SavedImage where
  serial : Nat
  bytes : List Byte
  cxt : Context
  quads : List Quad
  insts : List Inst
  commits : List CommitRec
  frames : List Frame
  embers : List Ember
  fifo : List FifoTok
  cmds : List Pending
  barriers : List Barrier
  msgs : List Msg
  specs : List SpecIter
  retiring : List (Nat × CtxId × Nat)
  posted : List Posted
  decoders : List Decoder
  vaults : List (QuadId × List Host.Cell × List Nat)
  stopped : Bool
  damaged : Bool
  deriving DecidableEq, Repr

end Sys2Proof.Machine

namespace Sys2Proof

/-- What the bytes of an image this device has not saved stand for, none when they are no image: R383 gives most of their
sections no layout (notes/assumptions 58). -/
opaque Config.parseImage : List Byte → Option Machine.SavedImage

end Sys2Proof

namespace Sys2Proof.Machine

/-- Faults of the model. The spec names no state in which the machine as a whole does not go on, so there is none: every
fault of R364 is taken as a next state. -/
inductive Fault where
  deriving DecidableEq, Repr

/-- Refusals of the model: the term given to `exec` is no step of the machine in this state. -/
inductive Refusal where
  /-- an arm of exec without a meaning. Safe. -/
  | notModelled (mnemonic : String)
  /-- an instruction form given to exec while no lane is being issued, or whose lane has not the operand the entry
  names: the machine never fires it so (R32). Safe. -/
  | notFiring
  /-- a device step whose condition does not hold in this state, by the step's name: it does not occur. Safe. -/
  | notEnabled (name : String)
  /-- the bytes fetched for the lane hold no instruction: the loader maps no such block (R68). Safe. -/
  | notAnInstruction
  deriving DecidableEq, Repr

/-- The whole machine. -/
structure State where
  /-- %clk (R343); fclk in units of 0.1 MHz (R400) -/
  clk : Nat
  fclk : Nat
  powerOff : Bool
  ready : Bool
  halfRate : Bool
  hdmBase : Nat
  pkgNo : Nat
  podSize : Nat
  podAddrs : List Nat
  sustained : Nat
  peak : Nat
  /-- one measured package power a millisecond, newest first, mW (R400) -/
  powerLog : List Nat
  /-- the current millisecond: its number, the clock it began, the dies whose factor is set, the power check done, fclk
  lowered, a die above 95 °C; each die's charges in it, 2^-16 nJ -/
  msNo : Nat
  msAt : Nat
  msFactors : List Nat
  msPower : Bool
  msLowered : Bool
  msHot : Bool
  dieCharged : List Nat
  /-- bytes each context had mapped on each stack when the millisecond began (R340) -/
  msMapped : List (Nat × CtxId × Nat)
  enabled : List Nat
  /-- quads MARK_BAD_NODES has recorded, and those that count as disabled since a load or restore (R375) -/
  marked : List QuadId
  badQuads : List QuadId
  badNode : List Nat
  /-- dies whose bad-node register holds a failure MARK_BAD_NODES has not recorded (R375) -/
  badHeld : List Nat
  corrected : List Nat
  configRec : List Byte
  calibRec : List Byte
  nextCalib : Option (List Byte)
  factors : List Nat
  counting : Nat
  shared : List Nat
  /-- package memory (R19): HBM at 0, the vaults at 2^40 -/
  mem : List Host.Cell
  /-- poison marks: vault bytes, and the first bytes of HBM lines (R372) -/
  poison : List Nat
  /-- vault bytes whose line holds a single-bit error not yet met, and HBM lines whose stored check fails in the stack
  cache (R372, R25) -/
  weak : List Nat
  badLines : List Nat
  /-- vault words with an uncorrectable error not yet met (R372): their first bytes -/
  broken : List Nat
  /-- lines the stack caches hold, most recently used first, each with its write-back mark (R25) -/
  cached : List (Nat × Bool)
  hostMem : List Host.Cell
  hostPoison : List Nat
  /-- owner of 64 KiB frames: frame number with its package, function; unlisted: the physical function (R324) -/
  owners : List (Nat × Nat)
  hostMapped : List Nat
  /-- the data and poison indication of the last CXL.mem read answered -/
  cxlReply : Option (List Byte × Bool)
  seals : List (Nat × Nat)
  tableNext : Nat
  quads : List Quad
  /-- second-level and stream-engine TLBs, counters of mesh links and border switches: sent, received (R308, R331) -/
  tlbs : List (TlbAt × List TlbEntry)
  links : List (LinkEnd × Nat × Nat)
  insts : List Inst
  commits : List CommitRec
  frames : List Frame
  embers : List Ember
  retiring : List (Nat × CtxId × Nat)
  flying : List Flying
  msgs : List Msg
  posted : List Posted
  fifo : List FifoTok
  specs : List SpecIter
  cmds : List Pending
  barriers : List Barrier
  contexts : List Context
  decoders : List Decoder
  windows : List Window
  functions : List Function
  kcmds : List KCmd
  grants : List (Point × Nat)
  lanterns : List (Lantern × Payer × Nat)
  saved : List SavedImage
  flows : List PodFlow
  ports : List (Nat × Bool)
  lostPkgs : List Nat
  /-- the pod frame a port has sent last (R398) -/
  sentFrame : Option PodFrame
  /-- the lanes of the issue being performed; the device steps to come (inputs and choices of order); the model's
  counters of identities, orders and free values -/
  lanes : List Lane
  agenda : List Instr
  nextId : Nat
  fresh : Nat
  deriving DecidableEq, Repr

/-- A function's policy for a new function (R316); the physical function has .sys, PRIV and no quota. -/
def Function.initial (n : Nat) : Function :=
  { sysScope := n == 0, priv := n == 0, dieTable := 0, limits := [16, 8, 16, 64, 32], quota := none,
    period := 1000, nextPeriod := none, candled := false, spent := 0, started := 0, cut := false }

def Window.initial : Window :=
  { sqBase := 0, sqTail := 0, sqHead := 0, eqBase := 0, eqHead := 0, eqTail := 0, eqLost := 0, frozen := false,
    seq := 0 }

/-- The machine right after device reset (R395 step 3): no configuration record yet, so no quad is enabled and READY
is 0. Values the spec does not state: notes/assumptions 1, 2, 6 and 7. -/
def State.reset : State :=
  { clk := 0, fclk := 18000, powerOff := false, ready := false, halfRate := false, hdmBase := 0, pkgNo := 0,
    podSize := 1, podAddrs := [], sustained := 3200000, peak := 3600000, powerLog := [], msNo := 0, msAt := 0, msFactors := [], msPower := false,
    msLowered := false, msHot := false, dieCharged := List.replicate 17 0, msMapped := [],
    enabled := List.replicate 8 0, marked := [], badQuads := [], badNode := List.replicate 8 0, badHeld := [], corrected := List.replicate 8 0,
    configRec := [], calibRec := [], nextCalib := none, factors := List.replicate 17 4096, counting := 0,
    shared := List.replicate 8 0, mem := [], poison := [], weak := [], badLines := [], broken := [], cached := [], hostMem := [], hostPoison := [], owners := [],
    hostMapped := [], cxlReply := none, seals := [], tableNext := 0xFF0000000, quads := [], tlbs := [], links := [], insts := [],
    commits := [], frames := [], embers := [], retiring := [], flying := [], msgs := [], posted := [], fifo := [],
    specs := [], cmds := [], barriers := [], contexts := [], decoders := [],
    windows := List.replicate 64 Window.initial, functions := (List.range 64).map Function.initial, kcmds := [],
    grants := [], lanterns := [], saved := [], flows := [], ports := (List.range 16).map (fun p => (p, true)),
    lostPkgs := [], sentFrame := none, lanes := [], agenda := [], nextId := 0, fresh := 0 }

end Sys2Proof.Machine
end

