-- ==== Sys2Proof/Machine/Ops.lean ====
section
/-!
DEFINITION. The named operations: lists, memory, poison, looking things up and changing one, addresses and
translation, routes and messages, tokens, embers and pools, refusals, taking a fault (R365, R353), events.
-/

namespace Sys2Proof.Machine

/-! ### Lists -/

/-- Every element `p` holds of, changed by `f`. -/
def modWhere {α : Type} (p : α → Bool) (f : α → α) (xs : List α) : List α := xs.map fun x => if p x then f x else x

/-- The element at a place, changed by `f`. -/
def modAt {α : Type} (i : Nat) (f : α → α) (xs : List α) : List α := xs.modify i f

/-- The value of a key in a list of pairs, or a default. -/
def valueOf {α β : Type} [DecidableEq α] (k : α) (d : β) : List (α × β) → β
  | [] => d
  | (a, b) :: r => if a = k then b else valueOf k d r

/-- A key's value set: replaced, or added at the end. -/
def setValue {α β : Type} [DecidableEq α] (k : α) (v : β) : List (α × β) → List (α × β)
  | [] => [(k, v)]
  | (a, b) :: r => if a = k then (a, v) :: r else (a, b) :: setValue k v r

/-- An element put before the first one it does not come after. -/
def insertBy {α : Type} (le : α → α → Bool) (x : α) : List α → List α
  | [] => [x]
  | y :: r => if le x y then x :: y :: r else y :: insertBy le x r

/-- A list in the order of `le`. -/
def sortBy {α : Type} (le : α → α → Bool) : List α → List α
  | [] => []
  | x :: r => insertBy le x (sortBy le r)

/-- Half-open ranges of lengths `n` and `m` overlap; an empty one overlaps nothing (R189). -/
def overlaps (a n b m : Nat) : Bool := n != 0 && m != 0 && a < b + m && b < a + n

/-- The bytes [a, a + n) overlap an interval. -/
def Interval.hits (i : Interval) (a n : Nat) : Bool := overlaps a n i.lo (i.hi - i.lo)

/-- Two intervals overlap. -/
def Interval.meets (i j : Interval) : Bool := overlaps i.lo (i.hi - i.lo) j.lo (j.hi - j.lo)

def Interval.empty : Interval := ⟨0, 0⟩

/-- The smallest interval over both; an empty one adds nothing. -/
def Interval.join (i j : Interval) : Interval :=
  if i.hi ≤ i.lo then j else if j.hi ≤ j.lo then i else ⟨min i.lo j.lo, max i.hi j.hi⟩

/-- A counter in a list, raised by `n` modulo 2^64. -/
def bump (i n : Nat) (xs : List Nat) : List Nat := modAt i (fun x => (x + n) % 2 ^ 64) xs

/-! ### Memory (R7, R174, R372) -/

/-- A byte of memory; an unlisted address reads as zero (notes/assumptions 1). -/
def memGet (a : Nat) : List Host.Cell → Byte
  | [] => 0
  | (k, b) :: r => if k = a then b else if a < k then 0 else memGet a r

/-- A byte written; the list stays strictly rising and lists no zero. -/
def memSet (a : Nat) (v : Byte) : List Host.Cell → List Host.Cell
  | [] => if v = 0 then [] else [(a, v)]
  | (k, b) :: r =>
    if k = a then (if v = 0 then r else (a, v) :: r)
    else if a < k then (if v = 0 then (k, b) :: r else (a, v) :: (k, b) :: r)
    else (k, b) :: memSet a v r

/-- The canonical form of memory: every address above `lo`, strictly rising, no zero listed. -/
def memWfFrom (lo : Nat) : List Host.Cell → Bool
  | [] => true
  | (k, b) :: r => lo ≤ k && b != 0 && memWfFrom (k + 1) r

def Memory.wf (m : List Host.Cell) : Bool := memWfFrom 0 m

/-- `n` bytes from `a`. -/
def memBytes (m : List Host.Cell) (a n : Nat) : List Byte := (List.range n).map fun i => memGet (a + i) m

/-- Bytes written from `a` on. -/
def memPut (a : Nat) : List Byte → List Host.Cell → List Host.Cell
  | [], m => m
  | b :: r, m => memPut (a + 1) r (memSet a b m)

/-- Little-endian bytes as a number (R7). -/
def leNat : List Byte → Nat
  | [] => 0
  | b :: r => b.toNat + 256 * leNat r

/-- The low `n` bytes of a number, little-endian. -/
def leBytes : Nat → Nat → List Byte
  | 0, _ => []
  | n + 1, v => BitVec.ofNat 8 v :: leBytes n (v / 256)

def memNat (m : List Host.Cell) (a n : Nat) : Nat := leNat (memBytes m a n)

/-- Memory emptied in [a, a + n): every byte there reads zero. -/
def memZero (a n : Nat) (m : List Host.Cell) : List Host.Cell := m.filter fun c => c.1 < a || a + n ≤ c.1

/-- The poison mark that covers a byte: its own in a vault, its 64-byte line's in HBM (R372). -/
def poisonKey (a : Nat) : Nat := if a < 2 ^ 40 then a / 64 * 64 else a

def State.poisoned (s : State) (a n : Nat) : Bool := (List.range n).any fun i => s.poison.contains (poisonKey (a + i))

/-- A sorted insertion without repeats. -/
def sortedInsert (a : Nat) : List Nat → List Nat
  | [] => [a]
  | k :: r => if a < k then a :: k :: r else if a = k then k :: r else k :: sortedInsert a r

def State.markPoison (s : State) (a n : Nat) : State :=
  { s with poison := (List.range n).foldl (fun p i => sortedInsert (poisonKey (a + i)) p) s.poison }

/-- Marks cleared by a write of clean bytes: a vault byte's always, an HBM line's only by a write of all 64 (R372). -/
def State.clearPoison (s : State) (a n : Nat) : State :=
  { s with poison := s.poison.filter fun k =>
      if k < 2 ^ 40 then !(a ≤ k && k + 64 ≤ a + n) else !(a ≤ k && k < a + n) }

/-- Clean bytes written to package memory. -/
def State.write (s : State) (a : Nat) (bs : List Byte) : State :=
  { s.clearPoison a bs.length with mem := memPut a bs s.mem }

def State.readNat (s : State) (a n : Nat) : Nat := memNat s.mem a n

/-- The package offset of a vault's first byte (R19). -/
def vaultBase (q : QuadId) : Nat := 2 ^ 40 + q.die * 2 ^ 30 + q.idx * 2 ^ 23

/-! ### Lookups -/

def State.quad? (s : State) (q : QuadId) : Option Quad := s.quads.find? (·.id = q)
def State.modQuad (s : State) (q : QuadId) (f : Quad → Quad) : State :=
  { s with quads := modWhere (fun x => x.id = q) f s.quads }
def State.ctx? (s : State) (c : CtxId) : Option Context := s.contexts.find? (·.id = c)
def State.modCtx (s : State) (c : CtxId) (f : Context → Context) : State :=
  { s with contexts := modWhere (fun x => x.id = c) f s.contexts }
def State.inst? (s : State) (n : Nat) : Option Inst := s.insts.find? (·.id = n)
def State.modInst (s : State) (n : Nat) (f : Inst → Inst) : State :=
  { s with insts := modWhere (fun x => x.id = n) f s.insts }
/-- An instance ended: its operands, tokens in flight and lanes are freed without effect (R35). -/
def State.dropInst (s : State) (n : Nat) : State :=
  { s with insts := s.insts.filter (fun x => x.id ≠ n), flying := s.flying.filter (fun x => x.inst ≠ n),
           lanes := s.lanes.filter (fun x => x.inst ≠ n) }
def State.ember? (s : State) (n : Nat) : Option Ember := s.embers.find? (·.id = n)
def State.modEmber (s : State) (n : Nat) (f : Ember → Ember) : State :=
  { s with embers := modWhere (fun x => x.id = n) f s.embers }
def State.cmd? (s : State) (n : Nat) : Option Pending := s.cmds.find? (·.cmd.id = n)
def State.modCmd (s : State) (n : Nat) (f : Pending → Pending) : State :=
  { s with cmds := modWhere (fun x => x.cmd.id = n) f s.cmds }
def State.msg? (s : State) (n : Nat) : Option Msg := s.msgs.find? (·.id = n)
def State.dropMsg (s : State) (n : Nat) : State := { s with msgs := s.msgs.filter (fun m => m.id ≠ n) }
def State.func (s : State) (n : Nat) : Function := (s.functions[n]?).getD (Function.initial n)
def State.modFunc (s : State) (n : Nat) (f : Function → Function) : State :=
  { s with functions := modAt n f s.functions }
def State.space? (s : State) (c : CtxId) (n : Nat) : Option Space :=
  (s.ctx? c).bind fun x => x.spaces.find? (·.num = n)
def State.modSpace (s : State) (c : CtxId) (n : Nat) (f : Space → Space) : State :=
  s.modCtx c fun x => { x with spaces := modWhere (fun p => p.num = n) f x.spaces }

/-- A fresh identity. -/
def State.newId (s : State) : Nat × State := (s.nextId, { s with nextId := s.nextId + 1 })

/-- The clock after one device step (notes/assumptions 2). -/
def State.tick (s : State) : State := { s with clk := s.clk + 1 }

/-- A core counter of a quad, counted (R348). -/
def State.count (s : State) (q : QuadId) (i n : Nat) : State :=
  s.modQuad q fun x => { x with counters := bump i n x.counters }

/-- A shared counter, counted for requests of the selected function (R348). Index 0 is 0x020. -/
def State.countShared (s : State) (vf i n : Nat) : State :=
  if vf = s.counting then { s with shared := bump i n s.shared } else s

/-! ### Tags (R46) -/

def tagLdie (t : Nat) : Nat := bitsOf t 39 36
def tagCtx (t : Nat) : Nat := bitsOf t 35 26
def tagSpace (t : Nat) : Nat := bitsOf t 25 20
def tagGen (t : Nat) : Nat := bitsOf t 19 16
def tagIter (t : Nat) : Nat := bitsOf t 15 0
def mkTag (ldie ctx space gen iter : Nat) : Nat :=
  ldie % 16 * 2 ^ 36 + ctx % 1024 * 2 ^ 26 + space % 64 * 2 ^ 20 + gen % 16 * 2 ^ 16 + iter % 65536

/-- The space is allocated, or reserved by a TSALLOC of the strand: for the checks of the strand that reserved it the
space counts as allocated, as the fork program of chapter 12 needs (R268; notes/assumptions 22). -/
def Space.openTo (p : Space) (st : Strand) : Bool :=
  p.allocated || (p.reserved && st.tagResv.any fun r => r.fresh && tagSpace r.tag == p.num)

/-! ### Regions and areas (R53, R60, R203, R326) -/

def Context.decl? (c : Context) (ldie : Nat) : Option RegionDecl := c.image.bind fun i => i.regions[ldie]?
def Context.region? (c : Context) (ldie : Nat) : Option Region := c.regions.find? (·.ldie = ldie)

/-- The quad at relative coordinates of a region. -/
def Region.quadAt (r : Region) (x y : Nat) : QuadId := ⟨r.die, (r.oy + y) * 10 + (r.ox + x)⟩

/-- The quad of a region quad index (R53). -/
def Context.quadOf? (c : Context) (ldie index : Nat) : Option QuadId :=
  match c.decl? ldie, c.region? ldie with
  | some d, some r => if index < d.w * d.h then some (r.quadAt (index % d.w) (index / d.w)) else none
  | _, _ => none

/-- A held quad's region quad index (R53). -/
def Context.indexOf (c : Context) (q : Quad) : Nat := q.y * ((c.decl? q.ldie).map (·.w)).getD 0 + q.x

/-- The image's circuits of a context. -/
def Context.circuits (c : Context) : List Circuit := (c.image.map (·.circuits)).getD []

def Context.declaresOrdered (c : Context) (ldie : Nat) : Bool :=
  ((c.image.map (·.tagspaces)).getD []).any (·.ordered = some ldie)

/-- T, the size of the tile store (R203). -/
def Context.tileTop (c : Context) (ldie : Nat) : Nat :=
  match c.decl? ldie with
  | some d => (6144 - d.framesKiB - d.overflowKiB - d.embersKiB - (if c.declaresOrdered ldie then 256 else 0)) * 1024
  | none => 0

/-- The tile store's size of a held quad. -/
def State.tileTop (s : State) (q : Quad) : Nat := ((s.ctx? q.cx).map (·.tileTop q.ldie)).getD 0

/-- The first byte of the vault ember pool (R203). -/
def Context.emberBase (c : Context) (ldie : Nat) : Nat :=
  c.tileTop ldie + (if c.declaresOrdered ldie then 256 * 1024 else 0)

/-- The placement index R60 chooses among `n`. -/
def placementIndex (iter n : Nat) : Nat := iter * 0x9E37 % 2 ^ 16 * n / 2 ^ 16

/-- The placements of a block address in a region's placement map; [] when none starts there (R264). -/
def Context.places (c : Context) (ldie addr : Nat) : List Placement :=
  match c.decl? ldie with
  | some d => ((d.places.find? (fun p => c.codeBase + p.off = addr)).map (·.at')).getD []
  | none => []

/-- The quad and element a block instance goes to (R60). -/
def Context.placeOf? (c : Context) (ldie addr tag : Nat) : Option (QuadId × Nat) :=
  let ps := c.places ldie addr
  match ps[placementIndex (tagIter tag) ps.length]?, c.region? ldie with
  | some p, some r => some (r.quadAt p.x p.y, p.elem)
  | _, _ => none

/-! ### Translation (R212, R326-R329) -/

/-- What an access does, for checks and DETAIL (R367): read, write, atomic, fetch; or a write of an ember's record by the
machine itself into the pool that it maps read-only to the context (R51). -/
inductive Kind where
  | read | write | atomic | fetch | record
  deriving DecidableEq, Repr

def Kind.detail : Kind → Nat
  | .read => 0 | .write => 1 | .atomic => 2 | .fetch => 3 | .record => 1

def Kind.writes : Kind → Bool
  | .write | .atomic | .record => true
  | _ => false

/-- A write of the context's own, which needs W and may not go to the ember pool (R51, R212). -/
def Kind.ofContext : Kind → Bool
  | .write | .atomic => true
  | _ => false

/-- A translation's outcome: a physical address, a fault with its DETAIL, or a violation of R322. -/
inductive Xlate where
  | ok (pa : Nat)
  | fault (code : FaultCode) (detail : Nat)
  | breach (pa : Nat)
  deriving DecidableEq, Repr

/-- R19: the physical address is in a window that exists. -/
def physOk (pa : Nat) : Bool :=
  match bitsOf pa 45 40 with
  | 0 => true
  | 1 => bitsOf pa 39 33 == 0 && bitsOf pa 29 23 < 100 && bitsOf pa 22 0 < 6 * 2 ^ 20
  | _ => false

/-- The owner of a 64 KiB HBM frame, its number holding the package (R324). -/
def State.ownerOf (s : State) (frame : Nat) : Nat := valueOf frame 0 s.owners

/-- Every 64 KiB frame of a page is granted to the function; the physical function has every frame (R316, R324). -/
def State.granted (s : State) (vf pa size : Nat) : Bool :=
  vf == 0 || s.owners.countP (fun o => pa / 65536 ≤ o.1 && o.1 < (pa + size) / 65536 && o.2 == vf) == size / 65536

/-- The five levels of R327: level, low bit of the index, bits of the index. -/
def walkLevels : List (Nat × Nat × Nat) := [(1, 46, 11), (2, 36, 10), (3, 29, 7), (4, 21, 8), (5, 16, 5)]

/-- A leaf found by a walk. -/
structure Leaf where
  entryPa : Nat
  entry : Nat
  size : Nat
  deriving DecidableEq, Repr

/-- The walk of R329 from a table down the levels left: the leaf, or the fault. -/
def walkFrom (s : State) (va : Nat) : List (Nat × Nat × Nat) → Nat → Except (FaultCode × Bool) Leaf
  | [], _ => .error (.pageFault, false)
  | (level, lo, n) :: rest, table =>
    let ea := (table + va / 2 ^ lo % 2 ^ n * 8) % 2 ^ 46
    let e := s.readNat ea 8
    if s.poisoned ea 8 then .error (.poison, true)
    else if !bitOf e 0 || bitsOf e 63 52 != 0 || bitsOf e 11 8 != 0 then .error (.pageFault, false)
    else if bitOf e 1 then
      if level = 1 || (bitsOf e 51 12 * 4096) % 2 ^ lo ≠ 0 then .error (.pageFault, false)
      else .ok ⟨ea, e, 2 ^ lo⟩
    else if level = 5 || bitsOf e 7 2 != 0 then .error (.pageFault, false)
    else walkFrom s va rest (bitsOf e 51 12 * 4096)

/-- A and D set by a translation (R328). -/
def setAD (w : Bool) (l : Leaf) (s : State) : State :=
  { s with mem := memPut l.entryPa (leBytes 8 ((l.entry ||| 0x10) ||| (if w then 0x20 else 0))) s.mem }

/-- R329 for a page-table address: the state with A and D set, and the outcome. R19's check follows. -/
def walkVa (s : State) (c : Context) (va : Nat) (k : Kind) : State × Xlate :=
  match walkFrom s va walkLevels c.root with
  | .error (code, walk) => (s, .fault code (if walk then 4 else k.detail))
  | .ok l =>
    let frame := bitsOf l.entry 51 12 * 4096
    if !s.granted c.id.vf frame l.size then (s, .breach (frame + va % l.size))
    else if bitOf l.entry 7 then (s, .fault .poison k.detail)
    else if (k.ofContext && !bitOf l.entry 2) || (k = .fetch && (!bitOf l.entry 3 || bitOf l.entry 2)) then
      (s, .fault .permission k.detail)
    else
      let s' := setAD k.writes l s
      if physOk (frame + va % l.size) then (s', .ok (frame + va % l.size)) else (s', .fault .permission k.detail)

/-- The quad an aperture address names, with the byte in its vault (R326). -/
def Context.aperture? (c : Context) (va : Nat) : Option (Option QuadId × Nat) :=
  if c.aperture ≤ va ∧ va < c.aperture + 2 ^ 33 then
    some (c.quadOf? ((va - c.aperture) / 2 ^ 23 / 128) ((va - c.aperture) / 2 ^ 23 % 128), (va - c.aperture) % 2 ^ 23)
  else none

/-- R212 steps 2 to 4, and R326: any virtual address of a context to a physical one. A physical address of a vault
is the vault window's offset in this package. -/
def translate (s : State) (c : Context) (va n : Nat) (k : Kind) : State × Xlate :=
  if 2 ^ 57 ≤ va then (s, .fault .pageFault k.detail)
  else
    match c.aperture? va with
    | some (none, _) => (s, .fault .permission k.detail)
    | some (some q, o) =>
      if k = .fetch || c.tileTop ((va - c.aperture) / 2 ^ 23 / 128) < o + n then (s, .fault .permission k.detail)
      else (s, .ok (s.pkgNo * 2 ^ 46 + vaultBase q + o))
    | none => walkVa s c va k

/-- Why a unit's access stops: a fault with its DETAIL and address, a violation of R322, a page sealed for a move. -/
inductive EngStop where
  | fault (code : FaultCode) (detail va : Nat)
  | breach (pa : Nat)
  | sealed
  deriving DecidableEq, Repr

/-- A physical address lies in a sealed page (R333). -/
def State.sealed (s : State) (pa : Nat) : Bool := s.seals.any fun p => p.1 ≤ pa && pa < p.1 + p.2

/-! ### Routes (R17, R18) -/

/-- Row and column of a die of the package floor (R15); K stands at column -1 of both rows: none. -/
def diePos : Nat → Option (Nat × Nat)
  | 0 => some (0, 1) | 1 => some (0, 3) | 2 => some (0, 5) | 3 => some (0, 7)
  | 4 => some (1, 0) | 5 => some (1, 2) | 6 => some (1, 4) | 7 => some (1, 6)
  | 8 => some (0, 0) | 9 => some (0, 2) | 10 => some (0, 4) | 11 => some (0, 6)
  | 12 => some (1, 1) | 13 => some (1, 3) | 14 => some (1, 5) | 15 => some (1, 7)
  | _ => none

/-- The die at a row and column. -/
def dieAt (row col : Nat) : Nat :=
  if col % 2 = 0 then (if row = 0 then 8 + col / 2 else 4 + col / 2)
  else (if row = 0 then col / 2 else 12 + col / 2)

/-- The dies along a row from one column to another, the first left out. -/
def alongRow (row a b : Nat) : List Nat :=
  if a ≤ b then (List.range (b - a)).map fun i => dieAt row (a + 1 + i)
  else (List.range (a - b)).map fun i => dieAt row (a - 1 - i)

/-- The dies a packet enters after its source die (R17, R18). -/
def dieRoute (a b : Nat) : List Nat :=
  if a = b then []
  else
    match diePos a, diePos b with
    | some (ra, ca), some (rb, cb) => alongRow ra ca cb ++ (if ra = rb then [] else [dieAt rb cb])
    | none, some (rb, cb) => dieAt rb 0 :: alongRow rb 0 cb
    | some (ra, ca), none => alongRow ra ca 0 ++ [16]
    | none, none => []

/-- The Rosord switch outputs of a route. -/
def linksFrom (a : Nat) : List Nat → List Point
  | [] => []
  | b :: r => .link a b :: linksFrom b r

/-- DESIGN CHOICE (notes/assumptions 79): R399 lets a packet to another package leave on any port in service; the model
sends it on port p mod 16. -/
def podPort (p : Nat) : Nat := p % 16

/-- The die of a message's end: another package is reached through a port of die M(port / 2) (R24). -/
def Node.die : Node → Nat
  | .quad q => q.die
  | .mdie m => 8 + m
  | .eng m _ => 8 + m
  | .k => 16
  | .pod p => 8 + podPort p / 2

/-- Hop count of R17. -/
def hopCount (a b : Nat) : Nat := (dieRoute a b).length

/-- The memory-port die with the fewest hops from a fabric die, the lowest number among equals (R227). -/
def nearestM (f : Nat) : Nat :=
  (List.range 8).foldl (fun best m => if hopCount f (8 + m) < hopCount f (8 + best) then m else best) 0

/-! ### Messages (R17, R177, R293) -/

/-- The class a context's requests enter with (R289). -/
def State.prioOf (s : State) (c : CtxId) : Nat := ((s.ctx? c).map (·.cls)).getD 1

/-- The quads a frame or token passes after its source, x first, then y, each with the direction of travel on the link
into it (0 +x, 1 -x, 2 +y, 3 -y) (R43). -/
def meshRoute (a b : QuadId) : List (QuadId × Nat) :=
  let (ax, ay, bx, by') := (a.idx % 10, a.idx / 10, b.idx % 10, b.idx / 10)
  let xs := if ax ≤ bx then (List.range (bx - ax)).map fun i => (⟨a.die, ay * 10 + (ax + 1 + i)⟩, 0)
    else (List.range (ax - bx)).map fun i => (⟨a.die, ay * 10 + (ax - 1 - i)⟩, 1)
  let ys := if ay ≤ by' then (List.range (by' - ay)).map fun i => (⟨a.die, (ay + 1 + i) * 10 + bx⟩, 2)
    else (List.range (ay - by')).map fun i => (⟨a.die, (ay - 1 - i) * 10 + bx⟩, 3)
  xs ++ ys

/-- Two quads of one region. -/
def State.sameRegion (s : State) (a b : QuadId) : Bool :=
  a.die == b.die && (match s.quad? a, s.quad? b with
    | some x, some y => x.cx == y.cx && x.ldie == y.ldie
    | _, _ => false)

/-- The mesh links a message between two quads of a region crosses, or the border switches of their regions (R43, R321). -/
def State.linkEnds (s : State) (src dst : Node) : List LinkEnd :=
  match src, dst with
  | .quad a, .quad b => if s.sameRegion a b then (meshRoute a b).map fun p => ⟨p.1, p.2⟩ else [⟨a, 4⟩, ⟨b, 5⟩]
  | _, _ => []

/-- The quads a message passes the mesh hops between them and their die's edge for, on its way to or from another unit than a
quad (R335; notes/assumptions 93). -/
def edgeQuads (src dst : Node) : List QuadId :=
  match src, dst with
  | .quad _, .quad _ => []
  | .quad a, _ => [a]
  | _, .quad b => [b]
  | _, _ => []

/-- What a link end has sent and received, raised (R308). -/
def State.countLink (s : State) (l : LinkEnd) (sent got : Nat) : State :=
  let old := valueOf l (0, 0) s.links
  { s with links := setValue l (old.1 + sent, old.2 + got) s.links }

/-- Traffic of the barrier networks, arrivals, requests and completions (replies of class 2), which do not arbitrate by
class and pass no Rosord switch (R27, R293, R306). -/
def MsgBody.barrier (cls : Nat) : MsgBody → Bool
  | .arrive _ _ _ => true
  | .barwait _ _ _ => true
  | .reply _ _ _ => cls == 2
  | _ => false

/-- What its channel does not order: an engine's or unit's request for a line and the line that comes back, and the commands
a decoder or a collective engine takes in an order of its own (R187, R232, R258). -/
def MsgBody.own : MsgBody → Bool
  | .lineOf _ => true
  | .line _ => true
  | .lineBack => true
  | .decode _ => true
  | .coll _ => true
  | _ => false

/-- An Ethernet port of the pod transport is in service (R399). -/
def State.portUp (s : State) (p : Nat) : Bool := valueOf p false s.ports

/-- The points behind a route's last die: a packet for a port out of service goes on to the next port in service (R399). -/
def State.rerouted (s : State) (ps : List Point) : List Point :=
  ps.flatMap fun x =>
    match x with
    | .ether p =>
      match ((List.range 16).map fun k => (p + k) % 16).find? s.portUp with
      | some q => linksFrom (8 + p / 2) (dieRoute (8 + p / 2) (8 + q / 2)) ++ [.ether q]
      | none => [.ether p]
    | x => [x]

/-- A message put into the networks: sent on the first link it crosses. Configuration-network traffic (class 9) and the
barrier networks pass no arbitration point. -/
def State.send (s : State) (cx : CtxId) (src dst : Node) (cls : Nat) (body : MsgBody) (last : List Point := []) :
    State :=
  let m : Msg :=
    { id := s.nextId, cx := cx, src := src, dst := dst, cls := cls, prio := s.prioOf cx,
      hops := (if cls = 9 || body.barrier cls then [] else linksFrom src.die (dieRoute src.die dst.die)) ++ s.rerouted last, at' := s.clk,
      left := none, entered := none, refused := false, via := none, body := body }
  let s1 := ((s.linkEnds src dst).take 1).foldl (fun s l => s.countLink l 1 0) s
  { s1 with nextId := s.nextId + 1, msgs := s.msgs ++ [m] }

/-- A message has still a Rosord boundary to cross. -/
def Msg.underway (m : Msg) : Bool := m.hops.any fun p => match p with | .link _ _ => true | _ => false

/-- The access of a request message. -/
def Msg.access? (m : Msg) : Option Access :=
  match m.body with
  | .far _ a => some a
  | .posted a => some a
  | _ => none

/-- An FLDA waits for every earlier release of its strand: an FSTR not acknowledged, a BARARR on its way (R181, R182,
R214). Until then it is not issued. -/
def State.acquireBlocked (s : State) (m : Msg) : Bool :=
  match m.body with
  | .far e a => a.acq && ((s.ember? e).map fun x =>
      (s.posted.any fun p => p.sid = x.strand.sid ∧ p.release = true) ||
      (s.msgs.any fun y => match y.body with | .arrive _ _ r => r.sid = some x.strand.sid | _ => false)).getD false
  | _ => false

/-- The FLDA of a strand whose last earlier release has just been performed is issued: behind what was issued before it, in
its channel and at a vault, and so under a new identity (R177, R182). -/
def State.issueHeld (s : State) (sid : Nat) : State :=
  let mine := fun (m : Msg) => match m.body with
    | .far e a => a.acq && (s.ember? e).map (·.strand.sid) == some sid && !s.acquireBlocked m
    | _ => false
  let issued := s.msgs.filter mine
  if issued.isEmpty then s
  else
    { s with
      nextId := s.nextId + issued.length,
      msgs := s.msgs.filter (fun m => !mine m) ++
        (List.zipIdx issued).map fun (m, k) => { m with id := s.nextId + k, at' := s.clk } }

/-- The token of a circuit a message carries. -/
def Msg.circ? (m : Msg) : Option (CtxId × Nat) :=
  match m.body with
  | .token n _ _ _ => some (m.cx, n)
  | _ => none

/-- A packet has left its die, and before another: a request that waits at its source, beyond its function's limit, has not
left (R17, R325). -/
def Msg.leftBefore (x m : Msg) : Bool :=
  match x.left, m.left with
  | some a, some b => a < b
  | some _, none => true
  | none, _ => false

/-- Packets of a message's class that left for the same die before it are still on their way (R17). -/
def State.packetAhead (s : State) (m : Msg) : Bool :=
  s.msgs.any fun x =>
    x.src.die = m.src.die && x.dst.die = m.dst.die && x.cls = m.cls && x.underway && x.leftBefore m

/-- A message holds its place in its channel: a request a sealed page has refused is back at its source and holds up none
behind it (R333), as an FLDA not issued does; a reply that a full ready list refuses keeps its place (R199, R295). -/
def State.inChannel (s : State) (m : Msg) : Bool := !(m.refused && m.access?.isSome) && !s.acquireBlocked m && !m.body.own

/-- Link contents put back by a restore that a message follows: those of the links it crosses, or of its own (R384). -/
def State.behindLink (s : State) (m : Msg) : Bool :=
  let ends := s.linkEnds m.src m.dst
  (s.msgs.takeWhile (·.id ≠ m.id)).any fun x =>
    match x.via with
    | some (q, ch) => if m.via.isSome then m.via == x.via && x.dst == m.dst else ch < 4 && ends.contains ⟨q, ch⟩
    | none => false

/-- A message has arrived: packets of one class between one pair of dies arrive in the order they left (R17), the messages of
one channel are taken in order (R177, R199), the tokens of one circuit in the order they were sent (R196), new arrivals on a
link behind what a restore has put on it (R384). What a unit of a memory-port die takes in an order of its own, or an engine
has asked for, keeps no other back (R187, R232, R258). -/
def State.arrived (s : State) (m : Msg) : Bool :=
  m.hops.isEmpty && !m.refused && !s.acquireBlocked m && !s.packetAhead m && !s.behindLink m &&
    (m.body.own ||
      (s.msgs.find? (fun x => x.src = m.src ∧ x.dst = m.dst ∧ x.cls = m.cls ∧ s.inChannel x = true)).map (·.id) == some m.id) &&
    (m.circ?.isNone || (s.msgs.find? fun x => x.circ? == m.circ?).map (·.id) == some m.id)

/-- The home of a physical address of this package (R25): a stack's die, or a vault's quad; another package. -/
def State.homeOf (s : State) (pa : Nat) : Node :=
  if pa / 2 ^ 46 ≠ s.pkgNo then .pod (pa / 2 ^ 46)
  else if bitsOf pa 45 40 = 0 then .mdie (bitsOf pa 39 37)
  else .quad ⟨bitsOf pa 32 30, bitsOf pa 29 23⟩

/-- The arbitration point at an access's home (R293). -/
def homePoint : Node → List Point
  | .mdie m => [.stackPort m]
  | .pod p => [.ether (podPort p)]
  | _ => []

/-! ### Energy (R335) -/

/-- Energy added to what a lantern has to report, in 2^-16 nJ (R336). -/
def State.addCharge (s : State) (l : Lantern) (p : Payer) (e : Nat) : State :=
  { s with lanterns := s.lanterns.map (fun x => if x.1 = l ∧ x.2.1 = p then (x.1, x.2.1, x.2.2 + e) else x) ++
      (if s.lanterns.any (fun x => x.1 = l ∧ x.2.1 = p) then [] else [(l, p, e)]) }

/-- Energy charged at a die since the millisecond began (R337). -/
def State.onDie (s : State) (die e : Nat) : State := { s with dieCharged := modAt die (· + e) s.dieCharged }

/-- A charge of an event class at a lantern: the calibrated energy times the die's factor (R335). -/
def State.charge (s : State) (l : Lantern) (p : Payer) (cls n die : Nat) : State :=
  let e := Config.eventEnergy s.calibRec cls * n * (s.factors[die]?).getD 4096 / 4096
  (s.addCharge l p e).onDie die e

/-- Two lines of the stacks of one memory-port die go to one set of its cache. -/
def sameSet (a b : Nat) : Bool := a / 2 ^ 37 == b / 2 ^ 37 && Config.cacheSet a % 131072 == Config.cacheSet b % 131072

/-- The line of a full set that a new line replaces (R25; notes/assumptions 13). -/
def evicted (l fresh : Nat) (lines : List (Nat × Bool)) : Option (Nat × Bool) :=
  let full := lines.filter fun x => sameSet x.1 l
  if full.length < 12 then none else full[Config.cacheWay fresh % 12]?

/-- An access to a line of HBM passes its stack cache: a hit, or a miss whose line takes a way, evicting a line of a full set,
which is written to its stack when it is dirty (R25, R348; notes/assumptions 13). A line's bytes are held once, in `mem`. -/
def State.cacheAccess (s : State) (cx : CtxId) (o : Nat) (write : Bool) : State :=
  let l := o / 64 * 64
  let s1 := s.countShared cx.vf 0 1
  if s.cached.any (·.1 = l) then
    { s1 with cached := modWhere (·.1 = l) (fun x => (x.1, x.2 || write)) s.cached }
  else
    let out := if s.cached.length < 12 then none else evicted l s.fresh s.cached
    { s1.countShared cx.vf 1 1 with
      fresh := s.fresh + 1, cached := (s.cached.filter fun x => some x != out) ++ [(l, write)] }

/-- A unit's access asks for the banks of its lines (R22); which bank serves whom when decides timing only. -/
def State.bankReq (s : State) (q : QuadId) (rank off n : Nat) : State :=
  let banks := (List.range ((off + n + 63) / 64 - off / 64)).map fun k => (off / 64 + k) % 32
  s.modQuad q fun x => { x with banks := x.banks ++ banks.map fun b => ⟨b, rank, rank, 0⟩ }

/-! ### Energy classes beside the opcodes (R335) -/

/-- A far access by kind (0 read, 1 write, 2 atomic) and width. -/
def classFar (kind n : Nat) : Nat := 0x200 + 16 * kind + Nat.log2 n
def classHop : Nat := 0x240
def classByte : Nat := 0x241
def classMe : Nat := 0x242
def classVsu : Nat := 0x243
def classPixel : Nat := 0x244
def classColl : Nat := 0x245
def classWalk : Nat := 0x246
def classFirmware : Nat := 0x247
def classFill : Nat := 0x248

/-! ### Far accesses at a home; what crosses the networks (R25, R335) -/

/-- The lantern of a home. -/
def homeLantern (pa : Nat) : Node → Lantern
  | .quad q => .quad q
  | _ => .stack (bitsOf pa 39 36)

/-- The DETAIL code of an access (R367). -/
def Access.detail (a : Access) : Nat := if a.op.isSome then 2 else if a.write then 1 else 0

/-- A line whose stored check fails in the stack cache is delivered poisoned (R25). -/
def State.checkLine (s : State) (o : Nat) : State :=
  if s.badLines.contains (o / 64 * 64) then
    { s.markPoison o 1 with badLines := s.badLines.filter (· ≠ o / 64 * 64) }
  else s

/-- A vault access meets the errors of its words (R372): a single-bit error is corrected, written back and counted; an
uncorrectable one in the tile store or the speculative buffer sets the poison marks of the word's eight bytes. One in the
frame, ember pool or overflow area is a parity failure, which the input of PARITY_FREEZE_REPORT finds (R374). -/
def State.scrub (s : State) (o n : Nat) : State :=
  let hit := fun (k : Nat) => decide (o ≤ k ∧ k < o + n)
  let lost := fun (k : Nat) => decide (o < k + 8 ∧ k < o + n)
  let s1 := if s.weak.any hit then
      { s with weak := s.weak.filter fun k => !hit k,
               corrected := modAt (bitsOf o 32 30) (· + s.weak.countP hit) s.corrected }
    else s
  if s.broken.any lost then
    (s.broken.filter lost).foldl (fun s k => s.markPoison k 8) { s1 with broken := s.broken.filter fun k => !lost k }
  else s1

/-- Charges and counts of an access performed at a home; kind 0 read, 1 write, 2 atomic. -/
def State.chargeHome (s : State) (home : Node) (cx : CtxId) (pa kind n : Nat) : State :=
  let s1 := s.charge (homeLantern pa home) (.ctx cx) (classFar kind n) 1 home.die
  match home with
  | .quad q => (s1.scrub (pa % 2 ^ 46) n).bankReq q 6 (pa % 2 ^ 23) n
  | _ => (s1.cacheAccess cx (pa % 2 ^ 46) (kind != 0)).checkLine (pa % 2 ^ 46)

def State.chargeAccess (s : State) (home : Node) (a : Access) : State := s.chargeHome home a.cx a.pa a.detail a.n

/-- Whose energy a message's packets are: its context's, or, where it serves another package (the context 1024 names none
here), its function's (R335). -/
def Msg.payer (m : Msg) : Payer := if 1024 ≤ m.cx.num then .vf m.cx.vf else .ctx m.cx

/-- A message has crossed links: they have received it, and the lanterns of their quads charge it to its context (R308,
R335); it is a message no more. -/
def State.landOver (s : State) (m : Msg) (ls : List LinkEnd) : State :=
  let s1 := (ls.take 1).foldl (fun s l => s.countLink l 0 1) s
  let s2 := (ls.drop 1).foldl (fun s l => s.countLink l 1 1) s1
  (ls.foldl (fun s l => s.charge (.quad l.quad) m.payer classHop 1 l.quad.die) s2).dropMsg m.id

/-- The mesh hops of a message between its quad and the die's edge, charged at the quad's lantern (R335). -/
def State.chargeEdge (s : State) (m : Msg) : State :=
  (edgeQuads m.src m.dst).foldl (fun s q => s.charge (.quad q) m.payer classHop (Config.edgeHops q.idx) q.die) s

/-- A message's arrival at its unit, over every link of its route. -/
def State.land (s : State) (n : Nat) : State :=
  match s.msg? n with
  | none => s
  | some m => (s.chargeEdge m).landOver m (s.linkEnds m.src m.dst)

/-- An ember's record passes from one quad to another over the mesh within a step (R43): counted and charged link by link. -/
def State.crossNow (s : State) (cx : CtxId) (a b : QuadId) : State :=
  (s.linkEnds (.quad a) (.quad b)).foldl (fun s l =>
    (s.countLink l 1 1).charge (.quad l.quad) (.ctx cx) classHop 1 l.quad.die) s

/-- A unit's access to a line of this package's HBM, as packets and at the stack's request port (R17, R18, R25, R293). The
unit's own step reads or writes the bytes; its request travels and is granted as any other (notes/assumptions 94). -/
def State.lineAccess (s : State) (src : Node) (cx : CtxId) (o : Nat) (write : Bool) : State :=
  ((s.cacheAccess cx o write).checkLine o).send cx src (.mdie (bitsOf o 39 37)) 0 (.line write) [.stackPort (bitsOf o 39 37)]

/-- A unit's access to a range of this package: line by line in HBM; at the banks of a vault, with the errors it meets. -/
def State.rangeAccess (s : State) (src : Node) (cx : CtxId) (rank o n : Nat) (write : Bool) : State :=
  if bitsOf o 45 40 ≠ 0 then (s.scrub o n).bankReq ⟨bitsOf o 32 30, bitsOf o 29 23⟩ rank (o % 2 ^ 23) n
  else ((List.range ((o + n + 63) / 64 - o / 64)).map fun k => (o / 64 + k) * 64).foldl
      (fun s l => s.lineAccess src cx l write) s

/-! ### TLBs and walks (R24, R329, R331) -/

/-- Who translates: a quad's commit unit or loader, a stream engine, another unit of a die, or K, which reads the tables it
keeps. -/
inductive XUnit where
  | quad (q : QuadId)
  | stream (m n : Nat)
  | die (n : Nat)
  | k
  deriving DecidableEq, Repr

/-- A TLB entry translates an address for an access. -/
def TlbEntry.hits (t : TlbEntry) (cx : CtxId) (va : Nat) (k : Kind) : Bool :=
  t.cx = cx && t.va ≤ va && va < t.va + t.size && (!k.writes || ((t.w || !k.ofContext) && t.dirty))

def State.tlbAt (s : State) (a : TlbAt) : List TlbEntry := valueOf a [] s.tlbs

/-- An entry put first in a TLB of a size, its page's older entry gone. -/
def tlbFill (cap : Nat) (t : TlbEntry) (ts : List TlbEntry) : List TlbEntry :=
  t :: ((ts.filter fun y => !(y.cx = t.cx ∧ y.va = t.va)).take (cap - 1))

/-- The unit's own TLB, and the second level of its die. -/
def XUnit.own (s : State) : XUnit → List TlbEntry
  | .quad q => ((s.quad? q).map (·.tlb)).getD []
  | .stream m n => s.tlbAt (.stream m n)
  | _ => []

def XUnit.dieOf : XUnit → Nat
  | .quad q => q.die
  | .stream m _ => 8 + m
  | .die n => n
  | .k => 16

/-- The node a unit's requests come from, and the lantern that charges its TLB fills. -/
def XUnit.node : XUnit → Node
  | .quad q => .quad q
  | .stream m n => .eng m n
  | .die n => .mdie (n - 8)
  | .k => .k

def XUnit.lantern : XUnit → Lantern
  | .quad q => .quad q
  | .stream m n => .stream m n
  | .die n => .coll (n - 8)
  | .k => .kdie

/-- A TLB of 64 sets of 8 ways filled: an entry put first in its page's set, which keeps 8 (R331). DESIGN CHOICE
(notes/assumptions 93): a page's set is its number in pages of its size, modulo 64, and the least recently filled way goes. -/
def tlbFillWays (t : TlbEntry) (ts : List TlbEntry) : List TlbEntry :=
  let set := fun (y : TlbEntry) => y.va / y.size % 64
  let rest := ts.filter fun y => !(y.cx = t.cx ∧ y.va = t.va)
  let mine := (rest.filter fun y => set y = set t).take 7
  t :: (rest.filter fun y => set y != set t || mine.contains y)

/-- A fill is charged to the context at the unit's lantern (R331). -/
def State.fillOwn (s : State) (u : XUnit) (t : TlbEntry) : State :=
  match u with
  | .quad q => (s.modQuad q fun x => { x with tlb := tlbFillWays t x.tlb }).charge u.lantern (.ctx t.cx) classFill 1 u.dieOf
  | .stream m n =>
    { s with tlbs := setValue (.stream m n) (tlbFill 256 t (s.tlbAt (.stream m n))) s.tlbs }.charge u.lantern (.ctx t.cx)
      classFill 1 u.dieOf
  | _ => s

def State.fillDie (s : State) (u : XUnit) (t : TlbEntry) : State :=
  { s with tlbs := setValue (.die u.dieOf) (tlbFill 4096 t (s.tlbAt (.die u.dieOf))) s.tlbs }.charge u.lantern (.ctx t.cx)
    classFill 1 u.dieOf

/-- The table entries a walk reads, the failing one included. -/
def walkReads (s : State) (va : Nat) : List (Nat × Nat × Nat) → Nat → List Nat
  | [], _ => []
  | (_, lo, n) :: rest, table =>
    let ea := (table + va / 2 ^ lo % 2 ^ n * 8) % 2 ^ 46
    let e := s.readNat ea 8
    ea :: (if s.poisoned ea 8 || s.badLines.contains (ea / 64 * 64) || !bitOf e 0 || bitOf e 1 then []
      else walkReads s va rest (bitsOf e 51 12 * 4096))

/-- One access of a unit's walk to a table entry, at the entry's home stack. -/
def State.walkAccess (s : State) (u : XUnit) (cx : CtxId) (ea : Nat) (write : Bool) : State :=
  (s.charge (.stack (bitsOf ea 39 36)) (.ctx cx) classWalk 1 (8 + bitsOf ea 39 37)).lineAccess u.node cx ea write

/-- The leaf's entry lets the access pass (R329): only then are A and D written. -/
def Leaf.admits (l : Leaf) (k : Kind) : Bool :=
  !bitOf l.entry 7 && !(k.ofContext && !bitOf l.entry 2) && !(k == .fetch && (!bitOf l.entry 3 || bitOf l.entry 2))

/-- The accesses of a walk: the entries it reads, and the leaf's where A or D changes (R328, R329); the leaf it finds, when a TLB
may hold it. -/
def State.walkTouch (s : State) (touch : Nat → Bool → State → State) (c : Context) (va : Nat) (k : Kind) :
    State × Option Leaf :=
  let s1 := (walkReads s va walkLevels c.root).foldl (fun s ea => touch ea false s) s
  match walkFrom s1 va walkLevels c.root with
  | .error _ => (s1, none)
  | .ok l =>
    let mine := s.granted c.id.vf (bitsOf l.entry 51 12 * 4096) l.size
    (if mine && l.admits k && (!bitOf l.entry 4 || (k.writes && !bitOf l.entry 5)) then touch l.entryPa true s1 else s1,
      if bitOf l.entry 7 || !mine then none else some l)

/-- A unit's line requests of its present step would pass packets that left its die earlier and are still on their way (R17):
`s'` is the state the step leaves. -/
def State.overtakes (s s' : State) : Bool :=
  s'.msgs.any fun m => s.nextId ≤ m.id && (match m.body with | .line _ => true | _ => false) && s.msgs.any fun x =>
    x.src.die = m.src.die && x.dst.die = m.dst.die && x.cls = m.cls && x.underway && x.left.isSome &&
      !(match x.body with | .line _ => true | _ => false)

/-- What a translation of a page-table address costs: nothing where the unit's TLB or its die's second level holds the
page; else one walk counted, its reads and its A or D write charged to the context, and both TLBs filled (R331, R335,
R348). K has no TLB: it reads the tables it keeps each time (R18; notes/assumptions 97). -/
def State.touchTlb (s : State) (u : XUnit) (c : Context) (va : Nat) (k : Kind) : State :=
  if (c.aperture? va).isSome || 2 ^ 57 ≤ va || (u.own s).any (·.hits c.id va k) then s
  else if u = .k then (s.walkTouch (fun ea w s => s.lineAccess .k c.id ea w) c va k).1
  else
    match (s.tlbAt (.die u.dieOf)).find? (·.hits c.id va k) with
    | some t => s.fillOwn u t
    | none =>
      match (s.countShared c.id.vf 6 1).walkTouch (fun ea w s => s.walkAccess u c.id ea w) c va k with
      | (s1, none) => s1
      | (s1, some l) =>
        let t : TlbEntry :=
          { cx := c.id, va := va / l.size * l.size, size := l.size, pa := bitsOf l.entry 51 12 * 4096,
            w := bitOf l.entry 2, x := bitOf l.entry 3, dirty := k.writes, poisoned := bitOf l.entry 7 }
        (s1.fillDie u t).fillOwn u t

/-- An address in the context's HBM ember pool, which is mapped read-only to the context (R51). -/
def Context.inPool (c : Context) (va : Nat) : Bool := c.poolBase ≤ va && va < c.poolBase + c.poolSize

/-- A translation by a unit: what it costs, and what it gives. A write of the context's own to its ember pool raises
PERMISSION (R51, R212). -/
def translateBy (s : State) (u : XUnit) (c : Context) (va n : Nat) (k : Kind) : State × Xlate :=
  if k.ofContext && u != .k && c.inPool va then (s, .fault .permission k.detail)
  else translate (s.touchTlb u c va k) c va n k

/-- The pieces of a range that do not cross an 8-byte word: offset into the range, length. -/
def pieces8 : Nat → Nat → Nat → Nat → List (Nat × Nat)
  | 0, _, _, _ => []
  | k + 1, a, off, n => if n = 0 then [] else (off, min n (8 - a % 8)) :: pieces8 k (a + min n (8 - a % 8)) (off + min n (8 - a % 8))
      (n - min n (8 - a % 8))

/-- Bytes of another package: requests leave the unit through the pod transport, and the answer, with whether it is received as
poisoned (R372), is a free value (notes/assumptions 18). -/
def State.remoteRead (s : State) (src : Node) (cx : CtxId) (va pa n : Nat) : State × List Byte × Bool :=
  let s1 := (pieces8 (n + 1) pa 0 n).foldl (fun s p =>
    s.send cx src (.pod (pa / 2 ^ 46)) 0 (.far s.nextId ⟨cx, va + p.1, pa + p.1, p.2, false, false, none, 0, 0, .plain⟩)
      [.ether (podPort (pa / 2 ^ 46))]) s
  ({ s1 with fresh := s.fresh + n + 1 }, (List.range n).map fun k => (Config.freeWord (s.fresh + k)).setWidth 8,
    (Config.freeWord (s.fresh + n)).bit 0)

/-- Bytes read at a physical address by K or a loader, and whether they carry poison. -/
def State.readPhys (s : State) (src : Node) (cx : CtxId) (va pa n : Nat) : State × List Byte × Bool :=
  if pa / 2 ^ 46 = s.pkgNo then
    let s1 := s.rangeAccess src cx 6 (pa % 2 ^ 46) n false
    (s1, memBytes s1.mem (pa % 2 ^ 46) n, s1.poisoned (pa % 2 ^ 46) n)
  else s.remoteRead src cx va pa n

/-- Bytes written at a physical address by K or a unit: here, or as posted requests to another package that are acknowledged
to it (notes/assumptions 18). -/
def State.putPhys (s : State) (src : Node) (c : CtxId) (va pa : Nat) (bs : List Byte) : State :=
  if pa / 2 ^ 46 = s.pkgNo then (s.rangeAccess src c 6 (pa % 2 ^ 46) bs.length true).write (pa % 2 ^ 46) bs
  else
    (pieces8 (bs.length + 1) pa 0 bs.length).foldl (fun s p =>
      s.send c src (.pod (pa / 2 ^ 46)) 0
        (.posted ⟨c, va + p.1, pa + p.1, p.2, true, false, none, toWord (leNat ((bs.drop p.1).take p.2)), 0, .plain⟩)
        [.ether (podPort (pa / 2 ^ 46))]) s

/-- A physical address of this package carries poison in a range. -/
def State.poisonedPhys (s : State) (pa n : Nat) : Bool := pa / 2 ^ 46 = s.pkgNo && s.poisoned (pa % 2 ^ 46) n

/-- A write of the context's memory by K or a unit, page by page in 64 KiB pieces at most (R30, R89, R368); `kind` says whose
write it is. -/
def writeVaAs (kind : Kind) (s : State) (u : XUnit) (c : Context) (va : Nat) (bs : List Byte) : Option State :=
  match translateBy s u c va 1 kind with
  | (s', .ok pa) =>
    let k := 65536 - va % 65536
    if bs.length ≤ k then (if s'.poisonedPhys pa bs.length then none else some (s'.putPhys u.node c.id va pa bs))
    else
      match translateBy s' u c (va + k) 1 kind with
      | (s'', .ok pa') =>
        if s''.poisonedPhys pa k || s''.poisonedPhys pa' (bs.length - k) then none
        else some ((s''.putPhys u.node c.id va pa (bs.take k)).putPhys u.node c.id (va + k) pa' (bs.drop k))
      | _ => none
  | _ => none

def writeVa (s : State) (u : XUnit) (c : Context) (va : Nat) (bs : List Byte) : Option State := writeVaAs .write s u c va bs

/-- Bytes of the context's memory read by K or a unit, page by page in 64 KiB pieces at most, and whether they carry poison. -/
def State.readVa (s : State) (u : XUnit) (c : Context) (va n : Nat) : State × Option (List Byte × Bool) :=
  let k := min n (65536 - va % 65536)
  match translateBy s u c va 1 .read with
  | (s1, .ok pa) =>
    let r := s1.readPhys u.node c.id va pa k
    if n ≤ k then (r.1, some r.2)
    else
      match translateBy r.1 u c (va + k) 1 .read with
      | (s2, .ok pa') =>
        let r' := s2.readPhys u.node c.id (va + k) pa' (n - k)
        (r'.1, some (r.2.1 ++ r'.2.1, r.2.2 || r'.2.2))
      | (s2, _) => (s2, none)
  | (s1, _) => (s1, none)

/-! ### Tokens (R75, R80, R81) -/

/-- resolve() of R81 on a carry register's buffered write. DESIGN CHOICE (notes/assumptions 97): of two values that one slot
sends to one register by T0 and T1, the tie of equal slots, which R81 does not settle, the later one, T1's, stays. -/
def resolveWrite (r slot : Nat) (v : Option Word) :
    List (Nat × Nat × Option Word) → List (Nat × Nat × Option Word)
  | [] => [(r, slot, v)]
  | (k, s, old) :: rest =>
    if k = r then
      match v, old with
      | none, _ => (k, s, old) :: rest
      | some _, none => (k, slot, v) :: rest
      | some _, some _ => if s ≤ slot then (k, slot, v) :: rest else (k, s, old) :: rest
    else (k, s, old) :: resolveWrite r slot v rest

def Tok.value? : Tok → Option Word
  | .null => none
  | .val w => some w

/-- The port a 9-bit target names; none for PORT 00 (R73). -/
def portOf (t : Nat) : Option Port :=
  match t / 128 with
  | 1 => some .left | 2 => some .right | 3 => some .third | _ => none

/-- R80 for one target: nothing, the write buffer, or a token on the element network. -/
def State.deliver1 (s : State) (inst slot : Nat) (v : Tok) (t : BitVec 9) : State :=
  if t.toNat = 0 then s
  else
    match portOf t.toNat with
    | none => s.modInst inst fun i => { i with wbuf := resolveWrite (t.toNat % 128) slot v.value? i.wbuf }
    | some p =>
      { s.modInst inst (fun i => { i with flying := i.flying ++ [s.nextId] }) with
        nextId := s.nextId + 1, flying := s.flying ++ [⟨s.nextId, inst, slot, t.toNat % 128, p, v⟩] }

/-- R80: one result to every non-zero target, T0 first. -/
def State.deliver (s : State) (inst slot : Nat) (v : Tok) (ts : List (BitVec 9)) : State :=
  ts.foldl (fun s t => s.deliver1 inst slot v t) s

/-! ### Pools (R50, R221) -/

/-- Pool space in use: embers' records and what commits have reserved. -/
def State.poolUsed (s : State) (cx : CtxId) (p : Pool) : List (Nat × Nat) :=
  ((s.embers.filter fun e => e.pool = p ∧ (p ≠ .hbm ∨ e.strand.cx = cx)).map fun e => (e.addr, e.size)) ++
  (s.commits.flatMap fun c => (c.space.filter fun x => x.1 = p ∧ (p ≠ .hbm ∨ c.inst.frame.strand.cx = cx)).map (·.2))

/-- The lowest place of `n` bytes below `cap` that meets no range in use. -/
def firstFit (cap n : Nat) (used : List (Nat × Nat)) : Option Nat :=
  ((0 :: used.map fun u => u.1 + u.2).filter fun a =>
    a + n ≤ cap && !(used.any fun u => overlaps a n u.1 u.2)).min?

/-- Bytes of a quad's vault ember pool. -/
def State.vaultPoolSize (s : State) (q : Quad) : Nat :=
  (((s.ctx? q.cx).bind (·.decl? q.ldie)).map (·.embersKiB * 1024)).getD 0

/-- Space for a record: the quad's vault pool first, then the context's HBM pool (R50); `taken` is reserved already. -/
def State.findSpace (s : State) (cx : CtxId) (q : QuadId) (n : Nat) (taken : List (Pool × Nat × Nat)) :
    Option (Pool × Nat × Nat) :=
  let more := fun p => (taken.filter (·.1 = p)).map (·.2)
  match (s.quad? q).bind fun x => firstFit (s.vaultPoolSize x) n (s.poolUsed cx (.vault q) ++ more (.vault q)) with
  | some a => some (.vault q, a, n)
  | none =>
    ((s.ctx? cx).bind fun c => firstFit c.poolSize n (s.poolUsed cx .hbm ++ more .hbm)).map fun a => (.hbm, a, n)

/-! ### The ember record (R51) -/

/-- The 32-bit words of a number, `n` of them. -/
def words32 : Nat → Nat → List Nat
  | 0, _ => []
  | n + 1, v => v % 2 ^ 32 :: words32 n (v / 2 ^ 32)

def xorAll : List Nat → Nat
  | [] => 0
  | a :: r => a ^^^ xorAll r

/-- Registers of a LIVE mask, in ascending order. -/
def liveRegs (live : Nat) : List Nat := (List.range 32).filter (bitOf live)

def State.emberQindex (s : State) (e : Ember) : Nat :=
  match s.ctx? e.strand.cx, s.quad? e.quad with
  | some c, some q => c.indexOf q
  | _, _ => 0

/-- The words of a record: w0 to w6, w7 with CHECK, then the LIVE registers. -/
def emberWords (s : State) (e : Ember) : List Nat :=
  let w0 := e.live * 2 ^ 32 + e.exit % 8 * 2 ^ 21 + e.reply % 32 * 2 ^ 16 + e.reason % 256 * 2 ^ 8 + 0x5E
  let w1 := e.seq / 2 ^ 64 % 2 ^ 24 * 2 ^ 40 + e.strand.tag % 2 ^ 40
  let w2 := e.cont % 2 ^ 57
  let w3 := e.source % 65536 * 2 ^ 32 + e.pkg % 64 * 2 ^ 17 + e.home % 32 * 2 ^ 12 + e.width % 8 * 2 ^ 9 + e.op % 512
  let w4 := e.seq % 2 ^ 64
  let w5 := e.strand.energy / 65536 % 2 ^ 64
  let w6 := (match e.strand.ordered with | some i => 2 ^ 48 + i % 65536 * 2 ^ 32 | none => 0) +
    e.elem % 4 * 2 ^ 11 + s.emberQindex e % 128 * 2 ^ 4 + tagLdie e.strand.tag
  let regs := (liveRegs e.live).map fun r => ((e.regs[r]?).getD 0).toNat
  let head := [w0, w1, w2, w3, w4, w5, w6]
  head ++ [xorAll ((head ++ regs).flatMap (words32 2))] ++ regs

/-- Bytes of a record with this LIVE mask. -/
def emberSize (live : Nat) : Nat := 64 + 8 * (liveRegs live).length

/-- The virtual address of a record that lies in the context's memory: in the HBM ember pool (R51), or a handler strand's in
the handler ember area of its slot (R366). -/
def Context.recordVa? (c : Context) (e : Ember) : Option Nat :=
  match e.pool with
  | .hbm => some (c.poolBase + e.addr)
  | .slot k => some (c.ring + 0x8000 + 512 * k)
  | _ => none

/-- A record that lies in the context's memory written there by a unit: the machine writes the ember pool, which is read-only
to the context, whatever its leaves' W (R51, R366). -/
def State.storeBy (s : State) (u : XUnit) (e : Ember) : State :=
  match s.ctx? e.strand.cx with
  | none => s
  | some c =>
    match c.recordVa? e with
    | none => s
    | some va => (writeVaAs (if e.pool = .hbm then .record else .write) s u c va ((emberWords s e).flatMap (leBytes 8))).getD s

/-- The same by the ember's quad. -/
def State.storeEmber (s : State) (e : Ember) : State := s.storeBy (.quad e.quad) e

/-- The vault bytes of an ember's record: frame and ember traffic of relight and commit (R22). -/
def State.emberBanks (s : State) (e : Ember) : State :=
  match e.pool with
  | .vault q =>
    let base := ((s.quad? q).bind fun x => (s.ctx? x.cx).map (·.emberBase x.ldie)).getD 0
    s.bankReq q 1 (base + e.addr) e.size
  | _ => s

/-- An ember changed where it lies: its record is written anew. -/
def State.reEmber (s : State) (n : Nat) (f : Ember → Ember) : State :=
  let s1 := s.modEmber n f
  match s1.ember? n with
  | some e => (s1.emberBanks e).storeEmber e
  | none => s1

/-- The next sequence number of a (HOME, SOURCE) of a quad (R51 SEQ). -/
def State.nextSeq (s : State) (q : QuadId) (home source : Nat) : Nat × State :=
  let n := (((s.quad? q).map fun x => valueOf (home, source) 0 x.seqs).getD 0 + 1) % 2 ^ 88
  (n, s.modQuad q fun x => { x with seqs := setValue (home, source) n x.seqs })

/-- An ember deposited (R50): numbered among those its quad has deposited with its HOME and SOURCE, its record
written by a unit. -/
def State.depositBy (s : State) (u : XUnit) (e : Ember) : State :=
  let (n, s1) := s.nextSeq e.quad e.home e.source
  let s2 := (s1.emberBanks e).storeBy u { e with seq := n }
  { s2 with embers := s2.embers ++ [{ e with seq := n }] }

/-- The same by the ember's quad. -/
def State.deposit (s : State) (e : Ember) : State := s.depositBy (.quad e.quad) e

/-! ### Trace records (R356) -/

/-- Bytes of a trace area sent as posted writes of the context, which order nothing (R356). -/
def State.tracePost (s : State) (c : Context) (q : QuadId) (va pa : Nat) (bs : List Byte) : State :=
  (pieces8 (bs.length + 1) pa 0 bs.length).foldl (fun s p =>
    let a : Access :=
      ⟨c.id, va + p.1, pa + p.1, p.2, true, false, none, toWord (leNat ((bs.drop p.1).take p.2)), 0, .plain⟩
    let sent : Posted :=
      { id := s.nextId, sid := s.nextId, cx := c.id, quad := q, trace := true, release := false, va := a.va, pa := a.pa, n := a.n }
    { s with posted := s.posted ++ [sent] }.send c.id (.quad q) (s.homeOf a.pa) 0 (.posted a) (homePoint (s.homeOf a.pa))) s

/-- A write cut at 64 KiB pages. -/
def pageCut (va : Nat) (bs : List Byte) : List (Nat × List Byte) :=
  let k := 65536 - va % 65536
  if bs.length ≤ k then [(va, bs)] else [(va, bs.take k), (va + k, bs.drop k)]

/-- Every piece of a write translated by a unit, with its physical address; none when one would fault. -/
def xlatePieces (u : XUnit) (c : Context) : List (Nat × List Byte) → State → State × Option (List (Nat × Nat × List Byte))
  | [], s => (s, some [])
  | (va, bs) :: r, s =>
    match translateBy s u c va 1 .write with
    | (s1, .ok pa) =>
      match xlatePieces u c r s1 with
      | (s2, some ps) => (s2, some ((va, pa, bs) :: ps))
      | (s2, none) => (s2, none)
    | (s1, _) => (s1, none)

/-- Bytes of a trace area written at a virtual address, page by page, and whether they could be. -/
def State.traceWrite (s : State) (c : Context) (q : QuadId) (va : Nat) (bs : List Byte) : State × Bool :=
  match xlatePieces (.quad q) c (pageCut va bs) s with
  | (s1, some ps) => (ps.foldl (fun s p => s.tracePost c q p.1 p.2.1 p.2.2) s1, true)
  | (s1, none) => (s1, false)

/-- The counts at the head of a trace area: records written and dropped. -/
def State.traceCounts (s : State) (c : Context) (base : Nat) (q : QuadId) : State :=
  match s.quad? q with
  | some x => (s.traceWrite c q base (leBytes 8 x.traced ++ leBytes 8 x.dropped)).1
  | none => s

/-- A trace record of a kind, when the launch's mask enables it: sent to its place as posted writes of the context, charged to
it at their home, and counted under memory replies until acknowledged (R307); or dropped and counted when the area is full or
the write would fault. -/
def State.traceRec (s : State) (cx : CtxId) (q : QuadId) (elem kind sub id slot tag block : Nat) (pay : Word) : State :=
  match s.ctx? cx, s.quad? q with
  | some c, some x =>
    if !bitOf c.params.traceMask (kind - 1) || c.params.traceSize = 0 then s
    else
      let base := c.params.traceBase + (96 * x.ldie + c.indexOf x) * (c.params.traceSize * 4096)
      let w0 := x.ldie % 16 * 2 ^ 48 + slot % 128 * 2 ^ 41 + elem % 4 * 2 ^ 39 + c.indexOf x % 128 * 2 ^ 32 +
        id % 65536 * 2 ^ 16 + sub % 256 * 2 ^ 8 + kind
      let bytes := [w0, tag % 2 ^ 40, block % 2 ^ 57, pay.toNat].flatMap (leBytes 8)
      let at' := base + 64 + 32 * x.traced
      let drop := fun (s : State) => (s.modQuad q fun y => { y with dropped := y.dropped + 1 }).traceCounts c base q
      if c.params.traceSize * 4096 < 64 + 32 * (x.traced + 1) then drop s
      else
        match s.traceWrite c q at' bytes with
        | (s', true) => (s'.modQuad q fun y => { y with traced := y.traced + 1 }).traceCounts c base q
        | (s', false) => drop s'
  | _, _ => s

/-! ### Events to the host (R387, R394) -/

/-- Host memory or HBM through HDMBASE, by host physical address (R386): the package offset when it is HBM. -/
def State.hdm? (s : State) (hpa : Nat) : Option Nat :=
  if s.hdmBase ≤ hpa ∧ hpa < s.hdmBase + 2 ^ 40 then some (hpa - s.hdmBase) else none

/-- A byte at a host physical address. -/
def State.hostByte (s : State) (hpa : Nat) : Byte :=
  match s.hdm? hpa with
  | some o => memGet o s.mem
  | none => memGet hpa s.hostMem

/-- A range of host physical addresses cut at the edges of the window at HDMBASE: where the window's part begins and ends in
it. -/
def State.hdmPart (s : State) (hpa n : Nat) : Nat × Nat := (min n (s.hdmBase - hpa), min n (s.hdmBase + 2 ^ 40 - hpa))

/-- K's access to the part of a range that is HBM: its lines, as any access of K's (R18, R25, R293). -/
def State.hostTouch (s : State) (hpa n : Nat) (write : Bool) : State :=
  let (a, b) := s.hdmPart hpa n
  if a < b then s.rangeAccess .k ⟨0, 1024⟩ 6 (hpa + a - s.hdmBase) (b - a) write else s

def State.hostRead (s : State) (hpa n : Nat) : List Byte := (List.range n).map fun k => s.hostByte (hpa + k)

/-- Bytes K reads for a command, and the accesses that takes. -/
def State.hostFetch (s : State) (hpa n : Nat) : State × List Byte :=
  let s1 := s.hostTouch hpa n false
  (s1, s1.hostRead hpa n)

/-- Bytes K writes at a host physical address. -/
def State.hostWrite (s : State) (hpa : Nat) (bs : List Byte) : State :=
  let (a, b) := s.hdmPart hpa bs.length
  let s1 := if a < b then (s.hostTouch hpa bs.length true).write (hpa + a - s.hdmBase) ((bs.take b).drop a) else s
  { s1 with hostMem := memPut (hpa + b) (bs.drop b) (memPut hpa (bs.take a) s1.hostMem) }

/-- An event put into a function's ring; a full ring drops it and counts it in EQLOST (R387, R394). -/
def State.event (s : State) (vf : Nat) (master ownerVf ctx code type : Nat) (addr data : Nat) : State :=
  match s.windows[vf]? with
  | none => s
  | some w =>
    let n := w.seq + 1
    if (w.eqTail + 1) % 256 = w.eqHead then
      { s with windows := modAt vf (fun w => { w with seq := n, eqLost := (w.eqLost + 1) % 2 ^ 32 }) s.windows }
    else
      let w0 := master * 2 ^ 32 + ownerVf % 64 * 2 ^ 26 + ctx % 1024 * 2 ^ 16 + code % 256 * 2 ^ 8 + type
      let s1 := s.hostWrite (w.eqBase * 8192 + 32 * w.eqTail) ([w0, addr, data, n].flatMap (leBytes 8))
      { s1 with windows := modAt vf (fun w => { w with seq := n, eqTail := (w.eqTail + 1) % 256 }) s1.windows }

/-- A violation by a context (R322): the breach record to the physical function, and the context to be frozen. -/
def State.breach (s : State) (cx : CtxId) (master addr : Nat) (data : Nat) : State :=
  let s1 := s.event 0 master cx.vf cx.num 0x1A 1 addr data
  s1.modCtx cx fun c =>
    match c.run with
    | .running | .stopped => { c with run := .freezing }
    | .cutting _ false => { c with run := .freezing }
    | _ => c

/-! ### Leaving an instance: charges, refusals, faults -/

/-- The energy of the lanes an instance has fired, at the factor and table in force (R335, R337). -/
def State.laneEnergy (s : State) (i : Inst) : Nat :=
  (i.fired.map fun k => Config.eventEnergy s.calibRec k * (s.factors[i.frame.quad.die]?).getD 4096 / 4096).foldl (· + ·) 0

/-- Spilled operands added to a slot's row, if it has one: a row is assigned at the slot's first match (R357). -/
def Quad.addSpilled (q : Quad) (block slot n : Nat) : Quad :=
  { q with hist := modWhere (fun r => r.block = block ∧ r.slot = slot) (fun r => { r with spilled := r.spilled + n }) q.hist }

/-- Spilled operands of the entries an instance leaves unmatched, counted in their slots' rows, where another instance's match has
assigned one since (R357). -/
def Quad.addOwed (q : Quad) (i : Inst) : Quad :=
  i.slots.foldl (fun q x => if x.status == .idle && x.owed != 0 then q.addSpilled i.addr x.slot x.owed else q) q

/-- The energy of the lanes an instance fired, charged at step 4 or at abandonment (R335, R40) and added to the strand's
(R347); with it the spills its rows do not count yet (R357). -/
def State.settleEnergy (s : State) (i : Inst) : State :=
  ((s.addCharge (.quad i.frame.quad) (.ctx i.frame.strand.cx) (s.laneEnergy i)).onDie i.frame.quad.die (s.laneEnergy i)).modQuad
    i.frame.quad fun q => q.addOwed i

/-- The circuit tokens an instance took return to the heads of their FIFOs when it does not commit, so that a replay
fires on them again (R39, R40; notes/assumptions 17). -/
def State.untake (s : State) (i : Inst) : State := { s with fifo := i.taken ++ s.fifo }

/-- The strand after an instance of it has ended, with the instance's energy. -/
def Inst.strandAfter (i : Inst) (s : State) : Strand :=
  { i.frame.strand with energy := i.frame.strand.energy + s.laneEnergy i, bkptSlot := none }

/-- An ember of all registers at a block: of an abandonment, or of a fault (R39, R365). Its record takes pool space;
with both pools full it stays in the frame area. A 0x86 ember is held in the saved image and takes none. -/
def State.fullEmber (s : State) (st : Strand) (q : QuadId) (elem block : Nat) (regs : List Word) (reason : Nat)
    (wait : Wait) : Nat × Bool × State :=
  let e : Ember :=
    { id := s.nextId, strand := st, quad := q, elem := elem, live := 0xFFFFFFFF, regs := regs, exit := 0, reply := 0,
      reason := reason, seq := 0, cont := block, source := 0, pkg := 0, home := 0, width := 0, op := 0,
      block := block, pool := .frameArea q, addr := 0, size := 320, wait := wait, value := none }
  let place : Option (Pool × Nat × Nat) :=
    if reason = 0x86 then some (.image, 0, 320)
    else
      match st.handler with
      | some k => some (.slot k, 0, 320)
      | none => s.findSpace st.cx q 320 []
  match place with
  | some (p, a, _) => (s.nextId, true, { s with nextId := s.nextId + 1 }.deposit { e with pool := p, addr := a })
  | none => (s.nextId, false, { s with nextId := s.nextId + 1 }.deposit e)

/-- The trace record of a fault (R356): its node is the quad the record names. -/
def State.traceFault (s : State) (cx : CtxId) (f : FaultRec) : State :=
  match (s.ctx? cx).bind fun c => c.quadOf? f.ldie f.qindex with
  | some q => s.traceRec cx q f.elem 4 f.code.num (f.slotNo.getD 0xFFFF) 0 f.tag f.block 0
  | none => s

/-- A fault traced, and queued at K in arrival order (R356, R368, R369). A token-kind fault beyond 256 waiting is dropped and
counted. -/
def State.queueFault (s : State) (cx : CtxId) (f : FaultRec) : State :=
  (s.traceFault cx f).modCtx cx fun c =>
    if f.kind = 2 ∧ 256 ≤ (c.faults.filter (·.kind = 2)).length then { c with lost := min 0xFFFF (c.lost + 1) }
    else { c with faults := c.faults ++ [f] }

/-- A fault makes a precise stop instead of a handler: the stop mask selects it, or the launch named no handler
(R353, R368). -/
def Context.stopsOn (c : Context) (code : FaultCode) : Bool := bitOf c.params.stopMask code.num || c.params.handler == 0

/-- The LSID of a slot, or an INLET's N (R205, R224). -/
def Inst.numberAt (i : Inst) (slot : Nat) : Option Nat :=
  match (i.body[slot]?).map fun w => decodeWords w i.body[slot + 1]? with
  | some (.ok x) =>
    match x.form with
    | some (_, .l f) => some f.lsid.toNat
    | some (_, .s f) => some f.lsid.toNat
    | some (_, .e f) => some f.lsid.toNat
    | some (0x131, .r f) => some f.reg.toNat
    | _ => none
  | _ => none

/-- The record of a strand-kind fault raised in an instance. -/
def Inst.faultRec (i : Inst) (s : State) (code : FaultCode) (slot : Option Nat) (detail addr : Nat) : FaultRec :=
  { code := code, kind := 0, slotNo := slot, detail := detail, tag := i.frame.strand.tag, block := i.addr,
    addr := addr, handle := 0, unitNo := 0, unit := 0, elem := i.frame.elem,
    qindex := match s.ctx? i.frame.strand.cx, s.quad? i.frame.quad with
      | some c, some q => c.indexOf q
      | _, _ => 0,
    ldie := tagLdie i.frame.strand.tag, data := 0, ember := none, sid := some i.frame.strand.sid, cmd := none, lsid := slot.bind i.numberAt }

/-- TAKING AN EXCEPTION (R82 fault(), R365, R353): the instance performs nothing; its strand becomes an ember whose
REASON is the code, with every register live and the block as continuation, and the fault goes to K. Where the fault
stops the context precisely, the instance is held as it stands instead. EMBER_OVERFLOW holds the context (R371). -/
def State.takeFault (s : State) (i : Inst) (code : FaultCode) (slot : Option Nat) (detail addr : Nat) : State :=
  let cx := i.frame.strand.cx
  let r := i.faultRec s code slot detail addr
  let s1 := if code = .emberOverflow then s.modCtx cx fun c => { c with overflow := c.overflow + 1 } else s
  if ((s1.ctx? cx).map (·.stopsOn code)).getD true then
    ((s1.modInst i.id fun x => { x with held := true }).queueFault cx r)
  else
    let s2 := ((s1.settleEnergy i).untake i).dropInst i.id
    let (e, _, s3) := s2.fullEmber (i.strandAfter s) i.frame.quad i.frame.elem i.addr i.frame.regs code.num .fault
    s3.queueFault cx { r with ember := some e }

/-- Taking a fault in the instance of an issue, by its identity. -/
def State.faultAt (s : State) (inst : Nat) (code : FaultCode) (slot : Nat) (detail addr : Nat) : State :=
  match s.inst? inst with
  | some i => s.takeFault i code (some slot) detail addr
  | none => s

/-- One more in %replay and in the abandonment counters (R40, R348). -/
def State.countReplay (s : State) (q : QuadId) (reason : Nat) : State :=
  s.modQuad q fun x =>
    { x with replay := x.replay + 1, counters := bump 2 1 (bump (reason - 0x81 + 3) 1 x.counters) }

/-- The reservation of R303 on what a refusal waits for: the lines of the refused access for 0x83. -/
def Wait.resv : Wait → Option Resv
  | .poolOf d b k => some (.pool d b k)
  | .iterOf n b k => some (.iter n b k)
  | .entries _ needs => some (.entries (needs.map fun p => (p.1, p.2, 0)))
  | .conflict q _ lo hi => some (.lines q (lo / 64 * 64) ((hi + 63) / 64 * 64) none)
  | _ => none

/-- A refusal of R41 is counted with the strand (reasons 0x81 to 0x83); from the 64th on a reservation is due (R302).
Held lines end at an abandonment for another reason (R303). -/
def Strand.refuse (st : Strand) (reason : Nat) (wait : Wait) : Strand :=
  let keep := match st.resv with
    | some (.lines q lo hi u) => if reason = 0x83 then some (Resv.lines q lo hi u) else none
    | r => r
  if reason ≤ 0x83 then
    { st with refusals := st.refusals + 1, resv := keep, due := if 64 ≤ st.refusals + 1 then wait.resv else none }
  else { st with resv := keep }

/-- A fault against a strand held as an ember (R214, R278, R370): its REASON becomes the code; the fault goes to K. -/
def State.emberFault (s : State) (e : Ember) (code : FaultCode) (detail block addr : Nat) : State :=
  let s1 := s.reEmber e.id fun x => { x with reason := code.num, wait := .fault }
  s1.queueFault e.strand.cx
    { code := code, kind := 0, slotNo := none, detail := detail, tag := e.strand.tag, block := block, addr := addr,
      handle := 0, unitNo := 0, unit := 0, elem := e.elem, qindex := s.emberQindex e, ldie := tagLdie e.strand.tag,
      data := 0, ember := some e.id, sid := some e.strand.sid, cmd := none, lsid := none }

/-- An ember for whose record both pools are full: EMBER_OVERFLOW, the strand staying in the frame area, the context held
(R39, R371). -/
def State.overflowed (s : State) (n : Nat) : State :=
  match s.ember? n with
  | some e =>
    (s.modCtx e.strand.cx fun c => { c with overflow := c.overflow + 1 }).emberFault e .emberOverflow 0 e.block 0
  | none => s

/-- abort_replay (R39, R82): the instance performs nothing; its strand becomes an ember at the same block with every
register live, its reason and what it waits for. Both pools full: EMBER_OVERFLOW, the strand staying in the frame
area (R39). -/
def State.abandon (s : State) (i : Inst) (reason : Nat) (wait : Wait) : State :=
  let cx := i.frame.strand.cx
  let q := i.frame.quad
  let s0 := s.traceRec cx q i.frame.elem 5 reason 0 0 i.frame.strand.tag i.addr 0
  let s1 := (((s0.countReplay q reason).settleEnergy i).untake i).dropInst i.id
  let st := (i.strandAfter s).refuse reason wait
  let (block, regs) :=
    match reason, s.specs.find? (fun p => p.cx = cx ∧ p.space = tagSpace st.tag ∧ p.iter = tagIter st.tag) with
    | 0x87, some p => (p.block, p.regs)
    | _, _ => (i.addr, i.frame.regs)
  let (e, placed, s2) := s1.fullEmber st q i.frame.elem block regs reason wait
  if placed then s2 else s2.overflowed e

/-- Abandoning the instance of an issue, by its identity. -/
def State.abandonAt (s : State) (inst : Nat) (reason : Nat) (wait : Wait) : State :=
  match s.inst? inst with
  | some i => s.abandon i reason wait
  | none => s

/-! ### Spaces: items and their ends (R266, R278) -/

/-- A space's live count is zero but for the joining strand (R278); a space freed since had reached zero. -/
def State.joinDone (s : State) (e : Ember) (tag : Nat) : Bool :=
  match s.space? e.strand.cx (tagSpace tag) with
  | some p =>
    !p.allocated || p.gen != tagGen tag || p.live ≤ (if tagSpace e.strand.tag = p.num then 1 else 0)
  | none => true

/-- The held JOINs of a space that may be relit. -/
def State.joinsReady (s : State) (cx : CtxId) (space : Nat) : List (Msg × Nat) :=
  s.msgs.filterMap fun m => match m.body with
    | .join en tag =>
      (s.ember? en).bind fun e =>
        if m.cls = 20 ∧ e.strand.cx = cx ∧ tagSpace tag = space ∧ s.joinDone e tag then some (m, en) else none
    | _ => none

/-- The held JOINs of a space whose count is zero are relit (R278). -/
def State.relitJoins (s : State) (cx : CtxId) (space : Nat) : State :=
  (s.joinsReady cx space).foldl (fun s (m, en) => (s.dropMsg m.id).send m.cx .k m.src 1 (.reply en 0 none)) s

/-- Items more in a space's live count; a count that stood at zero has relit the JOINs that waited for it first (R278). -/
def State.countItem (s : State) (cx : CtxId) (space n : Nat) : State :=
  (s.relitJoins cx space).modSpace cx space fun p => { p with live := p.live + n }

/-- An item of a tag leaving its space's live count; a space freed since, its number perhaps allocated anew, counts other
items (R47, R266). -/
def State.uncountTag (s : State) (cx : CtxId) (tag : Nat) : State :=
  s.modSpace cx (tagSpace tag) fun p => if p.gen = tagGen tag then { p with live := p.live - 1 } else p

/-- A strand of the tag exists, as frame, ember or instance, held in a fault slot, or ended in an ordered space and not yet
retired (R265, R270, R274, R368). -/
def State.aliveTag (s : State) (cx : CtxId) (tag : Nat) : Bool :=
  (s.frames.any fun f => f.strand.cx = cx ∧ f.strand.tag = tag) ||
  (s.insts.any fun i => i.frame.strand.cx = cx ∧ i.frame.strand.tag = tag) ||
  (s.commits.any fun c => c.inst.frame.strand.cx = cx ∧ c.inst.frame.strand.tag = tag) ||
  (s.embers.any fun e => e.strand.cx = cx ∧ e.strand.tag = tag ∧ e.reason ≠ 0x8A) ||
  (s.contexts.any fun c => c.id = cx ∧ c.ringSlots.any fun x => (x.ember.map (·.strand.tag)) = some tag) ||
  (s.specs.any fun p => p.cx = cx ∧ p.ended = true ∧ p.strand.tag = tag) ||
  (s.msgs.any fun m => match m.body with | .frame f _ => f.strand.cx = cx ∧ f.strand.tag = tag | _ => false)

/-- An interval list without `i`. -/
def removeIter (i : Nat) (xs : List (Nat × Nat)) : List (Nat × Nat) :=
  xs.flatMap fun (a, b) => if a ≤ i ∧ i < b then [(a, i), (i + 1, b)].filter (fun p => p.1 < p.2) else [(a, b)]

def heldIn (i : Nat) (xs : List (Nat × Nat)) : Bool := xs.any fun p => p.1 ≤ i && i < p.2

/-- Iterations [a, b) held; what was held stays. -/
def holdRange (a b : Nat) (xs : List (Nat × Nat)) : List (Nat × Nat) := if a < b then xs ++ [(a, b)] else xs

/-- Embers whose cause clears: each waits for its place in its quad's ready list, in this order (R294, R295). -/
def State.wakeWhere (s : State) (p : Ember → Bool) : State :=
  (s.embers.filter p).foldl (fun s e =>
    (s.modEmber e.id fun x => { x with wait := .nothing }).modQuad e.quad fun q =>
      { q with cleared := q.cleared ++ [e.id] }) s

/-- The strands there are: in embers, frames, instances, frames that move, and fault slots (R302). -/
def State.strands (s : State) : List Strand :=
  s.embers.map (·.strand) ++ s.frames.map (·.strand) ++ s.insts.map (·.frame.strand) ++
    (s.msgs.filterMap fun m => match m.body with | .frame f _ => some f.strand | _ => none) ++
    s.contexts.flatMap fun c => c.ringSlots.filterMap fun x => x.ember.map (·.strand)

/-- Every strand changed where it is. -/
def State.mapStrands (s : State) (f : Strand → Strand) : State :=
  { s with
    embers := s.embers.map fun e => { e with strand := f e.strand },
    frames := s.frames.map fun x => { x with strand := f x.strand },
    insts := s.insts.map fun i => { i with frame := { i.frame with strand := f i.frame.strand } },
    msgs := s.msgs.map fun m => match m.body with
      | .frame x held => { m with body := .frame { x with strand := f x.strand } held }
      | _ => m,
    contexts := s.contexts.map fun c =>
      { c with ringSlots := c.ringSlots.map fun x => { x with ember := x.ember.map fun e => { e with strand := f e.strand } } } }

/-- The lowest free number of a declaration's pool. -/
def Context.freeNumber? (c : Context) (d : TagDecl) : Option Nat :=
  ((c.spaces.filter fun p => d.first ≤ p.num ∧ p.num < d.first + d.pool ∧ !p.allocated ∧ !p.reserved).map (·.num)).min?

/-- The lowest free, unreserved iteration of a space: the least end of a held or reserved run that is in neither. -/
def Space.freeIter? (p : Space) : Option Nat :=
  ((0 :: (p.held.map (·.2) ++ p.resvIters.map (· + 1))).filter fun i =>
    i < 2 ^ p.k && !heldIn i p.held && !p.resvIters.contains i).min?

/-- The free number of a declaration's pool that a firing or a reservation gets. -/
def State.freePool? (s : State) (cx : CtxId) (d : Nat) : Option Nat :=
  (s.ctx? cx).bind fun c => ((c.image.bind fun i => i.tagspaces[d]?).bind c.freeNumber?)

/-- A number reserved for a TSALLOC of a strand, its generation one on (R267, R268): the reservation, and the state. -/
def State.reserveNumber (s : State) (st : Strand) (d n block slot : Nat) : TagResv × State :=
  let gen := (((s.space? st.cx n).map (·.gen)).getD 0 + 1) % 16
  let k := ((((s.ctx? st.cx).bind (·.image)).bind fun i => i.tagspaces[d]?).map (·.k)).getD 0
  (⟨block, slot, mkTag (tagLdie st.tag) (tagCtx st.tag) n gen 0, true⟩,
   s.modSpace st.cx n fun p => { p with reserved := true, gen := gen, decl := some d, k := k })

/-- An iteration of the strand's space reserved for a TAGNEW (R267, R268). -/
def State.reserveIter (s : State) (st : Strand) (space it block slot : Nat) : TagResv × State :=
  (⟨block, slot, st.tag / 65536 * 65536 + it, false⟩,
   s.modSpace st.cx space fun p => { p with resvIters := p.resvIters ++ [it] })

/-- The head of a reservation queue has got what it waits for (R303): the reservation of R268 is its strand's, it leaves the
queue, and its ember becomes ready. -/
def State.granted1 (s : State) (cx : CtxId) (sid : Nat) (r : TagResv) : State :=
  let give := fun (st : Strand) => if st.sid = sid ∧ st.cx = cx then { st with tagResv := st.tagResv ++ [r], resv := none } else st
  (s.mapStrands give).wakeWhere fun e =>
    e.strand.cx = cx && e.strand.sid = sid && (match e.wait with | .poolOf _ _ _ => true | .iterOf _ _ _ => true | _ => false)

/-- A strand taken off the head of a pool's or a space's reservation queue. -/
def State.offQueue (s : State) (cx : CtxId) (pool : Bool) (key sid : Nat) : State :=
  s.modCtx cx fun c =>
    if pool then { c with poolQueue := c.poolQueue.filter (· ≠ (key, sid)) }
    else { c with iterQueue := c.iterQueue.filter (· ≠ (key, sid)) }

/-- Free numbers of a pool go to its reservation queue, head first (R303). -/
def State.servePool (s : State) (cx : CtxId) (d : Nat) : Nat → State
  | 0 => s
  | fuel + 1 =>
    match (s.ctx? cx).bind fun c => (c.poolQueue.find? (·.1 = d)).map (·.2), s.freePool? cx d with
    | some sid, some n =>
      match s.strands.find? fun st => st.sid = sid ∧ st.cx = cx with
      | some st =>
        match st.resv with
        | some (.pool _ block slot) =>
          let (r, s1) := s.reserveNumber st d n block slot
          ((s1.offQueue cx true d sid).granted1 cx sid r).servePool cx d fuel
        | _ => (s.offQueue cx true d sid).servePool cx d fuel
      | none => (s.offQueue cx true d sid).servePool cx d fuel
    | _, _ => s

/-- Free iterations of a space go to its reservation queue, head first (R303). -/
def State.serveIter (s : State) (cx : CtxId) (n : Nat) : Nat → State
  | 0 => s
  | fuel + 1 =>
    match (s.ctx? cx).bind fun c => (c.iterQueue.find? (·.1 = n)).map (·.2), (s.space? cx n).bind (·.freeIter?) with
    | some sid, some it =>
      match s.strands.find? fun st => st.sid = sid ∧ st.cx = cx with
      | some st =>
        match st.resv with
        | some (.iter _ block slot) =>
          let (r, s1) := s.reserveIter st n it block slot
          ((s1.offQueue cx false n sid).granted1 cx sid r).serveIter cx n fuel
        | _ => (s.offQueue cx false n sid).serveIter cx n fuel
      | none => (s.offQueue cx false n sid).serveIter cx n fuel
    | _, _ => s

/-- A number of a declaration's pool may have freed: it goes to the reservation queue; one that is left, with no queue, makes
every strand refused for want of one ready (R39, R303). -/
def State.wakePool (s : State) (cx : CtxId) (d : Nat) : State :=
  let queue := fun (s : State) => ((s.ctx? cx).map fun c => c.poolQueue.filter (·.1 = d)).getD []
  let s1 := s.servePool cx d (queue s).length
  if (queue s1).isEmpty && (s1.freePool? cx d).isSome then
    s1.wakeWhere fun e => e.strand.cx = cx && (match e.wait with | .poolOf k _ _ => k = d | _ => false)
  else s1

/-- An iteration of a space may have freed. -/
def State.wakeIter (s : State) (cx : CtxId) (n : Nat) : State :=
  let queue := fun (s : State) => ((s.ctx? cx).map fun c => c.iterQueue.filter (·.1 = n)).getD []
  let s1 := s.serveIter cx n (queue s).length
  if (queue s1).isEmpty && ((s1.space? cx n).bind (·.freeIter?)).isSome then
    s1.wakeWhere fun e => e.strand.cx = cx && (match e.wait with | .iterOf k _ _ => k = n | _ => false)
  else s1

/-- Freed entries of a vault go to its oldest entry request until that holds all it asked for (R303). -/
def Quad.grantEntries (q : Quad) : Nat → Quad
  | 0 => q
  | n + 1 =>
    match q.entryReqs with
    | [] => q
    | (sid, k) :: rest =>
      if k = 0 then ({ q with entryReqs := rest } : Quad).grantEntries n
      else if 64 ≤ q.entries.length then q
      else ({ q with entries := q.entries ++ [.reserved sid], entryReqs := (sid, k - 1) :: rest } : Quad).grantEntries n

/-- An entry of a vault's scoreboard has freed: requests are served, refusals of reason 0x82 become ready (R39). -/
def State.entryFreed (s : State) (q : QuadId) : State :=
  (s.modQuad q fun x => x.grantEntries 130).wakeWhere fun e =>
    match e.wait with | .entries qs _ => qs.contains q | _ => false

/-- A conflict of reason 0x83 has passed: the command's entry at the vault, or the waiting access (R39, R191). -/
def State.conflictOver (s : State) (q : QuadId) (id : Nat) : State :=
  s.wakeWhere fun e => match e.wait with | .conflict v k _ _ => v = q && k = id | _ => false

/-- The retained reports of a tag released at every quad of the context (R230, R269, R270). -/
def State.releaseReports (s : State) (cx : CtxId) (p : Nat → Bool) : State :=
  let mine := fun (e : Entry) => match e with | .report t _ _ _ => p t | _ => false
  let hit := (s.quads.filter fun q => q.cx = cx ∧ (q.entries.any mine)).map (·.id)
  let drop := fun (q : Quad) => if q.cx = cx then { q with entries := q.entries.filter fun e => !mine e } else q
  hit.foldl State.entryFreed { s with quads := s.quads.map drop }

/-- An iteration freed: its hold and its retained reports go; TAGNEW refusals of the space become ready (R39, R270). -/
def State.freeIter (s : State) (cx : CtxId) (space iter : Nat) : State :=
  let gen := ((s.space? cx space).map (·.gen)).getD 0
  let s1 := s.modSpace cx space fun p =>
    { p with held := removeIter iter p.held, freeing := p.freeing.filter (· ≠ iter) }
  (s1.releaseReports cx fun t => tagSpace t = space && tagGen t = gen && tagIter t = iter).wakeIter cx space

/-- A command issued under the tag is pending. -/
def State.pendingTag (s : State) (cx : CtxId) (tag : Nat) : Bool :=
  s.cmds.any fun p => p.cmd.cx = cx ∧ p.cmd.tag = tag

/-- The iterations marked by TAGREL that have become free of strands and commands, freed (R270). -/
def State.sweepFreeing (s : State) (cx : CtxId) (tag : Nat) : State :=
  match s.space? cx (tagSpace tag) with
  | some p =>
    if p.freeing.contains (tagIter tag) && !s.aliveTag cx tag && !s.pendingTag cx tag then
      s.freeIter cx p.num (tagIter tag)
    else s
  | none => s

/-- A strand retired: it leaves its space's live count at once, or when its last posted effect is acknowledged
(R278); its iteration's TAGREL mark is honoured. -/
def State.retire (s : State) (st : Strand) : State :=
  let s1 :=
    if s.posted.any (fun p => p.sid = st.sid ∧ p.trace = false) then
      { s with retiring := s.retiring ++ [(st.sid, st.cx, st.tag)] }
    else s.uncountTag st.cx st.tag
  s1.sweepFreeing st.cx st.tag

end Sys2Proof.Machine
end

