-- ==== Sys2Proof/Machine/Operands.lean ====
section
/-!
DEFINITION. Operand forms: how an instruction of each format takes its tokens from the lane being issued (R32, R76,
R77, R81), what a value instruction, an effect and an exit then do, and the immediates of R70.
-/

namespace Sys2Proof.Machine

/-- The outcomes of a step of this machine. -/
abbrev Out := Host.Outcome State Fault Refusal

/-- R76: what the predicate port says to a pr field; none: the token it needs is absent. A null counts as a
non-matching predicate (R77). -/
def predicate (pr : BitVec 2) (t : Option Tok) : Option Bool :=
  if pr = 0 then some true
  else
    match t with
    | none => none
    | some .null => some false
    | some (.val w) => some ((w.bit 0) == (pr == 3))

/-- A slot of an instance set to a status (R75, R77). -/
def Inst.setStatus (i : Inst) (slot : Nat) (st : SlotStatus) : Inst :=
  { i with slots := modWhere (fun x => x.slot = slot) (fun x => { x with status := st }) i.slots }

/-- One lane fires: `k` gets the lane, its instance and the state without the lane. A predicate that does not match
absorbs the operands and does nothing else (R77). -/
def firing (s : State) (pr : BitVec 2) (k : Lane → Inst → State → Out) : Out :=
  match s.lanes with
  | [] => .refused .notFiring
  | l :: rest =>
    match s.inst? l.inst with
    | none => .refused .notFiring
    | some i =>
      match predicate pr l.ops.third with
      | none => .refused .notFiring
      | some false =>
        .next ({ s with lanes := rest }.modInst l.inst fun i =>
          i.setStatus l.slot (.absorbed l.ops.left.isSome l.ops.right.isSome true))
      | some true => k l i { s with lanes := rest }

/-- The one data operand of a lane. -/
def Operands.one? (o : Operands) : Option Tok := o.left

/-- Two data operands: both values, or a null when either is (R81); none while one is absent. -/
def Operands.two? (o : Operands) : Option (Option (Word × Word)) :=
  match o.left, o.right with
  | some (.val a), some (.val b) => some (some (a, b))
  | some _, some _ => some none
  | _, _ => none

/-- Three data operands. -/
def Operands.three? (o : Operands) : Option (Option (Word × Word × Word)) :=
  match o.left, o.right, o.third with
  | some (.val a), some (.val b), some (.val c) => some (some (a, b, c))
  | some _, some _, some _ => some none
  | _, _, _ => none

/-- Exception flags of a float instruction ORed into the instance's (R112, R142). -/
def State.orFlags (s : State) (inst fl : Nat) : State := s.modInst inst fun i => { i with flags := i.flags ||| fl }

/-- A value instruction without data operands (R79). -/
def value0 (s : State) (pr : BitVec 2) (ts : List (BitVec 9)) (f : Lane → Inst → Tok) : Out :=
  firing s pr fun l i s => .next (s.deliver l.inst l.slot (f l i) ts)

/-- A value instruction of one operand: its result and flags; a null passes on (R81). -/
def value1 (s : State) (pr : BitVec 2) (ts : List (BitVec 9)) (f : Lane → Inst → Word → Word × Nat) : Out :=
  firing s pr fun l i s =>
    match l.ops.one? with
    | none => .refused .notFiring
    | some .null => .next (s.deliver l.inst l.slot .null ts)
    | some (.val a) => .next ((s.orFlags l.inst (f l i a).2).deliver l.inst l.slot (.val (f l i a).1) ts)

/-- A value instruction of two operands. -/
def value2 (s : State) (pr : BitVec 2) (ts : List (BitVec 9)) (f : Lane → Inst → Word → Word → Word × Nat) : Out :=
  firing s pr fun l i s =>
    match l.ops.two? with
    | none => .refused .notFiring
    | some none => .next (s.deliver l.inst l.slot .null ts)
    | some (some (a, b)) => .next ((s.orFlags l.inst (f l i a b).2).deliver l.inst l.slot (.val (f l i a b).1) ts)

/-- A value instruction of three operands; it is never predicated (R78). -/
def value3 (s : State) (ts : List (BitVec 9)) (f : Lane → Inst → Word → Word → Word → Word × Nat) : Out :=
  firing s 0 fun l i s =>
    match l.ops.three? with
    | none => .refused .notFiring
    | some none => .next (s.deliver l.inst l.slot .null ts)
    | some (some (a, b, c)) =>
      .next ((s.orFlags l.inst (f l i a b c).2).deliver l.inst l.slot (.val (f l i a b c).1) ts)

/-- An LSID resolved without effect (R81, R209). -/
def State.resolveLsid (s : State) (inst lsid : Nat) : State :=
  s.modInst inst fun i => { i with resolved := if i.resolved.contains lsid then i.resolved else i.resolved ++ [lsid] }

/-- commit(e, l) of R82: an effect buffered at its LSID, which is thereby resolved (R33). -/
def State.buffer (s : State) (inst slot lsid : Nat) (e : Effect) : State :=
  (s.modInst inst fun i => { i with effs := i.effs ++ [⟨lsid, slot, e⟩] }).resolveLsid inst lsid

/-- An effect of one operand; a null resolves its LSID and performs nothing (R81). -/
def effect1 (s : State) (pr : BitVec 2) (lsid : Nat) (k : Lane → Inst → Word → State → Out) : Out :=
  firing s pr fun l i s =>
    match l.ops.one? with
    | none => .refused .notFiring
    | some .null => .next (s.resolveLsid l.inst lsid)
    | some (.val a) => k l i a s

/-- An effect of two operands. -/
def effect2 (s : State) (pr : BitVec 2) (lsid : Nat) (k : Lane → Inst → Word → Word → State → Out) : Out :=
  firing s pr fun l i s =>
    match l.ops.two? with
    | none => .refused .notFiring
    | some none => .next (s.resolveLsid l.inst lsid)
    | some (some (a, b)) => k l i a b s

/-- An exit fires. -/
def fireExit (s : State) (l : Lane) (id : Nat) (op : ExitOp) : Out :=
  .next (s.modInst l.inst fun i => { i with exits := [⟨id, l.slot, op⟩] })

/-- The firing of an exit that has its operands: a second exit of the instance raises MULTI_EXIT (R36), whose code is below
that of any fault the exit itself could raise in the same clock (R64). -/
def onceExit (s : State) (l : Lane) (i : Inst) (k : State → Out) : Out :=
  if i.exits.isEmpty then k s else .next (s.takeFault i .multiExit (some l.slot) 0 0)

/-- An exit without data operands. -/
def exit0 (s : State) (pr : BitVec 2) (k : Lane → Inst → State → Out) : Out :=
  firing s pr fun l i s => onceExit s l i (k l i)

/-- An exit of one operand; a null leaves it unfired (R81). -/
def exit1 (s : State) (pr : BitVec 2) (k : Lane → Inst → Word → State → Out) : Out :=
  firing s pr fun l i s =>
    match l.ops.one? with
    | none => .refused .notFiring
    | some .null => .next s
    | some (.val a) => onceExit s l i (k l i a)

def exit2 (s : State) (pr : BitVec 2) (k : Lane → Inst → Word → Word → State → Out) : Out :=
  firing s pr fun l i s =>
    match l.ops.two? with
    | none => .refused .notFiring
    | some none => .next s
    | some (some (a, b)) => onceExit s l i (k l i a b)

def exit3 (s : State) (k : Lane → Inst → Word → Word → Word → State → Out) : Out :=
  firing s 0 fun l i s =>
    match l.ops.three? with
    | none => .refused .notFiring
    | some none => .next s
    | some (some (a, b, c)) => onceExit s l i (k l i a b c)

/-! ### Immediates and addresses (R70) -/

/-- base + sext(field, w) × scale, modulo 2^64. -/
def addrPlus (base : Nat) (w field scale : Nat) : Nat := lowBits 64 ((base : Int) + signedOf w field * (scale : Int))

/-- The width's access size: n = 8 >> xop[1:0] (R213). -/
def sizeOf (xop : BitVec 3) : Nat := 8 / 2 ^ (xop.toNat % 4)

/-- The access size of a float format: 4 in FP32, 2 in FP16 and BF16 (R213). -/
def floatSize (xop : BitVec 3) : Nat := if xop = 0 then 4 else 2

/-- Targets of a G format, T0 first (R86). -/
def targetsG (f : FmtG) : List (BitVec 9) := [f.t0, f.t1]

/-- The address after a block: the first 64-byte boundary past its last slot (R264). -/
def Inst.nextBlock (i : Inst) : Nat := i.addr + 64 * ((16 * (i.header.size + 2) + 63) / 64)

end Sys2Proof.Machine
end

