-- ==== Sys2Proof/Machine/IntOps.lean ====
section
/-!
DEFINITION. Integer, bit-field, comparison, predicate, steering and constant instructions (chapter 06). The values
are functions of the payloads, which the vector stream unit applies too (R246).
-/

namespace Sys2Proof.Machine

/-! ### Widths (R118) -/

/-- The width of xop[1:0]. -/
def widthOf (xop : Nat) : Nat := 64 / 2 ^ (xop % 4)

/-- A result of unsigned operands at a width, narrowed. -/
def onUnsigned (f : Nat → Nat → Nat → Int) (xop l r : Nat) : Nat :=
  let w := widthOf xop
  lowBits w (f w (l % 2 ^ w) (r % 2 ^ w))

/-- A result of signed operands at a width, narrowed. -/
def onSigned (f : Nat → Int → Int → Int) (xop l r : Nat) : Nat :=
  let w := widthOf xop
  lowBits w (f w (signedOf w l) (signedOf w r))

/-- A result of one unsigned operand. -/
def onOne (f : Nat → Nat → Int) (xop l : Nat) : Nat :=
  let w := widthOf xop
  lowBits w (f w (l % 2 ^ w))

/-! ### Two-source values (R121-R123) -/

/-- Bitwise complement within a width. -/
def compl (w a : Nat) : Nat := 2 ^ w - 1 - a % 2 ^ w

/-- sign(a b) · (|a| div |b|) and its remainder (R122). -/
def divsQ (w : Nat) (a b : Int) : Int :=
  if b = 0 then 2 ^ w - 1 else if a = -2 ^ (w - 1) ∧ b = -1 then a else a.tdiv b
def divsR (w : Nat) (a b : Int) : Int :=
  if b = 0 then a else if a = -2 ^ (w - 1) ∧ b = -1 then 0 else a - b * a.tdiv b

/-- ADD and SUB with xop[2] saturate to the signed range. -/
def addV (xop l r : Nat) : Nat :=
  if bitOf xop 2 then onSigned (fun w a b => satInt w true (a + b)) xop l r else onUnsigned (fun _ a b => a + b) xop l r
def subV (xop l r : Nat) : Nat :=
  if bitOf xop 2 then onSigned (fun w a b => satInt w true (a - b)) xop l r
  else onUnsigned (fun _ a b => (a : Int) - b) xop l r
def mulV (xop l r : Nat) : Nat := onUnsigned (fun _ a b => a * b) xop l r
def mulhsV (xop l r : Nat) : Nat := onSigned (fun w a b => a * b / 2 ^ w) xop l r
def mulhuV (xop l r : Nat) : Nat := onUnsigned (fun w a b => a * b / 2 ^ w) xop l r
def divsV (xop l r : Nat) : Nat := onSigned divsQ xop l r
def divuV (xop l r : Nat) : Nat := onUnsigned (fun w a b => if b = 0 then 2 ^ w - 1 else a / b) xop l r
def remsV (xop l r : Nat) : Nat := onSigned divsR xop l r
def remuV (xop l r : Nat) : Nat := onUnsigned (fun _ a b => if b = 0 then a else a - a / b * b) xop l r
def andV (xop l r : Nat) : Nat := onUnsigned (fun _ a b => (a &&& b : Nat)) xop l r
def orV (xop l r : Nat) : Nat := onUnsigned (fun _ a b => (a ||| b : Nat)) xop l r
def xorV (xop l r : Nat) : Nat := onUnsigned (fun _ a b => (a ^^^ b : Nat)) xop l r
def andnV (xop l r : Nat) : Nat := onUnsigned (fun w a b => (a &&& compl w b : Nat)) xop l r
def ornV (xop l r : Nat) : Nat := onUnsigned (fun w a b => (a ||| compl w b : Nat)) xop l r
def minsV (xop l r : Nat) : Nat := onSigned (fun _ a b => if a ≤ b then a else b) xop l r
def minuV (xop l r : Nat) : Nat := onUnsigned (fun _ a b => if a ≤ b then a else b) xop l r
def maxsV (xop l r : Nat) : Nat := onSigned (fun _ a b => if b ≤ a then a else b) xop l r
def maxuV (xop l r : Nat) : Nat := onUnsigned (fun _ a b => if b ≤ a then a else b) xop l r
def absdV (xop l r : Nat) : Nat := onUnsigned (fun _ a b => (((a : Int) - b).natAbs : Nat)) xop l r

/-- The shift rule, its amount whole (R123). -/
def shlV (xop l n : Nat) : Nat := onOne (fun w a => if w ≤ n then 0 else (a * 2 ^ n : Nat)) xop l
def shrV (xop l n : Nat) : Nat := onOne (fun w a => if w ≤ n then 0 else (a / 2 ^ n : Nat)) xop l
def sarV (xop l n : Nat) : Nat :=
  onOne (fun w a => signedOf w a / 2 ^ (if w ≤ n then w - 1 else n)) xop l
def rolV (xop l n : Nat) : Nat := onOne (fun w a => (a * 2 ^ (n % w) + a / 2 ^ (w - n % w) : Nat)) xop l
def rorV (xop l n : Nat) : Nat := onOne (fun w a => (a / 2 ^ (n % w) + a * 2 ^ (w - n % w) : Nat)) xop l

/-! ### Unary values (R124) -/

/-- Leading zeros of a within w. -/
def clzOf (w a : Nat) : Nat := if a = 0 then w else w - 1 - a.log2

/-- Trailing zeros, looking at `n` bits from bit `i`. -/
def ctzFrom (a : Nat) : Nat → Nat → Nat
  | 0, i => i
  | n + 1, i => if bitOf a i then i else ctzFrom a n (i + 1)

/-- One bits among the low n. -/
def popOf (a : Nat) : Nat → Nat
  | 0 => 0
  | n + 1 => a / 2 ^ n % 2 + popOf a n

/-- The low n bits in the opposite order. -/
def revBits (a : Nat) : Nat → Nat
  | 0 => 0
  | n + 1 => revBits (a / 2) n + a % 2 * 2 ^ n

/-- The low n bytes in the opposite order. -/
def revBytes (a : Nat) : Nat → Nat
  | 0 => 0
  | n + 1 => revBytes (a / 256) n + a % 256 * 256 ^ n

def negV (xop l : Nat) : Nat := onOne (fun _ a => -(a : Int)) xop l
def absV (xop l : Nat) : Nat := onOne (fun w a => ((signedOf w a).natAbs : Nat)) xop l
def notV (xop l : Nat) : Nat := onOne (fun w a => compl w a) xop l
def clzV (xop l : Nat) : Nat := onOne (fun w a => clzOf w a) xop l
def ctzV (xop l : Nat) : Nat := onOne (fun w a => ctzFrom a w 0) xop l
def popcV (xop l : Nat) : Nat := onOne (fun w a => popOf a w) xop l
def brevV (xop l : Nat) : Nat := onOne (fun w a => revBits a w) xop l
def bswapV (xop l : Nat) : Nat := onOne (fun w a => revBytes a (w / 8)) xop l
def sextV (xop l : Nat) : Nat := lowBits 64 (signedOf (widthOf xop) l)
def zextV (xop l : Nat) : Nat := onOne (fun _ a => a) xop l
def movV (xop l : Nat) : Nat := onOne (fun _ a => a) xop l

/-! ### Three-source values (R128-R130) -/

/-- The field of a control operand taken from a source that goes on without end (R128). -/
def fieldOf (src : Int) (x : Nat) : Nat := lowBits (x / 256 % 256) (src / 2 ^ (x % 256))

def bfxV (xop l n x : Nat) : Nat :=
  onOne (fun w a => if w ≤ n then 0 else ((fieldOf a x * 2 ^ n : Nat) : Int)) xop l
def bfxsV (xop l n x : Nat) : Nat :=
  onOne (fun w a => if w ≤ n ∨ x / 256 % 256 = 0 then 0 else signedOf (x / 256 % 256) (fieldOf (signedOf w a) x) * 2 ^ n)
    xop l
def bfiV (xop l r x : Nat) : Nat :=
  onUnsigned (fun w a b =>
    let mask := (2 ^ (x / 256 % 256) - 1) * 2 ^ (x % 256) % 2 ^ w
    ((a &&& compl w mask) ||| (b * 2 ^ (x % 256) &&& mask) : Nat)) xop l r
def selV (xop l r x : Nat) : Nat := onUnsigned (fun _ a b => if bitOf x 0 then a else b) xop l r
def maddV (xop l r x : Nat) : Nat := onUnsigned (fun w a b => (a * b + x % 2 ^ w : Nat)) xop l r
def fshV (xop l r x : Nat) : Nat := onUnsigned (fun w a b => ((a * 2 ^ w + b) / 2 ^ (x % w) : Nat)) xop l r

/-! ### Comparisons (R131) -/

/-- A relation as 0 or 1. -/
def truth (b : Bool) : Nat := if b then 1 else 0

def cmpU (f : Nat → Nat → Bool) (xop l r : Nat) : Nat :=
  truth (f (l % 2 ^ widthOf xop) (r % 2 ^ widthOf xop))
def cmpS (f : Int → Int → Bool) (xop l r : Nat) : Nat :=
  truth (f (signedOf (widthOf xop) l) (signedOf (widthOf xop) r))

def teqV (xop l r : Nat) : Nat := cmpU (fun a b => a == b) xop l r
def tneV (xop l r : Nat) : Nat := cmpU (fun a b => a != b) xop l r
def tltsV (xop l r : Nat) : Nat := cmpS (fun a b => a < b) xop l r
def tlesV (xop l r : Nat) : Nat := cmpS (fun a b => a ≤ b) xop l r
def tltuV (xop l r : Nat) : Nat := cmpU (fun a b => a < b) xop l r
def tleuV (xop l r : Nat) : Nat := cmpU (fun a b => a ≤ b) xop l r
def tgtsV (xop l r : Nat) : Nat := cmpS (fun a b => b < a) xop l r
def tgesV (xop l r : Nat) : Nat := cmpS (fun a b => b ≤ a) xop l r
def tgtuV (xop l r : Nat) : Nat := cmpU (fun a b => b < a) xop l r
def tgeuV (xop l r : Nat) : Nat := cmpU (fun a b => b ≤ a) xop l r

/-! ### Forms -/

/-- A G-format instruction of one operand, whose value is a function of xop and the payload. -/
def intOne (f : FmtG) (s : State) (v : Nat → Nat → Nat) : Out :=
  value1 s f.pr (targetsG f) fun _ _ a => (toWord (v f.xop.toNat a.toNat), 0)

/-- A G-format instruction of two operands. -/
def intTwo (f : FmtG) (s : State) (v : Nat → Nat → Nat → Nat) : Out :=
  value2 s f.pr (targetsG f) fun _ _ a b => (toWord (v f.xop.toNat a.toNat b.toNat), 0)

/-- A G-format instruction of three operands. -/
def intThree (f : FmtG) (s : State) (v : Nat → Nat → Nat → Nat → Nat) : Out :=
  value3 s (targetsG f) fun _ _ a b x => (toWord (v f.xop.toNat a.toNat b.toNat x.toNat), 0)

/-- An I-format instruction: the right operand is the immediate, sign-extended (R125). -/
def intImm (f : FmtI) (s : State) (v : Nat → Nat → Nat → Nat) : Out :=
  value1 s f.pr [f.t0] fun _ _ a => (toWord (v f.xop.toNat a.toNat (sextWord f.imm9.toNat 9).toNat), 0)

def execAdd (f : FmtG) (s : State) : Out := intTwo f s addV
def execSub (f : FmtG) (s : State) : Out := intTwo f s subV
def execMul (f : FmtG) (s : State) : Out := intTwo f s mulV
def execMulhs (f : FmtG) (s : State) : Out := intTwo f s mulhsV
def execMulhu (f : FmtG) (s : State) : Out := intTwo f s mulhuV
def execDivs (f : FmtG) (s : State) : Out := intTwo f s divsV
def execDivu (f : FmtG) (s : State) : Out := intTwo f s divuV
def execRems (f : FmtG) (s : State) : Out := intTwo f s remsV
def execRemu (f : FmtG) (s : State) : Out := intTwo f s remuV
def execAndOp (f : FmtG) (s : State) : Out := intTwo f s andV
def execOrOp (f : FmtG) (s : State) : Out := intTwo f s orV
def execXorOp (f : FmtG) (s : State) : Out := intTwo f s xorV
def execAndn (f : FmtG) (s : State) : Out := intTwo f s andnV
def execOrn (f : FmtG) (s : State) : Out := intTwo f s ornV
def execShl (f : FmtG) (s : State) : Out := intTwo f s shlV
def execShr (f : FmtG) (s : State) : Out := intTwo f s shrV
def execSar (f : FmtG) (s : State) : Out := intTwo f s sarV
def execRol (f : FmtG) (s : State) : Out := intTwo f s rolV
def execRor (f : FmtG) (s : State) : Out := intTwo f s rorV
def execMins (f : FmtG) (s : State) : Out := intTwo f s minsV
def execMinu (f : FmtG) (s : State) : Out := intTwo f s minuV
def execMaxs (f : FmtG) (s : State) : Out := intTwo f s maxsV
def execMaxu (f : FmtG) (s : State) : Out := intTwo f s maxuV
def execAbsd (f : FmtG) (s : State) : Out := intTwo f s absdV

def execNeg (f : FmtG) (s : State) : Out := intOne f s negV
def execAbs (f : FmtG) (s : State) : Out := intOne f s absV
def execNotOp (f : FmtG) (s : State) : Out := intOne f s notV
def execClz (f : FmtG) (s : State) : Out := intOne f s clzV
def execCtz (f : FmtG) (s : State) : Out := intOne f s ctzV
def execPopc (f : FmtG) (s : State) : Out := intOne f s popcV
def execBrev (f : FmtG) (s : State) : Out := intOne f s brevV
def execBswap (f : FmtG) (s : State) : Out := intOne f s bswapV
def execSext (f : FmtG) (s : State) : Out := intOne f s sextV
def execZext (f : FmtG) (s : State) : Out := intOne f s zextV
def execMov (f : FmtG) (s : State) : Out := intOne f s movV

/-- NULL: a null token to both targets (R124). -/
def execNullOp (f : FmtG) (s : State) : Out := value0 s f.pr (targetsG f) fun _ _ => .null

def execBfx (f : FmtG) (s : State) : Out := intThree f s bfxV
def execBfxs (f : FmtG) (s : State) : Out := intThree f s bfxsV
def execBfi (f : FmtG) (s : State) : Out := intThree f s bfiV
def execSel (f : FmtG) (s : State) : Out := intThree f s selV
def execMadd (f : FmtG) (s : State) : Out := intThree f s maddV
def execFsh (f : FmtG) (s : State) : Out := intThree f s fshV

def execAddi (f : FmtI) (s : State) : Out := intImm f s addV
def execMuli (f : FmtI) (s : State) : Out := intImm f s mulV
def execAndi (f : FmtI) (s : State) : Out := intImm f s andV
def execOri (f : FmtI) (s : State) : Out := intImm f s orV
def execXori (f : FmtI) (s : State) : Out := intImm f s xorV
def execShli (f : FmtI) (s : State) : Out := intImm f s shlV
def execShri (f : FmtI) (s : State) : Out := intImm f s shrV
def execSari (f : FmtI) (s : State) : Out := intImm f s sarV
def execRoli (f : FmtI) (s : State) : Out := intImm f s rolV
def execMinsi (f : FmtI) (s : State) : Out := intImm f s minsV
def execMaxsi (f : FmtI) (s : State) : Out := intImm f s maxsV

/-- MOVI (R126). -/
def execMovi (f : FmtI) (s : State) : Out :=
  value0 s f.pr [f.t0] fun _ _ => .val (toWord (movV f.xop.toNat (sextWord f.imm9.toNat 9).toNat))

def execTeq (f : FmtG) (s : State) : Out := intTwo f s teqV
def execTne (f : FmtG) (s : State) : Out := intTwo f s tneV
def execTlts (f : FmtG) (s : State) : Out := intTwo f s tltsV
def execTles (f : FmtG) (s : State) : Out := intTwo f s tlesV
def execTltu (f : FmtG) (s : State) : Out := intTwo f s tltuV
def execTleu (f : FmtG) (s : State) : Out := intTwo f s tleuV
def execTgts (f : FmtG) (s : State) : Out := intTwo f s tgtsV
def execTges (f : FmtG) (s : State) : Out := intTwo f s tgesV
def execTgtu (f : FmtG) (s : State) : Out := intTwo f s tgtuV
def execTgeu (f : FmtG) (s : State) : Out := intTwo f s tgeuV
def execTeqi (f : FmtI) (s : State) : Out := intImm f s teqV
def execTnei (f : FmtI) (s : State) : Out := intImm f s tneV
def execTltsi (f : FmtI) (s : State) : Out := intImm f s tltsV
def execTlesi (f : FmtI) (s : State) : Out := intImm f s tlesV
def execTltui (f : FmtI) (s : State) : Out := intImm f s tltuV
def execTleui (f : FmtI) (s : State) : Out := intImm f s tleuV
def execTgtsi (f : FmtI) (s : State) : Out := intImm f s tgtsV
def execTgesi (f : FmtI) (s : State) : Out := intImm f s tgesV

/-! ### Predicates, steering, merging (R132-R135) -/

/-- Bits 0 of two operands combined. -/
def predTwo (f : FmtG) (s : State) (v : Bool → Bool → Bool) : Out :=
  value2 s f.pr (targetsG f) fun _ _ a b => (toWord (truth (v (a.bit 0) (b.bit 0))), 0)

def execPand (f : FmtG) (s : State) : Out := predTwo f s fun a b => a && b
def execPor (f : FmtG) (s : State) : Out := predTwo f s fun a b => a || b
def execPxor (f : FmtG) (s : State) : Out := predTwo f s fun a b => a != b
def execPnot (f : FmtG) (s : State) : Out :=
  value1 s f.pr (targetsG f) fun _ _ a => (toWord (truth (!a.bit 0)), 0)

/-- STEER: its value to one target; a null operand sends nulls to both (R133). -/
def execSteer (f : FmtG) (s : State) : Out :=
  firing s f.pr fun l _ s =>
    match l.ops.two? with
    | none => .refused .notFiring
    | some none => .next (s.deliver l.inst l.slot .null (targetsG f))
    | some (some (a, b)) => .next (s.deliver l.inst l.slot (.val a) [if b.bit 0 then f.t0 else f.t1])

/-- The token MERGE passes on: a null for a null selector; none while it has not arrived (R134). -/
def mergeToken (o : Operands) : Option Tok :=
  match o.third with
  | none => none
  | some .null => some .null
  | some (.val x) => if x.bit 0 then o.left else o.right

/-- MERGE (R134); it is never predicated (R78). Its drops are counted where tokens arrive. -/
def execMerge (f : FmtG) (s : State) : Out :=
  firing s 0 fun l _ s =>
    match mergeToken l.ops with
    | none => .refused .notFiring
    | some t => .next (s.deliver l.inst l.slot t (targetsG f))

/-- FAN (R135). -/
def execFan (f : FmtF) (s : State) : Out := value1 s f.pr [f.t0, f.t1, f.t2, f.t3] fun _ _ a => (a, 0)

/-! ### Carry reads, tags, constants (R136-R139) -/

def execRdc (f : FmtR) (s : State) : Out :=
  value0 s 0 [f.t0, f.t1] fun _ i => .val ((i.frame.regs[f.reg.toNat]?).getD 0)

def execTagof (f : FmtG) (s : State) : Out :=
  value0 s f.pr (targetsG f) fun _ i => .val (toWord (i.frame.strand.tag % 2 ^ 40))

/-- R138: the base tag names an allocated space of the context with its current generation, on a logical die of the
context, and the iteration is below the space's capacity. -/
def State.retagOk (s : State) (i : Inst) (iter t : Nat) : Bool :=
  let st := i.frame.strand
  tagCtx t == tagCtx st.tag &&
  ((s.ctx? st.cx).map fun c => (c.region? (tagLdie t)).isSome).getD false &&
  match s.space? st.cx (tagSpace t) with
  | some p => p.openTo st && p.gen == tagGen t && iter < 2 ^ p.k
  | none => false

/-- RETAG (R138). -/
def execRetag (f : FmtG) (s : State) : Out :=
  firing s f.pr fun l i s =>
    match l.ops.two? with
    | none => .refused .notFiring
    | some none => .next (s.deliver l.inst l.slot .null (targetsG f))
    | some (some (a, b)) =>
      let t := b.toNat % 2 ^ 40
      if s.retagOk i a.toNat t then
        .next (s.deliver l.inst l.slot (.val (toWord (t / 2 ^ 16 * 2 ^ 16 + a.toNat))) (targetsG f))
      else .next (s.takeFault i .tagspaceInvalid (some l.slot) 0 0)

def execGenc (f : FmtC) (s : State) : Out := value0 s f.pr [f.t0] fun _ _ => .val (sextWord f.imm16.toNat 16)

def execAppc (f : FmtC) (s : State) : Out :=
  value1 s f.pr [f.t0] fun _ _ a => (toWord (a.toNat * 2 ^ 16 + f.imm16.toNat), 0)

end Sys2Proof.Machine
end

