-- ==== Sys2Proof/Machine/Special.lean ====
section
/-!
DEFINITION. The special functions and the square root (R115, R149): the exact value truncated to 34 significant bits.
Irrational values are computed in fixed point with 384 fraction bits (notes/assumptions 15).
-/

namespace Sys2Proof.Machine

/-- A function's value: what the last rounding starts from, whether it differs from the exact value, and the flags
of R149. -/
structure FnVal where
  ex : Ex
  inexact : Bool
  flags : Nat
  deriving DecidableEq, Repr

def exactly (x : Ex) : FnVal := ⟨x, false, 0⟩
def invalidNan : FnVal := ⟨.nan, false, flagNV⟩

/-- Fraction bits of the fixed-point numbers. -/
def fixBits : Nat := 384

/-- pi, ln 2 and log2 e in fixed point, truncated. -/
def fixPi : Nat := 123785053203292407819553701039137184435442376711719744927844101526111311422332618694237111830548352286187237239491692
def fixLn2 : Nat := 27311389503436327984859642001965014295881604093268141717219425985154158335678826923825841039545353940567474963094288
def fixLog2e : Nat := 56845078940614522728101780116048406937627153348395906275478809373627524763440110703606128611859398762446676743930215

/-- A product of fixed-point numbers. -/
def fixMul (a b : Nat) : Nat := a * b / 2 ^ fixBits

/-- n / d truncated toward zero to 34 significant bits, as round_mode does it to SIG34 (R114). -/
def trunc34 (neg inexact : Bool) (n d : Nat) : FnVal :=
  let q := floorLog2 n d - 33
  let (k, nx) := roundAt 1 0 neg n d q
  ⟨scaled neg k q, inexact || nx, 0⟩

/-- The sum of a series whose next term is the last times t over the divisor of its place: terms are added. -/
def expTerms (t : Nat) : Nat → Nat → Nat → Nat
  | 0, _, term => term
  | n + 1, k, term => term + expTerms t n (k + 1) (fixMul term t / k)

/-- 2^f for a fixed-point f in [0, 1). -/
def fixExp2 (f : Nat) : Nat := expTerms (fixMul f fixLn2) 96 1 (2 ^ fixBits)

/-- The alternating series of sine and cosine: each term is the last times t^2 over k (k + 1). -/
def altTerms (tt : Nat) : Nat → Nat → Nat → Int
  | 0, _, _ => 0
  | n + 1, k, term => (term : Int) - altTerms tt n (k + 2) (fixMul term tt / (k * (k + 1)))

/-- sin(pi a / b) and cos(pi a / b) for a / b in [0, 1/4]. -/
def fixSin (a b : Nat) : Nat :=
  let t := fixPi * a / b
  (altTerms (fixMul t t) 48 2 t).toNat

def fixCos (a b : Nat) : Nat :=
  let t := fixPi * a / b
  (altTerms (fixMul t t) 48 1 (2 ^ fixBits)).toNat

/-- 2^(n / d), signed exponent (R149). -/
def exp2Val (neg : Bool) (n d : Nat) : FnVal :=
  if 1024 * d ≤ n then ⟨scaled false 1 (if neg then -1024 else 1024), true, 0⟩
  else
    let x : Int := (if neg then -1 else 1) * (n * 2 ^ fixBits / d : Nat)
    let i := x / (2 ^ fixBits : Nat)
    let f := (x % (2 ^ fixBits : Nat)).toNat
    if f = 0 then exactly (scaled false 1 i)
    else
      let r := trunc34 false true (fixExp2 f) (2 ^ fixBits)
      match r.ex with
      | .fin _ k e => if 0 ≤ i then { r with ex := .fin false (k * 2 ^ i.toNat) e }
                      else { r with ex := .fin false k (e * 2 ^ (-i).toNat) }
      | _ => r

/-- Binary digits of log2 of a fixed-point number in [1, 2), by squaring. -/
def logDigits : Nat → Nat → Nat → Nat
  | 0, _, acc => acc
  | n + 1, m, acc =>
    let s := fixMul m m
    if 2 ^ (fixBits + 1) ≤ s then logDigits n (s / 2) (2 * acc + 1) else logDigits n s (2 * acc)

/-- log2(n / d), n / d > 0. -/
def log2Val (n d : Nat) : FnVal :=
  let e := floorLog2 n d
  let n' := if 0 ≤ e then n else n * 2 ^ (-e).toNat
  let d' := if 0 ≤ e then d * 2 ^ e.toNat else d
  if n' = d' then exactly (intEx e)
  else
    let l := logDigits 64 (n' * 2 ^ fixBits / d') 0
    if 0 ≤ e then trunc34 false true (e.toNat * 2 ^ 64 + l) (2 ^ 64)
    else trunc34 true true ((-e).toNat * 2 ^ 64 - l - 1) (2 ^ 64)

/-- sin(pi g) for g = a / b in (0, 1/2), and cos of it. -/
def sinQuarter (a b : Nat) : Nat := if 4 * a ≤ b then fixSin a b else fixCos (b - 2 * a) (2 * b)
def cosQuarter (a b : Nat) : Nat := if 4 * a ≤ b then fixCos a b else fixSin (b - 2 * a) (2 * b)

/-- sin(pi x) for x = ± n / d (R149). -/
def sinpVal (neg : Bool) (n d : Nat) : FnVal :=
  let r := n % (2 * d)
  let g := r % d
  let s := neg != (d ≤ r)
  if g = 0 then exactly (.zero neg)
  else if 2 * g = d then exactly (.fin s 1 1)
  else trunc34 s true (sinQuarter (min g (d - g)) d) (2 ^ fixBits)

/-- cos(pi x) for |x| = n / d (R149). -/
def cospVal (n d : Nat) : FnVal :=
  let r := n % (2 * d)
  let g := r % d
  let s := (d ≤ r : Bool) != (d < 2 * g : Bool)
  if g = 0 then exactly (.fin (d ≤ r) 1 1)
  else if 2 * g = d then exactly (.zero false)
  else trunc34 s true (cosQuarter (min g (d - g)) d) (2 ^ fixBits)

/-- tanh x for x = ± n / d: below 2^-30 it lies between x - x^3 / 3 and x, from 40 on within 2^-114 of 1. -/
def tanhVal (neg : Bool) (n d : Nat) : FnVal :=
  if n * 2 ^ 30 < d then trunc34 neg true (n * (3 * d * d - n * n)) (3 * d * d * d)
  else if 40 * d ≤ n then trunc34 neg true (2 ^ 100 - 1) (2 ^ 100)
  else
    let u := 2 * n * fixLog2e / d
    let e := fixExp2 (u % 2 ^ fixBits) * 2 ^ (u / 2 ^ fixBits)
    trunc34 neg true (e - 2 ^ fixBits) (e + 2 ^ fixBits)

/-- floor of a square root, bit by bit from 2^(i - 1) down. -/
def sqrtBits (n : Nat) : Nat → Nat → Nat
  | 0, r => r
  | i + 1, r => sqrtBits n i (if (r + 2 ^ i) * (r + 2 ^ i) ≤ n then r + 2 ^ i else r)

/-- The root of n / d to at least 34 bits: the digits, their scale, and whether they are exact. -/
def rootOf (n d : Nat) : Nat × Int × Bool :=
  let s : Int := 36 - floorLog2 n d / 2
  let n' := if 0 ≤ s then n * 2 ^ (2 * s.toNat) else n
  let d' := if 0 ≤ s then d else d * 2 ^ (2 * (-s).toNat)
  let k := sqrtBits (n' / d') 40 0
  (k, -s, k * k * d' == n')

/-- The square root, exact or with a half unit added far below the last place that rounding can see. -/
def sqrtVal (n d : Nat) : FnVal :=
  let (k, e, exact) := rootOf n d
  if exact then exactly (scaled false k e) else ⟨scaled false (2 * k + 1) (e - 1), true, 0⟩

/-- 1 / sqrt(n / d), truncated (R115). -/
def rsqrtVal (n d : Nat) : FnVal :=
  let (k, e, exact) := rootOf d n
  match scaled false k e with
  | .fin _ a b => trunc34 false (!exact) a b
  | x => exactly x

/-- The functions of R147 that R149 tabulates. -/
inductive Fn where
  | ex2 | lg2 | sinp | cosp | tanh | frcp | frsq | fsqrt
  deriving DecidableEq, Repr

/-- R149 and R115: the value a function's last rounding starts from. -/
def fnVal (fn : Fn) (x : Ex) : FnVal :=
  match fn, x with
  | _, .nan => ⟨.nan, false, 0⟩
  | .ex2, .inf true => exactly (.zero false)
  | .ex2, .inf false => exactly (.inf false)
  | .ex2, .zero _ => exactly (.fin false 1 1)
  | .ex2, .fin s n d => exp2Val s n d
  | .lg2, .inf true => invalidNan
  | .lg2, .inf false => exactly (.inf false)
  | .lg2, .zero _ => ⟨.inf true, false, flagDZ⟩
  | .lg2, .fin true _ _ => invalidNan
  | .lg2, .fin false n d => log2Val n d
  | .sinp, .inf _ => invalidNan
  | .sinp, .zero s => exactly (.zero s)
  | .sinp, .fin s n d => sinpVal s n d
  | .cosp, .inf _ => invalidNan
  | .cosp, .zero _ => exactly (.fin false 1 1)
  | .cosp, .fin _ n d => cospVal n d
  | .tanh, .inf s => exactly (.fin s 1 1)
  | .tanh, .zero s => exactly (.zero s)
  | .tanh, .fin s n d => tanhVal s n d
  | .frcp, .inf s => exactly (.zero s)
  | .frcp, .zero s => ⟨.inf s, false, flagDZ⟩
  | .frcp, .fin s n d => trunc34 s false d n
  | .frsq, .inf true => invalidNan
  | .frsq, .inf false => exactly (.zero false)
  | .frsq, .zero s => ⟨.inf s, false, flagDZ⟩
  | .frsq, .fin true _ _ => invalidNan
  | .frsq, .fin false n d => rsqrtVal n d
  | .fsqrt, .inf true => invalidNan
  | .fsqrt, .inf false => exactly (.inf false)
  | .fsqrt, .zero s => exactly (.zero s)
  | .fsqrt, .fin true _ _ => invalidNan
  | .fsqrt, .fin false n d => sqrtVal n d

end Sys2Proof.Machine
end

