-- ==== Sys2Proof/Machine/FloatOps.lean ====
section
/-!
DEFINITION. Float arithmetic, selection, fused, unary, compare and conversion instructions (chapter 07). A value is a
pair of payload and flags; the vector stream unit applies the same functions (R246).
-/

namespace Sys2Proof.Machine

/-- The type code of a float format field (R141). -/
def fmtCode (xop : Nat) : Nat := 8 + xop

/-- A payload read in a float format (R141). -/
def opd (xop l : Nat) : Opd := floatValue (fmtCode xop) l

/-- The low bits of a payload that a format has. -/
def encOf (xop l : Nat) : Nat := l % 2 ^ (floatFmt (fmtCode xop)).bits

/-! ### Two-source values (R144, R145) -/

/-- An exact result rounded once, with the flags of its operands (R105, R106). -/
def rounded (xop : Nat) (ops : List Opd) (y : Ex) : Nat × Nat :=
  let r := roundRne (fmtCode xop) y
  (r.1, r.2 ||| nanFlags ops y)

def faddV (xop l r : Nat) : Nat × Nat := rounded xop [opd xop l, opd xop r] ((opd xop l).ex.add (opd xop r).ex)
def fsubV (xop l r : Nat) : Nat × Nat := rounded xop [opd xop l, opd xop r] ((opd xop l).ex.add (opd xop r).ex.neg)
def fmulV (xop l r : Nat) : Nat × Nat := rounded xop [opd xop l, opd xop r] ((opd xop l).ex.mul (opd xop r).ex)
def fdivV (xop l r : Nat) : Nat × Nat :=
  let y := (opd xop l).ex.div (opd xop r).ex
  let v := rounded xop [opd xop l, opd xop r] y.1
  (v.1, v.2 ||| flagIf y.2 flagDZ)

/-- The order of the selections: values, with -0 below +0 (R145). -/
def selectLe (a b : Ex) : Bool :=
  match a, b with
  | .zero s, .zero t => s || !t
  | a, b => !b.lt a

/-- A selection of R145: `less` chooses the lesser; `strict`: a NaN gives the canonical NaN. -/
def selectV (less strict : Bool) (xop l r : Nat) : Nat × Nat :=
  let a := opd xop l
  let b := opd xop r
  let fl := nvIf (a.snan || b.snan)
  if (a.ex.isNan && b.ex.isNan) || (strict && (a.ex.isNan || b.ex.isNan)) then (canonNan (fmtCode xop), fl)
  else if a.ex.isNan then (encOf xop r, fl)
  else if b.ex.isNan then (encOf xop l, fl)
  else (encOf xop (if (if less then selectLe a.ex b.ex else selectLe b.ex a.ex) then l else r), fl)

def fminV (xop l r : Nat) : Nat × Nat := selectV true false xop l r
def fmaxV (xop l r : Nat) : Nat × Nat := selectV false false xop l r
def fminmV (xop l r : Nat) : Nat × Nat := selectV true true xop l r
def fmaxmV (xop l r : Nat) : Nat × Nat := selectV false true xop l r

/-- An encoding's sign bit, as its weight. -/
def signWeight (xop : Nat) : Nat := 2 ^ ((floatFmt (fmtCode xop)).bits - 1)

def fcpysV (xop l r : Nat) : Nat × Nat :=
  (l % signWeight xop + encOf xop r / signWeight xop * signWeight xop, 0)

/-- a · 2^n. Beyond 2^400 and below 2^-400 every value of a format already overflows or vanishes, so n stops there. -/
def scaleEx (a : Ex) (n : Int) : Ex :=
  match a with
  | .fin s m d =>
    if 0 ≤ n then .fin s (m * 2 ^ (min n.toNat 400)) d else .fin s m (d * 2 ^ (min (-n).toNat 400))
  | x => x

def fscaleV (xop l r : Nat) : Nat × Nat :=
  rounded xop [opd xop l] (scaleEx (opd xop l).ex (signedOf 32 r))

/-! ### Fused values (R146) -/

def fmaV (negP negC : Bool) (xop l r x : Nat) : Nat × Nat :=
  let a := opd xop l
  let b := opd xop r
  let c := opd xop x
  let p := if negP then (a.ex.mul b.ex).neg else a.ex.mul b.ex
  let y := p.add (if negC then c.ex.neg else c.ex)
  let v := rounded xop [a, b, c] y
  (v.1, v.2 ||| nvIf (p.isNan && !a.ex.isNan && !b.ex.isNan))

def ffmaV (xop l r x : Nat) : Nat × Nat := fmaV false false xop l r x
def ffmsV (xop l r x : Nat) : Nat × Nat := fmaV false true xop l r x
def fnfmaV (xop l r x : Nat) : Nat × Nat := fmaV true false xop l r x
def fnfmsV (xop l r x : Nat) : Nat × Nat := fmaV true true xop l r x

/-! ### Unary values (R147-R149) -/

def fabsV (xop l : Nat) : Nat × Nat := (l % signWeight xop, 0)
def fnegV (xop l : Nat) : Nat × Nat := ((encOf xop l + signWeight xop) % (2 * signWeight xop), 0)

/-- A tabulated function: its value rounded to nearest even (R115, R149). -/
def functionV (fn : Fn) (xop l : Nat) : Nat × Nat :=
  let a := opd xop l
  let v := fnVal fn a.ex
  let r := roundFloat (fmtCode xop) 0 0 false v.ex v.inexact
  (r.1, r.2 ||| v.flags ||| nvIf a.snan)

def fsqrtV (xop l : Nat) : Nat × Nat := functionV .fsqrt xop l
def frcpV (xop l : Nat) : Nat × Nat := functionV .frcp xop l
def frsqV (xop l : Nat) : Nat × Nat := functionV .frsq xop l
def ex2V (xop l : Nat) : Nat × Nat := functionV .ex2 xop l
def lg2V (xop l : Nat) : Nat × Nat := functionV .lg2 xop l
def sinpV (xop l : Nat) : Nat × Nat := functionV .sinp xop l
def cospV (xop l : Nat) : Nat × Nat := functionV .cosp xop l
def tanhV (xop l : Nat) : Nat × Nat := functionV .tanh xop l

/-- FCLASS: the bit of the class (R148). -/
def fclassBit (xop l : Nat) : Nat :=
  let a := opd xop l
  let normal := encOf xop l % signWeight xop / 2 ^ (floatFmt (fmtCode xop)).m != 0
  match a.ex with
  | .nan => if a.snan then 8 else 9
  | .inf s => if s then 0 else 7
  | .zero s => if s then 3 else 4
  | .fin s _ _ => if s then (if normal then 1 else 2) else (if normal then 6 else 5)

def fclassV (xop l : Nat) : Nat × Nat := (2 ^ fclassBit xop l, 0)

/-- FFRAC (R147). -/
def fracEx (a : Ex) : Ex :=
  match a with
  | .inf _ => .nan
  | .fin s n d => if n % d = 0 then .zero s else .fin s (n % d) d
  | x => x

def ffracV (xop l : Nat) : Nat × Nat :=
  let a := opd xop l
  ((roundRne (fmtCode xop) (fracEx a.ex)).1, nanFlags [a] (fracEx a.ex))

/-- FRND (R150). -/
def frndV (mode u xop l : Nat) : Nat × Nat :=
  let a := opd xop l
  match a.ex with
  | .nan => (canonNan (fmtCode xop), nvIf a.snan)
  | .fin s n d =>
    let (k, nx) := roundAt mode u s n d 0
    ((roundRne (fmtCode xop) (scaled s k 0)).1, flagIf nx flagNX)
  | _ => (encOf xop l, 0)

/-! ### Comparisons (R151) -/

/-- A comparison: its relation on values, what an unordered pair gives, and whether every NaN raises NV. -/
def fcmpV (rel : Ex → Ex → Bool) (unordered anyNan : Bool) (xop l r : Nat) : Nat × Nat :=
  let a := opd xop l
  let b := opd xop r
  let un := a.ex.isNan || b.ex.isNan
  (truth (if un then unordered else rel a.ex b.ex), nvIf (a.snan || b.snan || (anyNan && un)))

def fteqV (xop l r : Nat) : Nat × Nat := fcmpV (fun a b => a.eq b) false false xop l r
def ftneV (xop l r : Nat) : Nat × Nat := fcmpV (fun a b => !a.eq b) true false xop l r
def ftltV (xop l r : Nat) : Nat × Nat := fcmpV (fun a b => a.lt b) false true xop l r
def ftleV (xop l r : Nat) : Nat × Nat := fcmpV (fun a b => !b.lt a) false true xop l r
def ftunV (xop l r : Nat) : Nat × Nat := fcmpV (fun _ _ => false) true false xop l r
def ftordV (xop l r : Nat) : Nat × Nat := fcmpV (fun _ _ => true) false false xop l r

/-! ### Conversions (R152-R157); the mode is in xop, the draw comes beside -/

def srcOf (imm : Nat) : Nat := bitsOf imm 8 5
def dstOf (imm : Nat) : Nat := bitsOf imm 4 1

/-- Width of an integer type. -/
def intBits (t : Nat) : Nat := 8 * 2 ^ (t / 2)

/-- A payload as a value of an integer type. -/
def intValue (t l : Nat) : Int := if t % 2 = 1 then signedOf (intBits t) l else (l % 2 ^ intBits t : Nat)

/-- FCVT (R154): between equal types a value that is no NaN is unchanged. E2M1's NV for a NaN comes from the rounding. -/
def fcvtV (mode u imm l : Nat) : Nat × Nat :=
  let x := floatValue (srcOf imm) l
  let r := if srcOf imm = dstOf imm && !x.ex.isNan then (l % 2 ^ (floatFmt (srcOf imm)).bits, 0)
    else roundFloat (dstOf imm) mode u (bitOf imm 0) x.ex
  (r.1, r.2 ||| nvIf x.snan)

/-- FCVTS and FCVTU (R155). -/
def fcvtIntV (mode u imm l : Nat) : Nat × Nat :=
  let t := dstOf imm
  let r := roundInt (intBits t) (t % 2 == 1) mode u (floatValue (srcOf imm) l).ex
  (lowBits (intBits t) r.1, r.2)

/-- SCVTF and UCVTF (R155). -/
def intCvtV (mode u imm l : Nat) : Nat × Nat :=
  roundFloat (dstOf imm) mode u (bitOf imm 0) (intEx (intValue (srcOf imm) l))

/-- Mt as a numerator over 64, and emax_t (R156). -/
def mxType (t : Nat) : Nat × Int :=
  if t = 0xB then (448 * 64, 8) else if t = 0xC then (57344 * 64, 15) else if t = 0xD then (6 * 64, 2) else (127, 0)

/-- MXSCL (R156). -/
def mxsclV (mode imm l : Nat) : Nat × Nat :=
  let x := floatValue (srcOf imm) l
  match x.ex with
  | .nan => (0xFF, nvIf x.snan)
  | .inf _ => (0xFF, flagNV)
  | .zero _ => (0, 0)
  | .fin _ n d =>
    let (mt, emax) := mxType (dstOf imm)
    let fl := floorLog2 (n * 64) (d * mt)
    let ceil := if n * 64 * 2 ^ (-fl).toNat = d * mt * 2 ^ fl.toNat then fl else fl + 1
    let k := if mode = 3 then floorLog2 n d - emax else ceil
    let v := k + 127
    if 254 < v then (254, flagOF) else if v < 0 then (0, flagUF) else (v.toNat, 0)

/-- MXQ (R157). -/
def mxqV (mode u imm l : Nat) : Nat × Nat :=
  let x := floatValue (srcOf imm) l
  let k := bitsOf l 63 56
  let q := if k = 0xFF then Ex.nan else scaleEx x.ex (127 - (k : Int))
  let r : Nat × Nat :=
    if dstOf imm = 1 then
      let v := roundInt 8 true mode u (scaleEx q 6)
      (lowBits 8 v.1, v.2)
    else roundFloat (dstOf imm) mode u (bitOf imm 0) q
  (r.1, r.2 ||| nvIf x.snan)

/-! ### Forms -/

def fltPair (p : Nat × Nat) : Word × Nat := (toWord p.1, p.2)

def fltOne (f : FmtG) (s : State) (v : Nat → Nat → Nat × Nat) : Out :=
  value1 s f.pr (targetsG f) fun _ _ a => fltPair (v f.xop.toNat a.toNat)

def fltTwo (f : FmtG) (s : State) (v : Nat → Nat → Nat → Nat × Nat) : Out :=
  value2 s f.pr (targetsG f) fun _ _ a b => fltPair (v f.xop.toNat a.toNat b.toNat)

def fltThree (f : FmtG) (s : State) (v : Nat → Nat → Nat → Nat → Nat × Nat) : Out :=
  value3 s (targetsG f) fun _ _ a b x => fltPair (v f.xop.toNat a.toNat b.toNat x.toNat)

/-- The draw of a lane (R110). -/
def drawOf (l : Lane) (i : Inst) : Nat := stochasticDraw i.seed0 i.frame.strand.tag l.slot 0

/-- A conversion: mode from xop, draw, imm9, payload (R152). -/
def convert (f : FmtI) (s : State) (v : Nat → Nat → Nat → Nat → Nat × Nat) : Out :=
  value1 s f.pr [f.t0] fun l i a => fltPair (v f.xop.toNat (drawOf l i) f.imm9.toNat a.toNat)

def execFadd (f : FmtG) (s : State) : Out := fltTwo f s faddV
def execFsub (f : FmtG) (s : State) : Out := fltTwo f s fsubV
def execFmul (f : FmtG) (s : State) : Out := fltTwo f s fmulV
def execFdiv (f : FmtG) (s : State) : Out := fltTwo f s fdivV
def execFmin (f : FmtG) (s : State) : Out := fltTwo f s fminV
def execFmax (f : FmtG) (s : State) : Out := fltTwo f s fmaxV
def execFminm (f : FmtG) (s : State) : Out := fltTwo f s fminmV
def execFmaxm (f : FmtG) (s : State) : Out := fltTwo f s fmaxmV
def execFcpys (f : FmtG) (s : State) : Out := fltTwo f s fcpysV
def execFscale (f : FmtG) (s : State) : Out := fltTwo f s fscaleV

def execFfma (f : FmtG) (s : State) : Out := fltThree f s ffmaV
def execFfms (f : FmtG) (s : State) : Out := fltThree f s ffmsV
def execFnfma (f : FmtG) (s : State) : Out := fltThree f s fnfmaV
def execFnfms (f : FmtG) (s : State) : Out := fltThree f s fnfmsV

def execFabs (f : FmtG) (s : State) : Out := fltOne f s fabsV
def execFneg (f : FmtG) (s : State) : Out := fltOne f s fnegV
def execFsqrt (f : FmtG) (s : State) : Out := fltOne f s fsqrtV
def execFrcp (f : FmtG) (s : State) : Out := fltOne f s frcpV
def execFrsq (f : FmtG) (s : State) : Out := fltOne f s frsqV
def execEx2 (f : FmtG) (s : State) : Out := fltOne f s ex2V
def execLg2 (f : FmtG) (s : State) : Out := fltOne f s lg2V
def execSinp (f : FmtG) (s : State) : Out := fltOne f s sinpV
def execCosp (f : FmtG) (s : State) : Out := fltOne f s cospV
def execTanh (f : FmtG) (s : State) : Out := fltOne f s tanhV
def execFclass (f : FmtG) (s : State) : Out := fltOne f s fclassV
def execFfrac (f : FmtG) (s : State) : Out := fltOne f s ffracV

def execFteq (f : FmtG) (s : State) : Out := fltTwo f s fteqV
def execFtne (f : FmtG) (s : State) : Out := fltTwo f s ftneV
def execFtlt (f : FmtG) (s : State) : Out := fltTwo f s ftltV
def execFtle (f : FmtG) (s : State) : Out := fltTwo f s ftleV
def execFtun (f : FmtG) (s : State) : Out := fltTwo f s ftunV
def execFtord (f : FmtG) (s : State) : Out := fltTwo f s ftordV

/-- FRND: the rounding mode is imm9[2:0] (R150). -/
def execFrnd (f : FmtI) (s : State) : Out :=
  value1 s f.pr [f.t0] fun l i a => fltPair (frndV (f.imm9.toNat % 8) (drawOf l i) f.xop.toNat a.toNat)

def execFcvt (f : FmtI) (s : State) : Out := convert f s fcvtV
def execFcvts (f : FmtI) (s : State) : Out := convert f s fcvtIntV
def execFcvtu (f : FmtI) (s : State) : Out := convert f s fcvtIntV
def execScvtf (f : FmtI) (s : State) : Out := convert f s intCvtV
def execUcvtf (f : FmtI) (s : State) : Out := convert f s intCvtV
def execMxscl (f : FmtI) (s : State) : Out := convert f s fun mode _ imm l => mxsclV mode imm l
def execMxq (f : FmtI) (s : State) : Out := convert f s mxqV

/-! ### By operation code -/

/-- The value and flags of an operation code on payloads, as the elements compute it (R246, R247). -/
def opValue (opc xop imm u a b c : Nat) : Nat × Nat :=
  match opc with
  | 0x001 => (addV xop a b, 0)
  | 0x002 => (subV xop a b, 0)
  | 0x003 => (mulV xop a b, 0)
  | 0x004 => (mulhsV xop a b, 0)
  | 0x005 => (mulhuV xop a b, 0)
  | 0x006 => (divsV xop a b, 0)
  | 0x007 => (divuV xop a b, 0)
  | 0x008 => (remsV xop a b, 0)
  | 0x009 => (remuV xop a b, 0)
  | 0x00A => (andV xop a b, 0)
  | 0x00B => (orV xop a b, 0)
  | 0x00C => (xorV xop a b, 0)
  | 0x00D => (andnV xop a b, 0)
  | 0x00E => (ornV xop a b, 0)
  | 0x00F => (shlV xop a b, 0)
  | 0x010 => (shrV xop a b, 0)
  | 0x011 => (sarV xop a b, 0)
  | 0x012 => (rolV xop a b, 0)
  | 0x013 => (rorV xop a b, 0)
  | 0x014 => (minsV xop a b, 0)
  | 0x015 => (minuV xop a b, 0)
  | 0x016 => (maxsV xop a b, 0)
  | 0x017 => (maxuV xop a b, 0)
  | 0x018 => (absdV xop a b, 0)
  | 0x020 => (negV xop a, 0)
  | 0x021 => (absV xop a, 0)
  | 0x022 => (notV xop a, 0)
  | 0x023 => (clzV xop a, 0)
  | 0x024 => (ctzV xop a, 0)
  | 0x025 => (popcV xop a, 0)
  | 0x026 => (brevV xop a, 0)
  | 0x027 => (bswapV xop a, 0)
  | 0x028 => (sextV xop a, 0)
  | 0x029 => (zextV xop a, 0)
  | 0x060 => (teqV xop a b, 0)
  | 0x061 => (tneV xop a b, 0)
  | 0x062 => (tltsV xop a b, 0)
  | 0x063 => (tlesV xop a b, 0)
  | 0x064 => (tltuV xop a b, 0)
  | 0x065 => (tleuV xop a b, 0)
  | 0x066 => (tgtsV xop a b, 0)
  | 0x067 => (tgesV xop a b, 0)
  | 0x068 => (tgtuV xop a b, 0)
  | 0x069 => (tgeuV xop a b, 0)
  | 0x0A0 => faddV xop a b
  | 0x0A1 => fsubV xop a b
  | 0x0A2 => fmulV xop a b
  | 0x0A3 => fdivV xop a b
  | 0x0A4 => fminV xop a b
  | 0x0A5 => fmaxV xop a b
  | 0x0A6 => fminmV xop a b
  | 0x0A7 => fmaxmV xop a b
  | 0x0A8 => fcpysV xop a b
  | 0x0A9 => fscaleV xop a b
  | 0x0B0 => fabsV xop a
  | 0x0B1 => fnegV xop a
  | 0x0B2 => fsqrtV xop a
  | 0x0B3 => frcpV xop a
  | 0x0B4 => frsqV xop a
  | 0x0B5 => ex2V xop a
  | 0x0B6 => lg2V xop a
  | 0x0B7 => sinpV xop a
  | 0x0B8 => cospV xop a
  | 0x0B9 => tanhV xop a
  | 0x0BA => frndV (imm % 8) u xop a
  | 0x0BB => fclassV xop a
  | 0x0BC => ffracV xop a
  | 0x0C0 => ffmaV xop a b c
  | 0x0C1 => ffmsV xop a b c
  | 0x0C2 => fnfmaV xop a b c
  | 0x0C3 => fnfmsV xop a b c
  | 0x0C8 => fteqV xop a b
  | 0x0C9 => ftneV xop a b
  | 0x0CA => ftltV xop a b
  | 0x0CB => ftleV xop a b
  | 0x0CC => ftunV xop a b
  | 0x0CD => ftordV xop a b
  | 0x0D0 => fcvtV xop u imm a
  | 0x0D1 => fcvtIntV xop u imm a
  | 0x0D2 => fcvtIntV xop u imm a
  | 0x0D3 => intCvtV xop u imm a
  | 0x0D4 => intCvtV xop u imm a
  | 0x0D5 => mxsclV xop imm a
  | 0x0D6 => mxqV xop u imm a
  | _ => (0, 0)

end Sys2Proof.Machine
end

