-- ==== Sys2Proof/Machine/Blocks.lean ====
section
/-!
DEFINITION. Blocks: the header, the instructions of a body, ports and targets, and the checks of the loader in the
order of R68 (R65-R68, R71-R74, R93, R95, R96).
-/

namespace Sys2Proof.Machine

/-- The data ports of an opcode: left, right, third (R93). `trig` is imm16[15] of FENCE, TSFREE and BARARR. -/
def dataPorts (op : Nat) (trig : Bool) : Bool × Bool × Bool :=
  if (0x030 ≤ op ∧ op ≤ 0x035) ∨ op = 0x085 ∨ (0x0C0 ≤ op ∧ op ≤ 0x0C3) ∨ op = 0x12D then (true, true, true)
  else if (1 ≤ op ∧ op ≤ 0x018) ∨ (0x060 ≤ op ∧ op ≤ 0x069) ∨ (0x080 ≤ op ∧ op ≤ 0x082) ∨ op = 0x084 ∨ op = 0x089 ∨
      (0x0A0 ≤ op ∧ op ≤ 0x0A9) ∨ (0x0C8 ≤ op ∧ op ≤ 0x0CD) ∨ (0x108 ≤ op ∧ op ≤ 0x10B) ∨
      (0x110 ≤ op ∧ op ≤ 0x118) ∨ (0x122 ≤ op ∧ op ≤ 0x12C) ∨ op = 0x12E ∨ op = 0x132 ∨ op = 0x133 ∨ op = 0x14B ∨
      op = 0x164 then (true, true, false)
  else if (0x020 ≤ op ∧ op ≤ 0x02A) ∨ (0x040 ≤ op ∧ op ≤ 0x04A) ∨ (0x070 ≤ op ∧ op ≤ 0x077) ∨ op = 0x083 ∨ op = 0x086 ∨
      op = 0x1F0 ∨ (0x0B0 ≤ op ∧ op ≤ 0x0BC) ∨ (0x0D0 ≤ op ∧ op ≤ 0x0D6) ∨ (0x100 ≤ op ∧ op ≤ 0x106) ∨ op = 0x120 ∨
      op = 0x121 ∨ op = 0x130 ∨ op = 0x141 ∨ op = 0x143 ∨ op = 0x144 ∨ op = 0x149 ∨ op = 0x14A ∨ op = 0x14C ∨
      op = 0x150 ∨ (0x160 ≤ op ∧ op ≤ 0x168) ∨ (0x16A ≤ op ∧ op ≤ 0x173) ∨ op = 0x181 ∨ op = 0x186 ∨ op = 0x188 ∨
      op = 0x189 ∨ op = 0x18A then (true, false, false)
  else if (op = 0x12F ∨ op = 0x147 ∨ op = 0x14D) ∧ trig = true then (true, false, false)
  else (false, false, false)

/-- TRIG of an instruction's S format. -/
def trigBit : Fields → Bool
  | .s f => bitOf f.imm16.toNat 15
  | _ => false

/-- What the dataflow needs to know of an instruction: its opcode, ports and whether it is predicated. -/
structure Shapely where
  op : Nat
  l : Bool
  r : Bool
  x : Bool
  pred : Bool
  deriving DecidableEq, Repr

def portsOfForm : Nat × Fields → Shapely
  | (op, f) =>
    let p := dataPorts op (trigBit f)
    ⟨op, p.1, p.2.1, p.2.2, f.pr != 0⟩

/-- The ports of an instruction; a device step has none. -/
def portsOfInstr (i : Instr) : Shapely := (i.form.map portsOfForm).getD ⟨0, false, false, false, false⟩

/-- The target fields of a form, T0 first (R86); none where the format has no targets. -/
def targetFields : Nat × Fields → List (BitVec 9)
  | (op, .g f) => if op = 0x141 ∨ op = 0x143 ∨ op = 0x144 then [] else [f.t0, f.t1]
  | (op, .i f) => if op = 0x182 then [] else [f.t0]
  | (_, .r f) => [f.t0, f.t1]
  | (_, .l f) => [f.t0]
  | (_, .c f) => [f.t0]
  | (_, .e f) => [f.t0, f.t1]
  | (_, .f f) => [f.t0, f.t1, f.t2, f.t3]
  | (_, .s _) => []
  | (_, .b _) => []
  | (_, .x _) => []

/-- The exit id of an exit instruction (R72). -/
def exitIdOf : Nat × Fields → Option Nat
  | (_, .b f) => some f.exit.toNat
  | (_, .x f) => some f.exit.toNat
  | (op, .g f) => if op = 0x141 ∨ op = 0x143 ∨ op = 0x144 then some (f.t1.toNat / 64) else none
  | (op, .i f) => if op = 0x182 then some f.xop.toNat else none
  | _ => none

/-- The LSID an S or E format names (R67). -/
def lsidOf : Nat × Fields → Option Nat
  | (_, .s f) => some f.lsid.toNat
  | (_, .e f) => some f.lsid.toNat
  | _ => none

/-- The instructions of a body with their slots, or the slot and check number of the first word that fails (R95). -/
def scanBody (n : Nat) (skip : Bool) : List Slot → Except (Nat × Nat) (List (Nat × Instr))
  | [] => .ok []
  | w :: rest =>
    if skip then scanBody (n + 1) false rest
    else
      match decodeWords w rest.head? with
      | .error k => .error (n, k)
      | .ok i =>
        match scanBody (n + 1) (i.slots == 2) rest with
        | .ok is => .ok ((n, i) :: is)
        | .error e => .error e

/-- The instructions of a body that has passed the checks. -/
def bodyInstrs (b : List Slot) : List (Nat × Instr) :=
  match scanBody 0 false b with
  | .ok is => is
  | .error _ => []

/-- The header's fields (R66). -/
def headerOf (w0 w1 : Nat) : Header :=
  { chk := bitsOf w1 63 56, live := bitsOf w1 47 16, write := bitsOf w1 15 0 * 2 ^ 16 + bitsOf w0 63 48,
    effect := bitsOf w0 47 16, prof := bitOf w0 14, gather := bitOf w0 13, far := bitOf w0 12,
    exits := bitsOf w0 11 9, size := bitsOf w0 8 4 }

/-- R73, R74: a target is legal in a body of these instructions. -/
def targetLegal (len : Nat) (is : List (Nat × Instr)) (t : BitVec 9) : Bool :=
  if t.toNat = 0 then true
  else
    match portOf t.toNat with
    | none => t.toNat % 128 < 32
    | some p =>
      t.toNat % 128 < len &&
      match is.find? (·.1 = t.toNat % 128) with
      | none => false
      | some (_, i) =>
        let s := portsOfInstr i
        match p with
        | .left => s.l
        | .right => s.r
        | .third => s.x || s.pred

/-- The first illegal target: slot and field number (R68 step 4). -/
def illegalTarget (len : Nat) (is : List (Nat × Instr)) : Option (Nat × Nat) :=
  is.findSome? fun (n, i) =>
    match i.form with
    | none => none
    | some fm =>
      ((List.zipIdx (targetFields fm)).find? fun (t, _) => !targetLegal len is t).map fun (_, k) => (n, k)

/-- A far exit: an X-format exit, or TRAP (R49). -/
def isFarExit : Nat × Fields → Bool
  | (_, .x _) => true
  | (op, .i _) => op == 0x182
  | _ => false

/-- CALL or CALLI. -/
def isCall (op : Nat) : Bool := op == 0x142 || op == 0x143

/-- R67: the header agrees with the body. -/
def headerAgrees (h : Header) (w0 w1 : Nat) (is : List (Nat × Instr)) : Bool :=
  let forms := is.filterMap fun p => p.2.form
  let ids := forms.filterMap exitIdOf
  let lsids := forms.filterMap lsidOf
  let regs := (forms.flatMap targetFields).filterMap fun t =>
    if t.toNat ≠ 0 ∧ t.toNat < 128 then some t.toNat else none
  let calls := forms.any fun f => isCall f.1
  let farExits := forms.any fun f => match f.2 with | .x _ => true | _ => false
  ids.length == h.exits && ids.all (· < h.exits) && decide ids.Nodup &&
  h.far == farExits && (forms.any isFarExit || h.live == 0) &&
  ((List.range 32).all fun n => bitOf h.effect n == lsids.contains n) &&
  ((List.range 32).all fun n => bitOf h.write n == (regs.contains n || (n == 31 && calls))) &&
  !(calls && regs.contains 31) && (forms.countP fun f => isCall f.1) ≤ 1 &&
  !bitOf w0 15 && bitsOf w1 55 48 == 0

/-- A fault of the loader: its code, slot and DETAIL (R68, R367). -/
structure FetchFault where
  code : FaultCode
  slot : Option Nat
  detail : Nat
  deriving DecidableEq, Repr

/-- The checks of R68 on a block's header words and body, in order. -/
def checkBlock (w0 w1 : Nat) (body : List Slot) : Except FetchFault Header :=
  let h := headerOf w0 w1
  if w0 % 16 ≠ 0xA then .error ⟨.blockFormat, none, 0⟩
  else if xorAll (body.flatMap fun w => (bytesOfSlot w).map (·.toNat)) ≠ h.chk then .error ⟨.blockCheck, none, 0⟩
  else
    match scanBody 0 false body with
    | .error (n, k) => .error ⟨.illegalWord, some n, k⟩
    | .ok is =>
      match illegalTarget body.length is with
      | some (n, k) => .error ⟨.illegalTarget, some n, k⟩
      | none => if headerAgrees h w0 w1 is then .ok h else .error ⟨.headerMismatch, none, 0⟩

/-- Bytes of a body as slots (R65). -/
def slotsOf : Nat → List Byte → List Slot
  | 0, _ => []
  | n + 1, bs => BitVec.ofNat 32 (leNat (bs.take 4)) :: slotsOf n (bs.drop 4)

end Sys2Proof.Machine
end

