-- ==== Sys2Proof/Machine/MemOps.lean ====
section
/-!
DEFINITION. Near, far and atomic memory instructions, fences, circuits: what each does when it fires (chapter 10).
Their performance at commit and at the home is in Commit.lean and Homes.lean.
-/

namespace Sys2Proof.Machine

/-- R204: the checks of a near access, in order; none when it may proceed. -/
def nearCheck (top ea n : Nat) : Option FaultCode :=
  if top < ea + n then some .nearRange else if ea % n ≠ 0 then some .align else none

/-- The T of the quad that runs an instance. -/
def State.topOf (s : State) (i : Inst) : Nat := ((s.quad? i.frame.quad).map s.tileTop).getD 0

/-- R191 for a near load: the earlier registered write interval, or waiting far write or atomic, that the bytes
overlap, by identity. -/
def Quad.loadConflict (q : Quad) (ea n : Nat) : Option Nat :=
  match q.entries.findSome? fun e => match e with
      | .pending c _ _ wr => if wr.hits ea n then some c else none
      | _ => none with
  | some c => some c
  | none => (q.waitFar.find? fun w => w.a.write && overlaps w.off w.a.n ea n).map (·.msg.id)

/-- R191 for a near effect: any earlier registered interval, or any waiting far access. -/
def Quad.storeConflict (q : Quad) (ea n : Nat) : Option Nat :=
  match q.entries.findSome? fun e => match e with
      | .pending c _ rd wr => if wr.hits ea n || rd.hits ea n then some c else none
      | _ => none with
  | some c => some c
  | none => (q.waitFar.find? fun w => overlaps w.off w.a.n ea n).map (·.msg.id)

/-- The space of a strand, when ordered, and its iteration is not the oldest (R56). -/
def State.nonOldest (s : State) (st : Strand) : Bool :=
  match s.space? st.cx (tagSpace st.tag) with
  | some p => p.ordered && tagIter st.tag != p.retiredBelow
  | none => false

/-- The buffered iteration a byte comes from: the highest at or below the strand's that holds it (R57). -/
def State.specHolder (s : State) (st : Strand) (q : QuadId) (a : Nat) : Option SpecIter :=
  let holders := s.specs.filter fun p => p.cx = st.cx ∧ p.space = tagSpace st.tag ∧ p.quad = q ∧
    p.iter ≤ tagIter st.tag ∧ (p.bytes.any (·.1 = a))
  holders.foldl (fun (best : Option SpecIter) p =>
    match best with | some b => if b.iter < p.iter then some p else some b | none => some p) none

/-- R57: a byte as an iteration of a space sees it: the buffer's, else the vault's. -/
def State.specByte (s : State) (st : Strand) (q : QuadId) (a : Nat) : Byte :=
  match s.specHolder st q a with
  | some p => valueOf a 0 p.bytes
  | none => memGet (vaultBase q + a) s.mem

/-- A byte that the strand's access reads carries poison, in the buffer or in the vault (R57, R206, R211, R372). -/
def State.nearPoisoned (s : State) (st : Strand) (q : QuadId) (ea n : Nat) : Bool :=
  if s.nonOldest st then (List.range n).any fun k =>
    match s.specHolder st q (ea + k) with
    | some p => p.bad.contains (ea + k)
    | none => s.poisoned (vaultBase q + ea + k) 1
  else s.poisoned (vaultBase q + ea) n

/-- Lines of [a, a + n) entered into an iteration's read set (R57). -/
def SpecIter.read (a n : Nat) (p : SpecIter) : SpecIter :=
  { p with lines := (List.range n).foldl (fun ls i => sortedInsert ((a + i) / 64) ls) p.lines }

def State.readLines (s : State) (st : Strand) (a n : Nat) : State :=
  let mine := fun (p : SpecIter) => p.cx = st.cx ∧ p.space = tagSpace st.tag ∧ p.iter = tagIter st.tag
  { s with specs := modWhere (fun p => mine p) (SpecIter.read a n) s.specs }

/-- The bytes a near load returns, and the state with the read set extended (R206). -/
def State.nearBytes (s : State) (i : Inst) (ea n : Nat) : List Byte × State :=
  let q := i.frame.quad
  if s.nonOldest i.frame.strand then
    ((List.range n).map fun k => s.specByte i.frame.strand q (ea + k), s.readLines i.frame.strand ea n)
  else (memBytes s.mem (vaultBase q + ea) n, s.scrub (vaultBase q + ea) n)

/-- R206. -/
def nearLoad (n : Nat) (signed : Bool) (f : FmtL) (s : State) : Out :=
  firing s f.pr fun l i s =>
    match l.ops.one? with
    | none => .refused .notFiring
    | some .null => .next (s.deliver l.inst l.slot .null [f.t0])
    | some (.val a) =>
      let ea := addrPlus a.toNat 7 f.imm7.toNat n
      match nearCheck (s.topOf i) ea n with
      | some code => .next (s.takeFault i code (some l.slot) 0 ea)
      | none =>
        match (s.quad? i.frame.quad).bind fun q => q.loadConflict ea n with
        | some c => .next (s.abandon i 0x83 (.conflict i.frame.quad c ea (ea + n)))
        | none =>
          let (bs, s') := s.nearBytes i ea n
          if s'.nearPoisoned i.frame.strand i.frame.quad ea n then .next (s'.takeFault i .poison (some l.slot) 0 ea)
          else
            let v := if signed then sextWord (leNat bs) (8 * n) else toWord (leNat bs)
            .next (s'.deliver l.inst l.slot (.val v) [f.t0])

def execLdd (f : FmtL) (s : State) : Out := nearLoad 8 false f s
def execLdw (f : FmtL) (s : State) : Out := nearLoad 4 false f s
def execLdws (f : FmtL) (s : State) : Out := nearLoad 4 true f s
def execLdh (f : FmtL) (s : State) : Out := nearLoad 2 false f s
def execLdhs (f : FmtL) (s : State) : Out := nearLoad 2 true f s
def execLdb (f : FmtL) (s : State) : Out := nearLoad 1 false f s
def execLdbs (f : FmtL) (s : State) : Out := nearLoad 1 true f s

/-- R208, R211: the firing of a near store or posted near atomic of `n` bytes; `e` gives the effect at its address. -/
def nearEffect (n detail : Nat) (f : FmtS) (s : State) (e : Nat → Word → Effect) : Out :=
  effect2 s f.pr f.lsid.toNat fun l i a b s =>
    let ea := addrPlus a.toNat 16 f.imm16.toNat 1
    match nearCheck (s.topOf i) ea n with
    | some code => .next (s.takeFault i code (some l.slot) detail ea)
    | none =>
      match (s.quad? i.frame.quad).bind fun q => q.storeConflict ea n with
      | some c => .next (s.abandon i 0x83 (.conflict i.frame.quad c ea (ea + n)))
      | none => .next (s.buffer l.inst l.slot f.lsid.toNat (e ea b))

def execStd (f : FmtS) (s : State) : Out := nearEffect 8 1 f s fun ea b => .store ea 8 b
def execStw (f : FmtS) (s : State) : Out := nearEffect 4 1 f s fun ea b => .store ea 4 b
def execSth (f : FmtS) (s : State) : Out := nearEffect 2 1 f s fun ea b => .store ea 2 b
def execStb (f : FmtS) (s : State) : Out := nearEffect 1 1 f s fun ea b => .store ea 1 b

/-- R209. -/
def execNstore (f : FmtS) (s : State) : Out :=
  firing s f.pr fun l _ s => .next (s.resolveLsid l.inst f.lsid.toNat)

def execAadd (f : FmtS) (s : State) : Out := nearEffect 8 2 f s fun ea b => .atomic .add ea 8 b
def execAmins (f : FmtS) (s : State) : Out := nearEffect 8 2 f s fun ea b => .atomic .minS ea 8 b
def execAminu (f : FmtS) (s : State) : Out := nearEffect 8 2 f s fun ea b => .atomic .minU ea 8 b
def execAmaxs (f : FmtS) (s : State) : Out := nearEffect 8 2 f s fun ea b => .atomic .maxS ea 8 b
def execAmaxu (f : FmtS) (s : State) : Out := nearEffect 8 2 f s fun ea b => .atomic .maxU ea 8 b
def execAand (f : FmtS) (s : State) : Out := nearEffect 8 2 f s fun ea b => .atomic .and ea 8 b
def execAor (f : FmtS) (s : State) : Out := nearEffect 8 2 f s fun ea b => .atomic .or ea 8 b
def execAxor (f : FmtS) (s : State) : Out := nearEffect 8 2 f s fun ea b => .atomic .xor ea 8 b
def execAfadd (f : FmtS) (s : State) : Out := nearEffect 4 2 f s fun ea b => .atomic (.fadd 0) ea 4 b

/-! ### Far exits (R212, R213) -/

/-- The continuation an X format names (R70). -/
def contOf (f : FmtX) (a : Nat) : Nat := addrPlus a 18 f.off18.toNat 64

/-- A far load fires: alignment, then the exit. -/
def farLoad (op : Nat) (acq : Bool) (f : FmtX) (s : State) : Out :=
  exit1 s f.pr fun l i a s =>
    let va := addrPlus a.toNat 14 f.imm14.toNat 1
    if va % sizeOf f.xop ≠ 0 then .next (s.takeFault i .align (some l.slot) 0 va)
    else fireExit s l f.exit.toNat (.far (.load acq va (sizeOf f.xop)) op (contOf f i.addr) f.dst.toNat)

def execFld (f : FmtX) (s : State) : Out := farLoad 0x120 false f s
def execFlda (f : FmtX) (s : State) : Out := farLoad 0x121 true f s

/-- A far atomic of two operands fires. -/
def farAtomic (op n : Nat) (r : Rmw) (f : FmtX) (s : State) : Out :=
  exit2 s f.pr fun l i a b s =>
    let va := addrPlus a.toNat 14 f.imm14.toNat 1
    if va % n ≠ 0 then .next (s.takeFault i .align (some l.slot) 2 va)
    else fireExit s l f.exit.toNat (.far (.rmw r va n b 0) op (contOf f i.addr) f.dst.toNat)

def execFaadd (f : FmtX) (s : State) : Out := farAtomic 0x124 (sizeOf f.xop) .add f s
def execFamins (f : FmtX) (s : State) : Out := farAtomic 0x125 (sizeOf f.xop) .minS f s
def execFaminu (f : FmtX) (s : State) : Out := farAtomic 0x126 (sizeOf f.xop) .minU f s
def execFamaxs (f : FmtX) (s : State) : Out := farAtomic 0x127 (sizeOf f.xop) .maxS f s
def execFamaxu (f : FmtX) (s : State) : Out := farAtomic 0x128 (sizeOf f.xop) .maxU f s
def execFaand (f : FmtX) (s : State) : Out := farAtomic 0x129 (sizeOf f.xop) .and f s
def execFaor (f : FmtX) (s : State) : Out := farAtomic 0x12A (sizeOf f.xop) .or f s
def execFaxor (f : FmtX) (s : State) : Out := farAtomic 0x12B (sizeOf f.xop) .xor f s
def execFaxchg (f : FmtX) (s : State) : Out := farAtomic 0x12C (sizeOf f.xop) .xchg f s
def execFafadd (f : FmtX) (s : State) : Out := farAtomic 0x12E (floatSize f.xop) (.fadd f.xop.toNat) f s

/-- FACAS: the swap value arrives at port 11; it is never predicated (R78, R213). -/
def execFacas (f : FmtX) (s : State) : Out :=
  exit3 s fun l i a b x s =>
    let va := addrPlus a.toNat 14 f.imm14.toNat 1
    if va % sizeOf f.xop ≠ 0 then .next (s.takeFault i .align (some l.slot) 2 va)
    else fireExit s l f.exit.toNat (.far (.rmw .cas va (sizeOf f.xop) b x) 0x12D (contOf f i.addr) f.dst.toNat)

/-! ### Posted far effects (R216, R217) -/

/-- A posted far effect fires: alignment, then the buffered effect. -/
def farPosted (n detail : Nat) (f : FmtE) (s : State) (e : Nat → Word → Effect) : Out :=
  effect2 s f.pr f.lsid.toNat fun l i a b s =>
    let va := addrPlus a.toNat 24 (f.cmd.toNat % 2 ^ 24) 1
    if va % n ≠ 0 then .next (s.takeFault i .align (some l.slot) detail va)
    else .next (s.buffer l.inst l.slot f.lsid.toNat (e va b))

/-- The scope code of word1 (R215). -/
def scopeOf (f : FmtE) : Nat := bitsOf f.cmd.toNat 26 24

def execFst (f : FmtE) (s : State) : Out :=
  farPosted (sizeOf f.xop) 1 f s fun va b => .farStore va (sizeOf f.xop) b none
def execFstr (f : FmtE) (s : State) : Out :=
  farPosted (sizeOf f.xop) 1 f s fun va b => .farStore va (sizeOf f.xop) b (some (scopeOf f))
def execFradd (f : FmtE) (s : State) : Out :=
  farPosted (sizeOf f.xop) 2 f s fun va b => .farReduce .add va (sizeOf f.xop) b
def execFrfadd (f : FmtE) (s : State) : Out :=
  farPosted (floatSize f.xop) 2 f s fun va b => .farReduce (.fadd f.xop.toNat) va (floatSize f.xop) b

/-- TRIG of an S format (R218, R269, R282). -/
def trigOf (f : FmtS) : Bool := bitOf f.imm16.toNat 15

/-- FENCE, with its trigger or without (R218). -/
def execFence (f : FmtS) (s : State) : Out :=
  if trigOf f then
    effect1 s f.pr f.lsid.toNat fun l _ _ s =>
      .next (s.buffer l.inst l.slot f.lsid.toNat (.fence (f.imm16.toNat % 8)))
  else
    firing s f.pr fun l _ s => .next (s.buffer l.inst l.slot f.lsid.toNat (.fence (f.imm16.toNat % 8)))

/-! ### Circuits (R219, R224) -/

/-- The circuits of the context that runs an instance. -/
def State.circuitsOf (s : State) (i : Inst) : List Circuit :=
  (((s.ctx? i.frame.strand.cx).bind (·.image)).map (·.circuits)).getD []

def execXmit (f : FmtE) (s : State) : Out :=
  effect1 s f.pr f.lsid.toNat fun l i a s =>
    if (s.circuitsOf i).length ≤ f.cmd.toNat % 1024 then .next (s.takeFault i .circuitInvalid (some l.slot) 0 0)
    else .next (s.buffer l.inst l.slot f.lsid.toNat (.xmit (f.cmd.toNat % 1024) a))

/-- INLET passes on the payload that its FIFO gave it at the instance's start (R223, R224). -/
def execInlet (f : FmtR) (s : State) : Out := value1 s 0 [f.t0, f.t1] fun _ _ a => (a, 0)

end Sys2Proof.Machine
end

