-- ==== Sys2Proof/Machine/ControlOps.lean ====
section
/-!
DEFINITION. Control, tag-space, strand and barrier instructions at their firing (chapter 12, R350); their performance
at commit is in Commit.lean and Sync.lean.
-/

namespace Sys2Proof.Machine

/-! ### Branches, calls, END (R263, R264) -/

/-- The target a B format names. -/
def targetOf (f : FmtB) (a : Nat) : Nat := addrPlus a 18 f.off18.toNat 64

def execBr (f : FmtB) (s : State) : Out :=
  exit0 s f.pr fun l i s => fireExit s l f.exit.toNat (.branch (targetOf f i.addr) 0)

def execCall (f : FmtB) (s : State) : Out :=
  exit0 s f.pr fun l i s => fireExit s l f.exit.toNat (.branch (targetOf f i.addr) 1)

def execEndStrand (f : FmtB) (s : State) : Out :=
  exit0 s f.pr fun l _ s => fireExit s l f.exit.toNat .finish

/-- The exit id in a G-format exit's T1 (R72). -/
def exitOfG (f : FmtG) : Nat := f.t1.toNat / 64

/-- BRI, CALLI, RET: the target arrives whole at port 01; off a 64-byte boundary it raises ALIGN (R264). -/
def branchTo (kind : Nat) (f : FmtG) (s : State) : Out :=
  exit1 s f.pr fun l i t s =>
    if t.toNat % 64 ≠ 0 then .next (s.takeFault i .align (some l.slot) 0 t.toNat)
    else fireExit s l (exitOfG f) (.branch t.toNat kind)

def execBri (f : FmtG) (s : State) : Out := branchTo 0 f s
def execCalli (f : FmtG) (s : State) : Out := branchTo 1 f s
def execRet (f : FmtG) (s : State) : Out := branchTo 2 f s

/-- TRAP is an exit; its code is zext(imm9) (R342, R350). -/
def execTrap (f : FmtI) (s : State) : Out :=
  exit0 s f.pr fun l _ s => fireExit s l f.xop.toNat (.trap f.imm9.toNat)

/-! ### Tag spaces and iterations (R267-R270) -/

/-- The reservation a slot of a block holds for the strand (R268). -/
def Strand.resvOf? (st : Strand) (block slot : Nat) : Option TagResv :=
  st.tagResv.find? fun r => r.block = block ∧ r.slot = slot

/-- The strand's reservations, with one added, written to its instance. -/
def State.addResv (s : State) (inst : Nat) (r : TagResv) : State :=
  s.modInst inst fun i =>
    { i with frame := { i.frame with strand := { i.frame.strand with tagResv := i.frame.strand.tagResv ++ [r] } } }

/-- A slot with a reservation has fired in this instance (R268). -/
def State.useResv (s : State) (inst block slot : Nat) : State :=
  s.modInst inst fun i => { i with usedResv := i.usedResv ++ [(block, slot)] }

/-- The queue of a pool or space admits the strand: it is empty, or the strand heads it (R303). -/
def queueAdmits (key sid : Nat) (q : List (Nat × Nat)) : Bool :=
  match q.find? (·.1 = key) with
  | some (_, h) => h == sid
  | none => true

/-- TSALLOC (R267). -/
def execTsalloc (f : FmtI) (s : State) : Out :=
  firing s f.pr fun l i s =>
    let st := i.frame.strand
    let d := f.imm9.toNat % 64
    match s.ctx? st.cx, (s.ctx? st.cx).bind (·.image) with
    | some c, some im =>
      match im.tagspaces[d]?, s.space? st.cx (tagSpace st.tag) with
      | some dl, some own =>
        if dl.level ≠ own.level + 1 ∨ (dl.ordered ≠ none ∧ dl.ordered ≠ some (tagLdie st.tag)) then
          .next (s.takeFault i .tagspaceInvalid (some l.slot) 0 0)
        else
          match st.resvOf? i.addr l.slot with
          | some r =>
            .next ((s.useResv l.inst i.addr l.slot).deliver l.inst l.slot (.val (toWord r.tag)) [f.t0])
          | none =>
            match (if queueAdmits d st.sid c.poolQueue then c.freeNumber? dl else none) with
            | none => .next (s.abandon i 0x81 (.poolOf d i.addr l.slot))
            | some n =>
              let (r, s0) := s.reserveNumber st d n i.addr l.slot
              let s1 := s0.offQueue st.cx true d st.sid
              .next (((s1.addResv l.inst r).useResv l.inst i.addr l.slot).deliver l.inst l.slot (.val (toWord r.tag)) [f.t0])
      | _, _ => .next (s.takeFault i .tagspaceInvalid (some l.slot) 0 0)
    | _, _ => .next (s.takeFault i .tagspaceInvalid (some l.slot) 0 0)

/-- TAGNEW (R267). -/
def execTagnew (f : FmtI) (s : State) : Out :=
  firing s f.pr fun l i s =>
    let st := i.frame.strand
    let n := tagSpace st.tag
    match st.resvOf? i.addr l.slot with
    | some r => .next ((s.useResv l.inst i.addr l.slot).deliver l.inst l.slot (.val (toWord r.tag)) [f.t0])
    | none =>
      let admitted := ((s.ctx? st.cx).map fun c => queueAdmits n st.sid c.iterQueue).getD true
      match (if admitted then (s.space? st.cx n).bind (·.freeIter?) else none) with
      | none => .next (s.abandon i 0x81 (.iterOf n i.addr l.slot))
      | some it =>
        let (r, s0) := s.reserveIter st n it i.addr l.slot
        let s1 := s0.offQueue st.cx false n st.sid
        .next (((s1.addResv l.inst r).useResv l.inst i.addr l.slot).deliver l.inst l.slot (.val (toWord r.tag)) [f.t0])

/-- A tag names an allocated space of the strand's own context and logical die, with its generation (R269, R270);
`iter`: and an iteration below its capacity. -/
def State.tagOk (s : State) (st : Strand) (t : Nat) (iter : Bool) : Bool :=
  tagCtx t == tagCtx st.tag && tagLdie t == tagLdie st.tag &&
  match s.space? st.cx (tagSpace t) with
  | some p => p.openTo st && p.gen == tagGen t && (!iter || tagIter t < 2 ^ p.k)
  | none => false

/-- TSFREE (R269): its checks at firing. -/
def execTsfree (f : FmtS) (s : State) : Out :=
  if trigOf f then
    effect1 s f.pr f.lsid.toNat fun l i a s =>
      let t := a.toNat % 2 ^ 40
      if !s.tagOk i.frame.strand t false || tagSpace t == 0 then
        .next (s.takeFault i .tagspaceInvalid (some l.slot) 0 0)
      else .next (s.buffer l.inst l.slot f.lsid.toNat (.tsfree (tagSpace t) true))
  else
    firing s f.pr fun l i s =>
      let n := tagSpace i.frame.strand.tag
      if n = 0 then .next (s.takeFault i .tagspaceInvalid (some l.slot) 0 0)
      else .next (s.buffer l.inst l.slot f.lsid.toNat (.tsfree n false))

/-- TAGREL (R270): its checks at firing. -/
def execTagrel (f : FmtS) (s : State) : Out :=
  effect1 s f.pr f.lsid.toNat fun l i a s =>
    let t := a.toNat % 2 ^ 40
    if !s.tagOk i.frame.strand t true then .next (s.takeFault i .tagspaceInvalid (some l.slot) 0 0)
    else .next (s.buffer l.inst l.slot f.lsid.toNat (.tagrel t))

/-! ### Spawning (R273, R274) -/

/-- The first block an E-format spawn names: a + sext(off18, 18) × 64. -/
def spawnBlock (f : FmtE) (a : Nat) : Nat := addrPlus a 18 (f.cmd.toNat % 2 ^ 18) 64

def execSpawn (f : FmtE) (s : State) : Out :=
  effect1 s f.pr f.lsid.toNat fun l i a s =>
    let t := a.toNat % 2 ^ 40
    if !s.tagOk i.frame.strand t true then .next (s.takeFault i .tagspaceInvalid (some l.slot) 0 0)
    else .next (s.buffer l.inst l.slot f.lsid.toNat (.spawn t (spawnBlock f i.addr)))

def execSpawnr (f : FmtE) (s : State) : Out :=
  effect2 s f.pr f.lsid.toNat fun l i a b s =>
    let t := a.toNat % 2 ^ 40
    let cap := ((s.space? i.frame.strand.cx (tagSpace t)).map fun p => 2 ^ p.k).getD 0
    if !s.tagOk i.frame.strand t true || cap < b.bits 16 0 then
      .next (s.takeFault i .tagspaceInvalid (some l.slot) 0 0)
    else if b.bits 16 0 ≤ tagIter t then .next (s.resolveLsid l.inst f.lsid.toNat)
    else .next (s.buffer l.inst l.slot f.lsid.toNat (.spawnr t (spawnBlock f i.addr) b))

/-! ### Waiting exits and barriers (R276, R277, R282) -/

/-- The configuration of a barrier in the region that runs an instance (R28, R280). -/
def State.barrierDecl? (s : State) (i : Inst) (n : Nat) : Option BarrierDecl :=
  ((s.ctx? i.frame.strand.cx).bind (·.decl? (tagLdie i.frame.strand.tag))).bind fun d =>
    d.barriers.find? (·.num = n)

def execJoinOp (f : FmtX) (s : State) : Out :=
  exit1 s f.pr fun l i a s =>
    let t := a.toNat % 2 ^ 40
    if !s.tagOk i.frame.strand t false then .next (s.takeFault i .tagspaceInvalid (some l.slot) 0 0)
    else fireExit s l f.exit.toNat (.far (.join t) 0x14C (contOf f i.addr) f.dst.toNat)

def execBararr (f : FmtS) (s : State) : Out :=
  let n := f.imm16.toNat % 64
  let go := fun (l : Lane) (i : Inst) (s : State) =>
    if (s.barrierDecl? i n).isNone then Host.Outcome.next (s.takeFault i .engineError (some l.slot) 0 0)
    else .next (s.buffer l.inst l.slot f.lsid.toNat (.arrive n))
  if trigOf f then effect1 s f.pr f.lsid.toNat fun l i _ s => go l i s else firing s f.pr go

def execBarwait (f : FmtX) (s : State) : Out :=
  exit0 s f.pr fun l i s =>
    if (s.barrierDecl? i (f.imm14.toNat % 64)).isNone then .next (s.takeFault i .engineError (some l.slot) 0 0)
    else fireExit s l f.exit.toNat (.far (.barwait (f.imm14.toNat % 64)) 0x14E (contOf f i.addr) f.dst.toNat)

def execBarsync (f : FmtX) (s : State) : Out :=
  exit0 s f.pr fun l i s =>
    if (s.barrierDecl? i (f.imm14.toNat % 64)).isNone then .next (s.takeFault i .engineError (some l.slot) 0 0)
    else fireExit s l f.exit.toNat (.far (.barsync (f.imm14.toNat % 64)) 0x14F (contOf f i.addr) f.dst.toNat)

/-- The handle's checks of R277: bit 63, its tag's context and logical die, its quad in the region of that die. -/
def State.handleOk (s : State) (st : Strand) (h : Word) : Bool :=
  !h.bit 63 && tagCtx (h.bits 55 16) == tagCtx st.tag && tagLdie (h.bits 55 16) == tagLdie st.tag &&
    (((s.ctx? st.cx).bind fun c => c.quadOf? (tagLdie st.tag) (h.bits 62 56)).isSome)

def execWaitOp (f : FmtX) (s : State) : Out :=
  exit1 s f.pr fun l i h s =>
    if !s.handleOk i.frame.strand h then .next (s.takeFault i .tagspaceInvalid (some l.slot) 0 0)
    else fireExit s l f.exit.toNat (.far (.wait h.toNat) 0x150 (contOf f i.addr) f.dst.toNat)

def execYieldOp (f : FmtX) (s : State) : Out :=
  exit0 s f.pr fun l i s => fireExit s l f.exit.toNat (.far .yield 0x151 (contOf f i.addr) f.dst.toNat)

end Sys2Proof.Machine
end

