-- ==== Sys2Proof/Machine/Dataflow.lean ====
section
/-!
DEFINITION. Fetch, admission, start, matching, issue, starvation (R32, R36, R68, R75-R79, R99, R134, R223, R290-R292,
R357): the steps that take a block instance from its frame to the clock before its commit.
-/

namespace Sys2Proof.Machine

/-- The outcome of a device step whose condition does not hold (R284 and its like name when it does). -/
def notEnabled (name : String) : Out := .refused (.notEnabled name)

/-- A unit's step whose line requests would pass earlier packets of their pair of dies waits until those have arrived (R17). -/
def State.inOrder (s : State) (name : String) : Out → Out
  | .next s' => if s.overtakes s' then notEnabled name else .next s'
  | r => r

/-- The context runs at the quad: not stopped, frozen or reached by a marker (R323, R353, R378). -/
def State.quadRuns (s : State) (q : Quad) : Bool :=
  !q.zeroing && q.snuff == .none && (match s.ctx? q.cx with
    | some c => match c.run with | .running => true | .cutting _ _ => true | _ => false
    | none => false)

/-! ### Matching (R75, R77, R134) -/

/-- A port of a slot's operands. -/
def Operands.get (o : Operands) : Port → Option Tok
  | .left => o.left
  | .right => o.right
  | .third => o.third

/-- How many operands are there. -/
def Operands.number (o : Operands) : Nat :=
  (if o.left.isSome then 1 else 0) + (if o.right.isSome then 1 else 0) + (if o.third.isSome then 1 else 0)

def Operands.set (o : Operands) (p : Port) (t : Tok) : Operands :=
  match p with
  | .left => { o with left := some t }
  | .right => { o with right := some t }
  | .third => { o with third := some t }

/-- The instruction in a slot of an instance's body. -/
def Inst.instrAt? (i : Inst) (slot : Nat) : Option Instr :=
  match i.body[slot]? with
  | some w =>
    match decodeWords w i.body[slot + 1]? with
    | .ok ins => some ins
    | .error _ => none
  | none => none

/-- What a slot's ports make of its operands: not yet, matched, or absorbed (R32, R77). -/
inductive Match' where
  | wait
  | fire
  | absorb
  deriving DecidableEq, Repr

/-- MERGE: the selector and the selected port (R134). -/
def mergeMatch (o : Operands) : Match' :=
  match o.third with
  | none => .wait
  | some .null => .fire
  | some (.val w) => if (if w.bit 0 then o.left else o.right).isSome then .fire else .wait

/-- Matching of a slot (R32, R76, R77). `pr` true: fires when the predicate is true. -/
def matchOf (sh : Shapely) (pr : BitVec 2) (o : Operands) : Match' :=
  if sh.op = 0x085 then mergeMatch o
  else
    match (if sh.pred then predicate pr o.third else some true) with
    | none => .wait
    | some false => .absorb
    | some true =>
      if (!sh.l || o.left.isSome) && (!sh.r || o.right.isSome) && (!sh.x || o.third.isSome) then .fire else .wait

def prOf (i : Instr) : BitVec 2 := (i.form.map fun f => f.2.pr).getD 0

/-- Tokens present at MERGE's ports that the selector does not choose (R134). -/
def mergeDrops (o : Operands) : Nat :=
  match o.third with
  | some (.val w) => if (if w.bit 0 then o.right else o.left).isSome then 1 else 0
  | some .null => (if o.left.isSome then 1 else 0) + (if o.right.isSome then 1 else 0)
  | none => 0

/-- One more drop for %mergedrop (R75, R134). -/
def Inst.drop (i : Inst) (n : Nat) : Inst := { i with drops := i.drops + n }

/-- MERGE's operands once a value selector is there: a token at the unselected port is dropped (R134). -/
def mergeKeep (o : Operands) : Operands :=
  match o.third with
  | some (.val w) => if w.bit 0 then { o with right := none } else { o with left := none }
  | _ => o

/-- A token reaches a port of a slot of its instance (R75, R77, R81, R134): kept, dropped and counted, absorbed, or the
one that matches. The slot's state as it was comes with it. -/
def Inst.takeToken (i : Inst) (clk : Nat) (st : SlotState) (ins : Instr) (p : Port) (t : Tok) : Inst :=
  let put := fun (x : SlotState) => { i with slots := modWhere (fun y => y.slot = st.slot) (fun _ => x) i.slots }
  match st.status with
  | .fired => i.drop 1
  | .ready => i.drop 1
  | .marked => i.drop 1
  | .absorbed l r x =>
    match p with
    | .left => if l then i.drop 1 else put { st with status := .absorbed true r x }
    | .right => if r then i.drop 1 else put { st with status := .absorbed l true x }
    | .third => if x then i.drop 1 else put { st with status := .absorbed l r true }
  | .idle =>
    if (st.ops.get p).isSome then i.drop 1
    else
      let o := st.ops.set p t
      let merge := (portsOfInstr ins).op == 0x085
      let x : SlotState := { st with ops := if merge then mergeKeep o else o, first := some (st.first.getD clk) }
      let j := fun (y : SlotState) => (put y).drop (if merge then mergeDrops o else 0)
      match matchOf (portsOfInstr ins) (prOf ins) o with
      | .wait => j x
      | .fire => j { x with status := .marked }
      | .absorb => put { x with status := .absorbed o.left.isSome o.right.isSome true }

/-- Operand ports of a slot, the predicate's included (R357). -/
def portCount (sh : Shapely) : Nat :=
  (if sh.l then 1 else 0) + (if sh.r then 1 else 0) + (if sh.x || sh.pred then 1 else 0)

/-- floor(log2 n). -/
def log2 (n : Nat) : Nat := Nat.log2 n

/-- The bucket of a wait (R357). -/
def waitBucket (w : Nat) : Nat := if w = 0 then 0 else min 15 (log2 w + 1)

def Quad.hasRow (q : Quad) (block slot : Nat) : Bool := q.hist.any fun r => r.block = block ∧ r.slot = slot

/-- A wait added to the slot's row, with the spilled operands it does not count yet; no free row adds one to the lost-match
count (R357). -/
def Quad.addWait (q : Quad) (block slot w spilled : Nat) : Quad :=
  let row : HistRow := ⟨block, slot, List.replicate 16 0, 0⟩
  let hit := fun (r : HistRow) =>
    { r with buckets := modAt (waitBucket w) (fun x => min (x + 1) (2 ^ 32 - 1)) r.buckets,
             spilled := r.spilled + spilled }
  if q.hasRow block slot then
    { q with hist := modWhere (fun r => r.block = block ∧ r.slot = slot) hit q.hist }
  else if q.hist.length < 256 then { q with hist := q.hist ++ [hit row] }
  else { q with lostMatch := q.lostMatch + 1 }

/-- A slot whose waits and spills are profiled (R357). -/
def Inst.profiled (i : Inst) (ins : Instr) : Bool := i.header.prof && 2 ≤ portCount (portsOfInstr ins)

/-- The wait histogram of a slot that has just matched, and what an absorbed entry had spilled (R357). -/
def State.profile (s : State) (i j : Inst) (st : SlotState) (ins : Instr) : State :=
  match j.slots.find? (·.slot = st.slot) with
  | some x =>
    if !i.profiled ins || st.status != .idle || x.status == .idle then s
    else if x.status == .marked then
      s.modQuad i.frame.quad fun q => q.addWait i.addr st.slot (s.clk - st.first.getD s.clk) st.owed
    else s.modQuad i.frame.quad fun q => q.addSpilled i.addr st.slot st.owed
  | none => s

/-! ### The matching store and the ready queues (R21, R291) -/

/-- The set of the matching store that holds an entry of a tag, block and slot. -/
def setOf (tag block slot : Nat) : Nat := Config.matchSet tag block slot % 2048

def Inst.setOf (i : Inst) (slot : Nat) : Nat := Machine.setOf i.frame.strand.tag i.addr slot

/-- Entries a set of a quad's store holds that have not spilled: slots with operands, waiting or marked ready, and the tokens
of INLET FIFOs (R222). -/
def State.setUsed (s : State) (q : QuadId) (set : Nat) : Nat :=
  ((s.insts.filter fun i => i.frame.quad = q).map fun i => i.slots.countP fun x =>
    (x.status == .idle || x.status == .marked) && !x.spilled && x.ops.number != 0 && i.setOf x.slot == set).foldl (· + ·) 0 +
  s.fifo.countP fun t => t.quad = q && !t.spilled && Machine.setOf t.tag t.block t.slot == set

/-- The first byte of a quad's matching-store overflow area (R203). -/
def State.overflowBase (s : State) (q : Quad) : Nat :=
  ((s.ctx? q.cx).map fun c => c.emberBase q.ldie).getD 0 + s.vaultPoolSize q

/-- An operand or circuit token written to the overflow area of its quad: counted, and a bank asked (R21, R22, R348). DESIGN
CHOICE (notes/assumptions 13): an entry takes the 32 bytes at 32 x its set from the area's first byte, also in a region whose
overflow area is 0 KiB. -/
def State.spillAt (s : State) (q : QuadId) (set : Nat) : State :=
  (s.count q 0x12 1).bankReq q 7 (((s.quad? q).map s.overflowBase).getD 0 + 32 * set) 32

/-- A token that reaches a slot is kept: the port is free, and MERGE's selector does not drop it (R75, R134). -/
def SlotState.keeps (st : SlotState) (ins : Instr) (p : Port) (t : Tok) : Bool :=
  st.status == .idle && (st.ops.get p).isNone &&
    ((portsOfInstr ins).op != 0x085 || ((mergeKeep (st.ops.set p t)).get p).isSome)

/-- A token kept at a slot whose entry has no operand yet: with its set's 8 ways in use the entry lies in the overflow
area, and each of its operands is a spill (R21, R348), counted in the slot's histogram row (R357). -/
def State.spill (s : State) (i : Inst) (st : SlotState) (ins : Instr) (p : Port) (t : Tok) : State × SlotState :=
  let q := i.frame.quad
  let full := st.keeps ins p t && (st.spilled || (st.ops.number == 0 && 8 ≤ s.setUsed q (i.setOf st.slot)))
  if !full then (s, st)
  else
    let s1 := s.spillAt q (i.setOf st.slot)
    if !i.profiled ins then (s1, { st with spilled := true })
    else if ((s.quad? q).map fun x => x.hasRow i.addr st.slot).getD false then
      (s1.modQuad q fun x => x.addSpilled i.addr st.slot 1, { st with spilled := true })
    else (s1, { st with spilled := true, owed := st.owed + 1 })

/-- Frames of a quad's frame area in use: a relight's frame on its way has its place there (R42, R296). -/
def State.framesUsed (s : State) (q : QuadId) : Nat :=
  s.frames.countP (·.quad = q) + s.insts.countP (·.frame.quad = q) + s.commits.countP (·.inst.frame.quad = q) +
    s.embers.countP (·.pool = .frameArea q) +
    s.msgs.countP fun m => match m.body with | .frame f held => held && f.quad = q | _ => false

/-- The vault offset of the next frame slot of a quad (R42, R203). DESIGN CHOICE (notes/assumptions 93): a frame takes the 256
bytes at 256 x the frames in use from the area's first byte. -/
def State.frameOffset (s : State) (q : QuadId) : Nat :=
  match s.quad? q with
  | some x => s.overflowBase x +
      (((s.ctx? x.cx).bind (·.decl? x.ldie)).map (·.overflowKiB * 1024)).getD 0 + 256 * s.framesUsed q
  | none => 0

/-- A frame's 256 bytes read or written: frame traffic of relight and commit (R22). -/
def State.frameBanks (s : State) (q : QuadId) : State := s.bankReq q 1 (s.frameOffset q) 256

/-- Slots of an instance in the ready queue. -/
def Inst.readySlots (i : Inst) : List Nat := (i.slots.filter (·.status = .ready)).map (·.slot)

/-- Slots matched that wait for an entry of the ready queue. -/
def Inst.markedSlots (i : Inst) : List Nat := (i.slots.filter (·.status = .marked)).map (·.slot)

/-- The instances of an element that may fire, in increasing age. -/
def State.resident (s : State) (q : QuadId) (elem : Nat) : List Inst :=
  sortBy (fun a b => a.age ≤ b.age) (s.insts.filter fun i => i.frame.quad = q ∧ i.frame.elem = elem ∧ !i.held)

/-- Matched instances enter an element's ready queue of 512 entries in age order while entries are free (R291). -/
def State.fillQueue (s : State) (q : QuadId) (elem : Nat) : State :=
  let is := s.resident q elem
  let free := 512 - (is.map (·.readySlots.length)).foldl (· + ·) 0
  ((is.flatMap fun i => i.markedSlots.map fun n => (i.id, n)).take free).foldl
    (fun s p => s.modInst p.1 fun i => i.setStatus p.2 .ready) s

/-- TOKEN_ARRIVAL (R75): a token in flight reaches its port. Of two on their way to one port, the one from the
lower-numbered producing slot reaches it first: R140 orders arrivals of one clock, and for tokens whose latency the spec leaves
open this is the model's choice (DESIGN CHOICE, notes/assumptions 93). -/
def execEvTokenArrival (n : Nat) (s : State) : Out :=
  match s.flying.find? (·.id = n) with
  | none => notEnabled "TOKEN_ARRIVAL"
  | some t =>
    match s.inst? t.inst with
    | none => notEnabled "TOKEN_ARRIVAL"
    | some i =>
      if i.held || ((s.quad? i.frame.quad).map s.quadRuns) == some false ||
          (s.flying.any fun x => x.inst = t.inst ∧ x.slot = t.slot ∧ x.port = t.port ∧ x.from' < t.from') then
        notEnabled "TOKEN_ARRIVAL"
      else
        let i0 := { i with flying := i.flying.filter (· ≠ n) }
        let s1 := { s with flying := s.flying.filter (·.id ≠ n) }
        match i.slots.find? (·.slot = t.slot), i.instrAt? t.slot with
        | some st, some ins =>
          let (s2, st') := s1.spill i st ins t.port t.tok
          let j := i0.takeToken s.clk st' ins t.port t.tok
          .next (((s2.modInst t.inst fun _ => j).profile i j st' ins).fillQueue i.frame.quad i.frame.elem).tick
        | _, _ => .next (s1.modInst t.inst fun _ => i0.drop 1).tick

/-! ### Issue (R291, R292) -/

/-- The lanes R292 selects: the oldest instance's lowest ready slot, and with GATHER the same slot of up to seven
younger instances of the same mapped copy. -/
def selectLanes (is : List Inst) : List (Inst × Nat) :=
  match is.find? fun i => !i.readySlots.isEmpty with
  | none => []
  | some b =>
    match b.readySlots.min? with
    | none => []
    | some n =>
      if b.header.gather then
        ((is.filter fun j => j.addr = b.addr ∧ j.body = b.body ∧ (j.readySlots.contains n) ∧ b.age ≤ j.age).take 8).map
          fun j => (j, n)
      else [(b, n)]

/-- The instruction class of a lane's energy charge: its opcode (R335). -/
def Inst.classAt (i : Inst) (slot : Nat) : Nat := ((i.instrAt? slot).map (·.opcode)).getD 0

/-- A lane leaves the ready queue: the slot has fired, to be charged with the instance by its class (R335). -/
def State.startLane (s : State) (p : Inst × Nat) : State :=
  let ops := ((p.1.slots.find? (·.slot = p.2)).map (·.ops)).getD default
  { s.modInst p.1.id (fun i => { i.setStatus p.2 .fired with fired := i.fired ++ [p.1.classAt p.2] }) with
    lanes := s.lanes ++ [⟨p.1.id, p.2, ops⟩] }

/-- ELEMENT_ISSUE (R292), over the ready queue as the entries freed before it have let it fill (R291). -/
def execEvElementIssue (die idx elem : Nat) (s : State) : Out :=
  match s.quad? ⟨die, idx⟩ with
  | none => notEnabled "ELEMENT_ISSUE"
  | some q =>
    let s0 := s.fillQueue q.id elem
    let ls := selectLanes (s0.resident q.id elem)
    if ls.isEmpty || !s.quadRuns q then notEnabled "ELEMENT_ISSUE"
    else
      let s1 := (ls.foldl (fun s p => s.startLane p) s0).fillQueue q.id elem
      let s2 := s1.modQuad q.id fun q =>
        { q with width := modAt elem (fun w => ((w.1 + ls.length) % 2 ^ 32, (w.2 + 1) % 2 ^ 32)) q.width }
      .next ((s2.count q.id 0x0B ls.length).count q.id 0x0C 1).tick

/-! ### Starting (R223, R290, R177, R275) -/

/-- The INLET slots of a body. -/
def inletSlots (b : List Slot) : List Nat :=
  (bodyInstrs b).filterMap fun (n, i) => match i with | .inlet _ => some n | _ => none

/-- The oldest token of an INLET slot's FIFO under a tag at a placement. -/
def State.fifoHead? (s : State) (f : Frame) (slot : Nat) : Option FifoTok :=
  s.fifo.find? fun t => t.cx = f.strand.cx ∧ t.quad = f.quad ∧ t.elem = f.elem ∧ t.block = f.block ∧ t.slot = slot ∧
    t.tag = f.strand.tag

/-- The mapped copy of a block in an element. -/
def Quad.mapped? (q : Quad) (elem addr : Nat) : Option Mapped := q.mapped.find? fun m => m.elem = elem ∧ m.addr = addr

/-- The frame may make its start request: its strand's earlier effects are acknowledged where they must be (R177,
R275), and no hold keeps it back (R371). -/
def State.startable (s : State) (f : Frame) : Bool :=
  f.status == .waiting &&
  !(s.posted.any fun p => p.trace = false ∧ ((p.sid = f.strand.sid ∧ p.quad ≠ f.quad) ∨ f.strand.after.contains p.id)) &&
  !(s.msgs.any fun m => f.strand.after.contains m.id) &&
  (match s.ctx? f.strand.cx with
    | some c => c.overflow == 0 || f.strand.handler.isSome
    | none => false)

/-- Every INLET of the block has its token (R223): the INLETs of the mapped copy, or before it is fetched those its circuits
name. -/
def State.inletsFull (s : State) (q : Quad) (f : Frame) : Bool :=
  match q.mapped? f.elem f.block with
  | some m => (inletSlots m.body).all fun n => (s.fifoHead? f n).isSome
  | none =>
    match s.ctx? q.cx with
    | some c => c.circuits.all fun k =>
        !(k.dstLdie = q.ldie && c.codeBase + k.block = f.block) || (s.fifoHead? f k.slot).isSome
    | none => true

/-- The frame next to start at an element: the earliest start request (R290). -/
def State.nextStart? (s : State) (q : Quad) (elem : Nat) : Option Frame :=
  (s.frames.filter fun f => f.quad = q.id ∧ f.elem = elem ∧ s.startable f ∧ s.inletsFull q f).foldl
    (fun (best : Option Frame) f => match best with
      | some b => if f.order < b.order then some f else some b
      | none => some f) none

/-- Matching capacity of a quad (R290): the store, the overflow area less 512 bytes for each circuit that ends
there. -/
def State.matchCapacity (s : State) (q : Quad) : Nat :=
  match s.ctx? q.cx with
  | none => 16384
  | some c =>
    let ov := ((c.decl? q.ldie).map (·.overflowKiB * 1024)).getD 0
    let ends := c.circuits.countP fun k => k.dstLdie = q.ldie ∧
      ((c.places k.dstLdie (c.codeBase + k.block)).any fun p => p.x = q.x ∧ p.y = q.y)
    16384 + (ov - 512 * ends) / 32

/-- Matching capacity reserved by started instances (R290). -/
def State.matchUsed (s : State) (q : QuadId) : Nat :=
  ((s.insts.filter fun i => i.frame.quad = q).map (·.body.length)).foldl (· + ·) 0

/-- The slots of a fresh instance: INLETs hold their tokens; what takes no operand is matched (R79, R223). -/
def startSlots (b : List Slot) (toks : List FifoTok) : List SlotState :=
  (bodyInstrs b).map fun (n, i) =>
    let tok := ((toks.find? (·.slot = n)).map fun t => Tok.val t.val)
    let o : Operands := { left := tok, right := none, third := none }
    let sh := portsOfInstr i
    let ready := match i with
      | .inlet _ => tok.isSome
      | _ => !sh.l && !sh.r && !sh.x && !sh.pred
    ⟨n, o, if ready then .marked else .idle, none, false, 0⟩

/-- The instance a frame starts (R32, R34, R344). -/
def mkInst (s : State) (q : Quad) (f : Frame) (m : Mapped) (toks : List FifoTok) (age : Nat) : Inst :=
  { id := s.nextId, frame := f, addr := m.addr, header := m.header, body := m.body, age := age, startClk := s.clk,
    fpctl0 := q.fpctl, seed0 := q.srseed, mergedrop0 := q.mergedrop, capfence0 := q.capfence, replay0 := q.replay,
    slots := startSlots m.body toks, wbuf := [], effs := [], resolved := [], exits := [], flags := 0, drops := 0,
    swrs := [], fwcalls := [], snuffs := [], usedResv := [], taken := toks, flying := [], fired := [], held := false }

/-- A fault raised against a strand whose instance does not start (R68, R37, R211): as takeFault, from its frame. -/
def State.faultFrame (s : State) (f : Frame) (code : FaultCode) (slot : Option Nat) (detail addr : Nat) : State :=
  let cx := f.strand.cx
  let r : FaultRec :=
    { code := code, kind := 0, slotNo := slot, detail := detail, tag := f.strand.tag, block := f.block, addr := addr,
      handle := 0, unitNo := 0, unit := 0, elem := f.elem,
      qindex := match s.ctx? cx, s.quad? f.quad with | some c, some q => c.indexOf q | _, _ => 0,
      ldie := tagLdie f.strand.tag, data := 0, ember := none, sid := some f.strand.sid, cmd := none, lsid := none }
  if ((s.ctx? cx).map (·.stopsOn code)).getD true then
    let hold := fun (x : Frame) => { x with status := .held }
    { s with frames := modWhere (fun x => x.strand.sid = f.strand.sid) hold s.frames }.queueFault cx r
  else
    let s1 := { s with frames := s.frames.filter fun x => x.strand.sid ≠ f.strand.sid }
    let (e, _, s2) := s1.fullEmber { f.strand with pend := none } f.quad f.elem f.block f.regs code.num .fault
    s2.queueFault cx { r with ember := some e }

/-- BLOCK_INSTANCE_START (R290): the earliest start request of an element is admitted, or its pending fault is raised
(R37, R211). -/
def execEvBlockInstanceStart (die idx elem : Nat) (s : State) : Out :=
  match s.quad? ⟨die, idx⟩ with
  | none => notEnabled "BLOCK_INSTANCE_START"
  | some q =>
    if !s.quadRuns q then notEnabled "BLOCK_INSTANCE_START"
    else
      match s.nextStart? q elem with
      | none => notEnabled "BLOCK_INSTANCE_START"
      | some f =>
        match f.strand.pend with
        | some p => .next (s.faultFrame f p.code none p.detail p.addr).tick
        | none =>
          match q.mapped? elem f.block with
          | none => notEnabled "BLOCK_INSTANCE_START"
          | some m =>
            if s.matchCapacity q < s.matchUsed q.id + m.body.length then notEnabled "BLOCK_INSTANCE_START"
            else
              let toks := (inletSlots m.body).filterMap fun n => s.fifoHead? f n
              let age := (q.ages[elem]?).getD 0 + 1
              let i := mkInst s q { f with strand := { f.strand with after := [] } } m toks age
              let s1 := { s with nextId := s.nextId + 1, insts := s.insts ++ [i],
                                 frames := s.frames.filter fun x => x.strand.sid ≠ f.strand.sid,
                                 fifo := toks.foldl (fun fs t => fs.erase t) s.fifo }
              let s2 := s1.modQuad q.id fun q =>
                let use := fun (x : Mapped) => if x.elem = elem ∧ x.addr = m.addr then { x with started := s.clk } else x
                { q with ages := modAt elem (fun _ => age) q.ages, mapped := q.mapped.map use }
              .next ((s2.fillQueue q.id elem).count q.id 0 1).tick

/-! ### Fetch (R68, R98, R99) -/

/-- Slots of an element taken by blocks. -/
def mappedSlots (elem : Nat) (ms : List Mapped) : Nat :=
  ((ms.filter (·.elem = elem)).map (·.body.length)).foldl (· + ·) 0

/-- Eviction (R290): blocks with no started instance leave, least recently started first, until `need` slots fit. -/
def evictFor (busy : Nat → Bool) (elem need : Nat) : Nat → List Mapped → List Mapped
  | 0, ms => ms
  | n + 1, ms =>
    if mappedSlots elem ms + need ≤ 4096 then ms
    else
      match (ms.filter fun m => m.elem = elem ∧ !busy m.addr).foldl (fun (b : Option Mapped) m => match b with
          | some x => if m.started < x.started then some m else some x
          | none => some m) none with
      | some v => evictFor busy elem need n (ms.filter fun m => !(m.elem = elem ∧ m.addr = v.addr))
      | none => ms

/-- `n` lines of a block's text from `va`, each through the quad's translation (R68, R98, R373). DESIGN CHOICE
(notes/assumptions 80): of several failures of one fetch, the one of the line at the lowest address is raised. -/
def fetchLines (u : XUnit) (c : Context) (va : Nat) : Nat → State → State × Except EngStop (List Byte)
  | 0, s => (s, .ok [])
  | n + 1, s =>
    match translateBy s u c va 1 .fetch with
    | (s1, .fault code d) => (s1, .error (.fault code d va))
    | (s1, .breach pa) => (s1, .error (.breach pa))
    | (s1, .ok pa) =>
      if s1.sealed pa then (s, .error .sealed)
      else
        let s2 := if pa / 2 ^ 46 = s1.pkgNo then
            s1.charge (homeLantern pa (s1.homeOf pa)) (.ctx c.id) (classFar 0 8) 1 (s1.homeOf pa).die else s1
        match s2.readPhys u.node c.id va pa 64 with
        | (s2, bs, bad) =>
          if bad then (s2, .error (.fault .poison 3 va))
          else
            match fetchLines u c (va + 64) n s2 with
            | (s3, .ok more) => (s3, .ok (bs ++ more))
            | (s3, .error e) => (s3, .error e)

/-- A block's text: the first line, which holds the header, then the lines its SIZE says. -/
def fetchBlock (u : XUnit) (s : State) (c : Context) (va : Nat) : State × Except EngStop (List Byte) :=
  match fetchLines u c va 1 s with
  | (s1, .ok bs) =>
    let size := bitsOf (fieldAt' bs) 8 4
    match fetchLines u c (va + 64) ((16 * (size + 2) + 63) / 64 - 1) s1 with
    | (s2, .ok more) => (s2, .ok (bs ++ more))
    | r => r
  | r => r
where
  fieldAt' (bs : List Byte) : Nat := leNat (bs.take 8)

/-- BLOCK_FETCH (R68): the block the element's next start needs is read, checked and mapped; a failure is raised
against every strand of the element that waits for it (R99). A fetch of a sealed page waits for the new home (R99). DESIGN
CHOICE (notes/assumptions 80, 97): a strand that carries a fault of its own (R37, R211) waits for that one and not for the
fetch; every other strand whose frame stands at the element for the block counts as a waiting instance, also one that has made
no start request yet. The fetch's requests do not pass packets that left its die before them (R17). -/
def execEvBlockFetch (die idx elem : Nat) (s : State) : Out :=
  match s.quad? ⟨die, idx⟩ with
  | none => notEnabled "BLOCK_FETCH"
  | some q =>
    match s.nextStart? q elem, s.ctx? q.cx with
    | some f, some c =>
      if !s.quadRuns q || (q.mapped? elem f.block).isSome || f.strand.pend.isSome then notEnabled "BLOCK_FETCH"
      else
        let waiters := fun (s : State) => s.frames.filter fun x =>
          x.quad = q.id ∧ x.elem = elem ∧ x.block = f.block ∧ x.status = .waiting ∧ x.strand.pend = none
        let failAll := fun (s : State) (code : FaultCode) (slot : Option Nat) (detail addr : Nat) =>
          (waiters s).foldl (fun s x => s.faultFrame x code slot detail addr) s
        if s.overtakes (fetchBlock (.quad q.id) s c f.block).1 then notEnabled "BLOCK_FETCH"
        else match fetchBlock (.quad q.id) s c f.block with
        | (_, .error .sealed) => notEnabled "BLOCK_FETCH"
        | (s1, .error (.fault code d _)) => .next (failAll s1 code none d f.block).tick
        | (s1, .error (.breach pa)) => .next (s1.breach q.cx 0 pa 0).tick
        | (s1, .ok bs) =>
          let w0 := leNat (bs.take 8)
          let body := slotsOf (4 * (bitsOf w0 8 4 + 1)) (bs.drop 16)
          match checkBlock w0 (leNat ((bs.drop 8).take 8)) body with
          | .error e => .next (failAll s1 e.code e.slot e.detail 0).tick
          | .ok h =>
            let busy := fun a => s1.insts.any fun i => i.frame.quad = q.id ∧ i.frame.elem = elem ∧ i.addr = a
            let ms := evictFor busy elem body.length q.mapped.length q.mapped
            if 4096 < mappedSlots elem ms + body.length then notEnabled "BLOCK_FETCH"
            else .next (s1.modQuad q.id fun q =>
              { q with mapped := ms ++ [⟨elem, f.block, h, body, s1.clk⟩] }).tick
    | _, _ => notEnabled "BLOCK_FETCH"

/-! ### Commit conditions and starvation (R35, R36) -/

/-- Condition 1 of R35. -/
def Inst.exitMet (i : Inst) : Bool := i.header.exits == 0 || i.exits.length == 1

/-- The block holds a CALL or CALLI. -/
def Inst.hasCall (i : Inst) : Bool := (bodyInstrs i.body).any fun p => isCall p.2.opcode

/-- Condition 2 of R35. -/
def Inst.effectsMet (i : Inst) : Bool := (List.range 32).all fun n => !bitOf i.header.effect n || i.resolved.contains n

/-- Condition 3 of R35; in a block that holds a call, any exit meets bit 31. -/
def Inst.writesMet (i : Inst) : Bool :=
  (List.range 32).all fun n =>
    !bitOf i.header.write n || (i.wbuf.any (·.1 = n)) || (n == 31 && i.hasCall && i.exitMet)

/-- The in-flight count is zero: no token on the networks, none matched and not issued, no lane being issued. -/
def State.quiet (s : State) (i : Inst) : Bool :=
  i.flying.isEmpty && i.readySlots.isEmpty && i.markedSlots.isEmpty && !(s.lanes.any (·.inst = i.id))

/-- R35. -/
def State.mayCommit (s : State) (i : Inst) : Bool := !i.held && s.quiet i && i.exitMet && i.effectsMet && i.writesMet

/-- BLOCK_STARVED (R36). -/
def execEvBlockStarved (inst : Nat) (s : State) : Out :=
  match s.inst? inst with
  | none => notEnabled "BLOCK_STARVED"
  | some i =>
    if i.held || !s.quiet i || (i.exitMet && i.effectsMet && i.writesMet) ||
        ((s.quad? i.frame.quad).map s.quadRuns) != some true then notEnabled "BLOCK_STARVED"
    else .next (s.takeFault i .blockStarved none 0 0).tick

end Sys2Proof.Machine
end

