-- ==== Sys2Proof/Machine/Shapes.lean ====
section
/-!
DEFINITION. Element types, shape records, element positions, bounding intervals and markers (R100, R102, R233-R236).
-/

namespace Sys2Proof.Machine

/-- Bits of an element type (R100). -/
def typeBits (t : Nat) : Nat :=
  match t with
  | 0 | 1 | 0xB | 0xC | 0xE => 8
  | 2 | 3 | 9 | 0xA => 16
  | 4 | 5 | 8 => 32
  | 6 | 7 => 64
  | 0xD => 4
  | _ => 0

def isIntType (t : Nat) : Bool := t < 8
def isSignedType (t : Nat) : Bool := t < 8 && t % 2 == 1

/-- A shape record (R233): dimensions innermost first, as extent and signed stride. -/
structure Shape where
  base : Nat
  ty : Nat
  marks : Bool
  pad : Bool
  win : Bool
  dims : List (Nat × Int)
  w7 : Nat
  deriving DecidableEq, Repr

/-- The 64-bit words of a block. -/
def wordsOf : Nat → List Byte → List Nat
  | 0, _ => []
  | n + 1, bs => leNat (bs.take 8) :: wordsOf n (bs.drop 8)

/-- The eight words of a record at an offset of a block. -/
def recordAt (bs : List Byte) (off : Nat) : List Nat := wordsOf 8 (bs.drop off)

/-- A 64-bit field of a block. -/
def fieldAt (bs : List Byte) (off : Nat) : Nat := leNat ((bs.drop off).take 8)

/-- A record of all zeros: absent where the command admits it (R233). -/
def absentAt (bs : List Byte) (off : Nat) : Bool := (recordAt bs off).all (· == 0)

/-- R234 on a record alone: the shape, or none when it is invalid. PAD and WIN are admitted only where the command
pads or windows (R233). -/
def parseShape (ws : List Nat) (padOk winOk : Bool) : Option Shape :=
  match ws with
  | [w0, w1, w2, w3, w4, w5, w6, w7] =>
    let rank := bitsOf w1 7 4
    let ds := [w2, w3, w4, w5, w6]
    let win := bitOf w1 8
    let pad := bitOf w1 9
    if w1 / 2 ^ 11 ≠ 0 ∨ bitsOf w1 3 0 = 15 ∨ rank = 0 ∨ 5 < rank then none
    else if (ds.drop rank).any (· != 0) then none
    else if (pad && !padOk) || (win && !winOk) then none
    else if !win && w7 != 0 then none
    else if win && (w7 / 2 ^ 40 != 0 || bitsOf w7 7 0 == 0 || bitsOf w7 15 8 == 0 || bitsOf w7 19 16 == 0 ||
        bitsOf w7 23 20 == 0 || bitsOf w7 27 24 == 0 || bitsOf w7 31 28 == 0 || (bitsOf w7 39 32 != 0 && !pad)) then none
    else some
      { base := w0, ty := bitsOf w1 3 0, marks := bitOf w1 10, pad := pad, win := win,
        dims := (ds.take rank).map fun d => (d % 2 ^ 32, signedOf 32 (d / 2 ^ 32)), w7 := w7 }
  | _ => none

def Shape.rank (sh : Shape) : Nat := sh.dims.length

/-- N: the product of the extents. -/
def Shape.count (sh : Shape) : Nat := (sh.dims.map (·.1)).foldl (· * ·) 1

def Shape.extent (sh : Shape) (k : Nat) : Nat := ((sh.dims[k]?).map (·.1)).getD 0

/-- The counters of element n, innermost first (R235). -/
def countersOf : List (Nat × Int) → Nat → List Nat
  | [], _ => []
  | (e, _) :: r, n => n % e :: countersOf r (n / e)

/-- The position of element n in elements from BASE. -/
def positionOf : List (Nat × Int) → Nat → Int
  | [], _ => 0
  | (e, st) :: r, n => (n % e : Nat) * st + positionOf r (n / e)

/-- The position of given counters. -/
def positionAt : List (Nat × Int) → List Nat → Int
  | (_, st) :: r, i :: is => (i : Int) * st + positionAt r is
  | _, _ => 0

/-- An element's place: byte address (modulo 2^64), and for FP4 whether it is the high nibble (R102, R235). -/
def Shape.place (sh : Shape) (p : Int) : Nat × Bool :=
  if sh.ty = 0xD then
    let nib := 2 * (sh.base : Int) + p
    (lowBits 64 (nib / 2), nib % 2 == 1)
  else (lowBits 64 ((sh.base : Int) + p * (typeBits sh.ty / 8 : Nat)), false)

/-- Lowest and highest positions (R235). -/
def Shape.low (sh : Shape) : Int := (sh.dims.map fun d => min 0 (((d.1 : Int) - 1) * d.2)).foldl (· + ·) 0
def Shape.high (sh : Shape) : Int := (sh.dims.map fun d => max 0 (((d.1 : Int) - 1) * d.2)).foldl (· + ·) 0

/-- The bounding interval in bytes, as integers [lo, hi); lo = hi for an empty shape (R235). DESIGN CHOICE (notes/assumptions 97):
an empty interval, which R235 gives no place, has its low end at BASE, from where a bound of R237 that is not zero runs. -/
def Shape.bound (sh : Shape) : Int × Int :=
  if sh.count = 0 then (sh.base, sh.base)
  else if sh.ty = 0xD then
    ((2 * (sh.base : Int) + sh.low) / 2, (2 * (sh.base : Int) + sh.high + 2) / 2)
  else
    let z : Int := (typeBits sh.ty / 8 : Nat)
    ((sh.base : Int) + sh.low * z, (sh.base : Int) + (sh.high + 1) * z)

/-- Where a range of addresses lies: HBM, inside [0, T) of one quad's slot, an aperture slot that names no quad of
the context, or across a slot's bounds (R234, R326). -/
inductive Site where
  | hbm
  | vault (q : QuadId) (lo hi : Nat)
  | foreign
  | outside
  deriving DecidableEq, Repr

/-- The site of [lo, hi), decided by the address `base`. -/
def Context.site (c : Context) (base : Nat) (lo hi : Int) : Site :=
  match c.aperture? base with
  | none => .hbm
  | some (none, _) => .foreign
  | some (some q, _) =>
    let start : Int := c.aperture + (base - c.aperture) / 2 ^ 23 * 2 ^ 23
    let top : Int := c.tileTop ((base - c.aperture) / 2 ^ 23 / 128)
    if lo < start ∨ start + top < hi then .outside else .vault q (lo - start).toNat (hi - start).toNat

def Context.shapeSite (c : Context) (sh : Shape) : Site := c.site sh.base sh.bound.1 sh.bound.2

/-- A footprint with one more interval of a vault. -/
def addFoot (q : QuadId) (write : Bool) (i : Interval) : List Footprint → List Footprint
  | [] => [if write then ⟨q, .empty, i⟩ else ⟨q, i, .empty⟩]
  | f :: r =>
    if f.quad = q then (if write then { f with wr := f.wr.join i } else { f with rd := f.rd.join i }) :: r
    else f :: addFoot q write i r

/-- Ascending order of die and quad index (R303). -/
def QuadId.le (a b : QuadId) : Bool := a.die < b.die || (a.die == b.die && a.idx ≤ b.idx)

/-- The markers emitted after element n: the dimensions that end there, innermost first (R236). -/
def endedDims : List (Nat × Int) → Nat → Nat → List Nat
  | [], _, _ => []
  | (e, _) :: r, k, n => if (n + 1) % e = 0 then k :: endedDims r (k + 1) ((n + 1) / e - 1) else []

/-- A marker record (R236). -/
def markerWord (count dim : Nat) : Nat := count % 2 ^ 32 * 2 ^ 32 + 8 + dim % 8

end Sys2Proof.Machine
end

