-- ==== Sys2Proof/Machine/EngineCmds.lean ====
section
/-!
DEFINITION. Engine commands at their firing (R226-R229, R237, R242-R251, R257, R259-R261): the block is read, checked
and copied, the footprint computed, the handle sent, the command buffered at its LSID.
-/

namespace Sys2Proof.Machine

/-- The handle token of R229: QUAD, TAG, LSID, ITERLO. -/
def handleToken (qindex tag lsid : Nat) : Nat := qindex * 2 ^ 56 + tag * 2 ^ 16 + lsid * 2 ^ 11 + tag % 2 ^ 11

/-- The engine kind of a command, as the UNIT codes of R367: 1 stream engine (STOK and TOKS among them), 2 ME, 3 VSU,
4 window unit, 5 decoder, 6 collective engine. -/
def unitOf (op : Nat) : Nat :=
  if op ≤ 0x164 then 1 else if op ≤ 0x169 then 2 else if op ≤ 0x16B then 3 else if op ≤ 0x16D then 4
  else if op = 0x16E then 5 else if op = 0x16F then 6 else 1

/-- The kind `members=` names a command by: that unit's code, 7 for `token`, which is STOK and TOKS (R410). -/
def kindOf (op : Nat) : Nat := if op = 0x172 ∨ op = 0x173 then 7 else unitOf op

/-- What a command's check yields: the footprint, and the window register for WINRUN. -/
structure Checked where
  foots : List Footprint
  window : List Byte
  deriving DecidableEq, Repr

/-- What a command's section requires of its block, in the setting of the firing instance. -/
abbrev BlockCheck := Context → Quad → Inst → Word → List Byte → Except FaultCode Checked

/-- The vault after a block of `n` bytes has been read: the errors its words had have been met (R372). -/
def State.scrubBlock (s : State) (i : Inst) (a : Word) (n : Nat) : State :=
  if n = 0 then s else s.scrub (vaultBase i.frame.quad + a.toNat) n

/-- R228 step 1 on the block of `n` bytes at near offset `L`: range, alignment, an earlier write interval, poison.
DESIGN CHOICE (log 85): a command of a younger ordered iteration reads the vault here, not the speculative buffer, and adds
nothing to the iteration's read set. -/
def State.readBlock (s : State) (l : Lane) (i : Inst) (a : Word) (n : Nat) : Except State (List Byte) :=
  if s.topOf i < a.toNat + n then .error (s.takeFault i .nearRange (some l.slot) 0 a.toNat)
  else if a.toNat % 64 ≠ 0 then .error (s.takeFault i .align (some l.slot) 0 a.toNat)
  else
    match (s.quad? i.frame.quad).bind fun q => q.loadConflict a.toNat n with
    | some c => .error (s.abandon i 0x83 (.conflict i.frame.quad c a.toNat (a.toNat + n)))
    | none =>
      if (s.scrubBlock i a n).poisoned (vaultBase i.frame.quad + a.toNat) n then
        .error ((s.scrubBlock i a n).takeFault i .poison (some l.slot) 0 a.toNat)
      else .ok (memBytes s.mem (vaultBase i.frame.quad + a.toNat) n)

/-- BEN = 1 names a barrier the region has not configured, or whose members exclude this kind of engine (R228). -/
def State.barRefused (s : State) (i : Inst) (op : Nat) (cmd : BitVec 27) : Bool :=
  (cmdFields cmd).1 == 1 &&
  match s.barrierDecl? i (cmdFields cmd).2.1 with
  | none => true
  | some b => match b.members with | some ms => !ms.contains (kindOf op) | none => false

/-- The command with what the firing knows of it. -/
def mkCommand (s : State) (op : Nat) (f : FmtE) (i : Inst) (c : Context) (q : Quad) (a v : Word)
    (bs : List Byte) (k : Checked) : Command :=
  { id := s.nextId, op := op, cx := c.id, sid := i.frame.strand.sid, quad := q.id, ldie := q.ldie,
    qindex := c.indexOf q, tag := i.frame.strand.tag, lsid := f.lsid.toNat, block := i.addr,
    eng := (cmdFields f.cmd).2.2.1, bar := if (cmdFields f.cmd).1 = 1 then some (cmdFields f.cmd).2.1 else none,
    low := (cmdFields f.cmd).2.2.2, arg := a, val := v, bytes := bs, window := k.window, seed := i.seed0,
    foots := if k.foots.any (·.quad = q.id) then k.foots else ⟨q.id, .empty, .empty⟩ :: k.foots }

/-- ADDR of a refused block: for PERMISSION the first base that lies in an aperture slot of no quad; else zero (R234,
R367). -/
def refusedAddr (c : Context) (code : FaultCode) (bs : List Byte) : Nat :=
  let outside := fun va => match c.aperture? va with | some (none, _) => true | _ => false
  let ws := wordsOf (bs.length / 8) bs
  let bases := (List.zipIdx ws).filter fun x => x.2 % 8 = 0
  if code = .permission then (((bases.map (·.1)).find? outside).or (ws.find? outside)).getD 0 else 0

/-- R228 after the operands are there: read, check, barrier, handle to the targets, buffer. `size` 0: the command
has no block. -/
def fireCommand (op size : Nat) (f : FmtE) (check : BlockCheck) (l : Lane) (i : Inst) (a v : Word) (s : State) : Out :=
  match s.quad? i.frame.quad, s.ctx? i.frame.strand.cx with
  | some q, some c =>
    match (if size = 0 then .ok [] else s.readBlock l i a size) with
    | .error s' => .next s'
    | .ok bs =>
      let s0 := s.scrubBlock i a size
      match check c q i a bs with
      | .error code => .next (s0.takeFault i code (some l.slot) 0 (refusedAddr c code bs))
      | .ok k =>
        if s.barRefused i op f.cmd then .next (s0.takeFault i .engineError (some l.slot) 0 0)
        else
          let h := toWord (handleToken (c.indexOf q) i.frame.strand.tag f.lsid.toNat)
          let s1 := { s0 with nextId := s.nextId + 1 }.buffer l.inst l.slot f.lsid.toNat
            (.command (mkCommand s op f i c q a v bs k))
          .next (s1.deliver l.inst l.slot (.val h) [f.t0, f.t1])
  | _, _ => .refused .notFiring

/-- A command of one operand: a null sends nulls, resolves the LSID and issues nothing (R228). -/
def command1 (op size : Nat) (f : FmtE) (s : State) (check : BlockCheck) : Out :=
  firing s f.pr fun l i s =>
    match l.ops.one? with
    | none => .refused .notFiring
    | some .null => .next ((s.resolveLsid l.inst f.lsid.toNat).deliver l.inst l.slot .null [f.t0, f.t1])
    | some (.val a) => fireCommand op size f check l i a 0 s

/-! ### Stream commands (R237) -/

/-- Adds a side to a footprint; foreign and outside sites are the faults of R234. -/
def addSite (site : Site) (write : Bool) (fs : List Footprint) : Except FaultCode (List Footprint) :=
  match site with
  | .hbm => .ok fs
  | .vault q lo hi => .ok (addFoot q write ⟨lo, hi⟩ fs)
  | .foreign => .error .permission
  | .outside => .error .shapeInvalid

/-- A side's registered interval: its bounding interval, or [lo, lo + xBOUND) (R237). -/
def boundOf (sh : Shape) (xb : Nat) : Option (Int × Int) :=
  if xb = 0 then some sh.bound
  else if (xb : Int) < sh.bound.2 - sh.bound.1 then none
  else some (sh.bound.1, sh.bound.1 + xb)

/-- E8M0 goes only with E8M0 (R238). -/
def typesMeet (a b : Nat) : Bool := (a == 0xE) == (b == 0xE)

/-- The two N that R238 compares. -/
def streamCounts (op : Nat) (src dst : Shape) : Bool := op != 0x160 || src.count == dst.count

/-- N of R238: of the source for SSCATTER, else of the destination. -/
def streamN (op : Nat) (src dst : Option Shape) : Nat :=
  ((if op = 0x162 then src else dst).map (·.count)).getD 0

/-- The requirements of R237 on a stream block, and its footprint. DESIGN CHOICE (log 86): an SFILL with a source bound, and an
index or marker interval that passes T, are SHAPE_INVALID. -/
def checkStream (op : Nat) : BlockCheck := fun c _ _ _ bs =>
  let ctl := fieldAt bs 128
  let idx := fieldAt bs 144
  let mark := fieldAt bs 152
  let mcap := fieldAt bs 160
  let fill := op = 0x163
  let indexed := op = 0x161 ∨ op = 0x162
  match parseShape (recordAt bs 64) false false with
  | none => .error .shapeInvalid
  | some dst =>
    let src? := if fill then some dst else parseShape (recordAt bs 0) false false
    match src? with
    | none => .error .shapeInvalid
    | some src =>
      if (fill ∧ absentAt bs 0 = false) ∨ bitsOf ctl 63 40 ≠ 0 ∨ bitsOf ctl 31 10 ≠ 0 ∨ bitsOf ctl 4 0 ≠ 0 ∨
          bitsOf ctl 7 5 > 5 ∨ (¬indexed ∧ idx ≠ 0) ∨ (mark = 0 ∧ dst.marks = true) ∨ mcap / 2 ^ 32 ≠ 0 ∨
          fieldAt bs 184 ≠ 0 ∨ (fill ∧ fieldAt bs 168 ≠ 0) ∨ typesMeet src.ty dst.ty = false ∨
          streamCounts op src dst = false then .error .shapeInvalid
      else
        match boundOf src (fieldAt bs 168), boundOf dst (fieldAt bs 176) with
        | some sb, some db =>
          let n := streamN op (some src) (some dst)
          let il := n * (if bitOf ctl 9 then 8 else 4)
          let addSrc := fun fs => if fill then Except.ok fs else addSite (c.site src.base sb.1 sb.2) false fs
          let addIdx := fun fs =>
            if indexed then addSite (c.site idx (idx : Int) (idx + il : Nat)) false fs else .ok fs
          let addMark := fun fs =>
            if dst.marks then addSite (c.site mark (mark : Int) (mark + 8 * mcap : Nat)) true fs else .ok fs
          match (addSrc []).bind addIdx with
          | .error e => .error e
          | .ok fs =>
            match (addSite (c.site dst.base db.1 db.2) true fs).bind addMark with
            | .error e => .error e
            | .ok fs => .ok ⟨fs, []⟩
        | _, _ => .error .shapeInvalid

def execScopy (f : FmtE) (s : State) : Out := command1 0x160 192 f s (checkStream 0x160)
def execSgather (f : FmtE) (s : State) : Out := command1 0x161 192 f s (checkStream 0x161)
def execSscatter (f : FmtE) (s : State) : Out := command1 0x162 192 f s (checkStream 0x162)
def execSfill (f : FmtE) (s : State) : Out := command1 0x163 192 f s (checkStream 0x163)

/-- SPARAM: a handle and a value; no block (R227, R239). Its own handle goes to the targets. -/
def execSparam (f : FmtE) (s : State) : Out :=
  firing s f.pr fun l i s =>
    match l.ops.two? with
    | none => .refused .notFiring
    | some none => .next ((s.resolveLsid l.inst f.lsid.toNat).deliver l.inst l.slot .null [f.t0, f.t1])
    | some (some (h, v)) => fireCommand 0x164 0 f (fun _ _ _ _ _ => .ok ⟨[], []⟩) l i h v s

/-! ### The matrix engine (R242-R245) -/

/-- The pairs of R159 with the group length and whether the mode is an MX mode. -/
def meMode (a b : Nat) : Option (Nat × Bool) :=
  match a, b with
  | 0xD, 0xD => some (32, true)
  | 0xB, 0xB | 0xB, 0xC | 0xC, 0xB | 0xC, 0xC | 0xD, 0xB | 0xD, 0xC => some (32, true)
  | 1, 1 => some (32, true)
  | 0xA, 0xA => some (8, false)
  | 9, 9 => some (8, false)
  | 8, 8 => some (8, false)
  | _, _ => none

def execMxcfg (f : FmtE) (s : State) : Out :=
  command1 0x165 0 f s fun _ _ _ a _ =>
    if a.toNat / 2 ^ 14 ≠ 0 ∨ a.bits 13 10 = 0 ∨ meMode (a.bits 3 0) (a.bits 7 4) = none then .error .shapeInvalid
    else .ok ⟨[], []⟩

/-- A shape that must lie in the home vault: its interval there (R228). -/
def homeSite (c : Context) (q : Quad) (sh : Shape) : Option Interval :=
  match c.shapeSite sh with
  | .vault v lo hi => if v = q.id then some ⟨lo, hi⟩ else none
  | _ => none

/-- The fault of a shape that must lie in the home vault and does not. -/
def homeFault (c : Context) (sh : Shape) : FaultCode :=
  match c.shapeSite sh with
  | .foreign => .permission
  | _ => .shapeInvalid

/-- Home-vault intervals of several shapes, joined. -/
def homeSites (c : Context) (q : Quad) : List Shape → Except FaultCode Interval
  | [] => .ok .empty
  | sh :: r =>
    match homeSite c q sh, homeSites c q r with
    | some i, .ok j => .ok (i.join j)
    | none, _ => .error (homeFault c sh)
    | _, .error e => .error e

/-- An optional shape: absent when its record is all zeros. -/
def optShape (bs : List Byte) (off : Nat) (padOk : Bool) : Except FaultCode (Option Shape) :=
  if absentAt bs off then .ok none
  else
    match parseShape (recordAt bs off) padOk false with
    | some sh => .ok (some sh)
    | none => .error .shapeInvalid

/-- R243: the requirements on an MXRUN block that do not depend on the engine's state. -/
def checkMxrun : BlockCheck := fun c q _ _ bs =>
  match parseShape (recordAt bs 0) true false, parseShape (recordAt bs 64) true false, optShape bs 128 true,
    optShape bs 192 true with
  | some a, some b, .ok sa, .ok sb =>
    let t := fieldAt bs 256
    if a.rank ≠ 2 ∨ b.rank ≠ 2 ∨ ((a.dims[0]?).map (·.2)) ≠ some 1 ∨ ((b.dims[0]?).map (·.2)) ≠ some 1 ∨
        a.extent 0 ≠ b.extent 0 ∨ 128 < a.extent 1 ∨ 512 < b.extent 1 ∨ 4 ≤ t ∨
        4 < t % 4 + (b.extent 1 + 127) / 128 then .error .shapeInvalid
    else
      match homeSites c q ([a, b] ++ sa.toList ++ sb.toList) with
      | .ok iv => .ok ⟨[⟨q.id, iv, .empty⟩], []⟩
      | .error e => .error e
  | _, _, _, _ => .error .shapeInvalid

def execMxrun (f : FmtE) (s : State) : Out := command1 0x166 264 f s checkMxrun

/-- R244: the block of MXLDACC and MXSTACC. -/
def checkTile (write : Bool) : BlockCheck := fun c q _ _ bs =>
  match parseShape (recordAt bs 0) false false with
  | some sh =>
    let w := fieldAt bs 64
    if sh.rank ≠ 2 ∨ sh.extent 0 ≠ 128 ∨ sh.extent 1 ≠ 128 ∨ 0xD < sh.ty ∨ w / 64 ≠ 0 ∨ 5 < bitsOf w 4 2 then
      .error .shapeInvalid
    else
      match homeSite c q sh with
      | some iv => .ok ⟨[if write then ⟨q.id, .empty, iv⟩ else ⟨q.id, iv, .empty⟩], []⟩
      | none => .error (homeFault c sh)
  | none => .error .shapeInvalid

def execMxldacc (f : FmtE) (s : State) : Out := command1 0x167 72 f s (checkTile false)
def execMxstacc (f : FmtE) (s : State) : Out := command1 0x168 72 f s (checkTile true)

/-- MXREL takes no operand (R227). -/
def execMxrel (f : FmtE) (s : State) : Out :=
  firing s f.pr fun l i s => fireCommand 0x169 0 f (fun _ _ _ _ _ => .ok ⟨[], []⟩) l i 0 0 s

/-! ### The vector stream unit (R246, R247) -/

/-- The operand types, result types and number of operands of a VMAP operation: predicates on type codes (R246). -/
structure VmapSig where
  inputs : List (Nat → Bool)
  output : Nat → Bool

/-- Integer types of a width code (R93): 0 doubleword .. 3 byte. -/
def intOfWidth (w : Nat) (t : Nat) : Bool := t < 8 && t / 2 == 3 - w

def vmapSig (opc xop imm9 : Nat) : Option VmapSig :=
  let w := xop % 4
  let int := intOfWidth w
  let flt := fun t => t == 8 + xop
  let sty := bitsOf imm9 8 5
  let dty := bitsOf imm9 4 1
  let conv := convOk (opc - 0xD0) (BitVec.ofNat 3 xop) (BitVec.ofNat 9 imm9)
  if imm9 ≠ 0 ∧ opc ≠ 0xBA ∧ ¬(0xD0 ≤ opc ∧ opc ≤ 0xD6) then none
  else if opc = 1 ∨ opc = 2 then some ⟨[int, int], int⟩
  else if 3 ≤ opc ∧ opc ≤ 0x18 then (if xop < 4 then some ⟨[int, int], int⟩ else none)
  else if 0x20 ≤ opc ∧ opc ≤ 0x27 then (if xop < 4 then some ⟨[int], int⟩ else none)
  else if opc = 0x28 then (if xop < 4 then some ⟨[int], intOfWidth 0⟩ else none)
  else if opc = 0x29 then (if xop < 4 then some ⟨[int], int⟩ else none)
  else if 0x60 ≤ opc ∧ opc ≤ 0x69 then (if xop < 4 then some ⟨[int, int], isIntType⟩ else none)
  else if opc = 0xA9 then (if xop < 3 then some ⟨[flt, intOfWidth 1], flt⟩ else none)
  else if 0xA0 ≤ opc ∧ opc ≤ 0xA8 then (if xop < 3 then some ⟨[flt, flt], flt⟩ else none)
  else if opc = 0xBB then (if xop < 3 then some ⟨[flt], intOfWidth 0⟩ else none)
  else if opc = 0xBA then (if xop < 3 ∧ imm9 < 6 then some ⟨[flt], flt⟩ else none)
  else if 0xB0 ≤ opc ∧ opc ≤ 0xBC then (if xop < 3 then some ⟨[flt], flt⟩ else none)
  else if 0xC0 ≤ opc ∧ opc ≤ 0xC3 then (if xop < 3 then some ⟨[flt, flt, flt], flt⟩ else none)
  else if 0xC8 ≤ opc ∧ opc ≤ 0xCD then (if xop < 3 then some ⟨[flt, flt], isIntType⟩ else none)
  else if (0xD0 ≤ opc ∧ opc ≤ 0xD4) ∨ opc = 0xD6 then (if conv then some ⟨[fun t => t == sty], fun t => t == dty⟩ else none)
  else if opc = 0xD5 then (if conv then some ⟨[fun t => t == sty], fun t => t == 0xE⟩ else none)
  else none

/-- R246: the requirements on a VMAP block. -/
def checkVmap : BlockCheck := fun c q _ _ bs =>
  let w := fieldAt bs 256
  match vmapSig (bitsOf w 8 0) (bitsOf w 11 9) (bitsOf w 20 12), parseShape (recordAt bs 0) false false,
    optShape bs 64 false, optShape bs 128 false, optShape bs 192 false with
  | some sig, some out, .ok a, .ok b, .ok d =>
    let ins := a.toList ++ b.toList ++ d.toList
    let gaps := (a.isNone && (b.isSome || d.isSome)) || (b.isNone && d.isSome)
    if w / 2 ^ 21 ≠ 0 ∨ gaps = true ∨ ins.length ≠ sig.inputs.length ∨ sig.output out.ty = false ∨
        ((List.zip ins sig.inputs).any fun p => !(p.2 p.1.ty) || (p.1.count != out.count && p.1.count != 1)) = true then
      .error .shapeInvalid
    else
      match homeSites c q ins, homeSites c q [out] with
      | .ok rd, .ok wr => .ok ⟨[⟨q.id, rd, wr⟩], []⟩
      | .error e, _ => .error e
      | _, .error e => .error e
  | _, _, _, _, _ => .error .shapeInvalid

def execVmap (f : FmtE) (s : State) : Out := command1 0x16A 264 f s checkVmap

/-- R247: the requirements on a VRED block. -/
def checkVred : BlockCheck := fun c q _ _ bs =>
  match parseShape (recordAt bs 0) false false, parseShape (recordAt bs 64) false false with
  | some out, some inp =>
    let w := fieldAt bs 128
    let op := bitsOf w 3 0
    let dim := bitsOf w 6 4
    let typesOk := if op ≤ 4 then 8 ≤ inp.ty && inp.ty ≤ 0xD && 8 ≤ out.ty && out.ty ≤ 0xA
      else isIntType inp.ty && isIntType out.ty
    let want := (inp.dims.eraseIdx dim).map (·.1)
    let have' := out.dims.map (·.1)
    if w / 128 ≠ 0 ∨ 9 < op ∨ typesOk = false ∨ inp.rank ≤ dim ∨ want ≠ have' then .error .shapeInvalid
    else
      match homeSites c q [inp], homeSites c q [out] with
      | .ok rd, .ok wr => .ok ⟨[⟨q.id, rd, wr⟩], []⟩
      | .error e, _ => .error e
      | _, .error e => .error e
  | _, _ => .error .shapeInvalid

def execVred (f : FmtE) (s : State) : Out := command1 0x16B 136 f s checkVred

/-! ### The window unit (R249, R250) -/

/-- R249: a window record; BASE is ignored. -/
def windowOk (bs : List Byte) : Bool :=
  match parseShape (recordAt bs 0) true true with
  | some sh =>
    sh.win && sh.rank == 3 && sh.ty != 0xF &&
      ((bitsOf sh.w7 7 0 - 1) * bitsOf sh.w7 27 24 + 1) * sh.extent 1 * sh.extent 0 * typeBits sh.ty ≤ 8 * 131072
  | none => false

def execWincfg (f : FmtE) (s : State) : Out :=
  command1 0x16C 64 f s fun _ _ _ _ bs => if windowOk bs then .ok ⟨[], bs⟩ else .error .shapeInvalid

/-- Output height and width of a window record (R250). -/
def outExtent (n p d k st : Nat) : Nat :=
  if n + 2 * p < d * (k - 1) + 1 then 0 else (n + 2 * p - d * (k - 1) - 1) / st + 1

/-- OH and OW of the window register (R250). -/
def windowGeometry (sh : Shape) : Nat × Nat :=
  (outExtent (sh.extent 2) (bitsOf sh.w7 39 32) (bitsOf sh.w7 27 24) (bitsOf sh.w7 7 0) (bitsOf sh.w7 19 16),
   outExtent (sh.extent 1) (bitsOf sh.w7 39 32) (bitsOf sh.w7 31 28) (bitsOf sh.w7 15 8) (bitsOf sh.w7 23 20))

/-- R250: WINRUN against the window register as it stands. -/
def checkWinrun : BlockCheck := fun c q _ _ bs =>
  match parseShape (recordAt q.window 0) true true, parseShape (recordAt bs 0) false false with
  | some w, some dst =>
    let rows := fieldAt bs 72 / 2 ^ 32
    let (oh, ow) := windowGeometry w
    let inp := { w with base := fieldAt bs 64 }
    if dst.rank ≠ 2 ∨ dst.extent 0 ≠ bitsOf w.w7 7 0 * bitsOf w.w7 15 8 * w.extent 0 ∨ dst.extent 1 ≠ rows ∨
        dst.ty ≠ w.ty ∨ oh * ow < fieldAt bs 72 % 2 ^ 32 + rows then .error .shapeInvalid
    else
      match homeSites c q [inp], homeSites c q [dst] with
      | .ok rd, .ok wr => .ok ⟨[⟨q.id, rd, wr⟩], q.window⟩
      | .error e, _ => .error e
      | _, .error e => .error e
  | _, _ => .error .shapeInvalid

def execWinrun (f : FmtE) (s : State) : Out := command1 0x16D 80 f s checkWinrun

/-! ### Decoder, collectives, token streams (R251, R257, R259, R260) -/

/-- R251. DESIGN CHOICE (log 87): a bitstream address in a vault aperture is accepted. -/
def checkDecode : BlockCheck := fun c _ _ _ bs =>
  let ctl := fieldAt bs 16
  let frames := ctl % 65536
  let ty := if bitOf ctl 19 then 0xA else 0
  match parseShape (recordAt bs 64) false false, optShape bs 128 false, optShape bs 192 false with
  | some y, .ok cb, .ok cr =>
    let planes := y :: (cb.toList ++ cr.toList)
    if ctl / 2 ^ 21 ≠ 0 ∨ fieldAt bs 56 ≠ 0 ∨
        (planes.any fun p => p.rank != 3 || p.ty != ty || p.extent 2 != frames) = true then .error .shapeInvalid
    else
      let stat := fieldAt bs 24
      let r0 := addSite (c.site stat (stat : Int) (stat + 8 * frames : Nat)) true []
      match planes.foldl (fun r p => r.bind (addSite (c.shapeSite p) true)) r0 with
      | .ok fs => .ok ⟨fs, []⟩
      | .error e => .error e
  | _, _, _ => .error .shapeInvalid

def execDecode (f : FmtE) (s : State) : Out := command1 0x16E 256 f s checkDecode

/-- The element types COLL admits for an operation (R257). -/
def collTypeOk (op ty : Nat) : Bool :=
  if op ≤ 2 then 8 ≤ ty && ty ≤ 0xA
  else if op = 3 then 4 ≤ ty && ty ≤ 7
  else if op = 4 ∨ op = 6 then ty == 5 || ty == 7
  else ty == 4 || ty == 6

/-- Elements of SEND and RECV (R257). -/
def collSizes (kind count nranks : Nat) : Nat × Nat :=
  match kind with
  | 1 => (nranks * count, count)
  | 2 => (count, nranks * count)
  | _ => (count, count)

/-- The named buffers of a COLL block, as address and length: SEND where the rank reads it, and RECV (R257). -/
def collBuffers (bs : List Byte) : List (Nat × Nat) :=
  let w := fieldAt bs 16
  let r := fieldAt bs 24
  let z := typeBits (bitsOf w 35 32) / 8
  let (ns, nr) := collSizes (bitsOf w 39 36) (w % 2 ^ 32) (r % 65536)
  (if bitsOf w 39 36 ≠ 3 ∨ bitsOf r 31 16 = bitsOf r 47 32 then [(fieldAt bs 0, ns * z)] else []) ++
    [(fieldAt bs 8, nr * z)]

/-- R257. DESIGN CHOICE (log 88): RANK and ROOT stay below NRANKS, and OP fits TYPE, for every KIND. -/
def checkColl : BlockCheck := fun c _ _ _ bs =>
  let w := fieldAt bs 16
  let r := fieldAt bs 24
  let ty := bitsOf w 35 32
  let kind := bitsOf w 39 36
  let op := bitsOf w 43 40
  let scope := bitsOf w 46 44
  let nranks := r % 65536
  if w / 2 ^ 47 ≠ 0 ∨ r / 2 ^ 48 ≠ 0 ∨ fieldAt bs 40 ≠ 0 ∨ fieldAt bs 48 ≠ 0 ∨ fieldAt bs 56 ≠ 0 ∨ 3 < kind ∨ 7 < op ∨
      ¬(scope = 4 ∨ scope = 5) ∨ nranks = 0 ∨ 4096 < nranks ∨ nranks ≤ bitsOf r 31 16 ∨ nranks ≤ bitsOf r 47 32 ∨
      collTypeOk op ty = false then .error .shapeInvalid
  else
    let z := typeBits ty / 8
    let (ns, nr) := collSizes kind (w % 2 ^ 32) nranks
    let send := fieldAt bs 0
    let recv := fieldAt bs 8
    let reads := kind ≠ 3 ∨ bitsOf r 31 16 = bitsOf r 47 32
    let r0 := if reads then addSite (c.site send (send : Int) (send + ns * z : Nat)) false [] else .ok []
    match r0.bind (addSite (c.site recv (recv : Int) (recv + nr * z : Nat)) true) with
    | .ok fs => .ok ⟨fs, []⟩
    | .error e => .error e

def execColl (f : FmtE) (s : State) : Out := command1 0x16F 64 f s checkColl

/-- R259. -/
def checkStok (circ : Nat) : BlockCheck := fun c _ _ _ bs =>
  match parseShape (recordAt bs 0) false false with
  | some sh =>
    let w := fieldAt bs 64
    let mc := bitsOf w 25 16
    if w / 2 ^ 26 ≠ 0 then .error .shapeInvalid
    else if c.circuits.length ≤ circ ∨ (mc ≠ 0x3FF ∧ c.circuits.length ≤ mc) then .error .circuitInvalid
    else
      match addSite (c.shapeSite sh) false [] with
      | .ok fs => .ok ⟨fs, []⟩
      | .error e => .error e
  | none => .error .shapeInvalid

def execStok (f : FmtE) (s : State) : Out := command1 0x172 72 f s (checkStok (f.cmd.toNat % 1024))

/-- R260: the circuit ends at a block with one placement, on the issuing quad. -/
def tokCircuitOk (c : Context) (q : Quad) (circ : Nat) : Bool :=
  match c.circuits[circ]? with
  | some k =>
    k.dstLdie == q.ldie &&
    match c.places k.dstLdie (c.codeBase + k.block) with
    | [p] => p.x == q.x && p.y == q.y
    | _ => false
  | none => false

def checkToks (circ : Nat) : BlockCheck := fun c q _ _ bs =>
  match parseShape (recordAt bs 0) false false with
  | some sh =>
    if sh.rank ≠ 1 ∨ fieldAt bs 64 / 2 ^ 32 ≠ 0 then .error .shapeInvalid
    else
      match homeSite c q sh with
      | none => .error (homeFault c sh)
      | some iv => if tokCircuitOk c q circ then .ok ⟨[⟨q.id, .empty, iv⟩], []⟩ else .error .circuitInvalid
  | none => .error .shapeInvalid

def execToks (f : FmtE) (s : State) : Out := command1 0x173 72 f s (checkToks (f.cmd.toNat % 1024))

/-! ### Queries (R261) -/

/-- A pending or retained command has the handle's TAG and LSID. -/
def sameHandle (h tag lsid : Nat) : Bool := bitsOf h 55 16 == tag && bitsOf h 15 11 == lsid

/-- Bits [15:0] and [16] of HQUERY's report. -/
def State.hquery (s : State) (c : Context) (h : Nat) : Nat :=
  let q? := c.quadOf? (tagLdie (bitsOf h 55 16)) (bitsOf h 62 56)
  let pend := s.cmds.countP fun p => p.cmd.cx = c.id && some p.cmd.quad = q? && sameHandle h p.cmd.tag p.cmd.lsid
  let kept := (q?.bind s.quad?).map fun q => q.entries.any fun e => match e with
    | .report t l _ _ => sameHandle h t l
    | _ => false
  pend % 65536 + (if kept.getD false then 65536 else 0)

def execHquery (f : FmtE) (s : State) : Out :=
  firing s f.pr fun l i s =>
    match l.ops.one? with
    | none => .refused .notFiring
    | some .null => .next ((s.resolveLsid l.inst f.lsid.toNat).deliver l.inst l.slot .null [f.t0, f.t1])
    | some (.val h) =>
      let v := ((s.ctx? i.frame.strand.cx).map fun c => s.hquery c h.toNat).getD 0
      .next ((s.resolveLsid l.inst f.lsid.toNat).deliver l.inst l.slot (.val (toWord v)) [f.t0, f.t1])

/-- Entries of a vault's scoreboard in use: reserved, pending, retained (R230). -/
def Quad.entriesUsed (q : Quad) : Nat := q.entries.length

/-- RSQUERY's report (R261). -/
def Quad.rsquery (q : Quad) (a lines : Nat) : Nat :=
  let wr := q.entries.any fun e => match e with | .pending _ _ _ w => w.hits a (64 * lines) | _ => false
  let rd := q.entries.any fun e => match e with | .pending _ _ r _ => r.hits a (64 * lines) | _ => false
  (64 - q.entriesUsed) + q.entriesUsed % 128 * 2 ^ 8 + (if wr then 2 ^ 16 else 0) + (if rd then 2 ^ 17 else 0)

def execRsquery (f : FmtE) (s : State) : Out :=
  firing s f.pr fun l i s =>
    match l.ops.one? with
    | none => .refused .notFiring
    | some .null => .next ((s.resolveLsid l.inst f.lsid.toNat).deliver l.inst l.slot .null [f.t0, f.t1])
    | some (.val a) =>
      let v := ((s.quad? i.frame.quad).map fun q => q.rsquery a.toNat (cmdFields f.cmd).2.2.2).getD 0
      .next ((s.resolveLsid l.inst f.lsid.toNat).deliver l.inst l.slot (.val (toWord v)) [f.t0, f.t1])

end Sys2Proof.Machine
end

