-- ==== Sys2Proof/Machine/Rmw.lean ====
section
/-!
DEFINITION. The read-modify-writes at the width of the access (R210, R213, R216).
-/

namespace Sys2Proof.Machine

/-- new of R210 and R213, for `n` bytes: the value left, or none where nothing is written; and the flags of AFADD
(R211). -/
def rmwNew (op : Rmw) (n old b x : Nat) : Option Nat × Nat :=
  let w := 8 * n
  let o := old % 2 ^ w
  let b := b % 2 ^ w
  match op with
  | .add => (some ((o + b) % 2 ^ w), 0)
  | .minS => (some (if signedOf w b < signedOf w o then b else o), 0)
  | .minU => (some (min o b), 0)
  | .maxS => (some (if signedOf w o < signedOf w b then b else o), 0)
  | .maxU => (some (max o b), 0)
  | .and => (some (o &&& b), 0)
  | .or => (some (o ||| b), 0)
  | .xor => (some (o ^^^ b), 0)
  | .xchg => (some b, 0)
  | .cas => (if o = b then some (x % 2 ^ w) else none, 0)
  | .fadd f => (some (fadd f o b).1, (fadd f o b).2)

end Sys2Proof.Machine
end

