-- ==== Sys2Proof/Machine/Commit.lean ====
section
/-!
DEFINITION. The commit of R37: step 1's checks and reservations in their order, the near effect set, the step-3
events in LSID order with what each waits for (R180-R185, R188, R220, R221, R282), carry writes, the exit; ordered
spaces (R57-R59, R197, R198).
-/

namespace Sys2Proof.Machine

/-! ### Effects in order (R33) -/

/-- LSID order, then ascending slot. -/
def Eff.le (a b : Eff) : Bool := a.lsid < b.lsid || (a.lsid == b.lsid && a.slot ≤ b.slot)

def Effect.near : Effect → Bool
  | .store _ _ _ => true
  | .atomic _ _ _ _ => true
  | _ => false

def Inst.ordered (i : Inst) : List Eff := sortBy Eff.le i.effs
def Inst.nearSet (i : Inst) : List Eff := i.ordered.filter (·.eff.near)
def Inst.later (i : Inst) : List Eff := i.ordered.filter (!·.eff.near)

/-- An effect a non-oldest ordered iteration may not commit (R59, R271): every E-format effect, XMIT, spawns, arrivals
and tag releases. -/
def Effect.forbidden : Effect → Bool
  | .store _ _ _ => false
  | .atomic _ _ _ _ => false
  | .trace _ _ => false
  | .fence _ => false
  | _ => true

def ExitOp.forbidden : ExitOp → Bool
  | .far _ _ _ _ => true
  | .trap _ => true
  | _ => false

/-- The commit retires its strand (R38). -/
def Inst.retires (i : Inst) : Bool :=
  match i.exits with
  | [] => true
  | e :: _ => match e.op with | .finish => true | _ => false

/-! ### Step 1, items 1 and 2: what faults (R37) -/

/-- Why step 1 stops. -/
inductive Stop where
  | fault (code : FaultCode) (slot : Option Nat) (detail addr : Nat)
  | breach (pa : Nat)
  | refuse (reason : Nat) (wait : Wait)
  deriving DecidableEq, Repr

/-- Step 1 as far as it has come: the state, the translations made, by slot, and what stops it. -/
structure Step1 where
  s : State
  pas : List (Nat × Nat)
  stop : Option Stop

def Step1.halt (r : Step1) (x : Stop) : Step1 := { r with stop := some x }

/-- A translation needed by an effect or the exit: through the quad's TLB, and kept (R212, R331). -/
def Step1.xlate (r : Step1) (c : Context) (q : QuadId) (slot va n : Nat) (k : Kind) : Step1 :=
  match translateBy r.s (.quad q) c va n k with
  | (s', .ok pa) => { r with s := s', pas := r.pas ++ [(slot, pa)] }
  | (s', .fault code d) => { r with s := s', stop := some (.fault code (some slot) d va) }
  | (s', .breach pa) => { r with s := s', stop := some (.breach pa) }

/-- One item counted in a space; a closed or unallocated space refuses it (R266). -/
def Step1.count (r : Step1) (st : Strand) (slot space : Nat) : Step1 :=
  match r.s.space? st.cx space with
  | some p =>
    if p.openTo st && !p.closed then { r with s := r.s.countItem st.cx space 1 }
    else r.halt (.fault .tagspaceInvalid (some slot) 0 0)
  | none => r.halt (.fault .tagspaceInvalid (some slot) 0 0)

/-- A block of the region's placement map starts at the address (R264, R274). -/
def placed (c : Context) (ldie addr : Nat) : Bool := !(c.places ldie addr).isEmpty

/-- The checks of one step-3 effect at step 1. `tags`: tags an earlier SPAWN of the commit has counted. -/
def checkEffect (r : Step1) (c : Context) (i : Inst) (tags : List Nat) (e : Eff) : Step1 :=
  let st := i.frame.strand
  match e.eff with
  | .farStore va n _ _ => r.xlate c i.frame.quad e.slot va n .write
  | .farReduce _ va n _ => r.xlate c i.frame.quad e.slot va n .atomic
  | .xmit _ _ => r.count st e.slot (tagSpace st.tag)
  | .command _ => r.count st e.slot (tagSpace st.tag)
  | .tsfree n trig =>
    match r.s.space? st.cx n with
    | none => r.halt (.fault .tagspaceInvalid (some e.slot) 0 0)
    | some p =>
      let mine := if tagSpace st.tag = n ∧ i.retires = true then 1 else 0
      if p.closed || !p.openTo st || (!trig && !i.retires) || p.live != mine then
        r.halt (.fault .tagspaceInvalid (some e.slot) 0 0)
      else { r with s := r.s.modSpace st.cx n fun p => { p with closed := true } }
  | .spawn t b =>
    let r' := r.count st e.slot (tagSpace t)
    if r'.stop.isSome then r'
    else if r.s.aliveTag st.cx t || tags.contains t then r.halt (.fault .tagspaceInvalid (some e.slot) 0 0)
    else if !placed c (tagLdie st.tag) b then r.halt (.fault .permission (some e.slot) 3 b)
    else r'
  | .spawnr t b _ =>
    let r' := r.count st e.slot (tagSpace t)
    if r'.stop.isSome then r'
    else if !placed c (tagLdie st.tag) b then r.halt (.fault .permission (some e.slot) 3 b)
    else r'
  | _ => r

/-- The checks of every step-3 effect, in LSID order (R37 step 1 item 2). -/
def checkEffects (c : Context) (i : Inst) (tags : List Nat) : List Eff → Step1 → Step1
  | [], r => r
  | e :: rest, r =>
    let r' := checkEffect r c i tags e
    if r'.stop.isSome then r'
    else checkEffects c i (match e.eff with | .spawn t _ => t :: tags | _ => tags) rest r'

/-- The checks of the exit (R264, R212). -/
def checkExit (r : Step1) (c : Context) (i : Inst) : Step1 :=
  match i.exits with
  | [] => r
  | e :: _ =>
    match e.op with
    | .branch t _ =>
      if 2 ^ 57 ≤ t then r.halt (.fault .pageFault (some e.slot) 3 t)
      else if !placed c (tagLdie i.frame.strand.tag) t then r.halt (.fault .permission (some e.slot) 3 t)
      else r
    | .far (.load _ va n) _ _ _ => r.xlate c i.frame.quad e.slot va n .read
    | .far (.rmw _ va n _ _) _ _ _ => r.xlate c i.frame.quad e.slot va n .atomic
    | _ => r

/-! ### Step 1, items 3 to 6: what is reserved -/

/-- Record sizes step 1 reserves: each spawn's, then the exit's (R37, R274, R350). -/
def Inst.recordSizes (i : Inst) : List Nat :=
  (i.later.filterMap fun e => match e.eff with
    | .spawn _ _ => some 80
    | .spawnr _ _ _ => some 72
    | _ => none) ++
  (match i.exits with
    | e :: _ => if e.op.forbidden then [emberSize i.header.live] else []
    | [] => [])

/-- A park entry is needed when step 3 holds an XMIT or a BARARR (R221). -/
def Inst.needsPark (i : Inst) : Bool :=
  i.later.any fun e => match e.eff with | .xmit _ _ => true | .arrive _ => true | _ => false

/-- Commits of a quad holding one of the 16 park entries of its commit unit; a record of 320 bytes reserved in a pool
beside those of its spawns and exit is a park entry that lies there. -/
def State.parkUsed (s : State) (q : QuadId) : Nat :=
  s.commits.countP fun c => c.inst.frame.quad = q ∧ c.inst.needsPark ∧ c.poolPark = false

/-- Spaces for a list of records, in order; a handler strand's lie in its slot's area (R368). -/
def takeSpaces (s : State) (st : Strand) (q : QuadId) : List Nat → List (Pool × Nat × Nat) →
    Option (List (Pool × Nat × Nat))
  | [], got => some got
  | n :: r, got =>
    match (match st.handler with | some k => some (Pool.slot k, 0, n) | none => s.findSpace st.cx q n got) with
    | some x => takeSpaces s st q r (got ++ [x])
    | none => none

/-- Entries a commit needs, vault by vault (R37 step 1 item 4). -/
def Inst.entryNeeds (i : Inst) : List (QuadId × Nat) :=
  (i.later.flatMap fun e => match e.eff with | .command c => c.foots.map (·.quad) | _ => []).foldl
    (fun ns q => setValue q (valueOf q 0 ns + 1) ns) []

/-- Free entries of a vault as a strand finds them: its own reserved ones count; others' requests make the vault
full (R303). -/
def Quad.freeEntries (q : Quad) (sid : Nat) : Nat :=
  let own := q.entries.countP fun e => e = .reserved sid
  if q.entryReqs.any (·.1 ≠ sid) && !(q.entryReqs.head?.map (·.1) == some sid) then own
  else 64 - q.entries.length + own

/-- The vaults that have too few entries. -/
def shortVaults (s : State) (i : Inst) : List QuadId :=
  (i.entryNeeds.filter fun (q, n) => ((s.quad? q).map fun x => x.freeEntries i.frame.strand.sid).getD 0 < n).map (·.1)

/-- The bytes of a near effect set. -/
def Inst.nearBytesSet (i : Inst) : List (Nat × Nat) :=
  i.nearSet.filterMap fun e => match e.eff with
    | .store ea n _ => some (ea, n)
    | .atomic _ ea n _ => some (ea, n)
    | _ => none

/-- The bytes of a near effect set that an iteration does not hold in the buffer yet, each counted once (R57, R59). -/
def State.newSpecBytes (s : State) (i : Inst) : Nat :=
  let st := i.frame.strand
  let mine := (s.specs.find? fun p => p.cx = st.cx ∧ p.space = tagSpace st.tag ∧ p.iter = tagIter st.tag).map (·.bytes)
  ((i.nearBytesSet.flatMap fun (a, n) => (List.range n).map (a + ·)).eraseDups.filter fun a =>
    !((mine.getD []).any (·.1 = a))).length

/-- The bytes the speculative buffer of a quad holds. -/
def State.specUsed (s : State) (q : QuadId) : Nat :=
  ((s.specs.filter (·.quad = q)).map (·.bytes.length)).foldl (· + ·) 0

/-! ### Ordered spaces: squashes (R58, R198) -/

/-- A reservation lapses: its space or iteration is free again, GEN as it stands, and those refused for want of one
become ready (R268, R39). -/
def State.lapse (s : State) (cx : CtxId) (r : TagResv) : State :=
  let n := tagSpace r.tag
  let decl := (s.space? cx n).bind (·.decl)
  let s1 := s.modSpace cx n fun p =>
    if r.fresh then { p with reserved := false } else { p with resvIters := p.resvIters.filter (· ≠ tagIter r.tag) }
  if r.fresh then decl.elim s1 fun d => s1.wakePool cx d else s1.wakeIter cx n

/-- A strand without its reservations, which lapse (R268), and without the fault its lost effects had attached to it. -/
def Strand.bare (st : Strand) : Strand := { st with tagResv := [], pend := none }

/-- An ember of a squashed strand, at its iteration's first block with the frame it began with. -/
def Ember.reborn (p : SpecIter) (e : Ember) : Ember :=
  { e with live := 0xFFFFFFFF, regs := p.regs, cont := p.block, reason := 0x87, op := 0, reply := 0, value := none,
           strand := e.strand.bare, wait := .nothing }

/-- A fault of a fetch, or of a strand with nowhere to run: its instance has not started (R68, R99). -/
def FaultRec.ofFetch (f : FaultRec) : Bool :=
  match f.code with
  | .illegalWord | .illegalTarget | .headerMismatch | .blockFormat | .blockCheck => true
  | .pageFault | .permission | .poison => f.slotNo.isNone && (f.detail == 3 || f.detail == 4)
  | _ => false

/-- A squashed strand's ember is ready at once (R294). -/
def State.squashReady (s : State) (q : QuadId) (e : Nat) : State :=
  if (s.ember? e).map (·.wait) = some .nothing then
    s.modQuad q fun x =>
      { x with ready := x.ready.filter (· ≠ e), frameWait := x.frameWait.filter (· ≠ e),
               cleared := x.cleared.filter (· ≠ e) ++ [e] }
  else s

/-- Iteration `iter` of a space is squashed: its buffered writes and read set are lost, its strand is relit at the
block where it began, with the frame it began with (R58). With both pools full an ember it needs becomes EMBER_OVERFLOW
(R39). A fault of the strand that waits at K goes with the work it belongs to, but for the fault of a fetch, which is raised:
its instance never started (R99); a strand whose fault is raised or delivered is resumed at its first block (notes/assumptions
38). A frame of the strand on its way ends its way here (R308). -/
def State.squash1 (s : State) (cx : CtxId) (space iter : Nat) : State :=
  let same := fun (p : SpecIter) => p.cx == cx && p.space == space && p.iter == iter
  let wipe := fun (p : SpecIter) =>
    if same p then { p with bytes := [], bad := [], lines := [], ended := false, traces := [] } else p
  let mine := fun (st : Strand) => st.cx == cx && tagSpace st.tag == space && tagIter st.tag == iter
  match s.specs.find? same with
  | none => s
  | some p =>
    let held := s.strands.find? mine
    let s0 := ((held.map (·.tagResv)).getD []).foldl (fun s r => s.lapse cx r) s
    let his := fun (f : FaultRec) => f.sid.isSome && f.sid == held.map (·.sid)
    let raised := ((s0.ctx? cx).map fun c => c.faults.any fun f => his f && f.ofFetch).getD false
    let gone := fun (f : FaultRec) => his f && !f.ofFetch
    let s1 := { s0.count p.quad 0x14 1 with specs := s0.specs.map wipe }.modCtx cx fun c =>
      { c with faults := c.faults.filter fun f => !gone f,
               overflow := c.overflow - c.faults.countP (fun f => gone f && f.code == FaultCode.emberOverflow) }
    match s1.insts.find? fun i => mine i.frame.strand with
    | some i =>
      let j := { i with frame := { i.frame with strand := i.frame.strand.bare } }
      (s1.abandon j 0x87 .nothing).squashReady p.quad s1.nextId
    | none =>
      match s1.embers.find? fun e => mine e.strand with
      | some e =>
        if raised then s1.reEmber e.id fun x => { Ember.reborn p x with reason := x.reason, wait := x.wait }
        else (s1.reEmber e.id (Ember.reborn p)).squashReady p.quad e.id
      | none =>
        if s1.contexts.any fun c => c.id = cx ∧ c.ringSlots.any fun x => (x.ember.map (mine ·.strand)) = some true then
          let back := fun (x : RingSlot) =>
            { x with ember := x.ember.map fun e => if mine e.strand then { Ember.reborn p e with wait := e.wait } else e }
          s1.modCtx cx fun c => { c with ringSlots := c.ringSlots.map back }
        else if raised then
          let back := fun (f : Frame) => { f with block := p.block, regs := p.regs, strand := f.strand.bare }
          { s1 with frames := modWhere (fun f => mine f.strand) back s1.frames }
        else
          let st := ((s1.frames.find? fun f => mine f.strand).map (·.strand)).getD (held.getD p.strand)
          let moving := s1.msgs.filter fun m => match m.body with | .frame f _ => mine f.strand | _ => false
          let s2 := moving.foldl (fun s m => s.land m.id) { s1 with frames := s1.frames.filter fun f => !mine f.strand }
          let (e, ok, s3) := s2.fullEmber st.bare p.quad 0 p.block p.regs 0x87 .nothing
          if ok then s3.squashReady p.quad e else s3.overflowed e

/-- The squashed iteration and every younger one of the space are squashed, oldest first. -/
def State.squashFrom (s : State) (cx : CtxId) (space iter : Nat) : State :=
  let its := ((s.specs.filter fun p => p.cx = cx ∧ p.space = space ∧ iter ≤ p.iter).map (·.iter))
  (sortBy (fun a b => a ≤ b) its).foldl (fun s k => s.squash1 cx space k) s

/-- A write to lines of a vault squashes, in each ordered space, the lowest non-oldest iteration that read one, with every
younger one of that space (R58, R198); `except`: the writing iteration, which squashes only younger ones; `inside`: the write
goes to the speculative buffer and is seen in its own space only. -/
def State.squashReaders (s : State) (q : QuadId) (a n : Nat) (except : Option (CtxId × Nat × Nat)) (inside : Bool := false) :
    State :=
  let hit := fun (p : SpecIter) => p.quad = q && p.lines.any (fun l => overlaps a n (l * 64) 64) &&
    ((s.space? p.cx p.space).map fun x => p.iter != x.retiredBelow).getD false &&
    (match except with
      | some (cx, sp, it) => if p.cx = cx ∧ p.space = sp then decide (it < p.iter) else !inside
      | none => true)
  let hits := s.specs.filter hit
  let first := hits.filter fun p => hits.all fun x => !(x.cx = p.cx ∧ x.space = p.space) || p.iter ≤ x.iter
  first.foldl (fun s p => s.squashFrom p.cx p.space p.iter) s

/-- Buffer overflow (R59): the youngest holder is squashed until the commit fits, or is itself the youngest; the squashes
made stay made. DESIGN CHOICE (notes/assumptions 38): where two ordered spaces share a quad's buffer, the youngest is taken among
the holders of the committing iteration's space, and with none of them left the commit is refused with 0x84. -/
def State.makeSpecRoom (s : State) (q : QuadId) (cx : CtxId) (space iter need : Nat) : Nat → State × Bool
  | 0 => (s, s.specUsed q + need ≤ 262144)
  | n + 1 =>
    if s.specUsed q + need ≤ 262144 then (s, true)
    else
      match (s.specs.filter fun p => p.quad = q ∧ p.cx = cx ∧ p.space = space ∧ !p.bytes.isEmpty).foldl
          (fun (b : Option Nat) p => some (max p.iter (b.getD 0))) none with
      | some y => if y ≤ iter then (s, false) else (s.squash1 cx space y).makeSpecRoom q cx space iter need n
      | none => (s, false)

/-- What a commit has reserved at step 1: pool spaces, and whether the last of them is its park entry; the translations. -/
structure Reserved where
  space : List (Pool × Nat × Nat)
  poolPark : Bool
  pas : List (Nat × Nat)
  deriving DecidableEq, Repr

/-- Step 1 of R37 in its order: the state it leaves, and what is reserved or why it stops. A stop undoes the counts made;
translations and the squashes of R59 stay made. -/
def reserve (s : State) (c : Context) (i : Inst) : State × Except Stop Reserved :=
  let st := i.frame.strand
  let q := i.frame.quad
  let young := s.nonOldest st
  if young && (i.later.any (·.eff.forbidden) || i.exits.any (·.op.forbidden)) then (s, .error (.refuse 0x85 .oldest))
  else
    let r0 := checkEffects c i [] i.later ⟨s, [], none⟩
    let r := if r0.stop.isSome then r0 else checkExit r0 c i
    let undone := { r.s with contexts := s.contexts }
    match r.stop with
    | some x => (undone, .error x)
    | none =>
      let park := i.needsPark && 16 ≤ s.parkUsed q
      match takeSpaces r.s st q (i.recordSizes ++ if park then [320] else []) [] with
      | none => (undone, .error (.fault .emberOverflow none 0 0))
      | some sp =>
        if !(shortVaults s i).isEmpty then (undone, .error (.refuse 0x82 (.entries (shortVaults s i) i.entryNeeds)))
        else
          let need := s.newSpecBytes i
          let room := if young then r.s.makeSpecRoom q st.cx (tagSpace st.tag) (tagIter st.tag) need r.s.specs.length
            else (r.s, true)
          if !room.2 then (room.1, .error (.refuse 0x84 .oldest))
          else
            match i.nearBytesSet.findSome? fun (a, n) =>
                ((s.quad? q).bind fun x => x.storeConflict a n).map fun k => (a, n, k) with
            | some (a, n, k) => (if young then room.1 else undone, .error (.refuse 0x83 (.conflict q k a (a + n))))
            | none => (room.1, .ok ⟨sp, park, r.pas⟩)

/-! ### Step 2: the near effect set (R37, R208, R211) -/

/-- What step 2 leaves beside memory: AFADD's flags, and the near offset of the first atomic that met poison. -/
structure NearOut where
  flags : Nat
  poisoned : Option Nat
  deriving DecidableEq, Repr

/-- A byte buffered by an iteration (R57). -/
def State.specWrite (s : State) (st : Strand) (a : Nat) (bs : List Byte) : State :=
  let put := fun (p : SpecIter) =>
    if p.cx = st.cx ∧ p.space = tagSpace st.tag ∧ p.iter = tagIter st.tag then
      { p with bytes := (List.zipIdx bs).foldl (fun m (b, k) => setValue (a + k) b m) p.bytes,
               bad := p.bad.filter fun k => !(a ≤ k && k < a + bs.length) }
    else p
  { s with specs := s.specs.map put }

/-- One near effect of the set. -/
def nearStep (st : Strand) (q : QuadId) (young : Bool) (r : State × NearOut) (e : Eff) : State × NearOut :=
  let (s, o) := r
  match e.eff with
  | .store ea n v =>
    if young then (s.specWrite st ea (leBytes n v.toNat), o)
    else (s.write (vaultBase q + ea) (leBytes n v.toNat), o)
  | .atomic op ea n b =>
    let s0 := if young then s.readLines st ea n else s.scrub (vaultBase q + ea) n
    if s0.nearPoisoned st q ea n then (s0, { o with poisoned := o.poisoned.or (some ea) })
    else if young then
      let old := leNat ((List.range n).map fun k => s.specByte st q (ea + k))
      let w := rmwNew op n old b.toNat 0
      (s0.specWrite st ea (leBytes n (w.1.getD old)), { o with flags := o.flags ||| w.2 })
    else
      let old := s.readNat (vaultBase q + ea) n
      let w := rmwNew op n old b.toNat 0
      (s0.write (vaultBase q + ea) (leBytes n (w.1.getD old)), { o with flags := o.flags ||| w.2 })
  | _ => r

/-- Step 2, its accesses to the banks (R22), then the squashes its writes cause. -/
def nearEffects (s : State) (i : Inst) : State × NearOut :=
  let st := i.frame.strand
  let young := s.nonOldest st
  let (s1, o) := i.nearSet.foldl (nearStep st i.frame.quad young) (s, ⟨0, none⟩)
  let who := if ((s.space? st.cx (tagSpace st.tag)).map (·.ordered)).getD false
    then some (st.cx, tagSpace st.tag, tagIter st.tag) else none
  let s2 := i.nearBytesSet.foldl (fun s (a, n) => s.bankReq i.frame.quad 2 a n) s1
  (i.nearBytesSet.foldl (fun s (a, n) => s.squashReaders i.frame.quad a n who young) s2, o)

/-! ### Step 3 (R37, R180-R185) -/

/-- A scope at which a far effect counts as performed only when acknowledged (R178). -/
def scopeWaits (scope : Nat) : Bool := 3 ≤ scope

/-- Posted effects of a strand not yet acknowledged (trace records order nothing: R356). -/
def State.unacked (s : State) (sid : Nat) : Bool := s.posted.any fun p => p.sid = sid ∧ p.trace = false

/-- The scope a .sys event is performed at in the strand's function (R180). -/
def State.capped (s : State) (cx : CtxId) (scope : Nat) : Bool := scope == 6 && !(s.func cx.vf).sysScope

/-- Bytes written with a mark: clean ones; poisoned ones, which are zero and marked; one nibble of a byte, whose other nibble
and mark stay; the last of a whole line's, whose mark goes (R102, R238, R372). -/
def State.writeMarked (s : State) (o n : Nat) (v : Nat) : WriteMark → State
  | .plain => s.write o (leBytes n v)
  | .whole => (s.write o (leBytes n v)).clearPoison (o / 64 * 64) 64
  | .poison => { s with mem := memPut o (List.replicate n 0) s.mem }.markPoison o n
  | .nibble hi =>
    let old := s.readNat o 1
    { s with mem := memPut o (leBytes 1 (if hi then old % 16 + 16 * (v % 16) else old / 16 * 16 + v % 16)) s.mem }

/-- A posted access performed at a home of this package: the write, or the reduction (R217). -/
def performPosted (s : State) (a : Access) : State :=
  let o := a.pa % 2 ^ 46
  match a.op with
  | none => s.writeMarked o a.n a.b.toNat a.mark
  | some op =>
    if s.poisoned o a.n then s
    else { s with mem := memPut o (leBytes a.n ((rmwNew op a.n (s.readNat o a.n) a.b.toNat 0).1.getD 0)) s.mem }

/-- The bytes of a far access conflict at a vault with an earlier footprint (R192), or an access its source issued earlier
waits there (R177); `seq`: the entries registered before it. -/
def Quad.farBlocked (q : Quad) (m : Msg) (a : Access) (seq : Nat) : Bool :=
  let off := a.pa % 2 ^ 23
  (q.entries.any fun e => match e with
    | .pending _ k rd wr => k < seq && (wr.hits off a.n || (a.write && rd.hits off a.n))
    | _ => false) ||
  q.waitFar.any fun w => w.msg.id < m.id && w.msg.src = m.src

/-- A request the quad issued earlier to its own vault is still on its way there (R177). -/
def State.ownUnderway (s : State) (q : QuadId) (id : Nat) : Bool :=
  s.msgs.any fun m => m.src = .quad q && m.dst = .quad q && m.access?.isSome && m.id < id && !s.acquireBlocked m

/-- A posted far effect issued (R217). In the quad's own vault it is performed at its place in step 3, or waits there in
the vault's sequence when something holds it back (R177, R192); to another home it is sent, and its acknowledgement
awaited. -/
def State.post (s : State) (i : Inst) (a : Access) (release : Bool) : State :=
  let q := i.frame.quad
  let home := s.homeOf a.pa
  let s0 := s.count q 0x10 1
  let p : Posted :=
    { id := s.nextId, sid := i.frame.strand.sid, cx := a.cx, quad := q, trace := false, release := release, va := a.va,
      pa := a.pa, n := a.n }
  let m : Msg :=
    { id := s.nextId, cx := a.cx, src := .quad q, dst := home, cls := 0, prio := s.prioOf a.cx, hops := [], at' := s.clk,
      left := none, entered := none, refused := false, via := none, body := .posted a }
  if home = .quad q then
    if ((s.quad? q).map fun x => x.farBlocked m a x.vseq).getD false || s.ownUnderway q m.id then
      { s0 with nextId := s.nextId + 1, posted := s.posted ++ [p] }.modQuad q fun x =>
        { x with waitFar := x.waitFar ++ [WaitFar.mk x.vseq m a (a.pa % 2 ^ 23)], vseq := x.vseq + 1 }
    else (performPosted (s0.chargeAccess home a) a).squashReaders q (a.pa % 2 ^ 23) a.n none
  else { s0 with posted := s.posted ++ [p] }.send a.cx (.quad q) home 0 (.posted a) (homePoint home)

/-- The physical address step 1 found for a slot's access (R37, R212). -/
def CommitRec.paOf (r : CommitRec) (slot : Nat) : Nat := valueOf slot 0 r.pas

/-- A posted effect not acknowledged touches bytes of [va, va + n), page by page (R195). -/
def State.sameBytes (s : State) (c : Context) (p : Posted) (va n : Nat) : Bool :=
  (List.range (n / 65536 + 2)).any fun k =>
    let a := max va ((va / 65536 + k) * 65536)
    let m := min (va + n) ((va / 65536 + k + 1) * 65536) - a
    match translate s c a 1 .read with
    | (_, .ok pa) => overlaps pa m p.pa p.n
    | _ => overlaps a m p.va p.n

/-- Effects of the strand not acknowledged that a command's issue waits for: all, but for COLL only those that touch bytes
of its named buffers (R181, R185, R195). -/
def State.heldFor (s : State) (c : Context) (cmd : Command) (sid : Nat) : Bool :=
  if cmd.op = 0x16F then
    (collBuffers cmd.bytes).any fun (va, n) =>
      s.posted.any fun p => p.sid = sid && p.trace = false && s.sameBytes c p va n
  else s.unacked sid

/-- The barrier a number names for a quad of a region (R280). -/
def Context.barrierSite (c : Context) (ldie : Nat) (q : QuadId) (scope : Nat) : BarrierAt :=
  match scope with
  | 2 => .quad q
  | 3 => .region c.id ldie
  | 4 => .pkg c.id
  | _ => if c.params.podKey = 0 then .pkg c.id else .pod c.id.vf c.params.podKey c.id

/-- Where a barrier's arrivals go: its quad, or its region's or package's network (R27). -/
def siteNode (c : Context) (ldie : Nat) : BarrierAt → Node
  | .quad q => .quad q
  | .region _ _ => match c.region? ldie with | some r => .quad (r.quadAt 0 0) | none => .k
  | _ => .k

/-- The outcome of one step-3 event: issued, or what the commit waits for there. -/
inductive Issue where
  | done (s : State) (r : CommitRec)
  | block (w : CommitWait) (park : Bool)
  deriving Repr

/-- The next pool space a commit reserved. -/
def CommitRec.take (r : CommitRec) : (Pool × Nat × Nat) × CommitRec :=
  match r.space with
  | x :: rest => (x, { r with space := rest })
  | [] => ((.frameArea r.inst.frame.quad, 0, 0), r)

/-- A seed or pending ember (R274): TAG, CONT, LIVE and registers, in its reserved space. -/
def spawnEmber (s : State) (i : Inst) (tag block reason live : Nat) (regs : List Word) (sp : Pool × Nat × Nat)
    (wait : Wait) : Ember :=
  { id := s.nextId,
    strand := { sid := s.nextId + 1, cx := i.frame.strand.cx, tag := tag, refusals := 0, resv := none, tagResv := [],
                energy := 0, ordered := (s.space? i.frame.strand.cx (tagSpace tag)).bind fun p =>
                  if p.ordered then some (tagIter tag) else none,
                handler := none, pend := none, bkptSlot := none, due := none,
                after := (s.posted.filter fun p => p.sid = i.frame.strand.sid ∧ p.trace = false).map (·.id) },
    quad := i.frame.quad, elem := i.frame.elem, live := live, regs := regs, exit := 0, reply := 0, reason := reason,
    seq := 0, cont := block, source := 0, pkg := 0, home := 0, width := 0, op := 0, block := i.addr, pool := sp.1,
    addr := sp.2.1, size := emberSize live, wait := wait, value := none }

/-- 32 registers, zero but for those given. -/
def regsWith (vs : List (Nat × Word)) : List Word := (List.range 32).map fun n => valueOf n 0 vs

/-- A space freed (R269): its iterations and retained reports go, its number returns to the pool, GEN stays. -/
def State.freeSpace (s : State) (cx : CtxId) (n : Nat) : State :=
  let gen := ((s.space? cx n).map (·.gen)).getD 0
  let s1 := s.modSpace cx n fun p =>
    { p with allocated := false, closed := false, held := [], resvIters := [], live := 0, freeing := [], quad := none,
             retiredBelow := 0 }
  let decl := (s.space? cx n).bind (·.decl)
  let s2 := { s1 with specs := s1.specs.filter fun p => !(p.cx = cx ∧ p.space = n) }.releaseReports cx fun t =>
    tagSpace t = n && tagGen t = gen
  decl.elim s2 fun d => s2.wakePool cx d

/-- A token sent on a circuit (R219, R222): to the placement R60 chooses for the circuit's block. -/
def State.sendToken (s : State) (c : Context) (src : QuadId) (circ tag : Nat) (v : Word) : State :=
  match c.circuits[circ]? with
  | none => s
  | some k =>
    let t := tag % 2 ^ 36 + k.dstLdie * 2 ^ 36
    match c.placeOf? k.dstLdie (c.codeBase + k.block) t with
    | some (q, _) => s.send c.id (.quad src) (.quad q) 2 (.token circ t v false)
    | none => s

/-- An earlier commit of the quad is parked at the same place (R221). -/
def State.parkedAt (s : State) (q : QuadId) (order : Nat) (w : CommitWait) : Bool :=
  s.commits.any fun r => r.parked && r.inst.frame.quad = q && r.wait = w && r.order < order

/-- Registration of a command's footprints (R188): its reserved entries, and a request to each vault. -/
def State.register (s : State) (i : Inst) (cmd : Command) : State :=
  let p : Pending :=
    { cmd := cmd, phase := .registering (cmd.foots.map (·.quad)), n := 0, round := 0, marks := 0, cond := 0, count := 0,
      code := 0, itemErr := false, sparams := [], bytes := cmd.bytes, pos := 0, halted := false, got := [], pendingMarks := [],
      writes := [], vals := [], lines := [], cutOff := false, issued := s.nextId, order := s.nextId, at' := s.clk }
  let s1 := { s with nextId := s.nextId + 1, cmds := s.cmds ++ [p] }.count i.frame.quad 0x11 1
  cmd.foots.foldl (fun s f => s.send cmd.cx (.quad cmd.quad) (.quad f.quad) 0 (.register cmd.id f.quad)) s1

/-- One step-3 event at its place (R37). -/
def issueEffect (s : State) (c : Context) (r : CommitRec) (e : Eff) : Issue :=
  let i := r.inst
  let st := i.frame.strand
  let q := i.frame.quad
  match e.eff with
  | .farStore va n v none =>
    .done (s.post i ⟨c.id, va, r.paOf e.slot, n, true, false, none, v, 0, .plain⟩ false) r
  | .farReduce op va n v =>
    .done (s.post i ⟨c.id, va, r.paOf e.slot, n, true, false, some op, v, 0, .plain⟩ false) r
  | .farStore va n v (some scope) =>
    if scopeWaits scope && s.unacked st.sid then .block (.acks scope) false
    else .done (s.post i ⟨c.id, va, r.paOf e.slot, n, true, false, none, v, 0, .plain⟩ true)
      { r with capped := r.capped + (if s.capped c.id scope then 1 else 0) }
  | .fence scope =>
    if scopeWaits scope && s.unacked st.sid then .block (.acks scope) false
    else .done s { r with capped := r.capped + (if s.capped c.id scope then 1 else 0) }
  | .xmit circ v =>
    if s.unacked st.sid then .block (.acks 4) false
    else if (c.credits[circ]?).getD 0 = 0 || s.parkedAt q r.order (.credit circ) then .block (.credit circ) true
    else
      let s1 := s.modCtx c.id fun c => { c with credits := modAt circ (· - 1) c.credits }
      .done (s1.sendToken c q circ st.tag v) r
  | .arrive n =>
    let d := s.barrierDecl? i n
    let scope := (d.map (·.scope)).getD 2
    if (scopeWaits scope && s.unacked st.sid) || s.parkedAt q r.order (.arrival n) then .block (.arrival n) true
    else
      let site := c.barrierSite (tagLdie st.tag) q scope
      .done (s.send c.id (.quad q) (siteNode c (tagLdie st.tag) site) 2 (.arrive site n ⟨false, false, none, some st.sid⟩)) r
  | .tsfree n _ => .done (s.freeSpace c.id n) r
  | .tagrel t =>
    let held := ((s.space? c.id (tagSpace t)).map fun p => heldIn (tagIter t) p.held).getD false
    if !held || (tagSpace t = 0 && 0xFFC0 ≤ tagIter t) then .done s r
    else if s.aliveTag c.id t || s.pendingTag c.id t then
      .done (s.modSpace c.id (tagSpace t) fun p => { p with freeing := p.freeing ++ [tagIter t] }) r
    else .done (s.freeIter c.id (tagSpace t) (tagIter t)) r
  | .spawn t b =>
    let (sp, r') := r.take
    let em := spawnEmber s i t b 0x89 3 (regsWith [(0, toWord (tagIter t)), (1, toWord (tagIter t + 1))]) sp .nothing
    let s1 := { s with nextId := s.nextId + 2 }.deposit em
    let s2 := s1.modQuad q fun x => { x with cleared := x.cleared ++ [em.id] }
    .done (s2.modSpace c.id (tagSpace t) fun p => { p with held := holdRange (tagIter t) (tagIter t + 1) p.held }) r'
  | .spawnr t b c1 =>
    let (sp, r') := r.take
    let em := spawnEmber s i t b 0x8A 2 (regsWith [(1, c1)]) sp .range
    let s1 := { s with nextId := s.nextId + 2 }.deposit em
    .done (s1.modSpace c.id (tagSpace t) fun p => { p with held := holdRange (tagIter t) (c1.bits 16 0) p.held }) r'
  | .command cmd =>
    if (s.cmd? cmd.id).isNone && s.heldFor c cmd st.sid then .block (.acks 4) false
    else if (s.cmd? cmd.id).isNone then .block (.registration cmd.id) false
    else .done s r
  | .trace id v =>
    if s.nonOldest st then
      let keep := fun (p : SpecIter) =>
        if p.cx = st.cx ∧ p.space = tagSpace st.tag ∧ p.iter = tagIter st.tag then
          { p with traces := p.traces ++ [(id, e.slot, v, i.addr, i.frame.elem)] } else p
      .done { s with specs := s.specs.map keep } r
    else .done (s.traceRec c.id q i.frame.elem 1 0 id e.slot st.tag i.addr v) r
  | .store _ _ _ => .done s r
  | .atomic _ _ _ _ => .done s r

/-! ### Steps 4 and 5 -/

/-- %fpctl after the commit's W1C writes, then its flags (R112, R345). -/
def fpctlAfter (old flags : Nat) (ws : List Swr) : Nat :=
  (ws.filter (·.reg = 8)).foldl (fun v w => v &&& ((31 : Nat) ^^^ (w.val.toNat % 32))) old ||| flags

/-- A counter register after the commit's SWRs, in slot order, then its own additions (R134, R180, R345). -/
def regAfter (reg : Nat) (old : Word) (add : Nat) (ws : List Swr) : Word :=
  (ws.filter (·.reg = reg)).foldl (fun _ w => w.val) old + toWord add

/-- Step 4 (R37, R34, R264, R344): the quad's copies. -/
def writeCopies (s : State) (r : CommitRec) : State :=
  let i := r.inst
  let ws := sortBy (fun (a b : Swr) => a.slot ≤ b.slot) i.swrs
  s.modQuad i.frame.quad fun q =>
    { q with fpctl := fpctlAfter q.fpctl i.flags ws, srseed := regAfter 9 q.srseed 0 ws,
             mergedrop := regAfter 0x11 q.mergedrop i.drops ws, capfence := regAfter 0x12 q.capfence r.capped ws,
             replay := regAfter 0x13 q.replay 0 ws }

/-- The frame's registers after the carry writes; a call exit writes c31 (R264). -/
def Inst.regsAfter (i : Inst) : List Word :=
  let rs := (List.range 32).map fun n =>
    match i.wbuf.find? (·.1 = n) with
    | some (_, _, some v) => v
    | _ => (i.frame.regs[n]?).getD 0
  match i.exits with
  | e :: _ => match e.op with
    | .branch _ 1 => rs.set 31 (toWord i.nextBlock)
    | _ => rs
  | [] => rs

/-- A reservation takes effect (R268): the space is allocated, with what its commit has counted at step 1, or the
iteration held. -/
def State.applyResv (s : State) (cx : CtxId) (q : QuadId) (r : TagResv) : State :=
  s.modSpace cx (tagSpace r.tag) fun p =>
    if r.fresh then
      let d := p.decl.bind fun d => ((s.ctx? cx).bind (·.image)).bind fun im => im.tagspaces[d]?
      { p with reserved := false, allocated := true, held := [], resvIters := [],
               freeing := [], level := (d.map (·.level)).getD 1, k := (d.map (·.k)).getD 0,
               ordered := (d.map (·.ordered.isSome)).getD false, quad := some q, retiredBelow := 0 }
    else
      { p with resvIters := p.resvIters.filter (· ≠ tagIter r.tag),
               held := holdRange (tagIter r.tag) (tagIter r.tag + 1) p.held }

/-- The reservations of the strand at the start of step 3 (R268): those of slots that fired take effect, the others
lapse. -/
def State.applyResvs (s : State) (i : Inst) : State :=
  i.frame.strand.tagResv.foldl (fun s r =>
    if i.usedResv.contains (r.block, r.slot) then s.applyResv i.frame.strand.cx i.frame.quad r
    else s.lapse i.frame.strand.cx r) s

/-- A strand leaves the reservation queues; what is free goes to the next in each (R303, R304). -/
def State.leaveQueues (s : State) (cx : CtxId) (sid : Nat) : State :=
  match s.ctx? cx with
  | none => s
  | some c =>
    let s1 := s.modCtx cx fun c =>
      { c with poolQueue := c.poolQueue.filter (·.2 ≠ sid), iterQueue := c.iterQueue.filter (·.2 ≠ sid) }
    let s2 := ((c.poolQueue.filter (·.2 = sid)).map (·.1)).foldl (fun s d => s.wakePool cx d) s1
    ((c.iterQueue.filter (·.2 = sid)).map (·.1)).foldl (fun s n => s.wakeIter cx n) s2

/-- The 0x82 and 0x83 reservations of a strand end at its commit (R303); entries it does not use return. -/
def State.endResv (s : State) (st : Strand) (used : List (QuadId × Nat)) : State :=
  let strip := fun (q : Quad) =>
    { q with entries := q.entries.filter (· ≠ .reserved st.sid) ++
               List.replicate (valueOf q.id 0 used) (.reserved st.sid),
             entryReqs := q.entryReqs.filter (·.1 ≠ st.sid) }
  let freed := (s.quads.filter fun q => valueOf q.id 0 used < q.entries.countP (· = .reserved st.sid)).map (·.id)
  (freed.foldl State.entryFreed { s with quads := s.quads.map strip }).leaveQueues st.cx st.sid

/-- The strand as it goes on after a commit: counts and reservations reset (R302, R303, R268). -/
def Inst.strandOn (i : Inst) (s : State) (pend : Option PendFault) : Strand :=
  { i.strandAfter s with refusals := 0, resv := none, due := none, tagResv := [], pend := pend }

/-- HOME and SOURCE of an address (R51, R199), and the package. -/
def State.homeFields (s : State) (c : Context) (pa : Nat) : Nat × Nat :=
  match s.homeOf pa with
  | .quad q =>
    match s.quad? q with
    | some x => (x.ldie, c.indexOf x)
    | none => (0, 0)
  | _ => (8 + bitsOf pa 39 37, bitsOf pa 39 36)

/-- What an exit's ember records of its operation, and the requests that leave after it is written. -/
structure FarIssue where
  home : Nat
  source : Nat
  pkg : Nat
  width : Nat
  deriving DecidableEq, Repr

/-- The record of a fault still attached to a strand that retires: retired-kind, with the block whose commit met it
(R211). -/
def PendFault.retired (p : PendFault) (s : State) (st : Strand) (q : QuadId) : FaultRec :=
  { code := p.code, kind := 3, slotNo := none, detail := p.detail, tag := st.tag, block := p.block, addr := p.addr,
    handle := 0, unitNo := 0, unit := 0, elem := p.elem,
    qindex := match s.ctx? st.cx, s.quad? q with | some c, some x => c.indexOf x | _, _ => 0,
    ldie := tagLdie st.tag, data := 0, ember := none, sid := none, cmd := none, lsid := none }

/-- The strand of the oldest iteration retires, its pending fault raised (R38, R211). -/
def State.retireFrom (s : State) (st : Strand) (q : QuadId) : State :=
  match st.pend with
  | some p => (s.queueFault st.cx (p.retired s st q)).retire { st with pend := none }
  | none => s.retire st

/-- The oldest iteration retires (R59): the next iteration's buffered values are written as one unit and it becomes
oldest; its trace records follow; if it had ended, it retires at once (R265). DESIGN CHOICE (notes/assumptions 38): the
iteration after [c0, c1) is c1, read from the start frame of the retiring iteration, so that a range strand covers all of its
own; and the write-out meets no check against footprints or waiting far accesses, which its commits have passed (R191). -/
def State.advance (s : State) (cx : CtxId) (space : Nat) : Nat → State
  | 0 => s
  | fuel + 1 =>
    match s.space? cx space with
    | none => s
    | some p =>
      match s.specs.find? (fun x => x.cx = cx ∧ x.space = space ∧ x.iter = p.retiredBelow) with
      | none => s
      | some x =>
        let next := max (p.retiredBelow + 1) (((x.regs[1]?).getD 0).toNat % 2 ^ 17)
        let s1 := { s with specs := s.specs.filter fun y => !(y.cx = cx ∧ y.space = space ∧ y.iter = x.iter) }.modSpace
          cx space fun p => { p with retiredBelow := next }
        match s1.specs.find? (fun y => y.cx = cx ∧ y.space = space ∧ y.iter = next) with
        | none => s1
        | some y =>
          let out := fun (s : State) (a : Nat) (b : Byte) => (s.write (vaultBase y.quad + a) [b]).bankReq y.quad 2 a 1
          let s2 := y.bytes.foldl (fun s (a, b) =>
            if y.bad.contains a then (out s a b).markPoison (vaultBase y.quad + a) 1 else out s a b) s1
          let others := y.bytes.foldl (fun s (a, _) => s.squashReaders y.quad a 1 (some (cx, space, 65536))) s2
          let s4 := y.traces.foldl (fun s (id, slot, v, blk, el) => s.traceRec cx y.quad el 1 0 id slot y.strand.tag blk v) others
          let clear := fun (z : SpecIter) => if z.cx = cx ∧ z.space = space ∧ z.iter = next then
            { z with bytes := [], bad := [], lines := [], traces := [], ended := false } else z
          let s5 := ({ s4 with specs := s4.specs.map clear }).wakeWhere fun e =>
            e.strand.cx = cx && tagSpace e.strand.tag = space && tagIter e.strand.tag = next && e.wait = Wait.oldest
          if y.ended then (s5.retireFrom y.strand y.quad).advance cx space fuel else s5

/-- The strand leaves (R38, R265): in an ordered space a non-oldest iteration waits to become oldest, with the fault its
effects have attached to it. -/
def State.leave (s : State) (st : Strand) (q : QuadId) : State :=
  let sp := tagSpace st.tag
  if s.nonOldest st then
    let mark := fun (p : SpecIter) =>
      if p.cx = st.cx ∧ p.space = sp ∧ p.iter = tagIter st.tag then { p with ended := true, strand := st } else p
    { s with specs := s.specs.map mark }
  else
    let s1 := s.retireFrom st q
    if ((s1.space? st.cx sp).map (·.ordered)).getD false then s1.advance st.cx sp (s1.specs.length + 1) else s1

/-- SUB of a commit record by its exit (R356). -/
def traceSub : ExitOp → Nat
  | .branch _ k => k
  | .finish => 3
  | .far _ _ _ _ => 4
  | .trap _ => 5

/-- The far exit's request, after its ember (R214, R277, R278, R283). -/
def State.issueFar (s : State) (c : Context) (i : Inst) (e : Ember) (pa : Nat) (op : FarOp) : State :=
  let q := i.frame.quad
  let ldie := tagLdie i.frame.strand.tag
  match op with
  | .load acq va n =>
    let a : Access := ⟨c.id, va, pa, n, false, acq, none, 0, 0, .plain⟩
    s.send c.id (.quad q) (s.homeOf a.pa) 0 (.far e.id a) (homePoint (s.homeOf a.pa))
  | .rmw r va n b x =>
    let a : Access := ⟨c.id, va, pa, n, true, false, some r, b, x, .plain⟩
    s.send c.id (.quad q) (s.homeOf a.pa) 0 (.far e.id a) (homePoint (s.homeOf a.pa))
  | .join t => s.send c.id (.quad q) .k 0 (.join e.id t)
  | .barwait n =>
    let site := c.barrierSite ldie q (((s.barrierDecl? i n).map (·.scope)).getD 2)
    s.send c.id (.quad q) (siteNode c ldie site) 2 (.barwait site n e.id)
  | .barsync n =>
    let site := c.barrierSite ldie q (((s.barrierDecl? i n).map (·.scope)).getD 2)
    s.send c.id (.quad q) (siteNode c ldie site) 2 (.arrive site n ⟨false, false, some e.id, none⟩)
  | .wait h =>
    match c.quadOf? ldie (bitsOf h 62 56) with
    | some v => s.send c.id (.quad q) (.quad v) 0 (.wait e.id h)
    | none => s
  | .yield =>
    (s.modEmber e.id fun x => { x with wait := .nothing }).modQuad q fun x => { x with cleared := x.cleared ++ [e.id] }

/-- HOME, SOURCE, PKG and WIDTH of a far exit (R51). DESIGN CHOICE (notes/assumptions 71): PKG is this package's number for every
far exit that names no address, YIELD among them; an ember of no far exit has PKG 0. -/
def State.farFields (s : State) (c : Context) (i : Inst) (pa : Nat) (op : FarOp) : FarIssue :=
  let ldie := tagLdie i.frame.strand.tag
  let access := fun (n : Nat) =>
    let hs := s.homeFields c pa
    FarIssue.mk hs.1 hs.2 (pa / 2 ^ 46) (log2 n)
  match op with
  | .load _ _ n => access n
  | .rmw _ _ n _ _ => access n
  | .join t => ⟨16, tagSpace t, s.pkgNo, 0⟩
  | .barwait n => ⟨if 4 ≤ ((s.barrierDecl? i n).map (·.scope)).getD 2 then 16 else ldie, n, s.pkgNo, 0⟩
  | .barsync n => ⟨if 4 ≤ ((s.barrierDecl? i n).map (·.scope)).getD 2 then 16 else ldie, n, s.pkgNo, 0⟩
  | .wait h => ⟨ldie, bitsOf h 62 56, s.pkgNo, 0⟩
  | .yield => ⟨0, 0, s.pkgNo, 0⟩

/-- Step 5: the exit (R37, R43, R50, R265, R350). -/
def takeExit (s : State) (c : Context) (r : CommitRec) : State :=
  let i := r.inst
  let q := i.frame.quad
  let st := i.strandOn s i.frame.strand.pend
  let regs := i.regsAfter
  match i.exits with
  | [] => (s.traceRec c.id q i.frame.elem 2 3 0 0 st.tag i.addr 0).leave st q
  | ex :: _ =>
    let nextA := match ex.op with | .branch t _ => t | .far _ _ k _ => k | .trap _ => i.nextBlock | .finish => 0
    let s0 := s.traceRec c.id q i.frame.elem 2 (traceSub ex.op) ex.id 0 st.tag i.addr (toWord nextA)
    match ex.op with
    | .finish => s0.leave st q
    | .branch t _ =>
      match c.placeOf? (tagLdie st.tag) t st.tag with
      | none => s0
      | some (p, el) =>
        let f : Frame :=
          { strand := st, quad := p, elem := el, block := t, regs := regs, status := .waiting, order := s0.nextId }
        if p = q then { s0.frameBanks q with nextId := s0.nextId + 1, frames := s0.frames ++ [f] }
        else (s0.frameBanks q).send c.id (.quad q) (.quad p) 8 (.frame f false)
    | .far op opc cont dst =>
      let fi := s0.farFields c i (r.paOf ex.slot) op
      let (sp, _) := r.take
      let keep := (List.range 32).map fun n => if bitOf i.header.live n then (regs[n]?).getD 0 else 0
      let e : Ember :=
        { id := s0.nextId, strand := st, quad := q, elem := i.frame.elem, live := i.header.live, regs := keep,
          exit := ex.id, reply := dst, reason := 0x80, seq := 0, cont := cont, source := fi.source, pkg := fi.pkg,
          home := fi.home, width := fi.width, op := opc, block := i.addr, pool := sp.1, addr := sp.2.1,
          size := emberSize i.header.live, wait := .reply, value := none }
      (({ s0 with nextId := s0.nextId + 1 }.deposit e).count q 0x0F 1).issueFar c i e (r.paOf ex.slot) op
    | .trap code =>
      let (sp, _) := r.take
      let keep := (List.range 32).map fun n => if bitOf i.header.live n then (regs[n]?).getD 0 else 0
      let e : Ember :=
        { id := s0.nextId, strand := st, quad := q, elem := i.frame.elem, live := i.header.live, regs := keep,
          exit := ex.id, reply := 0, reason := 0x1C, seq := 0, cont := i.nextBlock, source := 0, pkg := 0, home := 0,
          width := 0, op := 0x182, block := i.addr, pool := sp.1, addr := sp.2.1, size := emberSize i.header.live, wait := .fault,
          value := none }
      let s1 := ({ s0 with nextId := s0.nextId + 1 }.deposit e).count q 0x0F 1
      s1.queueFault c.id { i.faultRec s1 .trap (some ex.slot) code 0 with ember := some e.id }

/-- FWCALLs go to K and SNUFFs take effect after step 4 (R360, R361). -/
def afterStep4 (s : State) (c : Context) (i : Inst) : State :=
  let s1 := i.fwcalls.foldl (fun s bs =>
    { s with nextId := s.nextId + 1,
             kcmds := s.kcmds ++ [⟨s.nextId, c.id.vf, some (c.id, i.addr, i.frame.strand.tag, i.frame.quad, i.frame.elem),
               wordsOf 8 bs, .ready, false⟩] }) s
  i.snuffs.foldl (fun s n => s.modCtx ⟨c.id.vf, n⟩ fun x =>
    match x.run with
    | .running => { x with cutCmd := none, cutDest := x.imageArea, run := .cutting true false }
    | _ => x) s1

/-- Steps 4 and 5 of a commit whose step 3 is done. -/
def endCommit (s : State) (r : CommitRec) : State :=
  let i := r.inst
  match s.ctx? i.frame.strand.cx with
  | none => s
  | some c =>
    let s0 := { s with commits := s.commits.filter fun x => x.inst.id ≠ i.id }
    let s1 := (writeCopies s0 r).settleEnergy i
    let s2 := (afterStep4 s1 c i).count i.frame.quad 1 1
    takeExit s2 c r

/-- Step 3 in LSID order, until it ends or an event must wait (R37, R221). A commit that waits keeps its place in the order of
commits. -/
def runStep3 (c : Context) (r : CommitRec) : List Eff → State → State
  | [], s => endCommit s { r with todo := [] }
  | e :: rest, s =>
    match issueEffect s ((s.ctx? c.id).getD c) r e with
    | .done s' r' => runStep3 c r' rest s'
    | .block w park =>
      let s1 := match w, e.eff with
        | .registration _, .command cmd => s.register r.inst cmd
        | _, _ => s
      let keep : CommitRec := { r with todo := e :: rest, wait := w, parked := park }
      { s1 with commits := modWhere (fun x => x.inst.id = r.inst.id) (fun _ => keep) s1.commits }

/-- The commit unit of a quad is free: no commit past step 1 holds it (R331). -/
def State.unitFree (s : State) (q : QuadId) : Bool := !(s.commits.any fun r => r.inst.frame.quad = q ∧ r.parked = false)

/-- The credits and live counts of the circuit tokens an instance consumed, returned when its commit passes step 1
(R220, R278; notes/assumptions 17). -/
def State.consume (s : State) (i : Inst) : State :=
  i.taken.foldl (fun s t =>
    let src := ((s.ctx? t.cx).bind fun c => (c.circuits[t.circ]?).bind fun k =>
      (c.region? k.srcLdie).map fun r => r.quadAt k.srcX k.srcY).getD t.quad
    (s.uncountTag t.cx t.tag).send t.cx (.quad t.quad) (.quad src) 1 (.credit t.cx t.circ)) s

/-- Steps 2 to 5 after a successful step 1. -/
def performCommit (s : State) (c : Context) (i : Inst) (v : Reserved) : State :=
  let s0 := { s with insts := s.insts.filter (·.id ≠ i.id), flying := s.flying.filter (·.inst ≠ i.id) }
  let (s1, o) := nearEffects (s0.consume i) i
  let s2 := (s1.applyResvs i).endResv i.frame.strand i.entryNeeds
  let pend := o.poisoned.map fun ea => (⟨.poison, 2, ea, i.addr, i.frame.elem⟩ : PendFault)
  let i' := { i with flags := i.flags ||| o.flags,
                     frame := { i.frame with strand := { i.frame.strand with pend := i.frame.strand.pend.or pend } } }
  let r : CommitRec :=
    { inst := i', todo := i.later, wait := .acks 0, parked := false, space := v.space, poolPark := v.poolPark,
      pas := v.pas, capped := 0, order := s2.nextId }
  runStep3 c r i.later { s2 with nextId := s2.nextId + 1, commits := s2.commits ++ [r] }

/-- COMMIT (R37); the requests its walks and records make do not pass packets that left its die before them (R17). -/
def execEvCommit (inst : Nat) (s : State) : Out :=
  match s.inst? inst with
  | none => notEnabled "COMMIT"
  | some i =>
    match s.ctx? i.frame.strand.cx, s.quad? i.frame.quad with
    | some c, some q =>
      if !s.mayCommit i || !s.unitFree q.id || !s.quadRuns q then notEnabled "COMMIT"
      else
        s.inOrder "COMMIT" (match reserve s c i with
        | (s1, .error (.fault code slot d a)) => .next (s1.takeFault i code slot d a).tick
        | (s1, .error (.breach pa)) => .next (s1.breach c.id 0 pa 0).tick
        | (s1, .error (.refuse reason w)) => .next (s1.abandon i reason w).tick
        | (s1, .ok v) => .next (performCommit s1 c i v).tick)
    | _, _ => notEnabled "COMMIT"

/-- A commit that waits goes on where it stopped. -/
def resumeCommit (s : State) (r : CommitRec) : State :=
  match s.ctx? r.inst.frame.strand.cx with
  | some c => runStep3 c { r with parked := false } r.todo s
  | none => s

/-- What a waiting commit waits for has come. -/
def State.waitOver (s : State) (r : CommitRec) : Bool :=
  match r.wait with
  | .acks _ =>
    match r.todo.map Eff.eff, s.ctx? r.inst.frame.strand.cx with
    | .command cmd :: _, some c => !s.heldFor c cmd r.inst.frame.strand.sid
    | _, _ => !s.unacked r.inst.frame.strand.sid
  | .registration n => ((s.cmd? n).map fun p => p.phase != .registering [] && (match p.phase with
      | .registering _ => false
      | _ => true)).getD true
  | .credit n => (((s.ctx? r.inst.frame.strand.cx).bind fun c => c.credits[n]?).getD 0) != 0
  | .arrival n =>
    !(scopeWaits (((s.barrierDecl? r.inst n).map (·.scope)).getD 2) && s.unacked r.inst.frame.strand.sid)

/-- The unparked commit of a quad whose wait is over goes on (R181, R184, R188). -/
def State.wakeUnit (s : State) (q : QuadId) : State :=
  match s.commits.find? fun r => r.inst.frame.quad = q ∧ r.parked = false with
  | some r => if s.waitOver r then resumeCommit s r else s
  | none => s

/-- A parked commit of a quad goes on: no snuff marker has reached the quad, after which its send is saved (R225, R378). A
freeze or a precise stop lets it complete (R323, R353). -/
def State.parkedRuns (s : State) (r : CommitRec) : Bool :=
  ((s.quad? r.inst.frame.quad).map fun q => q.snuff == .none).getD false

/-- PARKED_COMMIT_RESUME (R221): the oldest parked commit at its send or arrival, once it may go. -/
def execEvParkedCommitResume (n : Nat) (s : State) : Out :=
  match s.commits.find? fun r => r.inst.id = n ∧ r.parked = true with
  | none => notEnabled "PARKED_COMMIT_RESUME"
  | some r =>
    let first := s.commits.find? fun x => x.parked && x.inst.frame.quad = r.inst.frame.quad && x.wait = r.wait
    if (first.map (·.inst.id)) != some n || !s.waitOver r || !s.unitFree r.inst.frame.quad || !s.parkedRuns r then
      notEnabled "PARKED_COMMIT_RESUME"
    else s.inOrder "PARKED_COMMIT_RESUME" (.next (resumeCommit s r).tick)

/-- A handle names a command: its quad, tag and LSID (R229). -/
def Command.named (c : Command) (cx : CtxId) (h : Nat) : Bool :=
  c.cx == cx && bitsOf h 62 56 == c.qindex && sameHandle h c.tag c.lsid

/-- The pending stream command a SPARAM applies to: the last issued of the handle (R239). -/
def State.sparamTarget (s : State) (c : Command) : Option Pending :=
  (s.cmds.filter fun p => p.cmd.op ≤ 0x163 && p.cmd.named c.cx c.arg.toNat).getLast?

/-- The memory-port die a stream command, SPARAM or collective goes to (R227). -/
def State.cmdDie (s : State) (c : Command) : Nat :=
  let own := fun (c : Command) => if c.eng < 8 then c.eng else nearestM c.quad.die
  if c.op = 0x164 then ((s.sparamTarget c).map fun p => own p.cmd).getD (nearestM c.quad.die) else own c

/-- FOOTPRINT_REGISTRATION (R188): a vault enters a command's footprint into its sequence and acknowledges it; the
last acknowledgement delivers the command and lets the commit go on. -/
def execEvFootprintRegistration (n : Nat) (s : State) : Out :=
  match s.msg? n with
  | none => notEnabled "FOOTPRINT_REGISTRATION"
  | some m =>
    match m.body with
    | .register cid q =>
      match s.cmd? cid with
      | none => notEnabled "FOOTPRINT_REGISTRATION"
      | some p =>
        let foot := (p.cmd.foots.find? (·.quad = q)).getD ⟨q, .empty, .empty⟩
        let blocked := s.strands.any fun st =>
          st.sid != p.cmd.sid && (match st.resv with
            | some (.lines v lo hi _) => v = q && (foot.rd.hits lo (hi - lo) || foot.wr.hits lo (hi - lo))
            | _ => false)
        if !s.arrived m || blocked then notEnabled "FOOTPRINT_REGISTRATION"
        else
          let s1 := (s.land n).modQuad q fun x =>
            { x with entries := x.entries.erase (.reserved p.cmd.sid) ++ [.pending cid x.vseq foot.rd foot.wr],
                     vseq := x.vseq + 1 }
          let left := match p.phase with | .registering l => l.erase q | _ => []
          let s2 := s1.modCmd cid fun p => { p with phase := if left.isEmpty then .queued else .registering left }
          .next (if left.isEmpty then
            let s3 :=
              if p.cmd.op = 0x16C then
                (s2.modQuad p.cmd.quad fun x => { x with window := p.cmd.window }).modCmd cid fun p => { p with phase := .done }
              else if p.cmd.op ≤ 0x164 then
                s2.send p.cmd.cx (.quad p.cmd.quad) (.mdie (s2.cmdDie p.cmd)) 0 (.command cid) [.streamQueue (s2.cmdDie p.cmd)]
              else if p.cmd.op = 0x16E then
                s2.send p.cmd.cx (.quad p.cmd.quad) (.mdie (p.cmd.eng / 2)) 0 (.decode cid) [.decoderQueue p.cmd.eng]
              else if p.cmd.op = 0x16F then
                s2.send p.cmd.cx (.quad p.cmd.quad) (.mdie (s2.cmdDie p.cmd)) 3 (.coll cid) [.collEngine (s2.cmdDie p.cmd)]
              else s2
            s3.wakeUnit p.cmd.quad
          else s2).tick
    | _ => notEnabled "FOOTPRINT_REGISTRATION"

end Sys2Proof.Machine
end

