-- ==== Sys2Proof/Machine/Homes.lean ====
section
/-!
DEFINITION. Far accesses at their homes, those of other packages among them, acknowledgements and replies, the vault's waiting
accesses, banks, walks, and the arbitration points, their queues and limits, with the pod transport's sending side (R17, R22, R177,
R192, R200, R214, R217, R293, R295, R322, R325, R329, R398, R399).
-/

namespace Sys2Proof.Machine

/-! ### Queues at the arbitration points (R293, R325) -/

/-- The queue limit of a point for a function's requests (R325). -/
def State.limitAt (s : State) (vf : Nat) (p : Point) : Nat :=
  let row := match p with
    | .streamQueue _ => 0 | .decoderQueue _ => 1 | .collEngine _ => 2 | .stackPort _ => 3 | .link _ _ => 4 | .ether _ => 4
  ((s.func vf).limits[row]?).getD 1

/-- The entries of a point's queue (R325). -/
def queueSize : Point → Nat
  | .streamQueue _ => 64
  | .decoderQueue _ => 16
  | .collEngine _ => 64
  | .stackPort _ => 256
  | .link _ _ => 128
  | .ether _ => 128

/-- The queue a message has entered and not left: past its points, and neither taken by an engine nor performed. -/
def State.entryOf (s : State) (m : Msg) : Option Point :=
  match m.body, m.dst with
  | .command _, .mdie d => some (.streamQueue d)
  | .decode n, .mdie _ => (s.cmd? n).map fun p => .decoderQueue p.cmd.eng
  | .coll _, .mdie d => some (.collEngine d)
  | .far _ _, .mdie d => some (.stackPort d)
  | .posted _, .mdie d => some (.stackPort d)
  | .lineOf _, .mdie d => some (.stackPort d)
  | .served _, .mdie d => some (.stackPort d)
  | _, _ => none

/-- The group a collective command belongs to, by function, KEY and SCOPE (R258): one entry of the engine's table. -/
def State.groupOf (s : State) (m : Msg) : Option (Nat × Nat × Nat) :=
  match m.body with
  | .coll n => (s.cmd? n).map fun p => (p.cmd.cx.vf, fieldAt p.bytes 32, bitsOf (fieldAt p.bytes 16) 46 44)
  | _ => none

/-- The functions of the entries in use at a point, were the requests `more` to stand there too: a message each, stream and
decode commands held at their die after their message included; at a collective engine a group each. -/
def State.entriesWith (s : State) (p : Point) (more : List Msg) : List Nat :=
  let held := (s.msgs.filter fun m => m.hops.isEmpty && !m.refused && s.entryOf m = some p) ++ more
  match p with
  | .collEngine _ => (held.filterMap s.groupOf).eraseDups.map (·.1)
  | .streamQueue d => (held.map (·.cx.vf)) ++
      ((s.cmds.filter fun x => x.phase == .queued && x.cmd.op ≤ 0x163 && s.cmdDie x.cmd = d &&
        !(s.msgs.any fun m => match m.body with | .command n => n = x.cmd.id | _ => false)).map (·.cmd.cx.vf))
  | .decoderQueue d => (held.map (·.cx.vf)) ++
      ((s.cmds.filter fun x => x.phase == .queued && x.cmd.op = 0x16E && x.cmd.eng = d &&
        !(s.msgs.any fun m => match m.body with | .decode n => n = x.cmd.id | _ => false)).map (·.cmd.cx.vf))
  | _ => held.map (·.cx.vf)

/-- A request finds room in a point's queue beside those of `got`: its function holds fewer entries than its limit, per class at
a switch output, and the queue is not full; a message of a collective group in progress takes no entry. The physical function's
requests are not limited (R325). -/
def State.roomAt (s : State) (p : Point) (got : List Msg) (m : Msg) : Bool :=
  let mine := got.filter fun x => match p with | .link _ _ => x.cls = m.cls | _ => true
  let used := s.entriesWith p mine
  (s.entriesWith p (mine ++ [m])).length == used.length ||
    (used.length < queueSize p && (m.cx.vf = 0 || used.countP (· = m.cx.vf) < s.limitAt m.cx.vf p))

/-- The requests that stand in a point's queue, of those that have come to it: one that finds no room waits at its source, and
with it those its source sends after it (R325); `held` are such sources. -/
def State.standing (s : State) (p : Point) : List Msg → List Msg → List Node → List Msg
  | [], got, _ => got
  | m :: r, got, held =>
    if held.contains m.src then s.standing p r got held
    else if s.roomAt p got m then s.standing p r (got ++ [m]) held
    else s.standing p r got (m.src :: held)

/-- A request has come to a point before another: one that has waited for room and stands in the queue before those that have not
been let in, the others in the order of their arrival. -/
def Msg.cameFirst (a b : Msg) : Bool :=
  (a.entered.isSome && b.entered.isNone) || (a.entered.isSome == b.entered.isSome && a.at' ≤ b.at')

/-- The requests that may be granted at a point. An FLDA that an earlier release holds back is not issued yet (R182). -/
def State.queued (s : State) (p : Point) : List Msg :=
  s.standing p (sortBy Msg.cameFirst
    (s.msgs.filter fun m => m.hops.head? = some p ∧ m.refused = false ∧ s.acquireBlocked m = false)) [] []

/-- A message stands in the queue of the point it is at. -/
def State.stands (s : State) (m : Msg) : Bool := (m.hops.head?.map fun p => (s.queued p).any (·.id = m.id)).getD false

/-- The requests a step has made room for have entered their queues at its clock, which is their age there (R293, R325). -/
def State.entering (s s' : State) : State :=
  { s' with msgs := s'.msgs.map fun m =>
      if m.entered.isNone && s'.stands m && !s.stands m then { m with entered := some s.clk } else m }

/-- A step that may have made room in queues. -/
def State.makesRoom (s : State) : Out → Out
  | .next s' => .next (s.entering s')
  | r => r

/-! ### Performing an access (R173, R214, R217) -/

/-- A far load or atomic performed as one access: the value returned, or the poison it met (R213, R214). -/
def performFar (s : State) (home : Node) (a : Access) : State × Word × Option (Nat × Nat) :=
  let o := a.pa % 2 ^ 46
  let s0 := s.chargeAccess home a
  if s0.poisoned o a.n then (s0, 0, some (a.va, a.detail))
  else
    let old := s.readNat o a.n
    match a.op with
    | none => (s0, toWord old, none)
    | some op =>
      let s1 := match (rmwNew op a.n old a.b.toNat a.x.toNat).1 with
        | some v => { s0 with mem := memPut o (leBytes a.n v) s0.mem }
        | none => s0
      (match home with | .quad q => s1.squashReaders q (a.pa % 2 ^ 23) a.n none | _ => s1, toWord old, none)

/-- A posted effect performed at its home (R217). -/
def performPostedAt (s : State) (home : Node) (a : Access) : State :=
  let s1 := performPosted (s.chargeAccess home a) a
  match home with
  | .quad q => s1.squashReaders q (a.pa % 2 ^ 23) a.n none
  | _ => s1

/-! ### Requests of other packages (R213, R217, R322, R324) -/

/-- The read-modify-write an opcode and format name. -/
def rmwOf : Nat → Nat → Option Rmw
  | 0x124, _ => some .add | 0x125, _ => some .minS | 0x126, _ => some .minU | 0x127, _ => some .maxS
  | 0x128, _ => some .maxU | 0x129, _ => some .and | 0x12A, _ => some .or | 0x12B, _ => some .xor
  | 0x12C, _ => some .xchg | 0x12D, _ => some .cas | 0x12E, f => some (.fadd f)
  | _, _ => none

/-- A request from another package: package offset, width, kind as DETAIL codes it. -/
structure PodReq where
  vf : Nat
  ctx : Nat
  req : Nat
  pa : Nat
  n : Nat
  kind : Nat
  deriving DecidableEq, Repr

/-- The home on this package serves it: HBM granted to the function; a vault belongs to a context of this package. -/
def State.servesPod (s : State) (r : PodReq) : Bool :=
  bitsOf r.pa 45 40 == 0 && r.pa < 2 ^ 46 && r.n ≤ 8 && (r.vf == 0 || s.ownerOf ((s.pkgNo * 2 ^ 46 + r.pa) / 65536) == r.vf)

/-- What the home of a request counts and charges: to its function, whose contexts are the other package's. -/
def State.chargePod (s : State) (r : PodReq) : State :=
  (s.charge (.stack (bitsOf r.pa 39 36)) (.vf r.vf) (classFar r.kind r.n) 1 (8 + bitsOf r.pa 39 37)).cacheAccess ⟨r.vf, r.ctx⟩ r.pa
    (r.kind != 0) |>.checkLine r.pa

/-- What the device itself sends to another package for a function that has no context here: no context of the part has the
number 1024. -/
def podCtx (vf : Nat) : CtxId := ⟨vf, 1024⟩

/-- A read. -/
def podRead (r : PodReq) (s : State) : State × Word × Bool :=
  if s.poisoned r.pa r.n then (s, 0, true) else (s, toWord (s.readNat r.pa r.n), false)

/-- A read-modify-write: nothing is performed on poison. -/
def podRmw (r : PodReq) (op : Rmw) (b x : Word) (s : State) : State × Word × Bool :=
  if s.poisoned r.pa r.n then (s, 0, true)
  else
    let old := s.readNat r.pa r.n
    match (rmwNew op r.n old b.toNat x.toNat).1 with
    | some v => ({ s with mem := memPut r.pa (leBytes r.n v) s.mem }, toWord old, false)
    | none => (s, toWord old, false)

/-- The request a packet makes, and what performing it does at its home. -/
def podRequestOf : PodBody → Option (PodReq × (State → State × Word × Bool))
  | .read vf ctx req pa n => some (⟨vf, ctx, req, pa, n, 0⟩, podRead ⟨vf, ctx, req, pa, n, 0⟩)
  | .write vf ctx req pa n v half poison whole =>
    let mark := if poison then .poison else match half with | some hi => .nibble hi | none => if whole then .whole else .plain
    some (⟨vf, ctx, req, pa, n, 1⟩, fun s => (s.writeMarked pa n v.toNat mark, 0, false))
  | .atomic vf ctx req op xop pa n b x =>
    (rmwOf op xop).map fun r => (⟨vf, ctx, req, pa, n, 2⟩, podRmw ⟨vf, ctx, req, pa, n, 2⟩ r b x)
  | _ => none

/-- A request performed at its home and answered from there, its reply taking the function's share of the way like any packet
(R293, R325, R399); one the home does not serve is a violation of its context, which the physical function is told of. -/
def State.podRequest (s : State) (src : Nat) (r : PodReq) (perform : State → State × Word × Bool) : State :=
  if !s.servesPod r then s.event 0 0 r.vf r.ctx 0x1A 1 r.pa 0
  else
    let (s1, v, p) := perform (s.chargePod r)
    s1.send (podCtx r.vf) (.mdie (bitsOf r.pa 39 37)) (.pod src) 1 (.reply r.req v (if p then some (0, 0) else none))
      [.ether (podPort src)]

/-- A request of another package reaches its home, after its way from the port and its grant at the stack's request port (R25,
R293); at a page sealed for a move it waits (R333). `write`: the step is for posted writes. -/
def servedAtHome (name : String) (s : State) (m : Msg) (b : PodBody) (write : Bool) : Out :=
  match podRequestOf b, m.src with
  | some (r, perform), .pod src =>
    if !s.arrived m || (r.kind == 1) != write || s.sealed (s.pkgNo * 2 ^ 46 + r.pa) then notEnabled name
    else .next ((s.land m.id).podRequest src r perform).tick
  | _, _ => notEnabled name

/-! ### Requests at their homes (R214, R217, R322) -/

/-- R322: the home serves the request's context: the quad's holder, or the owner of the HBM frame. -/
def State.serves (s : State) (home : Node) (cx : CtxId) (pa : Nat) : Bool :=
  match home with
  | .quad q => ((s.quad? q).map fun x => x.cx = cx && !x.zeroing).getD false
  | _ => cx.vf == 0 || s.ownerOf (pa / 65536) == cx.vf

/-- A request performed at its home, and the reply or acknowledgement sent. -/
def performRequest (s : State) (home : Node) (m : Msg) : State :=
  match m.body with
  | .far e a =>
    let (s1, v, p) := performFar s home a
    s1.send m.cx home m.src 1 (.reply e v p)
  | .posted a => (performPostedAt s home a).send m.cx home m.src 1 (.ack m.id)
  | _ => s

/-- A posted request, or one a far exit waits for. -/
def MsgBody.isPosted : MsgBody → Bool
  | .posted _ => true
  | _ => false

/-- A request reaches its home: refused by a sealed page, a violation, held behind a footprint, or performed. `posted`: the step
is for posted effects. -/
def requestAtHome (name : String) (n : Nat) (s : State) (posted : Bool) : Out :=
  match s.msg? n with
  | none => notEnabled name
  | some m =>
    match m.access? with
    | none => (match m.body with | .served b => servedAtHome name s m b posted | _ => notEnabled name)
    | some a =>
      if m.body.isPosted != posted || !s.arrived m then notEnabled name
      else
        match m.dst with
        | .pod _ => notEnabled name
        | home =>
          if s.sealed a.pa then
            .next ({ s with msgs := modWhere (fun x => x.id = n) (fun x => { x with refused := true }) s.msgs }.tick)
          else if !s.serves home a.cx a.pa then .next ((s.land n).breach a.cx 0 a.pa 0).tick
          else
            match home with
            | .quad q =>
              if ((s.quad? q).map fun x => x.farBlocked m a x.vseq).getD false then
                .next ((s.land n).modQuad q fun x =>
                  { x with waitFar := x.waitFar ++ [⟨x.vseq, m, a, a.pa % 2 ^ 23⟩], vseq := x.vseq + 1 }).tick
              else .next (performRequest (s.land n) home m).tick
            | _ => .next (performRequest (s.land n) home m).tick

/-- FAR_ACCESS_AT_HOME (R214). -/
def execEvFarAccessAtHome (n : Nat) (s : State) : Out :=
  s.makesRoom (requestAtHome "FAR_ACCESS_AT_HOME" n s false)

/-- POSTED_EFFECT_AT_HOME (R217). -/
def execEvPostedEffectAtHome (n : Nat) (s : State) : Out :=
  s.makesRoom (requestAtHome "POSTED_EFFECT_AT_HOME" n s true)

/-- WAITING_FAR_ACCESS_PERFORM (R192): the conflicting earlier footprints are gone, and every access its quad issued before it
has been performed (R177). -/
def execEvWaitingFarAccessPerform (die idx n : Nat) (s : State) : Out :=
  match s.quad? ⟨die, idx⟩ with
  | none => notEnabled "WAITING_FAR_ACCESS_PERFORM"
  | some q =>
    match q.waitFar.find? (·.msg.id = n) with
    | none => notEnabled "WAITING_FAR_ACCESS_PERFORM"
    | some w =>
      if q.farBlocked w.msg w.a w.seq || (w.msg.src = .quad q.id && s.ownUnderway q.id w.msg.id) then notEnabled "WAITING_FAR_ACCESS_PERFORM"
      else
        let s1 := s.modQuad q.id fun x => { x with waitFar := x.waitFar.filter (·.msg.id ≠ n) }
        .next ((performRequest s1 (.quad q.id) w.msg).conflictOver q.id n).tick

/-! ### Acknowledgements and replies (R177, R278, R54, R295) -/

/-- A strand that has retired leaves its space's live count with its last acknowledgement (R278). -/
def State.settleRetired (s : State) (sid : Nat) : State :=
  if s.posted.any fun p => p.sid = sid ∧ p.trace = false then s
  else
    match s.retiring.find? (·.1 = sid) with
    | some (_, cx, tag) =>
      ({ s with retiring := s.retiring.filter (·.1 ≠ sid) }.uncountTag cx tag).sweepFreeing cx tag
    | none => s

/-- A posted effect acknowledged at its quad; after its strand's last release, the strand's FLDA is issued (R182). -/
def State.acked (s : State) (post : Nat) : State :=
  match s.posted.find? (·.id = post) with
  | none => s
  | some p =>
    let s1 := { s with posted := s.posted.filter (·.id ≠ post) }
    ((if p.release then s1.issueHeld p.sid else s1).settleRetired p.sid).wakeUnit p.quad

/-- POSTED_ACK_ARRIVAL (R177, R178). -/
def execEvPostedAckArrival (n : Nat) (s : State) : Out :=
  match s.msg? n with
  | none => notEnabled "POSTED_ACK_ARRIVAL"
  | some m =>
    match m.body with
    | .ack post => if s.arrived m then .next ((s.land n).acked post).tick else notEnabled "POSTED_ACK_ARRIVAL"
    | _ => notEnabled "POSTED_ACK_ARRIVAL"

/-- Most embers a quad's ready list holds (R295). -/
def readyMax : Nat := 4096

/-- A quad's ready list takes no more. A saved quad keeps accepting replies, each saved with its ember (R379). -/
def Quad.readyFull (q : Quad) : Bool := readyMax ≤ q.ready.length && q.snuff != .saved

/-- A reply is accepted: the ember is ready, or a poison reply raises POISON against it (R54, R214). A stale ember's
reply is discarded as R47 says. -/
def State.acceptReply (s : State) (e : Ember) (v : Word) (poison : Option (Nat × Nat)) : State :=
  match poison with
  | some (va, d) => s.emberFault e .poison d e.block va
  | none =>
    if (s.space? e.strand.cx (tagSpace e.strand.tag)).map (fun p => p.allocated && p.gen == tagGen e.strand.tag) ==
        some true then
      (s.modEmber e.id fun x => { x with value := some v, wait := .nothing }).modQuad e.quad fun q =>
        { q with ready := q.ready ++ [e.id] }
    else
      s.queueFault e.strand.cx
        { code := .tagspaceInvalid, kind := 2, slotNo := none, detail := 0, tag := e.strand.tag, block := e.block,
          addr := 0, handle := 0, unitNo := 0, unit := 7, elem := e.elem, qindex := s.emberQindex e,
          ldie := tagLdie e.strand.tag, data := v, ember := none, sid := none, cmd := none, lsid := none }

/-- FAR_REPLY_ARRIVAL (R54, R294, R295): embers that became ready earlier enter the list first; a full list holds the
message at its source, and with it the later ones of its channel (R199). -/
def execEvFarReplyArrival (n : Nat) (s : State) : Out :=
  match s.msg? n with
  | none => notEnabled "FAR_REPLY_ARRIVAL"
  | some m =>
    match m.body with
    | .reply en v poison =>
      match s.ember? en with
      | none =>
        -- the answer to a read K made itself (notes/assumptions 18)
        if m.dst = .k && s.arrived m then .next (s.land n).tick else notEnabled "FAR_REPLY_ARRIVAL"
      | some e =>
        match s.quad? e.quad with
        | none => notEnabled "FAR_REPLY_ARRIVAL"
        | some q =>
          if !s.arrived m then notEnabled "FAR_REPLY_ARRIVAL"
          else if q.readyFull then
            let hold := { s with msgs := modWhere (fun x => x.id = n) (fun x => { x with refused := true }) s.msgs }
            .next (hold.count q.id 0x13 1).tick
          else if q.cleared.any fun c => ((s.ember? c).map (·.strand.pend.isNone)).getD false && c ≠ en then
            notEnabled "FAR_REPLY_ARRIVAL"
          else .next ((s.land n).acceptReply e v poison).tick
    | _ => notEnabled "FAR_REPLY_ARRIVAL"

/-- REPLY_HELD_RESEND (R295): space has freed in the ready list of the message's quad. -/
def execEvReplyHeldResend (n : Nat) (s : State) : Out :=
  match s.msg? n with
  | none => notEnabled "REPLY_HELD_RESEND"
  | some m =>
    match m.body with
    | .reply en _ _ =>
      match (s.ember? en).bind fun e => s.quad? e.quad with
      | none => notEnabled "REPLY_HELD_RESEND"
      | some q =>
        if m.refused && !q.readyFull then
          .next ({ s with msgs := modWhere (fun x => x.id = n) (fun x => { x with refused := false }) s.msgs }.tick)
        else notEnabled "REPLY_HELD_RESEND"
    | _ => notEnabled "REPLY_HELD_RESEND"

/-! ### Banks (R22) -/

/-- The request a bank serves: the lowest rank, the longest refused among equals. -/
def bankPick (bank : Nat) (rs : List BankReq) : Option BankReq :=
  (rs.filter (·.bank = bank)).foldl (fun b r => match b with
    | some x => if r.rank < x.rank ∨ (r.rank = x.rank ∧ x.refused < r.refused) then some r else some x
    | none => some r) none

/-- BANK_ARBITRATION (R22): one request of the bank is served in this clock, the others are refused once more. -/
def execEvBankArbitration (die idx bank : Nat) (s : State) : Out :=
  match s.quad? ⟨die, idx⟩ with
  | none => notEnabled "BANK_ARBITRATION"
  | some q =>
    match bankPick bank q.banks with
    | none => notEnabled "BANK_ARBITRATION"
    | some r =>
      .next (s.modQuad q.id fun x =>
        { x with banks := (x.banks.erase r).map fun y => if y.bank = bank then { y with refused := y.refused + 1 } else y }).tick

/-- BANK_STARVATION_PROMOTE (R22): a requester refused for 64 consecutive clocks is served first next. -/
def execEvBankStarvationPromote (die idx bank : Nat) (s : State) : Out :=
  match s.quad? ⟨die, idx⟩ with
  | none => notEnabled "BANK_STARVATION_PROMOTE"
  | some q =>
    match q.banks.find? fun r => r.bank = bank ∧ 64 ≤ r.refused ∧ r.rank ≠ 0 with
    | none => notEnabled "BANK_STARVATION_PROMOTE"
    | some r => .next (s.modQuad q.id fun x => { x with banks := { r with rank := 0 } :: x.banks.erase r }).tick

/-! ### Walks (R329, R331) -/

/-- The far addresses a commit translates: slot, address, access kind. -/
def Inst.farUses (i : Inst) : List (Nat × Nat × Kind) :=
  (i.later.filterMap fun e => match e.eff with
    | .farStore va _ _ _ => some (e.slot, va, .write)
    | .farReduce _ va _ _ => some (e.slot, va, .atomic)
    | _ => none) ++
  (i.exits.filterMap fun x => match x.op with
    | .far (.load _ va _) _ _ _ => some (x.slot, va, .read)
    | .far (.rmw _ va _ _ _) _ _ _ => some (x.slot, va, .atomic)
    | _ => none)

def Inst.farNeeds (i : Inst) : List (Nat × Kind) := i.farUses.map (·.2)

/-- TLB_WALK (R329, R331): the walk for the first address a committing instance needs and its quad's TLB misses. -/
def execEvTlbWalk (n : Nat) (s : State) : Out :=
  match s.inst? n with
  | none => notEnabled "TLB_WALK"
  | some i =>
    match s.quad? i.frame.quad, s.ctx? i.frame.strand.cx with
    | some q, some c =>
      match i.farNeeds.find? fun (va, k) =>
          (c.aperture? va).isNone && va < 2 ^ 57 && !(q.tlb.any fun t => t.hits c.id va k) with
      | none => notEnabled "TLB_WALK"
      | some (va, k) =>
        if !s.mayCommit i then notEnabled "TLB_WALK"
        else
          s.inOrder "TLB_WALK" (match translateBy s (.quad q.id) c va 1 k with
          | (s1, .breach pa) => .next (s1.breach c.id 0 pa 0).tick
          | (s1, _) => .next s1.tick)
    | _, _ => notEnabled "TLB_WALK"

/-! ### The pod transport's sending side (R399) -/

/-- The opcode and format of a read-modify-write, for the transport. -/
def Rmw.code : Rmw → Nat × Nat
  | .add => (0x124, 0) | .minS => (0x125, 0) | .minU => (0x126, 0) | .maxS => (0x127, 0) | .maxU => (0x128, 0)
  | .and => (0x129, 0) | .or => (0x12A, 0) | .xor => (0x12B, 0) | .xchg => (0x12C, 0) | .cas => (0x12D, 0)
  | .fadd f => (0x12E, f)

/-- What a message to another package carries. -/
def Msg.podBody (m : Msg) : PodBody :=
  let ofAccess := fun (a : Access) =>
    match a.op with
    | some op => .atomic a.cx.vf a.cx.num m.id op.code.1 op.code.2 (a.pa % 2 ^ 46) a.n a.b a.x
    | none => if a.write then .write a.cx.vf a.cx.num m.id (a.pa % 2 ^ 46) a.n a.b (match a.mark with | .nibble hi => some hi | _ => none)
        (a.mark == .poison) (a.mark == .whole) else .read a.cx.vf a.cx.num m.id (a.pa % 2 ^ 46) a.n
  match m.body with
  | .far _ a => ofAccess a
  | .posted a => ofAccess a
  | .arrive (.pod vf key _) n a => .barrier vf key n a.engine a.err
  | .part vf key rank fields vals first total => .coll vf key rank fields vals first total
  | .reply req v p => .reply req v p.isSome
  | .podAck cls upTo => .ackUpTo cls upTo
  | _ => .ackUpTo m.cls 0

def State.flow (s : State) (peer cls : Nat) : PodFlow :=
  (s.flows.find? fun f => f.peer = peer ∧ f.cls = cls).getD
    { peer := peer, cls := cls, nextSend := 0, nextRecv := 0, unacked := [], early := [], lost := false, silent := none }

def State.setFlow (s : State) (f : PodFlow) : State :=
  { s with flows := s.flows.filter (fun x => !(x.peer = f.peer ∧ x.cls = f.cls)) ++ [f] }

/-- The EtherType and the Ethernet address of the frames that carry the packets for a package: the configuration record's
(R396, R398). -/
def State.podFrame (s : State) (pkg : Nat) : Nat × Nat := (0x88B5, (s.podAddrs[pkg]?).getD 0)

/-- A packet on a port, in its frame. -/
def State.frameOn (s : State) (peer port number : Nat) (b : PodBody) : PodFrame :=
  { number := number, etherType := (s.podFrame peer).1, addr := (s.podFrame peer).2, body := b, at' := s.clk, port := port }

/-- A packet numbered in its triple and sent on a port; it is kept until acknowledged. -/
def State.transmit (s : State) (peer cls port : Nat) (b : PodBody) : State :=
  let f := s.flow peer cls
  let x := s.frameOn peer port f.nextSend b
  { s.setFlow { f with
      nextSend := (f.nextSend + 1) % 2 ^ 32, unacked := f.unacked ++ [x], silent := f.silent.or (some s.clk) } with
    sentFrame := some x }

/-- The answer a source gets from a package that cannot be reached (R399): a poisoned reply; a posted effect counts as
acknowledged. -/
def poisonedAnswer (s : State) (m : Msg) : State :=
  match m.body with
  | .far e a => s.send m.cx m.dst m.src 1 (.reply e 0 (some (a.va, a.detail)))
  | .posted _ => s.send m.cx m.dst m.src 1 (.ack m.id)
  | _ => s

/-! ### Grants (R293, R325) -/

/-- A source's number, for requests that entered in one clock. -/
def Node.number : Node → Nat
  | .quad q => q.die * 128 + q.idx
  | .mdie m => 1024 + 16 * m
  | .eng m n => 1025 + 16 * m + n
  | .k => 1200
  | .pod p => 1201 + p

/-- The clock a request entered its point at: when it came to it, or when it found room there (R325). -/
def Msg.since (m : Msg) : Nat := m.entered.getD m.at'

/-- Older at a point: entered earlier, or from a lower source. -/
def older (a b : Msg) : Bool := a.since < b.since || (a.since == b.since && a.src.number ≤ b.src.number)

def oldestOf (ms : List Msg) : Option Msg :=
  ms.foldl (fun b m => match b with | some x => if older x m then some x else some m | none => some m) none

/-- For each source, its oldest request. -/
def perSource (ms : List Msg) : List Msg :=
  ms.filter fun m => !(ms.any fun x => x.src = m.src ∧ x.id ≠ m.id ∧ older x m ∧ !(older m x ∧ m.id < x.id))

/-- The choice of R293 at grant counter g. -/
def pickGrant (g : Nat) (cands : List Msg) : Option Msg :=
  let ofClass := fun (c : Nat) => oldestOf (cands.filter (·.prio = c))
  if g % 16 = 15 ∧ (ofClass 2).isSome then ofClass 2
  else if g % 64 = 7 ∧ (ofClass 3).isSome then ofClass 3
  else oldestOf (cands.filter fun m => cands.all fun x => m.prio ≤ x.prio)

/-- A packet granted at an Ethernet port goes out, charged at the port's lantern (R334, R335); a request to a package that cannot
be reached is answered at once, and every other packet is kept until that is reached again. An acknowledgement is not itself
numbered and acknowledged (R399). -/
def State.goOut (s : State) (port : Nat) (m : Msg) : State :=
  match m.dst with
  | .pod peer =>
    let s1 := s.charge (.ether port) m.payer classHop 1 (8 + port / 2)
    match m.body with
    | .podAck _ _ => { s1.dropMsg m.id with sentFrame := some (s.frameOn peer port 0 m.podBody) }
    | _ =>
      if s.lostPkgs.contains peer && m.access?.isSome then poisonedAnswer (s.dropMsg m.id) m
      else if m.access?.isSome then s1.transmit peer m.cls port m.podBody
      else (s1.dropMsg m.id).transmit peer m.cls port m.podBody
  | _ => s

/-- A line request or the line that comes back. -/
def MsgBody.isLine : MsgBody → Bool
  | .line _ => true
  | .lineBack => true
  | _ => false

/-- A unit's line request is served where its last point has granted it: a read's line goes back, and what has come back is
taken (R17, R293). -/
def State.lineServed (s : State) (m : Msg) : State :=
  let s1 := (s.chargeEdge m).dropMsg m.id
  match m.body with
  | .line false => if m.src.die = m.dst.die then s1 else s1.send m.cx m.dst m.src 1 .lineBack
  | _ => s1

/-- The line messages past their last point are served, each behind the packets of its class that left for its die before it
(R17). -/
def State.serveLines (s : State) : State :=
  (s.msgs.filter fun m => m.body.isLine && m.hops.isEmpty && !s.packetAhead m).foldl State.lineServed s

/-- The barrier packet an Ethernet port sends next: barrier traffic leaves in arrival order, whatever the classes (R293,
R306). -/
def State.barrierNext (s : State) : Point → Option Msg
  | .ether n => oldestOf (s.msgs.filter fun m => m.hops.head? = some (.ether n) && m.body.barrier m.cls)
  | _ => none

/-- ARBITRATION_GRANT (R293): one request passes the point, and enters the next with its context's class of that clock
(R289). A request the grant makes room for enters the queue at this clock (R325). -/
def execEvArbitrationGrant (p : Point) (s : State) : Out :=
  if (match p with | .ether port => !s.portUp port | _ => false) then notEnabled "ARBITRATION_GRANT" else
  match s.barrierNext p, p with
  | some m, .ether port =>
    .next (({ s with msgs := modWhere (fun x => x.id = m.id) (fun x => { x with hops := x.hops.tail }) s.msgs }).goOut port m).tick
  | _, _ =>
    let g := valueOf p 0 s.grants
    match pickGrant g (perSource (s.queued p)) with
    | none => notEnabled "ARBITRATION_GRANT"
    | some m =>
      let out := match p with | .link _ _ => some s.clk | _ => none
      let step := fun (x : Msg) =>
        { x with hops := x.hops.tail, at' := s.clk, entered := none, left := x.left.or out, prio := s.prioOf x.cx }
      let s1 := { s with grants := setValue p (g + 1) s.grants, msgs := modWhere (fun x => x.id = m.id) step s.msgs }
      let s2 := if m.prio = 2 then s1.countShared m.cx.vf 7 1 else s1
      let s3 := match p with
        | .link a b => ((s2.countShared m.cx.vf 2 1).charge (.boundary a b) m.payer classHop 1 a)
        | .ether port => s2.goOut port m
        | _ => s2
      .next (s.entering s3.serveLines).tick

end Sys2Proof.Machine
end

