-- ==== Sys2Proof/Machine/Lamplighter.lean ====
section
/-!
DEFINITION. The lamplighter: relights, range splits, the frame-wait list, ready embers, reservations and frames that
arrive (R43, R44, R52, R54, R55, R60, R288, R294-R297, R302-R304, R358, R359, R374, R375).
-/

namespace Sys2Proof.Machine

/-! ### Parity failures (R374, R375) -/

/-- A parity failure in a die's bad-node register: counted, and recorded when none is unreported; `held`: one is. -/
def badNodeHit (held : Bool) (old x y hop dir elem : Nat) : Nat :=
  let n := min (2 ^ 32 - 1) (old / 2 ^ 32 + 1)
  let low := if !held then y % 16 * 2 ^ 12 + x % 16 * 2 ^ 8 + hop % 16 * 2 ^ 4 + dir % 4 * 4 + elem % 4
    else old % 65536
  n * 2 ^ 32 + low

/-- TOKEN_PARITY: the failure is recorded and posted, and the context frozen (R375). -/
def State.parityFail (s : State) (cx : CtxId) (q : QuadId) (hop dir elem addr : Nat) : State :=
  let s1 :=
    { s with
      badNode := modAt q.die (fun r => badNodeHit (s.badHeld.contains q.die) r (q.idx % 10) (q.idx / 10) hop dir elem) s.badNode,
      badHeld := sortedInsert q.die s.badHeld }
  let s2 := s1.event 0 0 cx.vf cx.num 0x1F 3 addr ((s1.badNode[q.die]?).getD 0)
  s2.modCtx cx fun c =>
    { c with damaged := true,
             run := match c.run with | .running => .freezing | .stopped => .freezing | .cutting _ false => .freezing | r => r }

/-! ### Frames (R42, R44) -/

/-- A quad has a free frame (R42: 256 bytes each). -/
def State.frameFree (s : State) (q : QuadId) : Bool :=
  match (s.quad? q).bind fun x => (s.ctx? x.cx).bind (·.decl? x.ldie) with
  | some d => s.framesUsed q < d.framesKiB * 4
  | none => false

/-- The registers of a relit ember (R44): LIVE as saved, the reply, zero elsewhere. JOIN and YIELD have no reply. -/
def Ember.relitRegs (e : Ember) : List Word :=
  let base := (List.range 32).map fun n => if bitOf e.live n then (e.regs[n]?).getD 0 else 0
  match e.value with
  | some v => if e.op = 0x14C ∨ e.op = 0x151 then base else base.set e.reply v
  | none => base

/-- Lines held by a 0x83 reservation end 16,384 cycles after this relight (R303). -/
def Strand.relit (st : Strand) (clk : Nat) : Strand :=
  match st.resv with
  | some (.lines q lo hi none) => { st with resv := some (.lines q lo hi (some (clk + 16384))) }
  | _ => st

/-- An iteration of an ordered space begins at its strand's first relight: the speculative buffer keeps its first block and
the frame it begins with until it retires (R56, R58). -/
def State.beginIter (s : State) (e : Ember) (q : QuadId) : State :=
  let st := e.strand
  let there := s.specs.any fun p => p.cx = st.cx ∧ p.space = tagSpace st.tag ∧ p.iter = tagIter st.tag
  if st.ordered.isNone || there then s
  else
    { s with specs := s.specs ++
        [{ cx := st.cx, space := tagSpace st.tag, iter := tagIter st.tag, quad := q, bytes := [], bad := [], lines := [],
           block := e.cont, regs := e.relitRegs, strand := st, ended := false, traces := [] }] }

/-- The frame of a relit ember goes to its placement, where it has a place in the frame area, its 256 bytes written there (R22,
R296); on another quad than the lamplighter's it moves there over the mesh (R43, R275). -/
def State.writeFrame (s : State) (src : QuadId) (e : Ember) (q : QuadId) (elem : Nat) : State :=
  let f : Frame :=
    { strand := e.strand.relit s.clk, quad := q, elem := elem, block := e.cont, regs := e.relitRegs, status := .waiting,
      order := s.nextId }
  let s1 := s.beginIter e q
  let s2 := { s1 with embers := s.embers.filter (·.id ≠ e.id) }
  if src = q then { s2.frameBanks q with nextId := s.nextId + 1, frames := s.frames ++ [f] }
  else s2.send e.strand.cx (.quad src) (.quad q) 8 (.frame f true)

/-! ### The replay log (R358, R359) -/

/-- A record of a relight or split in the quad's log, or FIRSTLOST when it finds the log full. -/
def State.logRelight (s : State) (cx : CtxId) (q : QuadId) (e : Ember) : State :=
  match s.ctx? cx, s.quad? q with
  | some c, some x =>
    if c.params.logMode = 0 then s
    else
      let size := c.params.traceSize * 4096
      let base := c.params.logBase + (96 * x.ldie + c.indexOf x) * size
      let s0 := s.modQuad q fun y => { y with relights := y.relights + 1 }
      let lose := fun (s : State) =>
        ((writeVa s (.quad q) c (base + 8) (leBytes 8 x.relights)).getD s).modQuad q fun y => { y with firstLost := some x.relights }
      if x.firstLost.isSome then s0
      else if size < 64 + 16 * (x.logged + 1) then lose s0
      else
        let w0 := e.source % 65536 * 2 ^ 48 + e.reason % 256 * 2 ^ 40 + e.strand.tag % 2 ^ 40
        match writeVa s0 (.quad q) c (base + 64 + 16 * x.logged) (leBytes 8 w0 ++ leBytes 8 e.seq) with
        | some s1 =>
          ((writeVa s1 (.quad q) c base (leBytes 8 (x.logged + 1))).getD s1).modQuad q fun y => { y with logged := y.logged + 1 }
        | none => lose s0
  | _, _ => s

/-- The relights a launch still replays at a quad: tag and SEQ (R359). -/
def Context.toReplay (c : Context) (q : QuadId) : List (Nat × Nat) := valueOf q [] c.replaying

/-- The next logged relight has been made. -/
def State.replayed (s : State) (cx : CtxId) (q : QuadId) : State :=
  s.modCtx cx fun c =>
    if (c.toReplay q).isEmpty then c else { c with replaying := setValue q (c.toReplay q).tail c.replaying }

/-- An ember may be relit next at a quad that replays a log. -/
def Context.logAdmits (c : Context) (q : QuadId) (e : Ember) : Bool :=
  match c.toReplay q with
  | [] => true
  | (t, n) :: _ => e.strand.tag == t && e.seq % 2 ^ 64 == n

/-! ### CHECK (R51, R52) -/

/-- An address of the context lies in another package. -/
def State.awayVa (s : State) (c : Context) (va : Nat) : Bool :=
  match translate s c va 1 .read with
  | (_, .ok pa) => pa / 2 ^ 46 != s.pkgNo
  | _ => false

/-- A lamplighter reads a record: what that costs, at the banks of a vault or in the context's memory, and whether the bytes there
agree with their CHECK. A vault record is the machine's own: a failure of its words or its parity is the input of PARITY_FREEZE_REPORT (R374;
notes/assumptions 44). Of a pool page that lies in another package the bytes are not this machine's (notes/assumptions 18). -/
def State.readRecord (s : State) (e : Ember) : State × Bool :=
  match (s.ctx? e.strand.cx).map fun c => (c, c.recordVa? e) with
  | some (c, some va) =>
    match s.readVa (.quad e.quad) c va 64 with
    | (s1, some (head, bad)) =>
      let n := (liveRegs (leNat ((head.drop 4).take 4))).length
      match (if n = 0 then (s1, some ([], false)) else s1.readVa (.quad e.quad) c (va + 64) (8 * n)) with
      | (s2, some (regs, bad')) =>
        let w := fun (bs : List Byte) (k : Nat) => leNat ((bs.drop (8 * k)).take 8)
        let words := (List.range 7).map (w head) ++ (List.range n).map (w regs)
        (s2, s.awayVa c va || s.awayVa c (va + 63) || (!bad && !bad' && w head 7 == xorAll (words.flatMap (words32 2))))
      | (s2, none) => (s2, false)
    | (s1, none) => (s1, false)
  | _ => (s.emberBanks e, true)

def State.recordGood (s : State) (e : Ember) : Bool := (s.readRecord e).2

/-- The address an ember's record has in a fault or log: near offset in a vault, virtual in HBM (R367). -/
def State.poolAddr (s : State) (e : Ember) : Nat :=
  match s.ctx? e.strand.cx with
  | none => e.addr
  | some c =>
    match e.pool with
    | .vault q => ((s.quad? q).map fun x => c.emberBase x.ldie).getD 0 + e.addr
    | .hbm => c.poolBase + e.addr
    | .slot k => c.ring + 0x8000 + 512 * k
    | _ => e.addr

/-! ### A relight (R296) -/

/-- An ember whose strand faults with every register live needs a record of 320 bytes: new space, or EMBER_OVERFLOW
(R39, R365). -/
def State.widen (s : State) (e : Ember) : State × Bool :=
  match e.pool with
  | .slot _ | .image | .frameArea _ => (s, true)
  | _ =>
    if 320 ≤ e.size then (s, true)
    else
      match s.findSpace e.strand.cx e.quad 320 [] with
      | some (p, a, n) => (s.modEmber e.id fun x => { x with pool := p, addr := a, size := n }, true)
      | none => (s.modEmber e.id fun x => { x with pool := .frameArea e.quad, size := 320 }, false)

/-- An ember refused a frame at a relight takes reason 0x88. DESIGN CHOICE (notes/assumptions 81): it keeps its record, LIVE
mask, EXIT, OP, HOME and reply, from which R44 makes the same frame later: R39 has it keep the pool space of the ember being
relit, which a record of all registers would not fit. The strand of a range that leaves no part needs 80 bytes where its range
had 72: new space, or EMBER_OVERFLOW (R39). -/
def State.refuseFrame (s : State) (e : Ember) (t : QuadId) : State :=
  let wait := fun (x : Ember) => { x with reason := 0x88, wait := .frameOf t, strand := x.strand.relit s.clk }
  let queued := fun (s : State) => (s.reEmber e.id wait).modQuad t fun x => { x with frameWait := x.frameWait ++ [e.id] }
  match e.pool with
  | .vault _ | .hbm =>
    if emberSize e.live ≤ e.size then queued s
    else
      match s.findSpace e.strand.cx e.quad (emberSize e.live) [] with
      | some (p, a, n) => queued (s.modEmber e.id fun x => { x with pool := p, addr := a, size := n })
      | none => (s.modEmber e.id fun x => { x with pool := .frameArea e.quad, size := emberSize e.live }).overflowed e.id
  | _ => queued s

/-- The relight of one ember by the lamplighter of quad `q`: its frame at the placement of R60, or the frame-wait list
of a full quad. With no placement the strand faults before the next instance, its frame as the relight would have made it
(R365, R370). -/
def State.relight (s : State) (q : QuadId) (c : Context) (e : Ember) : State :=
  match c.placeOf? (tagLdie e.strand.tag) e.cont e.strand.tag with
  | none =>
    let bare := fun (x : Ember) =>
      { x with live := 0xFFFFFFFF, regs := e.relitRegs, exit := 0, reply := 0, source := 0, pkg := 0, home := 0, width := 0,
               op := 0 }
    match (s.modEmber e.id bare).widen e with
    | (s1, true) => s1.emberFault e .permission 3 e.cont e.cont
    | (s1, false) => s1.overflowed e.id
  | some (t, el) =>
    let s1 := ((s.logRelight c.id q e).replayed c.id q).count q 0x0D 1
    let s2 := s1.traceRec c.id t el 3 e.reason 0 0 e.strand.tag e.cont (toWord e.seq)
    let waiting := ((s.quad? t).map fun x => !x.frameWait.isEmpty).getD false
    if s.frameFree t && !waiting then s2.writeFrame q e t el
    else ((s2.countReplay q 0x88).traceRec c.id q e.elem 5 0x88 0 0 e.strand.tag e.cont 0).refuseFrame e t

/-- A ready ember is a range: a seed with more than one iteration (R288). -/
def Ember.isRangeSeed (e : Ember) : Bool :=
  e.reason == 0x89 && tagIter e.strand.tag + 1 < (((e.regs[1]?).getD 0).bits 16 0)

/-! ### Ranges (R55, R274, R297) -/

/-- The parts a split of [lo, hi) at grain g leaves pending, first left part first, and the end of the part relit. -/
def splitParts (g : Nat) : Nat → Nat → Nat → List (Nat × Nat) × Nat
  | 0, _, hi => ([], hi)
  | n + 1, lo, hi =>
    if hi - lo ≤ g then ([], hi)
    else
      let r := splitParts g n lo (lo + (hi - lo) / 2)
      ((lo + (hi - lo) / 2, hi) :: r.1, r.2)

/-- c1 of a part: the range's word with its end replaced. -/
def partWord (w : Word) (hi : Nat) : Word := toWord (w.toNat / 2 ^ 17 * 2 ^ 17 + hi % 2 ^ 17)

/-- A pending part at a record. -/
def partEmber (e : Ember) (id lo hi : Nat) (sp : Pool × Nat × Nat) : Ember :=
  { e with id := id, strand := { e.strand with sid := id, tag := e.strand.tag / 65536 * 65536 + lo,
                                               ordered := e.strand.ordered.map fun _ => lo },
           live := 2, regs := regsWith [(1, partWord ((e.regs[1]?).getD 0) hi)], reason := 0x8A, pool := sp.1, addr := sp.2.1,
           size := sp.2.2, wait := .range, value := none }

/-- Space for the further parts of a split: the pool of the quad that holds the range, then the HBM pool. -/
def splitSpaces (s : State) (cx : CtxId) (q : QuadId) : Nat → List (Pool × Nat × Nat) → Option (List (Pool × Nat × Nat))
  | 0, got => some got
  | n + 1, got =>
    match s.findSpace cx q 72 got with
    | some x => splitSpaces s cx q n (got ++ [x])
    | none => none

/-- The pool's quad of a range. -/
def Ember.poolQuad (e : Ember) : QuadId := match e.pool with | .vault q => q | _ => e.quad

/-- The strand a range's first part becomes: c0 = lo, c1 = hi. DESIGN CHOICE (notes/assumptions 81): where the split leaves
parts, which take the range's record and further space, the first part has no record; with no free frame it waits for one
(0x88) without pool space. -/
def firstStrand (e : Ember) (id lo hi : Nat) (record : Bool) : Ember :=
  { e with id := id, strand := { e.strand with sid := id },
           live := 3, regs := regsWith [(0, toWord lo), (1, toWord hi)], wait := .nothing,
           pool := if record then e.pool else .image, size := if record then e.size else 0 }

/-- A split of a range and the relight of its first part, by the lamplighter of `q` (R55); pools that cannot hold the
further parts raise EMBER_OVERFLOW, and the range stays. -/
def State.takeRange (s : State) (q : QuadId) (c : Context) (e : Ember) : State :=
  let w := (e.regs[1]?).getD 0
  let lo := tagIter e.strand.tag
  let (parts, hi) := splitParts (w.bits 47 32 + 1) 17 lo (w.bits 16 0)
  match splitSpaces s c.id e.poolQuad (parts.length - 1) [] with
  | none =>
    let r : FaultRec :=
      { code := .emberOverflow, kind := 1, slotNo := none, detail := 0, tag := e.strand.tag, block := e.block,
        addr := s.poolAddr e, handle := 0, unitNo := 0, unit := 7, elem := e.elem,
        qindex := ((s.quad? q).map c.indexOf).getD 0, ldie := tagLdie e.strand.tag, data := 0, ember := some e.id,
        sid := none, cmd := none, lsid := none }
    let s1 := (s.modEmber e.id fun x => { x with wait := .fault }).modCtx c.id fun c => { c with overflow := c.overflow + 1 }
    s1.queueFault c.id r
  | some more =>
    let spaces := (e.pool, e.addr, e.size) :: more
    let ids := List.range' s.nextId parts.length
    let ps := (List.zip ids (List.zip parts spaces)).map fun (n, (p, sp)) => partEmber e n p.1 p.2 sp
    let me := s.nextId + parts.length
    let first := firstStrand e me lo hi parts.isEmpty
    let s1 := { s.crossNow c.id e.poolQuad q with nextId := me + 1, embers := s.embers.filter (·.id ≠ e.id) }
    let s2 := ps.foldl (fun s p => s.deposit p) s1
    let s3 := (s2.countItem c.id (tagSpace e.strand.tag) parts.length).count q 0x0E (if parts.isEmpty then 0 else 1)
    { s3 with embers := s3.embers ++ [first] }.relight q c first

/-- Every element of the quad idle: an element without ready work (R55, R297). -/
def State.idleElement (s : State) (q : QuadId) : Bool :=
  (List.range 4).any fun k => (s.resident q k).all fun i => i.readySlots.isEmpty

/-- Pending ranges of a quad's pool, oldest deposit first. -/
def State.ranges (s : State) (q : QuadId) : List Ember :=
  s.embers.filter fun e => e.reason = 0x8A ∧ e.wait = .range ∧ e.quad = q

/-- The ranges a quad's lamplighter may take, in its order: its own pool's, then those of the other quads of its die,
lowest number first (R297). -/
def State.rangesFor (s : State) (q : Quad) : List Ember :=
  let others := (s.quads.filter fun x => x.cx = q.cx ∧ x.id.die = q.id.die ∧ x.id ≠ q.id).map (·.id)
  s.ranges q.id ++ (sortBy (fun (a b : QuadId) => a.idx ≤ b.idx) others).flatMap s.ranges

/-- The range the lamplighter of a quad takes: the first, or while it replays a log the one logged next (R297, R359). -/
def State.rangeFor (s : State) (q : Quad) (c : Context) : Option Ember := (s.rangesFor q).find? (c.logAdmits q.id)

/-- A record that fails its CHECK is discarded: TOKEN_PARITY, and the context is frozen (R52, R374, R375). -/
def State.recordLost (s : State) (q : QuadId) (e : Ember) : State :=
  { s with embers := s.embers.filter (·.id ≠ e.id) }.parityFail e.strand.cx q 5 0 0 (s.poolAddr e)

/-- LAMPLIGHTER_RELIGHT (R296): the head of the ready list, or the next logged one, once a reservation due to it has been
given (R302). Its requests to memory do not pass packets that left its die before them (R17). -/
def execEvLamplighterRelight (die idx : Nat) (s : State) : Out :=
  match s.quad? ⟨die, idx⟩ with
  | none => notEnabled "LAMPLIGHTER_RELIGHT"
  | some q =>
    match s.ctx? q.cx with
    | none => notEnabled "LAMPLIGHTER_RELIGHT"
    | some c =>
      let cands := if (c.toReplay q.id).isEmpty then q.ready.take 1 else q.ready
      match (cands.filterMap s.ember?).find? (c.logAdmits q.id) with
      | none => notEnabled "LAMPLIGHTER_RELIGHT"
      | some e =>
        if !s.quadRuns q || e.strand.due.isSome then notEnabled "LAMPLIGHTER_RELIGHT"
        else
          let s1 := (s.readRecord e).1.modQuad q.id fun x => { x with ready := x.ready.erase e.id }
          if !s.recordGood e then .next (s1.recordLost q.id e).tick
          else if e.isRangeSeed then s.inOrder "LAMPLIGHTER_RELIGHT" (.next (s1.takeRange q.id c e).tick)
          else s.inOrder "LAMPLIGHTER_RELIGHT" (.next (s1.relight q.id c e).tick)

/-- RANGE_SPLIT (R55, R297): the ready list is empty and an element has no ready work. While a log is replayed, ready embers
held for their turn keep back no range that is logged before them (R359). -/
def execEvRangeSplit (die idx : Nat) (s : State) : Out :=
  match s.quad? ⟨die, idx⟩ with
  | none => notEnabled "RANGE_SPLIT"
  | some q =>
    match s.ctx? q.cx, (s.ctx? q.cx).bind (s.rangeFor q) with
    | some c, some e =>
      if (!q.ready.isEmpty && (c.toReplay q.id).isEmpty) || !s.idleElement q.id || !s.quadRuns q then notEnabled "RANGE_SPLIT"
      else if !s.recordGood e then .next ((s.readRecord e).1.recordLost q.id e).tick
      else s.inOrder "RANGE_SPLIT" (.next ((s.readRecord e).1.takeRange q.id c e).tick)
    | _, _ => notEnabled "RANGE_SPLIT"

/-- FRAME_WAIT_GRANT (R296): a freed frame goes to the head of the quad's frame-wait list, its CHECK verified (R52). -/
def execEvFrameWaitGrant (die idx : Nat) (s : State) : Out :=
  match s.quad? ⟨die, idx⟩ with
  | none => notEnabled "FRAME_WAIT_GRANT"
  | some q =>
    match q.frameWait.head?.bind s.ember?, s.ctx? q.cx with
    | some e, some c =>
      if !s.frameFree q.id || !s.quadRuns q then notEnabled "FRAME_WAIT_GRANT"
      else
        let el := ((c.placeOf? (tagLdie e.strand.tag) e.cont e.strand.tag).map (·.2)).getD e.elem
        let s1 := (s.readRecord e).1.modQuad q.id fun x => { x with frameWait := x.frameWait.tail }
        if !s.recordGood e then .next (s1.recordLost q.id e).tick
        else s.inOrder "FRAME_WAIT_GRANT" (.next (s1.writeFrame e.quad e q.id el).tick)
    | _, _ => notEnabled "FRAME_WAIT_GRANT"

/-- EMBER_READY (R294, R295): an ember whose cause has cleared enters its quad's ready list, in order of clearing; a reservation
due to its strand is given first (R302). -/
def execEvEmberReady (n : Nat) (s : State) : Out :=
  match s.ember? n with
  | none => notEnabled "EMBER_READY"
  | some e =>
    match s.quad? e.quad with
    | none => notEnabled "EMBER_READY"
    | some q =>
      if q.cleared.head? != some n || q.readyFull || e.wait != .nothing || e.strand.due.isSome then notEnabled "EMBER_READY"
      else .next (s.modQuad q.id fun x => { x with cleared := x.cleared.tail, ready := x.ready ++ [n] }).tick

/-! ### Frames that move (R43, R378) -/

/-- The first quad of a message's route that has saved its state, with the channel the message reaches it on: a mesh
link, or a circuit's path into the region (R378). Link contents put back by a restore stand on their channel still. -/
def State.recorder (s : State) (m : Msg) : Option (QuadId × Nat) :=
  let saved := fun (q : QuadId) => ((s.quad? q).map fun x => x.snuff == .saved).getD false
  match m.via.filter fun v => saved v.1 with
  | some v => some v
  | none =>
    match m.src, m.dst, m.body with
    | .quad a, .quad b, .token circ _ _ _ =>
      if ((s.quad? a).map (·.ldie)) = ((s.quad? b).map (·.ldie)) ∧ a.die = b.die then
        (if a = b then (if saved b then some (b, 4 + circ) else none) else (meshRoute a b).find? fun p => saved p.1)
      else if saved b then some (b, 4 + circ) else none
    | .quad a, .quad b, _ => (meshRoute a b).find? fun p => saved p.1
    | _, _, _ => none

/-- A message recorded as link contents, at the clock of its arrival: it has crossed the links up to that quad. -/
def State.recordLink (s : State) (m : Msg) (q : QuadId) (ch : Nat) : State :=
  let ends := s.linkEnds m.src m.dst
  let upto := if m.via = some (q, ch) then [] else if ch < 4 then ends.takeWhile (· ≠ ⟨q, ch⟩) ++ [⟨q, ch⟩] else ends
  (s.landOver m upto).modQuad q fun x => { x with link := x.link ++ [(ch, { m with at' := s.clk })] }

/-- FRAME_MOVE_ARRIVAL (R43): the branch takes effect, or the strand becomes an ember with reason 0x88. A relight's frame has
its place (R296). DESIGN CHOICE (notes/assumptions 81): an ember for which both pools are full stays in the frame area of the
full quad, beyond its capacity, and holds the context as EMBER_OVERFLOW (R39). -/
def execEvFrameMoveArrival (n : Nat) (s : State) : Out :=
  match s.msg? n with
  | none => notEnabled "FRAME_MOVE_ARRIVAL"
  | some m =>
    match m.body with
    | .frame f held =>
      match s.quad? f.quad with
      | none => notEnabled "FRAME_MOVE_ARRIVAL"
      | some q =>
        if !s.arrived m then notEnabled "FRAME_MOVE_ARRIVAL"
        else if let some (r, ch) := s.recorder m then .next (s.recordLink m r ch).tick
        else
          let s1 := s.land n
          if held || (s.frameFree q.id && q.frameWait.isEmpty) then
            let s2 := s1.frameBanks q.id
            .next { s2 with nextId := s1.nextId + 1, frames := s1.frames ++ [{ f with order := s1.nextId }] }.tick
          else
            let s2 := (s1.traceRec q.cx q.id f.elem 5 0x88 0 0 f.strand.tag f.block 0).countReplay q.id 0x88
            let (e, placed, s3) := s2.fullEmber (f.strand.refuse 0x88 .nothing) q.id f.elem f.block f.regs 0x88 (.frameOf q.id)
            if placed then .next (s3.modQuad q.id fun x => { x with frameWait := x.frameWait ++ [e] }).tick
            else .next (s3.overflowed e).tick
    | _ => notEnabled "FRAME_MOVE_ARRIVAL"

/-! ### Reservations (R302-R304) -/

/-- Entries reserved or asked for by a strand return. -/
def State.endEntries (s : State) (sid : Nat) : State :=
  let freed := (s.quads.filter fun q => q.entries.contains (.reserved sid)).map (·.id)
  let strip := fun (q : Quad) =>
    { q with entries := q.entries.filter (· ≠ .reserved sid), entryReqs := q.entryReqs.filter (·.1 ≠ sid) }
  freed.foldl State.entryFreed { s with quads := s.quads.map strip }

/-- What a replaced reservation held goes back (R304). -/
def State.dropResv (s : State) (st : Strand) : State :=
  match st.resv with
  | some (.entries _) => s.endEntries st.sid
  | some (.pool _ _ _) => s.leaveQueues st.cx st.sid
  | some (.iter _ _ _) => s.leaveQueues st.cx st.sid
  | _ => s

/-- The requests of a reservation of entries, vault by vault in ascending die and index (R303). -/
def State.askEntries (s : State) (sid : Nat) (want : List (QuadId × Nat × Nat)) : State :=
  (sortBy (fun (a b : QuadId × Nat × Nat) => a.1.die < b.1.die || (a.1.die == b.1.die && a.1.idx ≤ b.1.idx)) want).foldl
    (fun s w => s.modQuad w.1 fun q => ({ q with entryReqs := q.entryReqs ++ [(sid, w.2.1)] } : Quad).grantEntries 130) s

/-- A reservation given to a strand; a number or iteration that is free goes to the queue it has entered (R303). -/
def State.giveResv (s : State) (e : Ember) (r : Resv) : State :=
  let cx := e.strand.cx
  let s1 := ((s.dropResv e.strand).modEmber e.id fun x => { x with strand := { x.strand with resv := some r, due := none } }).count
    e.quad 0x15 1
  match r with
  | .pool d _ _ => (s1.modCtx cx fun c => { c with poolQueue := c.poolQueue ++ [(d, e.strand.sid)] }).wakePool cx d
  | .iter n _ _ => (s1.modCtx cx fun c => { c with iterQueue := c.iterQueue ++ [(n, e.strand.sid)] }).wakeIter cx n
  | .entries want => s1.askEntries e.strand.sid want
  | .lines _ _ _ _ => s1

/-- REFUSAL_COUNT_LIMIT (R302): the 64th counted abandonment, or a later one. -/
def execEvRefusalCountLimit (n : Nat) (s : State) : Out :=
  match s.ember? n with
  | none => notEnabled "REFUSAL_COUNT_LIMIT"
  | some e =>
    match e.strand.due with
    | none => notEnabled "REFUSAL_COUNT_LIMIT"
    | some r => .next (s.giveResv e r).tick

/-- The held lines of a strand released at their deadline. -/
def Strand.expire (st : Strand) (sid clk : Nat) : Strand :=
  match st.resv with
  | some (.lines _ _ _ (some t)) => if st.sid = sid ∧ t ≤ clk then { st with resv := none } else st
  | _ => st

/-- RESERVATION_TIMEOUT (R303): 16,384 cycles after the relight; `n` is the strand. -/
def execEvReservationTimeout (n : Nat) (s : State) : Out :=
  if s.strands.any fun st => st.expire n s.clk != st then .next (s.mapStrands fun st => st.expire n s.clk).tick
  else notEnabled "RESERVATION_TIMEOUT"

end Sys2Proof.Machine
end

