-- ==== Sys2Proof/Machine/Sync.lean ====
section
/-!
DEFINITION. Circuit tokens and credits, borders, the space table's requests, WAIT and barriers (R47, R194, R219-R222,
R230, R266, R278-R284, R306, R321, R322).
-/

namespace Sys2Proof.Machine

/-! ### Circuit tokens (R219-R222, R321) -/

/-- The source quad of a circuit. -/
def Context.circuitSource (c : Context) (circ : Nat) : Option QuadId :=
  (c.circuits[circ]?).bind fun k => (c.region? k.srcLdie).map fun r => r.quadAt k.srcX k.srcY

/-- A token consumed, dropped or discarded at a quad: its credit starts back (R220). -/
def State.returnCredit (s : State) (c : Context) (q : QuadId) (circ : Nat) : State :=
  s.send c.id (.quad q) (.quad ((c.circuitSource circ).getD q)) 1 (.credit c.id circ)

/-- CREDIT_RETURN (R220). -/
def execEvCreditReturn (n : Nat) (s : State) : Out :=
  match s.msg? n with
  | none => notEnabled "CREDIT_RETURN"
  | some m =>
    match m.body with
    | .credit cx circ =>
      if !s.arrived m then notEnabled "CREDIT_RETURN"
      else .next ((s.land n).modCtx cx fun c => { c with credits := modAt circ (· + 1) c.credits }).tick
    | _ => notEnabled "CREDIT_RETURN"

/-- A circuit leaves its region. -/
def Context.crosses (c : Context) (circ : Nat) : Bool :=
  match c.circuits[circ]? with
  | some k => k.srcLdie != k.dstLdie
  | none => true

/-- BORDER_CROSSING (R321, R322): a token on a circuit of its context passes; any other is refused and a violation. -/
def execEvBorderCrossing (n : Nat) (s : State) : Out :=
  match s.msg? n with
  | none => notEnabled "BORDER_CROSSING"
  | some m =>
    match m.body with
    | .token circ tag v false =>
      match s.ctx? m.cx with
      | none => notEnabled "BORDER_CROSSING"
      | some c =>
        if !s.arrived m || !c.crosses circ then notEnabled "BORDER_CROSSING"
        else
          let home := match m.dst with | .quad q => ((s.quad? q).map fun x => decide (x.cx = c.id)).getD false | _ => false
          let toDie := ((c.circuits[circ]?).map (·.dstLdie)) == some (tagLdie tag)
          if (c.circuits[circ]?).isSome && tagCtx tag == c.id.num && toDie && home then
            let pass := fun (x : Msg) => { x with body := MsgBody.token circ tag v true }
            .next ({ s with msgs := modWhere (fun x => x.id = n) pass s.msgs }.tick)
          else .next ((s.land n).breach c.id 0 0 v.toNat).tick
    | _ => notEnabled "BORDER_CROSSING"

/-- A tag's space is not allocated, closed, or of another generation (R47). -/
def State.stale (s : State) (cx : CtxId) (tag : Nat) : Bool :=
  match s.space? cx (tagSpace tag) with
  | some p => !p.allocated || p.closed || p.gen != tagGen tag
  | none => true

/-- A stale token discarded: TAGSPACE_INVALID in the receiving context, the credit returned (R47). -/
def State.discardToken (s : State) (c : Context) (q : Quad) (elem block circ tag : Nat) (v : Word) : State :=
  (s.returnCredit c q.id circ).queueFault c.id
    { code := .tagspaceInvalid, kind := 2, slotNo := none, detail := 0, tag := tag, block := block, addr := 0, handle := 0,
      unitNo := 0, unit := 0, elem := elem, qindex := c.indexOf q, ldie := q.ldie, data := v, ember := none, sid := none, cmd := none, lsid := none }

/-- The earliest-registered pending TOKS of a quad on a circuit (R260). -/
def State.toksFor (s : State) (q : Quad) (circ : Nat) : Option Pending :=
  q.entries.findSome? fun e => match e with
    | .pending n _ _ _ => (s.cmd? n).filter fun p =>
        p.cmd.op = 0x173 && p.cmd.quad = q.id && p.cmd.low % 1024 = circ && p.phase != .done
    | _ => none

/-- A circuit token takes an entry of the matching store for its FIFO; in a full set it spills (R21, R222). -/
def State.enterFifo (s : State) (t : FifoTok) : State :=
  let set := setOf t.tag t.block t.slot
  if 8 ≤ s.setUsed t.quad set then { s.spillAt t.quad set with fifo := s.fifo ++ [{ t with spilled := true }] }
  else { s with fifo := s.fifo ++ [t] }

/-- CIRCUIT_TOKEN_ARRIVAL (R222): into its FIFO, discarded as stale, or recorded by a saved quad (R378). The last token a
waiting frame's block needs makes its start request (R290). -/
def execEvCircuitTokenArrival (n : Nat) (s : State) : Out :=
  match s.msg? n with
  | none => notEnabled "CIRCUIT_TOKEN_ARRIVAL"
  | some m =>
    match m.body, m.dst, s.ctx? m.cx with
    | .token circ tag v border, .quad qi, some c =>
      match s.quad? qi, c.circuits[circ]? with
      | some q, some k =>
        if !s.arrived m || (c.crosses circ && !border) then notEnabled "CIRCUIT_TOKEN_ARRIVAL"
        else if let some (r, ch) := s.recorder m then .next (s.recordLink m r ch).tick
        else if (s.toksFor q circ).isSome then notEnabled "CIRCUIT_TOKEN_ARRIVAL"
        else
          let block := c.codeBase + k.block
          let elem := ((c.placeOf? k.dstLdie block tag).map (·.2)).getD 0
          let s1 := s.land n
          if s.stale c.id tag then .next (s1.discardToken c q elem block circ tag v).tick
          else
            let t : FifoTok :=
              { cx := c.id, quad := qi, elem := elem, block := block, slot := k.slot, tag := tag, circ := circ, val := v,
                spilled := false }
            let s2 := { s1 with nextId := s1.nextId + 1 }.enterFifo t
            let last := fun (f : Frame) => f.quad = qi ∧ f.elem = elem ∧ f.block = block ∧ f.strand.tag = tag ∧
              s1.inletsFull q f = false ∧ s2.inletsFull q f = true
            .next ({ s2 with frames := modWhere (fun f => last f) (fun f => { f with order := s1.nextId }) s2.frames }.tick)
      | _, _ => notEnabled "CIRCUIT_TOKEN_ARRIVAL"
    | _, _, _ => notEnabled "CIRCUIT_TOKEN_ARRIVAL"

/-! ### The space table (R266, R278) -/

/-- A request held where it has arrived, until what it waits for happens: it leaves its channel. -/
def State.holdMsg (s : State) (n : Nat) : State :=
  { s with msgs := modWhere (fun x => x.id = n) (fun x => { x with cls := 20, refused := true }) s.msgs }

/-- SPACE_TABLE_ITEM (R266): an item counted, and the token it stands for sent; or refused, its circuit credit returned
(R220). -/
def execEvSpaceTableItem (n : Nat) (s : State) : Out :=
  match s.msg? n with
  | none => notEnabled "SPACE_TABLE_ITEM"
  | some m =>
    match m.body with
    | .tableItem cx space gen d send =>
      if !s.arrived m then notEnabled "SPACE_TABLE_ITEM"
      else
        let s1 := s.land n
        let open' := ((s.space? cx space).map fun p => p.allocated && !p.closed && p.gen == gen).getD false
        if !open' then
          .next (match send with
            | some (circ, _, _, _) => s1.modCtx cx fun c => { c with credits := modAt circ (· + 1) c.credits }
            | none => s1).tick
        else
          let s2 := s1.countItem cx space d
          match send, s.ctx? cx with
          | some (circ, tag, _, v), some c =>
            match c.circuitSource circ with
            | some q => .next (s2.sendToken c q circ tag v).tick
            | none => .next s2.tick
          | _, _ => .next s2.tick
    | _ => notEnabled "SPACE_TABLE_ITEM"

/-- JOIN_REQUEST (R278): answered at once, held, or TAGSPACE_INVALID against the ember. -/
def execEvJoinRequest (n : Nat) (s : State) : Out :=
  match s.msg? n with
  | none => notEnabled "JOIN_REQUEST"
  | some m =>
    match m.body with
    | .join en tag =>
      match s.ember? en with
      | none => notEnabled "JOIN_REQUEST"
      | some e =>
        let freed := ((s.space? e.strand.cx (tagSpace tag)).map fun p => !p.allocated || p.gen != tagGen tag).getD true
        if !s.arrived m then notEnabled "JOIN_REQUEST"
        else if freed then .next ((s.land n).emberFault e .tagspaceInvalid 0 e.block 0).tick
        else if s.joinDone e tag then .next ((s.land n).send m.cx .k m.src 1 (.reply en 0 none)).tick
        else .next (s.holdMsg n).tick
    | _ => notEnabled "JOIN_REQUEST"

/-- LIVE_COUNT_ZERO (R278): the JOIN embers of the space are relit. -/
def execEvLiveCountZero (vf ctx space : Nat) (s : State) : Out :=
  if (s.joinsReady ⟨vf, ctx⟩ space).isEmpty then notEnabled "LIVE_COUNT_ZERO"
  else .next (s.relitJoins ⟨vf, ctx⟩ space).tick

/-! ### WAIT (R230, R279) -/

/-- A command of a handle is pending that was issued before a WAIT's commit, which its ember `en` names (R230, R262). -/
def State.handlePending (s : State) (cx : CtxId) (q : QuadId) (h en : Nat) : Bool :=
  s.cmds.any fun p => p.cmd.cx = cx && p.cmd.quad = q && sameHandle h p.cmd.tag p.cmd.lsid && p.issued < en

/-- The retained report of a handle at its home vault. -/
def Quad.report? (q : Quad) (h : Nat) : Option Word :=
  q.entries.findSome? fun e => match e with
    | .report t l r _ => if sameHandle h t l then some r else none
    | _ => none

/-- The retained report of a handle released. -/
def State.dropReport (s : State) (q : QuadId) (h : Nat) : State :=
  let keep := fun (e : Entry) => match e with | .report t l _ _ => !sameHandle h t l | _ => true
  (s.modQuad q fun x => { x with entries := x.entries.filter keep }).entryFreed q

/-- WAIT_REQUEST (R230, R279): held while the handle is pending; else the retained report, which it takes, or zeros. -/
def execEvWaitRequest (n : Nat) (s : State) : Out :=
  match s.msg? n with
  | none => notEnabled "WAIT_REQUEST"
  | some m =>
    match m.body, m.dst with
    | .wait en h, .quad qi =>
      match s.quad? qi with
      | none => notEnabled "WAIT_REQUEST"
      | some q =>
        if !s.arrived m then notEnabled "WAIT_REQUEST"
        else if s.handlePending q.cx qi h en then .next (s.holdMsg n).tick
        else
          match q.report? h with
          | some r => .next (((s.land n).dropReport qi h).send m.cx m.dst m.src 1 (.reply en r none)).tick
          | none => .next ((s.land n).send m.cx m.dst m.src 1 (.reply en 0 none)).tick
    | _, _ => notEnabled "WAIT_REQUEST"

/-! ### Barriers (R280-R284) -/

/-- One barrier: contexts joined by a pod key share it (R280, R393). -/
def sameSite : BarrierAt → BarrierAt → Bool
  | .pod v k _, .pod w l _ => v == w && k == l
  | a, b => a == b

def State.barrier? (s : State) (site : BarrierAt) (n : Nat) : Option Barrier :=
  s.barriers.find? fun b => sameSite b.site site && b.num == n

def State.modBarrier (s : State) (site : BarrierAt) (n : Nat) (f : Barrier → Barrier) : State :=
  { s with barriers := modWhere (fun b => sameSite b.site site && b.num == n) f s.barriers }

/-- An arrival numbered into the barrier (R280). -/
def State.arrive (s : State) (site : BarrierAt) (n : Nat) (a : Arrival) : State :=
  s.modBarrier site n fun b => { b with arrivals := b.arrivals ++ [a] }

/-- The other packages of the pod learn of an arrival at a .pod barrier (R280, R393). -/
def State.tellPod (s : State) (cx : CtxId) (site : BarrierAt) (n : Nat) (a : Arrival) : State :=
  match site with
  | .pod _ _ _ =>
    ((List.range s.podSize).filter (· ≠ s.pkgNo)).foldl
      (fun s p => s.send cx .k (.pod p) 2 (.arrive site n { a with ember := none, sid := none }) [.ether (podPort p)]) s
  | _ => s

/-- A BARSYNC's arrival waits for its strand's earlier events at the barrier's scope (R283). -/
def State.syncHeld (s : State) (site : BarrierAt) (n : Nat) (a : Arrival) : Bool :=
  match a.ember.bind s.ember?, s.barrier? site n with
  | some e, some b => scopeWaits b.scope && s.unacked e.strand.sid
  | _, _ => false

/-- BARRIER_ARRIVAL (R280). -/
def execEvBarrierArrival (n : Nat) (s : State) : Out :=
  match s.msg? n with
  | none => notEnabled "BARRIER_ARRIVAL"
  | some m =>
    match m.body, m.dst with
    | .arrive _ _ _, .pod _ => notEnabled "BARRIER_ARRIVAL"
    | .arrive site bar a, _ =>
      if !s.arrived m || s.syncHeld site bar a || (s.barrier? site bar).isNone then notEnabled "BARRIER_ARRIVAL"
      else
        let s1 := s.land n
        let s2 := match a.sid with | some sid => s1.issueHeld sid | none => s1
        .next ((s2.arrive site bar a).tellPod m.cx site bar a).tick
    | _, _ => notEnabled "BARRIER_ARRIVAL"

/-- The report of a phase (R281). -/
def barrierReport (b : Barrier) : Nat :=
  let arr := b.arrivals.take b.count
  b.phase % 65536 * 2 ^ 32 + arr.countP (·.engine) % 65536 * 65536 + arr.countP (·.err) % 65536

/-- The node a barrier's completions come from. -/
def State.barrierNode (s : State) : BarrierAt → Node
  | .quad q => .quad q
  | .region cx ldie => ((s.ctx? cx).map fun c => siteNode c ldie (.region cx ldie)).getD .k
  | _ => .k

/-- An ember lies in a saved image of a context that is not back on the part. -/
def State.savedEmber (s : State) (en : Nat) : Bool :=
  (s.ember? en).isNone && s.saved.any fun v => v.embers.any (·.id = en)

/-- A completion for an ember: sent, or held by K while the ember's context is cut or saved (R284, R380). -/
def State.deliverPhase (s : State) (b : Barrier) (r : Word) (en : Nat) : State :=
  let keep := s.modBarrier b.site b.num fun x => { x with keptDone := x.keptDone ++ [(en, r)] }
  match s.ember? en with
  | none => if s.savedEmber en && s.barrierNode b.site = .k then keep else s
  | some e =>
    let cut := ((s.ctx? e.strand.cx).map fun c => match c.run with
      | .cutting _ _ => true
      | .saved => true
      | _ => false).getD false
    if cut && s.barrierNode b.site = .k then keep
    else s.send e.strand.cx (s.barrierNode b.site) (.quad e.quad) 2 (.reply en r none)

/-- BARRIER_PHASE_COMPLETE (R280, R281, R283, R306): barrier `n` of the list has C arrivals of its open phase; its embers are
answered in the order they were deposited in, so that those of one quad are relit in issue order (R54). -/
def execEvBarrierPhaseComplete (n : Nat) (s : State) : Out :=
  match s.barriers[n]? with
  | none => notEnabled "BARRIER_PHASE_COMPLETE"
  | some b =>
    if b.arrivals.length < b.count || b.count = 0 then notEnabled "BARRIER_PHASE_COMPLETE"
    else
      let who := sortBy (fun (x y : Nat) => x ≤ y) ((b.arrivals.take b.count).filterMap (·.ember) ++ b.waiters)
      let s1 := s.modBarrier b.site b.num fun x =>
        { x with phase := x.phase + 1, arrivals := x.arrivals.drop x.count, waiters := [] }
      .next (who.foldl (fun s en => s.deliverPhase b (toWord (barrierReport b)) en) s1).tick

/-- BARWAIT_REQUEST (R283): an arrival that completes the phase is ordered before it (R284). -/
def execEvBarwaitRequest (n : Nat) (s : State) : Out :=
  match s.msg? n with
  | none => notEnabled "BARWAIT_REQUEST"
  | some m =>
    match m.body with
    | .barwait site bar en =>
      match s.barrier? site bar with
      | none => notEnabled "BARWAIT_REQUEST"
      | some b =>
        if !s.arrived m || (b.count ≤ b.arrivals.length && b.count != 0) then notEnabled "BARWAIT_REQUEST"
        else .next ((s.land n).modBarrier site bar fun x => { x with waiters := x.waiters ++ [en] }).tick
    | _ => notEnabled "BARWAIT_REQUEST"

/-- The arrival an engine or K makes for a command with BEN = 1 (R232, R280, R361); K is no engine member, so ENGARR
does not count its arrivals (R281). -/
def State.engineArrive (s : State) (c : Context) (ldie : Nat) (q : QuadId) (src : Node) (bar : Nat) (err : Bool) : State :=
  match (c.decl? ldie).bind fun d => d.barriers.find? (·.num = bar) with
  | none => s
  | some d =>
    let site := c.barrierSite ldie q d.scope
    s.send c.id src (siteNode c ldie site) 2 (.arrive site bar ⟨src != .k, err, none, none⟩)

end Sys2Proof.Machine
end

