-- ==== Sys2Proof/Machine/Engines.lean ====
section
/-!
DEFINITION. What every engine does: when it may access a vault (R190, R192), its accesses and their faults (R187,
R240, R322, R373), element values and conversions (R102, R238), conditions (R167, R231), the release of its footprint
and its completion (R186, R188, R230-R232).
-/

namespace Sys2Proof.Machine

/-! ### Conditions (R167, R231) -/

/-- COND bits of flags: NV, OF, UF, NX at 16 to 19, a signalling NaN operand at 20, DZ at 21. -/
def condOf (flags : Nat) (snan : Bool) : Nat :=
  (if bitOf flags 0 then 2 ^ 16 else 0) + (if bitOf flags 2 then 2 ^ 17 else 0) + (if bitOf flags 3 then 2 ^ 18 else 0) +
  (if bitOf flags 4 then 2 ^ 19 else 0) + (if snan then 2 ^ 20 else 0) + (if bitOf flags 1 then 2 ^ 21 else 0)

/-- An element is a signalling NaN. -/
def isSnan (t v : Nat) : Bool := 8 ≤ t && t ≤ 0xE && (floatValue t v).snan

/-- An element of type `st` as type `dt`: copied when the types are equal, else rounded (R238). -/
def convElem (st dt rnd : Nat) (sat : Bool) (u v : Nat) : Nat × Nat :=
  if st = dt then (v, 0)
  else if isIntType st then
    let z := intValue st v
    if isIntType dt then
      (lowBits (intBits dt) (if sat then satInt (intBits dt) (isSignedType dt) z else z), 0)
    else
      let r := roundFloat dt rnd u sat (intEx z)
      (r.1, condOf r.2 false)
  else
    let x := floatValue st v
    if isIntType dt then
      let r := roundInt (intBits dt) (isSignedType dt) rnd u x.ex
      (lowBits (intBits dt) r.1, condOf (r.2 ||| nvIf x.snan) x.snan)
    else
      let r := roundFloat dt rnd u sat x.ex
      (r.1, condOf (r.2 ||| nvIf x.snan) x.snan)

/-! ### When an engine may go on (R190, R192, R323, R353, R380) -/

/-- The command's context runs, and the marker has not stopped its engine. -/
def State.engineRuns (s : State) (p : Pending) : Bool :=
  !p.cutOff && ((s.ctx? p.cmd.cx).map fun c => match c.run with
    | .running => true
    | .cutting _ _ => true
    | _ => false).getD false

/-- An earlier footprint or waiting far access at a vault conflicts with a command's. -/
def Quad.engineBlocked (q : Quad) (cmd : Nat) : Bool :=
  match q.entries.findSome? fun e => match e with
    | .pending n k rd wr => if n = cmd then some (k, rd, wr) else none
    | _ => none with
  | none => false
  | some (k, rd, wr) =>
    (q.entries.any fun e => match e with
      | .pending _ j r w => j < k && (w.meets rd || w.meets wr || wr.meets r)
      | _ => false) ||
    q.waitFar.any fun w => w.seq < k && (wr.hits w.off w.a.n || (w.a.write && rd.hits w.off w.a.n))

/-- A vault is clear for a command's access there; what stands at one vault holds no access to another, or to HBM (R190,
R193). -/
def State.clearAt (s : State) (cmd : Nat) (home : Node) : Bool :=
  match home with
  | .quad q => ((s.quad? q).map fun x => !x.engineBlocked cmd).getD true
  | _ => true

/-- The home vault is clear for a command of the quad's own engines. -/
def State.unblocked (s : State) (p : Pending) : Bool := s.clearAt p.cmd.id (.quad p.cmd.quad)

/-- An earlier command of the quad's ME, VSU or window unit is pending: they perform in order of registration at the
home vault (R232). -/
def State.firstOfUnit (s : State) (p : Pending) : Bool :=
  match s.quad? p.cmd.quad with
  | none => false
  | some q =>
    let ids := q.entries.filterMap fun e => match e with | .pending n _ _ _ => some n | _ => none
    let mine := ids.filter fun n => ((s.cmd? n).map fun x =>
      unitOf x.cmd.op == unitOf p.cmd.op && x.cmd.quad == p.cmd.quad && x.phase != .done).getD false
    mine.head? == some p.cmd.id

/-! ### Where an engine stands, and its requests (R24, R187, R293) -/

/-- The engine of a running command. -/
def Pending.engine? (p : Pending) : Option Nat :=
  match p.phase with
  | .running n => some n
  | _ => none

/-- The node a command's engine sends from. -/
def State.engineNode (s : State) (p : Pending) : Node :=
  if p.cmd.op ≤ 0x164 then .eng (s.cmdDie p.cmd) (p.engine?.getD 0)
  else if p.cmd.op = 0x16E then .eng (p.cmd.eng / 2) (8 + p.cmd.eng % 2)
  else if p.cmd.op = 0x16F then .eng (s.cmdDie p.cmd) 10
  else .quad p.cmd.quad

/-- Who translates for it (R331). -/
def State.engineUnit (s : State) (p : Pending) : XUnit :=
  if p.cmd.op ≤ 0x164 then .stream (s.cmdDie p.cmd) (p.engine?.getD 0)
  else
    match s.engineNode p with
    | .eng m _ => .die (8 + m)
    | _ => .quad p.cmd.quad

/-- The points a line's request passes from an engine to the line's home: Rosord boundaries, and the request port of a
stack cache. -/
def State.lineHops (s : State) (src : Node) (pa : Nat) : List Point :=
  linksFrom src.die (dieRoute src.die (s.homeOf pa).die) ++ homePoint (s.homeOf pa)

/-- The gate every engine access passes: the homes' conflicts are over, and its line requests, sent first, have been
granted at every point of their way, behind the packets sent before them (R17, R187, R190, R293); a read's lines go back as
packets. `lines` are physical addresses of this package. -/
def State.lineGate (name : String) (s : State) (p : Pending) (read : Bool) (lines : List Nat) (k : State → Out) : Out :=
  let mine := s.msgs.filter fun m => m.body = .lineOf p.cmd.id
  let away := (lines.map (· / 64 * 64)).eraseDups.filter fun pa => !(s.lineHops (s.engineNode p) pa).isEmpty
  if !(lines.all fun pa => s.clearAt p.cmd.id (s.homeOf pa)) then notEnabled name
  else if mine.isEmpty && !away.isEmpty then
    .next (away.foldl (fun s pa =>
      s.send p.cmd.cx (s.engineNode p) (s.homeOf pa) 0 (.lineOf p.cmd.id) (homePoint (s.homeOf pa))) s).tick
  else if mine.all fun m => m.hops.isEmpty && !s.packetAhead m then
    k (mine.foldl (fun s m =>
      if read && m.dst.die != m.src.die then (s.land m.id).send m.cx m.dst m.src 1 .lineBack else s.land m.id) s)
  else notEnabled name

/-! ### Accesses (R187, R240, R322) -/

/-- A range cut at 64-byte lines: address, length, bytes before it. -/
def linePieces (va n : Nat) : List (Nat × Nat × Nat) :=
  if n = 0 then []
  else if va % 64 + n ≤ 64 then [(va, n, 0)]
  else [(va, 64 - va % 64, 0), (va + (64 - va % 64), n - (64 - va % 64), 64 - va % 64)]

/-- The lines of this package that reads of pieces touch. -/
def State.linesOf (s : State) (c : Context) (pieces : List (Nat × Nat × Nat)) : List Nat :=
  pieces.filterMap fun (va, n, _) =>
    match translate s c va n .read with
    | (_, .ok pa) => if pa / 2 ^ 46 = s.pkgNo then some (pa / 64 * 64) else none
    | _ => none

/-- The translation of one line's access, with the home's check (R322). Another package checks for itself. -/
def State.engineXlate (s : State) (u : XUnit) (c : Context) (va n : Nat) (k : Kind) : State × Except EngStop Nat :=
  match translateBy s u c va n k with
  | (s', .fault code d) => (s', .error (.fault code d va))
  | (s', .breach pa) => (s', .error (.breach pa))
  | (s', .ok pa) =>
    if pa / 2 ^ 46 ≠ s'.pkgNo then (s', .ok pa)
    else if s'.sealed pa then (s', .error .sealed)
    else if s'.serves (s'.homeOf pa) c.id pa then (s', .ok pa)
    else (s', .error (.breach pa))

/-- An engine's access to bytes of its home: the banks of a vault, with the errors it corrects, or the stack cache (R22,
R25, R372). -/
def State.homeAccess (s : State) (cx : CtxId) (rank o n : Nat) (write : Bool) : State :=
  match s.homeOf (s.pkgNo * 2 ^ 46 + o) with
  | .quad q => (s.scrub o n).bankReq q rank (o % 2 ^ 23) n
  | _ => (s.cacheAccess cx o write).checkLine o

/-- One line's read: the bytes as a number, and whether one is poisoned. A line of another package is asked for by a
packet and answers a free value (notes/assumptions 18). An access through a poisoned page or walk reads poison. -/
def State.readLine (s : State) (u : XUnit) (c : Context) (va n : Nat) : State × Except EngStop (Nat × Bool) :=
  match s.engineXlate u c va n .read with
  | (s', .error (.fault .poison _ _)) => (s', .ok (0, true))
  | (s', .error e) => (s', .error e)
  | (s', .ok pa) =>
    if pa / 2 ^ 46 ≠ s'.pkgNo then
      let r := s'.remoteRead u.node c.id va pa n
      (r.1, .ok (leNat r.2.1, r.2.2))
    else
      let s2 := s'.homeAccess c.id 6 (pa % 2 ^ 46) n false
      (s2, .ok (s2.readNat (pa % 2 ^ 46) n, s2.poisoned (pa % 2 ^ 46) n))

/-- Pieces of one line, `(va, n, k)`, read by one access to it: what each gives and whether it carries poison (R187, R372). A
line of another package answers with free values (notes/assumptions 18); through a poisoned page or walk every piece reads
poison. -/
def State.readSpan (s : State) (u : XUnit) (c : Context) (ps : List (Nat × Nat × Nat)) :
    State × Except EngStop (List (Nat × Nat × Nat × Bool)) :=
  let lo := (ps.map (·.1)).min?.getD 0
  let n := ((ps.map fun x => x.1 + x.2.1).max?.getD 0) - lo
  match s.engineXlate u c lo n .read with
  | (s', .error (.fault .poison _ _)) => (s', .ok (ps.map fun x => (x.1, x.2.1, 0, true)))
  | (s', .error e) => (s', .error e)
  | (s', .ok pa) =>
    if pa / 2 ^ 46 ≠ s'.pkgNo then
      let r := s'.remoteRead u.node c.id lo pa n
      (r.1, .ok (ps.map fun x => (x.1, x.2.1, leNat ((r.2.1.drop (x.1 - lo)).take x.2.1), r.2.2)))
    else
      let o := pa % 2 ^ 46
      let s2 := s'.homeAccess c.id 6 o n false
      (s2, .ok (ps.map fun x => (x.1, x.2.1, s2.readNat (o + (x.1 - lo)) x.2.1, s2.poisoned (o + (x.1 - lo)) x.2.1)))

/-- The pieces an element's read touches. -/
def elemPieces (sh : Shape) (n : Nat) : List (Nat × Nat × Nat) :=
  linePieces (sh.place (positionOf sh.dims n)).1 (if sh.ty = 0xD then 1 else typeBits sh.ty / 8)

/-- What pieces that have been read give together: the bytes as a number, and whether one carries poison; none while one is
missing. -/
def latched (ls : List (Nat × Nat × Nat × Bool)) : List (Nat × Nat × Nat) → Option (Nat × Bool)
  | [] => some (0, false)
  | (va, n, k) :: r =>
    match ls.find? fun l => l.1 = va && l.2.1 = n, latched ls r with
    | some l, some (w, bad) => some (l.2.2.1 * 2 ^ (8 * k) + w, l.2.2.2 || bad)
    | _, _ => none

/-- The pieces of a list not read yet. -/
def Pending.missing (p : Pending) (ps : List (Nat × Nat × Nat)) : List (Nat × Nat × Nat) :=
  ps.filter fun x => !(p.lines.any fun l => l.1 = x.1 && l.2.1 = x.2.1)

/-- An element of a shape, once its pieces have been read: its encoding, and whether it carries poison (R102, R235). -/
def Pending.elem? (p : Pending) (sh : Shape) (n : Nat) : Option (Nat × Bool) :=
  (latched p.lines (elemPieces sh n)).map fun (v, bad) =>
    (if sh.ty = 0xD then (if (sh.place (positionOf sh.dims n)).2 then v / 16 else v % 16) else v, bad)

/-- Why the read of a piece stops, if it does: one through a poisoned page or walk reads poison. -/
def State.pieceStop (s : State) (u : XUnit) (c : Context) (x : Nat × Nat × Nat) : Option EngStop :=
  match s.engineXlate u c x.1 x.2.1 .read with
  | (_, .error (.fault .poison _ _)) => none
  | (_, .error e) => some e
  | _ => none

/-- The pieces that one access to the line of the first serves. -/
def firstLine (ps : List (Nat × Nat × Nat)) : List (Nat × Nat × Nat) :=
  match ps with
  | [] => []
  | x :: _ => (ps.filter fun y => y.1 / 64 = x.1 / 64).eraseDups

/-- One line's access to pieces that an engine wants: what they give is kept with the command until they are used (R187). -/
def State.latchLine (s : State) (name : String) (c : Context) (p : Pending) (ps : List (Nat × Nat × Nat)) (k : Pending → State → State) :
    Out :=
  let mine := firstLine ps
  match mine.head?.map (s.pieceStop (s.engineUnit p) c) with
  | some none =>
    s.lineGate name p true (s.linesOf c (mine.take 1)) fun s =>
      match s.readSpan (s.engineUnit p) c mine with
      | (s1, .ok ls) =>
        let p1 := { p with lines := p.lines ++ ls }
        .next (k p1 (s1.modCmd p.cmd.id fun _ => p1)).tick
      | _ => notEnabled name
  | _ => notEnabled name

/-- The elements of a shape that stand at a position. -/
def Shape.at' (sh : Shape) (pos : Int) : List Nat := (List.range sh.count).filter fun m => positionOf sh.dims m = pos

/-- The write of an FP4 element. The last low nibble of a run writes its whole byte, the high nibble zero (R102; a run is
a longest row of consecutive positions, notes/assumptions 82). The byte's mark is left to a nibble the walk writes later. -/
def nibbleWrite (sh : Shape) (n v : Nat) (poison : Bool) : EngWrite :=
  let pos := positionOf sh.dims n
  let (va, hi) := sh.place pos
  let other := sh.at' (if hi then pos - 1 else pos + 1)
  if !hi && other.isEmpty then ⟨va, 1, v % 16, none, poison, false⟩
  else ⟨va, 1, v % 16, some hi, poison, !(other.any (n < ·))⟩

/-- The writes of an element. -/
def writesOf (sh : Shape) (n v : Nat) (poison : Bool) : List EngWrite :=
  if sh.ty = 0xD then [nibbleWrite sh n v poison]
  else (linePieces (sh.place (positionOf sh.dims n)).1 (typeBits sh.ty / 8)).map fun (a, k, o) =>
    ⟨a, k, v / 2 ^ (8 * o), none, poison, false⟩

/-- The writes of a 64-bit word. -/
def wordWrites (va v : Nat) : List EngWrite :=
  (linePieces va 8).map fun (a, k, o) => ⟨a, k, v / 2 ^ (8 * o), none, false, false⟩

/-- The bytes a write leaves, over what stands there. -/
def EngWrite.bytes (w : EngWrite) (old : Nat) : List Byte :=
  if w.poison then List.replicate w.n 0
  else
    match w.nibble with
    | some true => leBytes 1 (old % 16 + 16 * (w.v % 16))
    | some false => leBytes 1 (old / 16 * 16 + w.v % 16)
    | none => leBytes w.n w.v

/-- One write performed at its home: a vault byte's mark follows the element, an HBM line's mark is only set (R372). -/
def State.putWrite (s : State) (w : EngWrite) (o : Nat) : State :=
  let bs := w.bytes (s.readNat o 1)
  let s1 := if o < 2 ^ 40 || (w.nibble.isSome && w.keeps) then { s with mem := memPut o bs s.mem } else s.write o bs
  if w.poison then s1.markPoison o w.n else s1

/-- Writes of one line replace all its 64 bytes with clean data: an HBM line then loses its mark (R372). -/
def coversLine (ws : List EngWrite) : Bool :=
  (List.range 64).all fun b => ws.any fun w => !w.poison && w.nibble.isNone && w.va % 64 ≤ b && b < w.va % 64 + w.n

/-- The bytes of their line that writes span: the first, and one past the last. -/
def spanOf (ws : List EngWrite) : Nat × Nat :=
  (ws.foldl (fun a w => min a (w.va % 64)) 64, ws.foldl (fun a w => max a (w.va % 64 + w.n)) 0)

/-- The writes of one line performed: an HBM line they replace whole with clean data loses its mark (R372). -/
def State.putLine (s : State) (cx : CtxId) (rank o : Nat) (ws : List EngWrite) : State :=
  let s0 := s.homeAccess cx rank (o / 64 * 64 + (spanOf ws).1) ((spanOf ws).2 - (spanOf ws).1) true
  let s1 := ws.foldl (fun s w => s.putWrite w (o / 64 * 64 + w.va % 64)) s0
  let s2 := if o < 2 ^ 40 && coversLine ws then s1.clearPoison (o / 64 * 64) 64 else s1
  match s2.homeOf (s2.pkgNo * 2 ^ 46 + o) with
  | .quad q => s2.squashReaders q (o % 2 ^ 23 / 64 * 64) 64 none
  | _ => s2

/-- What a write carries to another package: its poison mark, or that it is one nibble (R102, R238). -/
def EngWrite.mark (w : EngWrite) : WriteMark :=
  if w.poison then .poison else match w.nibble with | some hi => .nibble hi | none => .plain

/-- A write to another package: a posted effect of the command, which completes when it is acknowledged (R186). -/
def State.postAway (s : State) (p : Pending) (pa : Nat) (w : EngWrite) (mark : WriteMark) : State :=
  let a : Access := ⟨p.cmd.cx, w.va, pa, w.n, true, false, none, toWord (w.v % 2 ^ (8 * w.n)), 0, mark⟩
  let sent : Posted :=
    { id := s.nextId, sid := p.cmd.id, cx := p.cmd.cx, quad := p.cmd.quad, trace := false, release := false, va := w.va,
      pa := pa, n := w.n }
  { s with posted := s.posted ++ [sent] }.send p.cmd.cx
    (s.engineNode p) (.pod (pa / 2 ^ 46)) 0 (.posted a) [.ether (podPort (pa / 2 ^ 46))]

/-- The writes of one line of another package: where they replace it whole with clean data, the last of them says so (R372). -/
def State.postLine (s : State) (p : Pending) (pa : Nat) (ws : List EngWrite) : State :=
  let whole := coversLine ws
  ws.zipIdx.foldl (fun s (w, k) =>
    s.postAway p (pa / 64 * 64 + w.va % 64) w (if whole && k + 1 == ws.length then .whole else w.mark)) s

/-- Writes of a command to another package are on their way. -/
def State.postsAway (s : State) (cmd : Nat) : Bool := s.posted.any (·.sid = cmd)

/-- Bytes of an element, a packed one counted whole. -/
def elemBytes (ty : Nat) : Nat := (typeBits ty + 7) / 8

/-- The lantern of a quad's own engine: the ME's, or the quad's (R334). -/
def Pending.unitLantern (p : Pending) : Lantern :=
  if unitOf p.cmd.op = 2 then .me p.cmd.quad else .quad p.cmd.quad

/-- Bytes an engine of a quad has moved, charged to the command's context: the ME by its own lantern, the others by the quad's
(R335; notes/assumptions 4). -/
def State.chargeMoved (s : State) (p : Pending) (n : Nat) : State :=
  s.charge p.unitLantern (.ctx p.cmd.cx) classByte n p.cmd.quad.die

/-! ### Elements in the home vault -/

/-- Bytes of a vault that carry poison, or lie in a word whose error cannot be corrected, so that a read of them meets it and
finds them poisoned (R372). -/
def State.unsound (s : State) (o n : Nat) : Bool :=
  s.poisoned o n || s.broken.any fun k => decide (o < k + 8 ∧ k < o + n)

/-- Where an element of a shape that lies in a quad's own vault stands in package memory, by its position, and its bytes. -/
def homePlace (c : Context) (q : QuadId) (sh : Shape) (pos : Int) : Nat × Nat :=
  (vaultBase q + ((sh.place pos).1 - c.aperture) % 2 ^ 23, if sh.ty = 0xD then 1 else typeBits sh.ty / 8)

/-- An element of a shape that lies in a quad's own vault, at a position: encoding and poison. -/
def State.homeElem (s : State) (c : Context) (q : QuadId) (sh : Shape) (pos : Int) : Nat × Bool :=
  let (o, n) := homePlace c q sh pos
  let v := s.readNat o n
  (if sh.ty = 0xD then (if (sh.place pos).2 then v / 16 else v % 16) else v, s.unsound o n)

/-- Reads of elements in a quad's own vault meet the errors of their words (R372). -/
def State.meetElems (s : State) (c : Context) (q : QuadId) (es : List (Shape × Int)) : State :=
  if s.weak.isEmpty && s.broken.isEmpty then s
  else es.foldl (fun s e => s.scrub (homePlace c q e.1 e.2).1 (homePlace c q e.1 e.2).2) s

/-- Writes made in a quad's own vault. -/
def State.homeWrites (s : State) (c : Context) (q : QuadId) (rank : Nat) (ws : List EngWrite) : State :=
  ws.foldl (fun s w => s.putLine c.id rank (vaultBase q + (w.va - c.aperture) % 2 ^ 23) [w]) s

/-! ### The end of a command (R186, R188, R230-R232) -/

/-- The command's entry at a vault still stands, with an interval or beside the home vault. -/
def State.holdsAt (s : State) (c : Command) (q : QuadId) : Bool :=
  ((s.quad? q).map fun x => x.entries.any fun e => match e with
    | .pending n _ rd wr => n = c.id && (q != c.quad || rd != .empty || wr != .empty)
    | _ => false).getD false

/-- The command's last access at a vault: its intervals go (R188); its home entry stays as its record (R230). -/
def State.releaseAt (s : State) (c : Command) (q : QuadId) : State :=
  let strip := fun (e : Entry) => match e with
    | .pending n k rd wr => if n = c.id then (if q = c.quad then some (Entry.pending n k .empty .empty) else none)
        else some (Entry.pending n k rd wr)
    | e => some e
  if !s.holdsAt c q then s
  else
    let s1 := (s.modQuad q fun x => { x with entries := x.entries.filterMap strip }).conflictOver q c.id
    if q = c.quad then s1 else s1.entryFreed q

/-- The vaults a command's pending writes still go to. -/
def Pending.writeVaults (p : Pending) (c : Context) : List QuadId :=
  (p.writes.filterMap fun w => (c.aperture? w.va).bind (·.1)).eraseDups

/-- Every vault of the command but those it still accesses is released (R188). -/
def State.releaseBut (s : State) (c : Command) (still : List QuadId) : State :=
  ((c.foots.map (·.quad)).filter fun q => !still.contains q).foldl (fun s q => s.releaseAt c q) s

/-- The line requests of a command that are on their way or granted go. -/
def State.dropLines (s : State) (cmd : Nat) : State :=
  (s.msgs.filter fun m => m.body = .lineOf cmd).foldl (fun s m => s.land m.id) s

/-- Every access of a command is done: it completes next. -/
def State.endCommand (s : State) (p : Pending) (code count cond : Nat) (itemErr : Bool) : State :=
  ((s.dropLines p.cmd.id).modCmd p.cmd.id fun x =>
    { x with phase := .done, code := code, count := count, cond := cond, itemErr := itemErr, writes := [] }).releaseBut p.cmd []

/-- The fault record of an engine-kind fault (R367). -/
def engineFault (p : Pending) (code : FaultCode) (detail addr unitNo : Nat) : FaultRec :=
  { code := code, kind := 1, slotNo := none, detail := detail, tag := p.cmd.tag, block := p.cmd.block, addr := addr,
    handle := handleToken p.cmd.qindex p.cmd.tag p.cmd.lsid, unitNo := unitNo, unit := unitOf p.cmd.op, elem := 0,
    qindex := p.cmd.qindex, ldie := p.cmd.ldie, data := 0, ember := none, sid := none, cmd := some p.cmd.id,
    lsid := some p.cmd.lsid }

/-- The completion report (R231). -/
def Pending.report (p : Pending) : Nat :=
  let count := min p.count 0xFFFF
  p.cond % 2 ^ 22 * 2 ^ 32 + count * 2 ^ 16 + (if p.count ≠ 0 ∨ p.code ≠ 0 ∨ p.itemErr = true then 256 else 0) + p.code % 256

/-- The WAITs held at a vault for a handle's tag and LSID. -/
def State.waitsFor (s : State) (c : Command) : List (Msg × Nat) :=
  s.msgs.filterMap fun m => match m.body with
    | .wait en h => if m.cls = 20 ∧ m.dst = .quad c.quad ∧ m.cx = c.cx ∧ sameHandle h c.tag c.lsid = true
        then some (m, en) else none
    | _ => none

/-- The home entry becomes the retained report; a report of an earlier issued command of the handle goes, of a later one
stays (R230). -/
def Quad.retain (q : Quad) (p : Pending) (r : Word) : Quad :=
  let c := p.cmd
  let later := q.entries.any fun e => match e with
    | .report t l _ n => t == c.tag && l == c.lsid && p.issued < n
    | _ => false
  let es := q.entries.filterMap fun e => match e with
    | .pending n k rd wr => if n = c.id then (if later then none else some (.report c.tag c.lsid r p.issued))
        else some (.pending n k rd wr)
    | .report t l w n => if t = c.tag ∧ l = c.lsid ∧ n < p.issued then none else some (.report t l w n)
    | e => some e
  { q with entries := es }

/-- Idle stream engines of a die. -/
def State.idleEngine (s : State) (m : Nat) : Option Nat :=
  ((List.range 8).filter fun n => !(s.cmds.any fun p =>
    s.cmdDie p.cmd = m && p.cmd.op ≤ 0x163 && (p.phase == .running n || p.phase == .stopped n))).head?

/-- A stream command has arrived at its die: no message carries it. -/
def State.delivered (s : State) (p : Pending) : Bool :=
  p.phase == .queued && !(s.msgs.any fun m => match m.body with
    | .command n => n = p.cmd.id
    | .decode n => n = p.cmd.id
    | .coll n => n = p.cmd.id
    | _ => false)

/-- The oldest command held at a die goes to an idle engine (R232). -/
def State.refill (s : State) (m : Nat) : State :=
  match s.idleEngine m with
  | none => s
  | some n =>
    match (s.cmds.filter fun p => p.cmd.op ≤ 0x163 && s.delivered p && s.cmdDie p.cmd = m).foldl
        (fun (b : Option Pending) p => match b with
          | some x => if p.order < x.order then some p else some x
          | none => some p) none with
    | some p => s.modCmd p.cmd.id fun x => { x with phase := .running n }
    | none => s

/-- SPARAMs left over when their command ends report 0x18 (R239). -/
def State.failSparams (s : State) (ids : List Nat) (code : Nat) : State :=
  ids.foldl (fun s n => s.modCmd n fun x => { x with phase := .done, code := code }) s

/-- The WAITs of a completed command's handle that no command issued before them keeps waiting take its retained report
(R230, R262). -/
def State.wakeWaits (s : State) (c : Command) (r : Word) : State :=
  let h := handleToken c.qindex c.tag c.lsid
  let due := (s.waitsFor c).filter fun x => !s.handlePending c.cx c.quad h x.2
  let last := (((s.quad? c.quad).bind fun q => q.report? h)).getD r
  if due.isEmpty then s
  else (due.foldl (fun s (m, en) => (s.land m.id).send m.cx m.dst m.src 1 (.reply en last none)) s).dropReport c.quad h

/-- The arrival of the engine at the barrier a command names (R232); DECODE has arrived once a frame. -/
def State.arriveFor (s : State) (c : Context) (p : Pending) : State :=
  match p.cmd.bar with
  | some b =>
    if p.cmd.op = 0x16E then s else s.engineArrive c p.cmd.ldie p.cmd.quad (.quad p.cmd.quad) b (bitOf p.report 8)
  | none => s

/-- A TOKS that expects no token completes at once (R260). -/
def Pending.noToken (p : Pending) : Bool :=
  p.cmd.op = 0x173 && p.phase == .queued && bitsOf (fieldAt p.bytes 64) 31 16 = 0

/-- Tokens of a STOK that the space table has not counted yet: the command stays in its space's count (R259, R266, R278). -/
def State.uncounted (s : State) (p : Pending) : Bool :=
  p.cmd.op == 0x172 && s.msgs.any fun m => match m.body with
    | .tableItem _ _ _ _ (some (_, _, n, _)) => n = p.cmd.id
    | _ => false

/-- COMMAND_COMPLETION (R186, R230-R232, R278): once every access is done, writes to other packages acknowledged: the
report, the WAITs, the barrier, the counts. -/
def execEvCommandCompletion (n : Nat) (s : State) : Out :=
  match s.cmd? n with
  | none => notEnabled "COMMAND_COMPLETION"
  | some p =>
    match s.ctx? p.cmd.cx with
    | none => notEnabled "COMMAND_COMPLETION"
    | some c =>
      let live := match c.run with | .running => true | .cutting _ _ => true | _ => false
      if (p.phase != .done && !p.noToken) || !live || s.postsAway n || s.uncounted p then notEnabled "COMMAND_COMPLETION"
      else
        let r := toWord p.report
        let s0 := s.releaseBut p.cmd []
        let s1 := { s0 with cmds := s0.cmds.filter (·.cmd.id ≠ n) }
        let size : State → Nat := fun s => ((s.quad? p.cmd.quad).map (·.entries.length)).getD 0
        let kept := s1.modQuad p.cmd.quad fun q => q.retain p r
        let s2 := if size kept < size s1 then kept.entryFreed p.cmd.quad else kept
        let s3 := ((s2.wakeWaits p.cmd r).uncountTag p.cmd.cx p.cmd.tag).sweepFreeing p.cmd.cx p.cmd.tag
        let s4 := (s3.arriveFor c p).failSparams p.sparams 0x18
        s.makesRoom (.next (if p.cmd.op ≤ 0x163 then s4.refill (s.cmdDie p.cmd) else s4).tick)

end Sys2Proof.Machine
end

