-- ==== Sys2Proof/Machine/Matrix.lean ====
section
/-!
DEFINITION. The matrix engine: block and group sums, the accumulator, MXCFG, MXRUN, MXLDACC, MXSTACC and MXREL (R159
to R168, R171, R241 to R245, R373).
-/

namespace Sys2Proof.Machine

/-! ### Elements in the home vault -/

/-- An element written: its value, or zero bytes with poison marks (R244, R373). -/
def State.putHome (s : State) (c : Context) (q : QuadId) (rank : Nat) (sh : Shape) (n v : Nat) (poison : Bool) : State :=
  s.homeWrites c q rank (writesOf sh n v poison)

/-- The banks of the elements a step reads in its quad's vault asked for (R22), and the errors of their words met (R372). -/
def State.readElems (s : State) (c : Context) (q : QuadId) (rank : Nat) (es : List (Shape × Int)) : State :=
  let asked := es.flatMap fun e =>
    let (o, n) := homePlace c q e.1 e.2
    (List.range ((o % 64 + n + 63) / 64)).map fun k => (⟨(o / 64 + k) % 32, rank, rank, 0⟩ : BankReq)
  (s.meetElems c q es).modQuad q fun x => { x with banks := x.banks ++ asked }

/-! ### Sums (R160-R165) -/

/-- What a block or group adds: its value, whether it became NaN from values that are not (or holds a signalling NaN),
whether it holds a signalling NaN. -/
structure Term where
  t : Ex
  nv : Bool
  snan : Bool
  deriving DecidableEq, Repr

/-- A matrix operand's value: an MXINT8 code is its integer times 2^-6 (R160). -/
def meValue (ty enc : Nat) : Opd :=
  if ty = 1 then
    let z := signedOf 8 enc
    ⟨if z = 0 then .zero false else .fin (z < 0) z.natAbs 64, false⟩
  else floatValue ty enc

/-- A product; one with an integer zero is +0 (notes/assumptions 20). -/
def meProduct (int : Bool) (a b : Opd) : Ex :=
  match a.ex.mul b.ex with
  | .zero s => .zero (s && !int)
  | x => x

/-- The exact sum of values; -0 only when every one is -0. -/
def exSum (xs : List Ex) : Ex := xs.foldl Ex.add (.zero true)

/-- R161 and R163 on the products of a block or group. -/
def blockSum (int : Bool) (ps : List (Opd × Opd)) : Term :=
  let xs := ps.map fun p => meProduct int p.1 p.2
  let nan := ps.any fun p => p.1.ex.isNan || p.2.ex.isNan
  let made := ps.any fun p => (meProduct int p.1 p.2).isNan && !p.1.ex.isNan && !p.2.ex.isNan
  let snan := ps.any fun p => p.1.snan || p.2.snan
  let up := xs.contains (.inf false)
  let down := xs.contains (.inf true)
  if nan || made || (up && down) then ⟨.nan, snan || made || (up && down), snan⟩
  else if up || down then ⟨.inf down, false, false⟩
  else ⟨exSum xs, false, false⟩

/-- A block's sum with its scales (R161). -/
def scaledSum (int : Bool) (sa sb : Nat) (ps : List (Opd × Opd)) : Term :=
  let b := blockSum int ps
  if sa = 0xFF ∨ sb = 0xFF then ⟨.nan, true, b.snan⟩ else { b with t := scaleEx b.t ((sa : Int) + sb - 254) }

/-- The three BF16 terms of a finite FP32 value (R164). -/
def splitTerms (x : Ex) : List Ex :=
  let cut := fun (y : Ex) => (floatValue 0xA (roundFloat 0xA 1 0 false y).1).ex
  let x1 := cut x
  let x2 := cut (x.add x1.neg)
  [x1, x2, cut ((x.add x1.neg).add x2.neg)]

/-- A value that is NaN or an infinity: not split (R164). -/
def isSpecial : Ex → Bool
  | .nan => true
  | .inf _ => true
  | _ => false

/-- The six class sums of a group (R165): the terms of x and of y in each. -/
def classTerms : List (Nat × Nat) := [(0, 0), (0, 1), (1, 0), (1, 1), (0, 2), (2, 0)]

def classSums (ps : List (Opd × Opd)) : List Term :=
  (List.zipIdx classTerms).map fun ((x, y), n) =>
    blockSum false (ps.map fun (a, b) =>
      if isSpecial a.ex || isSpecial b.ex then
        if n = 0 then (a, b) else (⟨.zero false, false⟩, ⟨.zero false, false⟩)
      else
        (⟨((splitTerms a.ex)[x]?).getD (.zero false), false⟩, ⟨((splitTerms b.ex)[y]?).getD (.zero false), false⟩))

/-! ### The accumulator (R166, R167) -/

/-- Two condition words: clamps added, flags joined. -/
def joinCond (a b : Nat) : Nat := min 0xFFFF (a % 65536 + b % 65536) + (a / 65536 ||| b / 65536) * 65536

/-- acc(c, t): the new accumulator value and its conditions. A signalling NaN that meets a NaN c sets SPEC, as R167 says of an
operand element, and not NV (notes/assumptions 84). -/
def accRound (sat : Bool) (c : Nat) (t : Term) : Nat × Nat :=
  let spec := if t.snan then 2 ^ 20 else 0
  let nv := 2 ^ 16
  match (floatValue 8 c).ex, t.t with
  | .nan, _ => (canonNan 8, spec)
  | _, .nan => (canonNan 8, spec + (if t.nv then nv else 0))
  | x, y =>
    if (x.add y).isNan then (canonNan 8, nv)
    else
      let r := roundRne 8 (x.add y)
      if sat && r.1 % 2 ^ 31 == 0x7F800000 then (r.1 - 1, condOf r.2 false + 1) else (r.1, condOf r.2 false)

/-- The terms of a block or group added in order. -/
def accAll (sat : Bool) (ts : List Term) (c : Nat) : Nat × Nat :=
  ts.foldl (fun r t =>
    let n := accRound sat r.1 t
    (n.1, joinCond r.2 n.2)) (c, 0)

/-! ### The engine's state (R241) -/

/-- A cell of a tile. -/
def Me.cell (m : Me) (tile i j : Nat) : BitVec 32 := valueOf (tile * 16384 + i * 128 + j) 0 m.acc

/-- Cells of a tile replaced; a cell of +0 is not listed, and the list rises. -/
def Me.put (m : Me) (cells : List (Nat × Nat)) : Me :=
  let old := m.acc.filter fun c => !(cells.any fun n => n.1 = c.1)
  let new := (cells.filter fun n => n.2 % 2 ^ 32 != 0).map fun n => (n.1, BitVec.ofNat 32 n.2)
  { m with acc := sortBy (fun a b => a.1 ≤ b.1) (new ++ old) }

/-- Marks added to those there. -/
def addMarks (old new : List Nat) : List Nat := new.foldl (fun ms k => sortedInsert k ms) old

/-- ATYPE, BTYPE, ACC, UNIT and TILES of a configuration word (R242). -/
def cfgTile (w : Word) (t : Nat) : Bool := bitOf (w.bits 13 10) t

/-! ### MXRUN (R243) -/

/-- An MXRUN as its block names it. -/
structure MxRun where
  a : Shape
  b : Shape
  sa : Option Shape
  sb : Option Shape
  tile : Nat
  deriving DecidableEq, Repr

def mxRunOf (bs : List Byte) : Option MxRun :=
  let opt := fun off => if absentAt bs off then some none else (parseShape (recordAt bs off) true false).map some
  match parseShape (recordAt bs 0) true false, parseShape (recordAt bs 64) true false, opt 128, opt 192 with
  | some a, some b, some sa, some sb => some ⟨a, b, sa, sb, fieldAt bs 256 % 4⟩
  | _, _, _, _ => none

def MxRun.k (r : MxRun) : Nat := r.a.extent 0
def MxRun.rows (r : MxRun) : Nat := r.a.extent 1
def MxRun.cols (r : MxRun) : Nat := r.b.extent 1
/-- s, the steps of the run. -/
def MxRun.steps (r : MxRun) : Nat := (r.cols + 127) / 128

/-- The mode of a configuration: group length, whether it is an MX mode (R159). -/
def cfgMode (w : Word) : Nat × Bool := (meMode (w.bits 3 0) (w.bits 7 4)).getD (8, false)

/-- A scale shape serves `n` rows or columns of `blocks` blocks. -/
def scaleOk (blocks n : Nat) : Option Shape → Bool
  | some s => s.ty == 0xE && s.rank == 2 && blocks ≤ s.extent 0 && n ≤ s.extent 1
  | none => false

/-- What R241 and R243 check when the run is performed. -/
def MxRun.ok (r : MxRun) (w : Word) : Bool :=
  let (g, mx) := cfgMode w
  let scales := mx && !w.bit 9
  let blocks := (r.k + g - 1) / g
  r.a.ty == w.bits 3 0 && r.b.ty == w.bits 7 4 && ((List.range r.steps).all fun q => cfgTile w (r.tile + q)) &&
    (r.a.pad || r.rows == 128) && (r.b.pad || r.cols % 128 == 0) && (r.a.pad || r.b.pad || r.k % g == 0) &&
    (if scales then scaleOk blocks r.rows r.sa && scaleOk blocks r.cols r.sb else r.sa.isNone && r.sb.isNone)

/-- What one row of A or column of B gives a block: its elements, its scale, whether any of them is poisoned. -/
structure MxLine where
  xs : List Opd
  scale : Nat
  bad : Bool
  deriving DecidableEq, Repr

def State.mxLine (s : State) (c : Context) (q : QuadId) (sh : Shape) (sc : Option Shape) (ks : List Nat) (b i : Nat) :
    MxLine :=
  let es := ks.map fun k => s.homeElem c q sh (positionAt sh.dims [k, i])
  let sv := sc.map fun s' => s.homeElem c q s' (positionAt s'.dims [b, i])
  ⟨es.map fun e => meValue sh.ty e.1, ((sv.filter (!·.2)).map (·.1)).getD 0x7F, (es.any (·.2)) || (sv.map (·.2)).getD false⟩

/-- The terms one block or group adds to an element. DESIGN CHOICE (notes/assumptions 14): a poisoned operand, a NaN scale
apart, adds no term. A marked row is stored as poison, so its cells are seen only once MXSTACC has cleared its marks; the spec
gives them no value. The condition word depends on none of them (R5, R373, R385). -/
def mxTerms (w : Word) (x y : MxLine) : List Term :=
  let mx := (cfgMode w).2
  let ps := List.zip x.xs y.xs
  if mx && (x.scale = 0xFF || y.scale = 0xFF) then [⟨.nan, true, !(x.bad || y.bad) && (blockSum true ps).snan⟩]
  else if x.bad || y.bad then []
  else if w.bits 3 0 = 8 then classSums ps
  else if mx then [scaledSum (w.bits 3 0 = 1) x.scale y.scale ps]
  else [blockSum false ps]

/-- The elements of a block: its indices along K. -/
def MxRun.ks (r : MxRun) (w : Word) (b : Nat) : List Nat :=
  let g := (cfgMode w).1
  (List.range g).filterMap fun i => if b * g + i < r.k then some (b * g + i) else none

/-- The columns of a step, within the step. -/
def MxRun.colsOf (r : MxRun) (step : Nat) : List Nat := (List.range 128).filter fun j => step * 128 + j < r.cols

/-- The elements one block of a step reads: rows of A, columns of B, their scales. -/
def MxRun.reads (r : MxRun) (w : Word) (step b : Nat) : List (Shape × Int) :=
  let line := fun (sh : Shape) (sc : Option Shape) (i : Nat) =>
    ((r.ks w b).map fun k => (sh, positionAt sh.dims [k, i])) ++ (sc.toList.map fun x => (x, positionAt x.dims [b, i]))
  ((List.range r.rows).flatMap (line r.a r.sa)) ++ (r.colsOf step).flatMap fun j => line r.b r.sb (step * 128 + j)

/-- One block or group of one step of a run, on every element it feeds (R161-R166): the engine, the conditions, the
rows newly marked, whether a poisoned byte was read. -/
def State.mxBlock (s : State) (c : Context) (q : Quad) (r : MxRun) (w : Word) (step b : Nat) :
    Me × Nat × Nat × Bool :=
  let ks := r.ks w b
  let t := r.tile + step
  let cols := r.colsOf step
  let as := (List.range r.rows).map fun i => s.mxLine c q.id r.a r.sa ks b i
  let bs := cols.map fun j => s.mxLine c q.id r.b r.sb ks b (step * 128 + j)
  let cells := (List.zipIdx as).flatMap fun (x, i) => (List.zipIdx bs).map fun (y, j) =>
    let v := accAll (w.bit 8) (mxTerms w x y) (q.me.cell t i j).toNat
    (t * 16384 + i * 128 + j, v.1, v.2)
  let rowMarks := (List.zipIdx as).flatMap fun (x, i) =>
    if x.bad then (List.range r.steps).map fun k => (r.tile + k) * 128 + i else []
  let colMarks := if bs.any (·.bad) then (List.range 128).map fun i => t * 128 + i else []
  let marks := addMarks q.me.marks (rowMarks ++ colMarks)
  let cond := cells.foldl (fun a x => joinCond a x.2.2) 0
  ({ q.me.put (cells.map fun x => (x.1, x.2.1)) with marks := marks }, cond, marks.length - q.me.marks.length,
    !(rowMarks ++ colMarks).isEmpty)

/-- The engine's unit is free for a command, and the command may go on. -/
def State.unitMay (s : State) (p : Pending) : Bool :=
  p.phase == .queued && s.engineRuns p && s.unblocked p && s.firstOfUnit p

/-- The first access of a run sets LIVE on the tiles it writes (R241). -/
def runLive (r : MxRun) (m : Me) : Me := { m with live := addMarks m.live ((List.range r.steps).map (r.tile + ·)) }

/-- MXRUN: the checks, then one block or group a step; `p.n` counts them. -/
def State.mxRun (s : State) (c : Context) (q : Quad) (p : Pending) : State :=
  match mxRunOf p.bytes, q.me.config with
  | some r, some w =>
    if p.n = 0 && !r.ok w then s.endCommand p 0x18 0 0 false
    else
      let blocks := (r.k + (cfgMode w).1 - 1) / (cfgMode w).1
      let s0 := s.modQuad q.id fun q => { q with me := runLive r q.me }
      if blocks * r.steps ≤ p.n then s0.endCommand p p.code p.count p.cond false
      else
        let (m, cond, new, bad) := s.mxBlock c { q with me := runLive r q.me } r w (p.n / blocks) (p.n % blocks)
        let p' := { p with n := p.n + 1, cond := joinCond p.cond cond,
                           count := p.count + new, code := if bad then 0x14 else p.code }
        let s1 := s0.modQuad q.id fun q => { q with me := m }
        let s2 := ((s1.readElems c q.id 3 (r.reads w (p.n / blocks) (p.n % blocks))).charge (.me q.id) (.ctx c.id) classMe (r.rows * min 128 r.cols) q.id.die).chargeMoved p
          (r.rows * elemBytes r.a.ty + min 128 r.cols * elemBytes r.b.ty)
        let s3 := s2.modCmd p.cmd.id fun _ => p'
        if p'.n = blocks * r.steps then s3.endCommand p' p'.code p'.count p'.cond false else s3
  | _, _ => s.endCommand p 0x18 0 0 false

/-! ### MXLDACC, MXSTACC, MXREL (R168, R244, R245) -/

/-- One conversion of R168: result and conditions. -/
def meConvert (st dt rnd : Nat) (sat : Bool) (u v : Nat) : Nat × Nat :=
  if isIntType st then
    let r := roundFloat dt rnd u sat (intEx (intValue st v))
    (r.1, condOf r.2 false)
  else
    let x := floatValue st v
    if isIntType dt then
      let r := roundInt (intBits dt) (isSignedType dt) rnd u x.ex
      (lowBits (intBits dt) r.1, condOf (r.2 ||| nvIf x.snan) x.snan)
    else if st = dt && !x.ex.isNan then (v, 0)
    else
      let r := roundFloat dt rnd u sat x.ex
      (r.1, condOf (r.2 ||| nvIf x.snan) x.snan)

/-- The draw of element 128 i + j (R168). -/
def Pending.draw (p : Pending) (n : Nat) : Nat := stochasticDraw p.cmd.seed p.cmd.tag 0 n

/-- A tile loaded or stored: its 16,384 conversions, and the bytes moved (R335). -/
def State.chargeTile (s : State) (p : Pending) (sh : Shape) : State :=
  (s.charge (.me p.cmd.quad) (.ctx p.cmd.cx) classMe 16384 p.cmd.quad.die).chargeMoved p (16384 * elemBytes sh.ty)

/-- MXLDACC: the tile loaded, its rows' marks set from their sources. -/
def State.mxLoad (s : State) (c : Context) (q : Quad) (p : Pending) (sh : Shape) (t rnd : Nat) (sat : Bool) : State :=
  let es := (List.range 16384).map fun n => s.homeElem c q.id sh (positionOf sh.dims n)
  let vs := (List.zipIdx es).map fun (e, n) => meConvert sh.ty 8 rnd sat (p.draw n) e.1
  let cond := vs.foldl (fun a v => joinCond a v.2) 0
  let bad := ((List.zipIdx es).filter (·.1.2)).map fun (_, n) => t * 128 + n / 128
  let others := q.me.marks.filter fun k => k / 128 ≠ t
  let m := { q.me.put ((List.zipIdx vs).map fun (v, n) => (t * 16384 + n, v.1)) with
    live := addMarks q.me.live [t], marks := addMarks others bad }
  let read := s.readElems c q.id 3 ((List.range 16384).map fun n => (sh, positionOf sh.dims n))
  ((read.modQuad q.id fun q => { q with me := m }).chargeTile p sh).endCommand p 0 0 cond false

/-- MXSTACC: the tile stored, marked rows as zero bytes with poison marks; LIVE and the marks are cleared. DESIGN CHOICE
(notes/assumptions 14): the cells of a marked row keep the sums of their terms without the poisoned ones, which a second
MXSTACC or a later MXRUN then meets; the spec gives them no value. -/
def State.mxStore (s : State) (c : Context) (q : Quad) (p : Pending) (sh : Shape) (t rnd : Nat) (sat : Bool) : State :=
  let marked := fun i => q.me.marks.contains (t * 128 + i)
  let out := (List.range 16384).map fun n =>
    if marked (n / 128) then (0, 0) else meConvert 8 sh.ty rnd sat (p.draw n) (q.me.cell t (n / 128) (n % 128)).toNat
  let s1 := (List.zipIdx out).foldl (fun s (v, n) => s.putHome c q.id 3 sh n v.1 (marked (n / 128))) s
  let cond := out.foldl (fun a v => joinCond a v.2) 0
  let s2 := s1.modQuad q.id fun q =>
    { q with me := { q.me with live := q.me.live.filter (· ≠ t), marks := q.me.marks.filter fun k => k / 128 ≠ t } }
  let first := (List.range 128).find? marked
  (s2.chargeTile p sh).endCommand p (if first.isSome then 0x20 else 0) (first.getD 0) cond false

/-- MXLDACC and MXSTACC of a tile the configuration has; CODE 0x18 otherwise (R241). -/
def State.mxTile (s : State) (c : Context) (q : Quad) (p : Pending) : State :=
  let w := fieldAt p.bytes 64
  match parseShape (recordAt p.bytes 0) false false, q.me.config with
  | some sh, some cfg =>
    if !cfgTile cfg (w % 4) then s.endCommand p 0x18 0 0 false
    else if p.cmd.op = 0x167 then s.mxLoad c q p sh (w % 4) (bitsOf w 4 2) (bitOf w 5)
    else s.mxStore c q p sh (w % 4) (bitsOf w 4 2) (bitOf w 5)
  | _, _ => s.endCommand p 0x18 0 0 false

/-- MXREL (R245). -/
def State.mxRel (s : State) (c : Context) (q : Quad) (p : Pending) : State :=
  if bitOf p.cmd.low 0 then
    (s.modQuad q.id fun q => { q with me := { config := none, acc := [], live := [], marks := [] } }).endCommand p 0 0 0 false
  else if q.me.live.isEmpty then
    (s.modQuad q.id fun q => { q with me := { q.me with config := none } }).endCommand p 0 0 0 false
  else (s.endCommand p 0x17 0 0 false).queueFault c.id (engineFault p .accLive 0 0 0)

/-- ME_COMMAND_PERFORM (R232, R241-R245): the quad's next registered ME command, an MXRUN block by block. -/
def execEvMeCommandPerform (n : Nat) (s : State) : Out :=
  match s.cmd? n with
  | none => notEnabled "ME_COMMAND_PERFORM"
  | some p =>
    match s.quad? p.cmd.quad, s.ctx? p.cmd.cx with
    | some q, some c =>
      if unitOf p.cmd.op ≠ 2 ∨ s.unitMay p = false then notEnabled "ME_COMMAND_PERFORM"
      else
        .next (match p.cmd.op with
          | 0x165 => (s.modQuad q.id fun q => { q with me := { q.me with config := some p.cmd.arg } }).endCommand p 0 0 0 false
          | 0x166 => s.mxRun c q p
          | 0x167 => s.mxTile c q p
          | 0x168 => s.mxTile c q p
          | _ => s.mxRel c q p).tick
    | _, _ => notEnabled "ME_COMMAND_PERFORM"

end Sys2Proof.Machine
end

