-- ==== Sys2Proof/Machine/Vector.lean ====
section
/-!
DEFINITION. The vector stream unit and the window unit: VMAP, VRED and WINRUN (R169, R170, R246 to R250, R373).
-/

namespace Sys2Proof.Machine

/-! ### VMAP (R169, R246) -/

/-- A shape of a block at an offset; none: absent or invalid. -/
def shapeAt (bs : List Byte) (off : Nat) : Option Shape :=
  if absentAt bs off then none else parseShape (recordAt bs off) false false

/-- A result as its element type holds it: the payload's low bits. -/
def storedAs (ty v : Nat) : Nat := v % 2 ^ typeBits ty

/-- An element as a payload: signed integers extended, other encodings as they stand (R235). -/
def payload (ty v : Nat) : Nat := if isSignedType ty then lowBits 64 (signedOf (typeBits ty) v) else v

/-- VMAP's element `p.n`: inputs read, the result or poison written, conditions joined. -/
def State.vmapStep (s : State) (c : Context) (q : Quad) (p : Pending) (out : Shape) : State × Pending :=
  let w := fieldAt p.bytes 256
  let ins := ([shapeAt p.bytes 64, shapeAt p.bytes 128, shapeAt p.bytes 192].filterMap id).map fun sh =>
    (sh, positionOf sh.dims (if sh.count = 1 then 0 else p.n))
  let es := ins.map fun x => (x.1.ty, s.homeElem c q.id x.1 x.2)
  let read := s.readElems c q.id 4 ins
  let bad := es.any (·.2.2)
  let v := fun k => ((es[k]?).map fun e => payload e.1 e.2.1).getD 0
  let r := opValue (bitsOf w 8 0) (bitsOf w 11 9) (bitsOf w 20 12) (p.draw p.n) (v 0) (v 1) (v 2)
  let spec := es.any fun e => isSnan e.1 e.2.1
  if bad then (read.putHome c q.id 4 out p.n 0 true, { p with n := p.n + 1, code := 0x14 })
  else (read.putHome c q.id 4 out p.n (storedAs out.ty r.1) false, { p with n := p.n + 1, cond := joinCond p.cond (condOf r.2 spec) })

/-! ### VRED (R170, R247) -/

/-- One level of the tree: neighbours combined, the left one first, an odd last one kept. -/
def treeLevel {α : Type} (f : α → α → α) : List α → List α
  | a :: b :: r => f a b :: treeLevel f r
  | xs => xs

/-- The tree of R170: levels until one value is left. -/
def treeFold {α : Type} (f : α → α → α) : Nat → List α → Option α
  | _, [] => none
  | _, [a] => some a
  | 0, a :: _ => some a
  | n + 1, xs => treeFold f n (treeLevel f xs)

/-- An element converted to FP32 with its flags: exact; a NaN becomes the canonical one, NV with a signalling one (R106,
R113, R170). -/
def asFp32 (ty v : Nat) : Nat × Nat :=
  let x := floatValue ty v
  if x.ex.isNan then (canonNan 8, nvIf x.snan) else (if ty = 8 then v else (roundRne 8 x.ex).1, 0)

/-- A node of a float reduction: FP32 result and flags (OP 0 to 4). -/
def vredFloat (op a b : Nat) : Nat × Nat :=
  match op with
  | 0 => faddV 0 a b
  | 1 => fminV 0 a b
  | 2 => fmaxV 0 a b
  | 3 => fminmV 0 a b
  | _ => fmaxmV 0 a b

/-- A node of an integer reduction, at 64 bits (OP 5 to 9). -/
def vredInt (op a b : Nat) : Nat :=
  match op with
  | 5 => addV 0 a b
  | 6 => minsV 0 a b
  | 7 => minuV 0 a b
  | 8 => maxsV 0 a b
  | _ => maxuV 0 a b

/-- A reduction of no element (R170); integer results as 64-bit payloads. -/
def vredEmpty (op ty : Nat) : Nat :=
  match op with
  | 0 => 0
  | 1 => 0x7F800000
  | 2 => 0xFF800000
  | 3 => 0x7F800000
  | 4 => 0xFF800000
  | 5 => 0
  | 6 => lowBits 64 (intMax (intBits ty) (isSignedType ty))
  | 7 => lowBits 64 (intMax (intBits ty) (isSignedType ty))
  | _ => lowBits 64 (intMin (intBits ty) (isSignedType ty))

/-- One run reduced: the FP32 encoding or 64-bit payload, and its flags. -/
def vredRun (op ty : Nat) (xs : List Nat) : Nat × Nat :=
  if op ≤ 4 then
    (treeFold (fun (a b : Nat × Nat) => ((vredFloat op a.1 b.1).1, a.2 ||| b.2 ||| (vredFloat op a.1 b.1).2)) xs.length
      (xs.map (asFp32 ty))).getD (vredEmpty op ty, 0)
  else ((treeFold (vredInt op) xs.length (xs.map (payload ty))).getD (vredEmpty op ty), 0)

/-- A reduction's result in the output type: floats rounded once to nearest even (R247). -/
def vredOut (op ty : Nat) (r : Nat × Nat) : Nat × Nat :=
  if op ≤ 4 then
    if ty = 8 then r
    else
      let x := floatValue 8 r.1
      let y := roundRne ty x.ex
      (y.1, r.2 ||| y.2 ||| nvIf x.snan)
  else (storedAs ty r.1, r.2)

/-- VRED's output element `p.n`. -/
def State.vredStep (s : State) (c : Context) (q : Quad) (p : Pending) (out inp : Shape) : State × Pending :=
  let w := fieldAt p.bytes 128
  let op := bitsOf w 3 0
  let dim := bitsOf w 6 4
  let ctr := countersOf out.dims p.n
  let ins := (List.range (inp.extent dim)).map fun t => (inp, positionAt inp.dims (ctr.take dim ++ t :: ctr.drop dim))
  let es := ins.map fun x => s.homeElem c q.id x.1 x.2
  let read := s.readElems c q.id 4 ins
  let r := vredOut op out.ty (vredRun op inp.ty (es.map (·.1)))
  let spec := op ≤ 4 && es.any fun e => isSnan inp.ty e.1
  if es.any (·.2) then (read.putHome c q.id 4 out p.n 0 true, { p with n := p.n + 1, code := 0x14 })
  else (read.putHome c q.id 4 out p.n r.1 false, { p with n := p.n + 1, cond := joinCond p.cond (condOf r.2 spec) })

/-- A command that has performed one more element, run or row: it ends after the last of `total`. -/
def State.unitWent (s : State) (p : Pending) (total : Nat) : State :=
  let s1 := s.modCmd p.cmd.id fun _ => p
  if total ≤ p.n then s1.endCommand p p.code p.count p.cond false else s1

/-- Bytes one element of a VMAP, or one run of a VRED, moves. -/
def Pending.vsuBytes (p : Pending) (out : Shape) : Nat :=
  let ins := [shapeAt p.bytes 64, shapeAt p.bytes 128, shapeAt p.bytes 192].filterMap id
  elemBytes out.ty +
    (if p.cmd.op = 0x16B then
      ((ins.head?).map fun sh => elemBytes sh.ty * sh.extent (bitsOf (fieldAt p.bytes 128) 6 4)).getD 0
    else (ins.map fun sh => elemBytes sh.ty).foldl (· + ·) 0)

/-- VSU_COMMAND_PERFORM (R232, R246-R248): the next element or run of the quad's next registered VSU command. -/
def execEvVsuCommandPerform (n : Nat) (s : State) : Out :=
  match s.cmd? n with
  | none => notEnabled "VSU_COMMAND_PERFORM"
  | some p =>
    match s.quad? p.cmd.quad, s.ctx? p.cmd.cx, shapeAt p.bytes 0 with
    | some q, some c, some out =>
      if unitOf p.cmd.op ≠ 3 ∨ s.unitMay p = false then notEnabled "VSU_COMMAND_PERFORM"
      else
        let total := out.count
        if total ≤ p.n then .next (s.unitWent p total).tick
        else
          let (s1, p1) := match p.cmd.op, shapeAt p.bytes 64 with
            | 0x16B, some inp => s.vredStep c q p out inp
            | _, _ => s.vmapStep c q p out
          let moved := p.vsuBytes out
          .next (((s1.charge (.quad q.id) (.ctx c.id) classVsu 1 q.id.die).chargeMoved p moved).unitWent p1 total).tick
    | _, _, _ => notEnabled "VSU_COMMAND_PERFORM"

/-! ### WINRUN (R250) -/

/-- The input position of column (ky, kx, c) of output place (oy, ox): none outside the input. -/
def windowPos (w7 : Nat) (sh : Shape) (oy ox ky kx : Nat) : Option (Nat × Nat) :=
  let p := bitsOf w7 39 32
  let y := oy * bitsOf w7 19 16 + ky * bitsOf w7 27 24
  let x := ox * bitsOf w7 23 20 + kx * bitsOf w7 31 28
  if p ≤ y ∧ y < sh.extent 2 + p ∧ p ≤ x ∧ x < sh.extent 1 + p then some (x - p, y - p) else none

/-- The input elements the delay line holds once an output place of row `oy` is written: the input rows from that place's first
to its last, those inside the input, each element by channel, column and row (R249). -/
def delayPlaces (inp : Shape) (oy : Nat) : List (Nat × Nat × Nat) :=
  let rows := (List.range ((bitsOf inp.w7 7 0 - 1) * bitsOf inp.w7 27 24 + 1)).filterMap fun k =>
    let y := oy * bitsOf inp.w7 19 16 + k
    let p := bitsOf inp.w7 39 32
    if p ≤ y ∧ y < inp.extent 2 + p then some (y - p) else none
  rows.flatMap fun y => (List.range (inp.extent 1)).flatMap fun x => (List.range (inp.extent 0)).map fun k => (k, x, y)

/-- What the delay line then holds. DESIGN CHOICE (notes/assumptions 57): it is filled from the vault as an output row needs it,
so an output value read from the vault is the one in the line. -/
def State.delayLine (s : State) (c : Context) (q : QuadId) (inp : Shape) (oy : Nat) : List (Nat × Nat × Nat × Nat) :=
  (delayPlaces inp oy).map fun (k, x, y) => (k, x, y, (s.homeElem c q inp (positionAt inp.dims [k, x, y])).1)

/-- WINRUN's output row `p.n`: values copied bit for bit, poison element by element. -/
def State.windowRow (s : State) (c : Context) (q : Quad) (p : Pending) (inp dst : Shape) (row0 : Nat) :
    State × Pending :=
  let kw := bitsOf inp.w7 15 8
  let ch := inp.extent 0
  let ow := (windowGeometry inp).2
  let at' := row0 + p.n
  let step := fun (r : State × Bool) (k : Nat) =>
    let v := match windowPos inp.w7 inp (at' / ow) (at' % ow) (k / ch / kw) (k / ch % kw) with
      | some (x, y) => s.homeElem c q.id inp (positionAt inp.dims [k % ch, x, y])
      | none => (0, false)
    (r.1.putHome c q.id 5 dst (p.n * dst.extent 0 + k) v.1 v.2, r.2 || v.2)
  let read := s.readElems c q.id 5 ((delayPlaces inp (at' / ow)).map fun (k, x, y) => (inp, positionAt inp.dims [k, x, y]))
  let (s1, bad) := (List.range (dst.extent 0)).foldl step (read, false)
  let s2 := s1.modQuad q.id fun x => { x with delay := s.delayLine c q.id inp (at' / ow) }
  (s2.chargeMoved p (dst.extent 0 * elemBytes dst.ty), { p with n := p.n + 1, code := if bad then 0x14 else p.code })

/-- WINDOW_COMMAND_PERFORM (R232, R250): the next output row. -/
def execEvWindowCommandPerform (n : Nat) (s : State) : Out :=
  match s.cmd? n with
  | none => notEnabled "WINDOW_COMMAND_PERFORM"
  | some p =>
    match s.quad? p.cmd.quad, s.ctx? p.cmd.cx, parseShape (recordAt p.cmd.window 0) true true, shapeAt p.bytes 0 with
    | some q, some c, some w, some dst =>
      if p.cmd.op ≠ 0x16D ∨ s.unitMay p = false then notEnabled "WINDOW_COMMAND_PERFORM"
      else
        let total := fieldAt p.bytes 72 / 2 ^ 32
        if total ≤ p.n then .next (s.unitWent p total).tick
        else
          let (s1, p1) := s.windowRow c q p { w with base := fieldAt p.bytes 64 } dst (fieldAt p.bytes 72 % 2 ^ 32)
          .next (s1.unitWent p1 total).tick
    | _, _, _, _ => notEnabled "WINDOW_COMMAND_PERFORM"

end Sys2Proof.Machine
end

