-- ==== Sys2Proof/Machine/Decoder.lean ====
section
/-!
DEFINITION. The video decoders: what a shown frame writes, its status word, its arrival, the reference slots (R251 to
R256, R373).
-/

namespace Sys2Proof.Machine

/-! ### The command (R251) -/

/-- A DECODE command as its block names it. -/
structure Decode' where
  bsva : Nat
  bslen : Nat
  frames : Nat
  grain : Bool
  conceal : Bool
  stopping : Bool
  bf16 : Bool
  annexb : Bool
  stat : Nat
  /-- fill, scale word: luma, Cb, Cr -/
  fill : List Nat
  scale : List Nat
  planes : List (Option Shape)
  deriving DecidableEq, Repr

def decodeOf (bs : List Byte) : Decode' :=
  let ctl := fieldAt bs 16
  let fill := fieldAt bs 32
  { bsva := fieldAt bs 0, bslen := fieldAt bs 8, frames := ctl % 65536, grain := bitOf ctl 16, conceal := bitOf ctl 17,
    stopping := bitOf ctl 18, bf16 := bitOf ctl 19, annexb := bitOf ctl 20, stat := fieldAt bs 24,
    fill := [bitsOf fill 15 0, bitsOf fill 31 16, bitsOf fill 47 32],
    scale := [fieldAt bs 40, fieldAt bs 48, fieldAt bs 48],
    planes := [shapeAt bs 64, shapeAt bs 128, shapeAt bs 192] }

/-! ### Samples (R253) -/

/-- A sample as the output type has it, with its conditions. -/
def sampleOut (d : Decode') (ten : Bool) (plane v : Nat) : Nat × Nat :=
  if d.bf16 then
    let w := (d.scale[plane]?).getD 0
    let a := floatValue 8 (w % 2 ^ 32)
    let b := floatValue 8 (w / 2 ^ 32)
    let y := ((intEx v).mul a.ex).add b.ex
    let r := roundRne 0xA y
    (r.1, condOf (r.2 ||| nanFlags [a, b] y) (a.snan || b.snan))
  else if ten then (min ((v + 2) / 4) 255, 0)
  else (v % 256, 0)

/-- Width and height of a plane of a frame: chroma planes are halved, rounding up (R252: 4:2:0). -/
def planeSize (plane : Nat) (size : Nat × Nat) : Nat × Nat :=
  if plane = 0 then size else ((size.1 + 1) / 2, (size.2 + 1) / 2)

/-- A plane's pixel of output frame `i`: its writes and conditions. -/
def pixelWrites (d : Decode') (f : Av1Picture) (filled : Bool) (plane i x y : Nat) (sh : Shape) : List EngWrite × Nat :=
  let (w, h) := planeSize plane (f.size.getD (0, 0))
  let fill := storedAs sh.ty ((d.fill[plane]?).getD 0)
  let v := if filled || (plane != 0 && f.mono) || w ≤ x || h ≤ y then (fill, 0)
    else sampleOut d (f.depth == 10) plane ((((f.planes[plane]?).getD [])[y * w + x]?).getD 0)
  (writesOf sh (x + sh.extent 0 * (y + sh.extent 1 * i)) v.1 false, v.2)

/-- Every write of output frame `i`. -/
def frameWrites (d : Decode') (f : Av1Picture) (filled : Bool) (i : Nat) : List EngWrite × Nat :=
  let all := (List.zipIdx d.planes).flatMap fun (p, k) =>
    match p with
    | none => []
    | some sh => (List.range (sh.extent 1)).flatMap fun y =>
        (List.range (sh.extent 0)).map fun x => pixelWrites d f filled k i x y sh
  (all.flatMap (·.1), all.foldl (fun a v => joinCond a v.2) 0)

/-! ### The status word (R254) -/

/-- A present plane is smaller than the frame. -/
def cropped (d : Decode') (size : Nat × Nat) : Bool :=
  (List.zipIdx d.planes).any fun (p, k) =>
    match p with
    | none => false
    | some sh => sh.extent 0 < (planeSize k size).1 || sh.extent 1 < (planeSize k size).2

def statusWord (d : Decode') (f : Av1Picture) (i code : Nat) (filled concealed grained : Bool) : Nat :=
  let (wm1, hm1) := match f.size with | some (w, h) => ((w - 1) % 65536, (h - 1) % 65536) | none => (0, 0)
  i % 65536 * 2 ^ 48 + hm1 * 2 ^ 32 + wm1 * 2 ^ 16 + (if grained && !filled then 2 ^ 11 else 0) +
    (if (f.size.map (cropped d)).getD false then 2 ^ 10 else 0) + (if concealed then 2 ^ 9 else 0) +
    (if filled then 2 ^ 8 else 0) + code % 256

/-! ### One frame (R252, R255) -/

/-- The lines of [a, a + n), as pieces of a read. -/
def linesFrom' (a n : Nat) : List (Nat × Nat × Nat) :=
  if n = 0 then []
  else (List.range ((a + n - 1) / 64 - a / 64 + 1)).map fun k =>
    let lo := max a ((a / 64 + k) * 64)
    (lo, min (a + n) ((a / 64 + k + 1) * 64) - lo, 0)

/-- A picture of which nothing was parsed. -/
def blankPicture (code stop : Nat) : Av1Picture :=
  { code := code, profile := 0, level := 0, depth := 8, largeScale := false, size := none, mono := false, refresh := none,
    reads := [], planes := [], stop := stop }

/-- The decoder's slots: those filled, with their planes and whether each is corrupt (R255). -/
abbrev Slots := List (Nat × List (List Nat) × Bool)

/-- What R252 leaves unsupported: another profile, depth or chroma form, a level above 6.3, large-scale tiles. -/
def unsupported (f : Av1Picture) : Bool :=
  f.profile != 0 || !(f.depth == 8 || f.depth == 10) || 19 < f.level || f.largeScale

/-- The code of a picture: a poisoned line, what the parsing met, what is unsupported, a slot never filled, a corrupt slot
(R254, R255). -/
def pictureCode (f : Av1Picture) (slots : Slots) (bad : Bool) : Nat :=
  if bad then 6
  else if f.code ≠ 0 then f.code
  else if unsupported f then 5
  else if f.reads.any fun r => !(slots.any (·.1 = r)) then 3
  else if f.reads.any fun r => slots.any fun x => x.1 = r && x.2.2 then 4
  else 0

/-- A code of a failed picture; a tainted one has not failed (R255). -/
def failedCode (code : Nat) : Bool := code != 0 && code != 4

/-- The sample a fill plane kept in a slot has: the fill value of the output type, of which UINT8 takes the low 8 bits (R251).
DESIGN CHOICE (notes/assumptions 55): R255 keeps the fill planes and gives FILL in the output type only; a BF16 pattern, or an
8-bit fill value in a 10-bit stream, stands in the slot as the sample it is as a number. -/
def fillSample (d : Decode') (plane : Nat) : Nat :=
  let v := (d.fill[plane]?).getD 0
  if d.bf16 then v else v % 256

/-- The planes a picture is given: its decoded ones, or the fill planes of its size (R255). -/
def givenPlanes (d : Decode') (f : Av1Picture) (code : Nat) : List (List Nat) :=
  if failedCode code || (code == 4 && !d.conceal) then
    (List.range 3).map fun k =>
      let (w, h) := planeSize k (f.size.getD (0, 0))
      List.replicate (w * h) (fillSample d k)
  else f.planes

/-- The slots after a picture: each it refreshes holds the planes it was given, corrupt unless it is good. -/
def refreshSlots (d : Decode') (f : Av1Picture) (code : Nat) (slots : Slots) : Slots :=
  (f.refresh.getD []).foldl (fun ss k => setValue k (givenPlanes d f code, code != 0) ss) slots

/-- A shown frame: the picture, its code, its grain parameters, the slots after the hidden frames before it, where the next
one is looked for, and how far the bitstream was read. -/
structure Shown where
  pic : Av1Picture
  code : Nat
  grain : Option (List Nat)
  slots : Slots
  next : Nat
  upto : Nat
  deriving DecidableEq, Repr

/-- A picture that runs past the end of the bitstream has met it, whatever else its code would be (R255). -/
def endCode (d : Decode') (stop code : Nat) : Nat := if d.bslen < stop && (code == 0 || code == 4) then 7 else code

/-- The next shown frame from a position on; behind the last byte there is none (R255). Hidden frames are decoded into their slots one by one; after a failure the
decoder resumes at the next temporal unit (R252). `bad` tells whether a stretch of the bitstream is poisoned. -/
def nextShown (d : Decode') (bytes : List Byte) (bad : Nat → Nat → Bool) : Nat → Nat → Slots → Shown
  | 0, pos, slots => ⟨blankPicture 7 pos, 7, none, slots, pos, pos⟩
  | k + 1, pos, slots =>
    if d.bslen ≤ pos then ⟨blankPicture 7 pos, 7, none, slots, pos, pos⟩
    else
    let f := Config.av1Frame bytes pos d.annexb ((List.range 8).map fun n => (valueOf n ([], false) slots).1)
    let unit := min f.unitEnd d.bslen
    match f.hidden with
    | h :: _ =>
      let stop := min h.stop d.bslen
      let code := endCode d h.stop (pictureCode h slots (bad pos stop))
      let slots1 := refreshSlots d h code slots
      let r := nextShown d bytes bad k (if failedCode code then unit else stop) slots1
      { r with upto := max stop r.upto }
    | [] =>
      let stop := min f.shown.stop d.bslen
      let code := endCode d f.shown.stop (pictureCode f.shown slots (bad pos stop))
      let next := if failedCode code then unit else stop
      ⟨f.shown, code, if d.grain then f.grain else none, slots, next, max stop next⟩

/-! ### The arrival (R256) -/

/-- Frame `i` of a plane as an interval of addresses. -/
def frameSpan (sh : Shape) (i : Nat) : Int × Int :=
  let st := ((sh.dims[2]?).map (·.2)).getD 0
  let one := { sh with dims := sh.dims.take 2 }
  let z : Int := (typeBits sh.ty / 8 : Nat)
  (one.bound.1 + i * st * z, one.bound.2 + i * st * z)

/-- Frames of a plane lie at ascending, disjoint addresses. -/
def framesAscend (sh : Shape) : Bool :=
  decide ((0 : Int) < ((sh.dims[2]?).map (·.2)).getD 0) && decide ((frameSpan sh 0).2 ≤ (frameSpan sh 1).1)

/-- The low end of the command's write interval at each vault raised to the first byte of frame i + 1 (R256, R190). -/
def State.raiseLow (s : State) (c : Context) (p : Pending) (d : Decode') (i : Nat) : State :=
  let shapes := d.planes.filterMap id
  if !shapes.all framesAscend then s
  else
    let lows := shapes.filterMap fun sh =>
      match c.shapeSite sh with
      | .vault q lo _ => some (q, (lo : Int) + ((frameSpan sh (i + 1)).1 - (frameSpan sh 0).1))
      | _ => none
    (p.cmd.foots.map (·.quad)).foldl (fun s q =>
      match ((lows.filter (·.1 = q)).map fun x => x.2.toNat).min? with
      | none => s
      | some lo =>
        let up := fun (e : Entry) => match e with
          | .pending n k rd wr => if n = p.cmd.id then Entry.pending n k rd ⟨max wr.lo lo, wr.hi⟩ else .pending n k rd wr
          | e => e
        s.modQuad q fun x => { x with entries := x.entries.map up }) s

/-- An arrival of an engine at the command's barrier. -/
def State.frameArrive (s : State) (c : Context) (p : Pending) (err : Bool) : State :=
  match p.cmd.bar with
  | some b => s.engineArrive c p.cmd.ldie p.cmd.quad (s.engineNode p) b err
  | none => s

/-- A stop of the decoder at an access: the page fault is raised and the command waits, or it ends there (R240; for
the decoder, notes/assumptions 21). -/
def State.decodeStop (s : State) (name : String) (c : Context) (p : Pending) : EngStop → Out
  | .fault .pageFault d va =>
    .next ((s.modCmd p.cmd.id fun x => { x with phase := .stopped (p.cmd.eng % 2) }).queueFault c.id
      (engineFault p .pageFault d va (p.cmd.eng % 2))).tick
  | .fault code d va =>
    .next ((s.endCommand p code.num p.count p.cond false).queueFault c.id
      (engineFault p code d va (p.cmd.eng % 2))).tick
  | .breach pa => .next (s.breach c.id 1 pa 0).tick
  | .sealed => notEnabled name

/-- The command's slots, as they stand. -/
def State.decoderSlots (s : State) (n : Nat) : Slots := ((s.decoders.find? (·.num = n)).map (·.slots)).getD []

/-- The command's next shown frame, of the bitstream as far as it has been read: what has not been read counts as zeros, and
a frame that needs any of it is not decoded yet (`Shown.upto`). After the batch has stopped, nothing is parsed (R252, R256). -/
def State.nextFrame (s : State) (p : Pending) (d : Decode') : Shown :=
  let slots := s.decoderSlots p.cmd.id
  if p.halted then ⟨blankPicture 8 p.pos, 8, none, slots, p.pos, p.pos⟩
  else
    let bad := fun (a b : Nat) => (List.range (b - a)).any fun k => p.got[a + k]? == some none
    nextShown d ((List.range d.bslen).map fun k => ((p.got[k]?).join).getD 0) bad (d.bslen + 1) p.pos slots

/-- The decoder has to read more of the bitstream before its next frame: every command taken and not halted, whose next
frame ends behind what has been read. -/
def State.bitsWanted (s : State) (p : Pending) : Bool :=
  let d := decodeOf p.bytes
  p.cmd.op == 0x16E && p.engine?.isSome && p.marks == 0 && d.frames != 0 && p.got.length < d.bslen &&
    p.got.length < (s.nextFrame p d).upto

/-- A frame decoded: its planes' and status word's writes are to be made, its slots are refreshed (R253-R255). `marks` 1
marks a frame whose arrival is due, `itemErr` its error bit. -/
def State.decoded (s : State) (p : Pending) (d : Decode') (f : Shown) : State :=
  let concealed := f.code = 4 && d.conceal
  let filled := f.code != 0 && !concealed
  let planes := givenPlanes d f.pic f.code
  let out := { f.pic with planes := match f.grain with | some g => Config.filmGrain g planes | none => planes }
  let (ws, cond) := frameWrites d out filled p.n
  let status := wordWrites (d.stat + 8 * p.n) (statusWord d f.pic p.n f.code filled concealed f.grain.isSome)
  let kept := s.decoders.filter (·.num ≠ p.cmd.id)
  let slots := if p.halted then f.slots else refreshSlots d f.pic f.code f.slots
  { s with decoders := kept ++ [({ num := p.cmd.id, slots := slots } : Sys2Proof.Machine.Decoder)] }.modCmd p.cmd.id fun x =>
    { x with
      phase := .running (p.cmd.eng % 2), marks := 1, itemErr := f.code != 0, pos := f.next,
      halted := p.halted || (f.code != 0 && d.stopping), count := x.count + (if f.code = 0 then 0 else 1),
      cond := joinCond x.cond cond, writes := ws ++ status,
      round := (f.pic.size.map fun (z : Nat × Nat) => z.1 * z.2).getD 0 }

/-- The frame's planes and status word stand: it arrives (R256), and after the last the command is done. -/
def State.frameDone (s : State) (c : Context) (p : Pending) (d : Decode') : State :=
  let s1 := ((s.raiseLow c p d p.n).frameArrive c p p.itemErr).countShared c.id.vf 4 1
  let s2 := s1.charge (.decoder p.cmd.eng) (.ctx c.id) classPixel p.round (8 + p.cmd.eng / 2)
  let s3 := s2.modCmd p.cmd.id fun x => { x with n := x.n + 1, marks := 0, itemErr := false, round := 0 }
  if p.n + 1 < d.frames then s3
  else
    let s4 := { s3 with decoders := s3.decoders.filter (·.num ≠ p.cmd.id) }
    let s5 := s4.endCommand p (if p.halted then 0x20 else p.code) p.count p.cond false
    if p.halted then s5.queueFault c.id (engineFault p .engineError 0 0 (p.cmd.eng % 2)) else s5

/-- The writes of the last frame leave the vaults that hold none of them (R188). -/
def State.decodeSettle (s : State) (c : Context) (n : Nat) : State :=
  match s.cmd? n with
  | some p => if p.n + 1 = (decodeOf p.bytes).frames then s.releaseBut p.cmd (p.writeVaults c) else s
  | none => s

/-- The message that carries a command to its engine. -/
def State.commandMsg? (s : State) (n : Nat) : Option Msg :=
  s.msgs.find? fun m => match m.body with
    | .command k => k = n
    | .decode k => k = n
    | .coll k => k = n
    | _ => false

/-- A DECODE that has arrived before a message's at its decoder, and is not taken (R232). -/
def State.decodeAhead (s : State) (m : Msg) (eng : Nat) : Bool :=
  s.msgs.any fun x => x.id ≠ m.id && x.hops.isEmpty && (x.at' < m.at' || (x.at' == m.at' && x.id < m.id)) &&
    match x.body with
    | .decode k => ((s.cmd? k).map fun y => y.cmd.eng == eng).getD false
    | _ => false

/-- Another command is being performed by a command's decoder. -/
def State.decoderBusy (s : State) (p : Pending) : Bool :=
  s.cmds.any fun x => x.cmd.op = 0x16E && x.cmd.eng = p.cmd.eng && x.cmd.id != p.cmd.id &&
    (match x.phase with | .running _ => true | .stopped _ => true | _ => false)

/-- A decoder that has no command takes the first that has arrived (R232). -/
def State.takeDecode (s : State) (p : Pending) : Out :=
  match s.commandMsg? p.cmd.id with
  | some m =>
    if s.arrived m && !s.decodeAhead m p.cmd.eng && !s.decoderBusy p then
      s.makesRoom (.next ((s.land m.id).modCmd p.cmd.id fun x => { x with phase := .running (p.cmd.eng % 2) }).tick)
    else notEnabled "DECODE_FRAME"
  | none => notEnabled "DECODE_FRAME"

/-- DECODE_FRAME (R251-R256): the decoder takes its next command; it decodes or fills the next shown frame once the bitstream
is read that far; once the frame is written, it arrives. -/
def execEvDecodeFrame (n : Nat) (s : State) : Out :=
  match s.cmd? n with
  | none => notEnabled "DECODE_FRAME"
  | some p =>
    match s.ctx? p.cmd.cx with
    | none => notEnabled "DECODE_FRAME"
    | some c =>
      let d := decodeOf p.bytes
      if p.cmd.op ≠ 0x16E ∨ s.engineRuns p = false then notEnabled "DECODE_FRAME"
      else if p.phase = .queued then s.takeDecode p
      else if p.engine? = none ∨ p.writes ≠ [] ∨ s.postsAway n = true ∨ s.bitsWanted p = true then notEnabled "DECODE_FRAME"
      else if d.frames = 0 then .next (s.endCommand p 0 0 0 false).tick
      else if p.marks = 1 then .next (s.frameDone c p d).tick
      else .next (s.decoded p d (s.nextFrame p d)).tick

end Sys2Proof.Machine
end

