-- ==== Sys2Proof/Machine/Stream.lean ====
section
/-!
DEFINITION. Stream engines, SPARAM, STOK and TOKS (R232, R236-R240, R259, R260).
-/

namespace Sys2Proof.Machine

/-! ### Arrival (R232, R239) -/

/-- Rounds of a stream command. -/
def Pending.rounds (p : Pending) : Nat := bitsOf (fieldAt p.bytes 128) 39 32

/-- The shapes in force, source then destination. -/
def Pending.shapes? (p : Pending) : Option (Shape × Shape) :=
  match parseShape (recordAt p.bytes 64) false false with
  | none => none
  | some d =>
    if p.cmd.op = 0x163 then some (d, d)
    else (parseShape (recordAt p.bytes 0) false false).map fun x => (x, d)

/-- A SPARAM's fields: side, field, dimension. -/
def sparamFields (c : Command) : Bool × Bool × Nat := (bitOf c.low 15, bitOf c.low 14, bitsOf c.low 13 11)

/-- A SPARAM may still reach a boundary of its command, and names a side and a dimension it has: SFILL's source is absent
(R237, R239). -/
def sparamGood (c : Command) (t : Pending) : Bool :=
  match t.shapes? with
  | some (src, dst) =>
    let (side, _, dim) := sparamFields c
    t.round < t.rounds && t.phase != .done && (side || t.cmd.op != 0x163) && dim < (if side then dst else src).rank
  | none => false

/-- STREAM_COMMAND_ARRIVAL (R232, R239): to an idle engine or the queue; a SPARAM to its command. -/
def execEvStreamCommandArrival (n : Nat) (s : State) : Out :=
  match s.msg? n with
  | none => notEnabled "STREAM_COMMAND_ARRIVAL"
  | some m =>
    match m.body, m.dst with
    | .command cid, .mdie die =>
      match s.cmd? cid with
      | none => notEnabled "STREAM_COMMAND_ARRIVAL"
      | some p =>
        let held := s.cmds.countP fun x => x.cmd.op ≤ 0x163 && s.delivered x && s.cmdDie x.cmd = die
        if !s.arrived m || 0x164 < p.cmd.op then notEnabled "STREAM_COMMAND_ARRIVAL"
        else if p.cmd.op = 0x164 then
          let s1 := s.land n
          match s.sparamTarget p.cmd with
          | some t =>
            if sparamGood p.cmd t then
              s.makesRoom (.next (s1.modCmd t.cmd.id fun x => { x with sparams := x.sparams ++ [cid] }).tick)
            else s.makesRoom (.next (s1.endCommand p 0x18 0 0 false).tick)
          | none => s.makesRoom (.next (s1.endCommand p 0x18 0 0 false).tick)
        else
          let s1 := { s.land n with nextId := s.nextId + 1 }.modCmd cid fun x => { x with order := s.nextId }
          match s.idleEngine die with
          | some e => s.makesRoom (.next (s1.modCmd cid fun x => { x with phase := .running e }).tick)
          | none => if held < 64 then s.makesRoom (.next s1.tick) else notEnabled "STREAM_COMMAND_ARRIVAL"
    | _, _ => notEnabled "STREAM_COMMAND_ARRIVAL"

/-! ### Elements (R236-R238) -/

/-- A stream command's parameters in force. -/
structure StreamArgs where
  op : Nat
  src : Shape
  dst : Shape
  /-- the shape walked: the source of SSCATTER, the destination of the others -/
  walk : Shape
  rnd : Nat
  sat : Bool
  fill : Nat
  idx : Nat
  idx64 : Bool
  mark : Nat
  mcap : Nat
  deriving DecidableEq, Repr

def Pending.args? (p : Pending) : Option StreamArgs :=
  p.shapes?.map fun (src, dst) =>
    let ctl := fieldAt p.bytes 128
    { op := p.cmd.op, src := src, dst := dst, walk := if p.cmd.op = 0x162 then src else dst, rnd := bitsOf ctl 7 5,
      sat := bitOf ctl 8, fill := fieldAt p.bytes 136, idx := fieldAt p.bytes 144, idx64 := bitOf ctl 9,
      mark := fieldAt p.bytes 152, mcap := fieldAt p.bytes 160 % 2 ^ 32 }

/-- A command has walked its round: n = N, or the zero-extent markers are out. -/
def roundOver (p : Pending) (a : StreamArgs) : Bool := if a.walk.count = 0 then p.n == 1 else a.walk.count ≤ p.n

/-- What one element does: its writes, and what it adds to COUNT, CODE and COND. -/
structure ElemOut where
  writes : List EngWrite
  count : Nat
  poisoned : Bool
  cond : Nat
  deriving DecidableEq, Repr

/-- The pieces of index element n. -/
def indexPieces (a : StreamArgs) (n : Nat) : List (Nat × Nat × Nat) :=
  let z := if a.idx64 then 8 else 4
  linePieces (a.idx + n * z) z

/-- Index element n, once it has been read: its value, and whether it carries poison. -/
def Pending.index? (p : Pending) (a : StreamArgs) (n : Nat) : Option (Int × Bool) :=
  (latched p.lines (indexPieces a n)).map fun (v, bad) => (signedOf (if a.idx64 then 64 else 32) v, bad)

/-- The pieces element n still needs, those that can be named: its index's, then its source's (R238). -/
def Pending.wanted (p : Pending) (a : StreamArgs) (n : Nat) : List (Nat × Nat × Nat) :=
  if a.walk.count = 0 || a.op = 0x163 then []
  else if a.op = 0x160 then p.missing (elemPieces a.src n)
  else
    match p.index? a n with
    | none => p.missing (indexPieces a n)
    | some (x, bad) =>
      if bad then []
      else if a.op = 0x161 then (if 0 ≤ x ∧ x < a.src.count then p.missing (elemPieces a.src x.toNat) else [])
      else if 0 ≤ x ∧ x < a.dst.count then p.missing (elemPieces a.src n)
      else []

/-- Element `p.n` of the walk, its pieces read, markers not among its writes (R238). -/
def Pending.streamElem (p : Pending) (a : StreamArgs) : Option ElemOut :=
  let n := p.n
  let u := stochasticDraw p.cmd.seed p.cmd.tag 0 (n + p.round * a.walk.count)
  let put := fun (k v cond : Nat) (bad : Bool) (cnt : Nat) =>
    ElemOut.mk (writesOf a.dst k v bad) cnt bad cond
  let copy := fun (x k : Nat) =>
    (p.elem? a.src x).map fun (v, bad) =>
      let (w, cond) := if bad then (0, 0) else convElem a.src.ty a.dst.ty a.rnd a.sat u v
      put k w cond bad 0
  if a.walk.count = 0 then some ⟨[], 0, false, 0⟩
  else if a.op = 0x163 then some (put n a.fill 0 false 0)
  else if a.op = 0x160 then copy n n
  else
    (p.index? a n).bind fun (x, bad) =>
      if a.op = 0x161 then
        if bad then some (put n 0 0 true 0)
        else if 0 ≤ x ∧ x < a.src.count then copy x.toNat n
        else some (put n a.fill 0 false 1)
      else if bad then some ⟨[], 1, true, 0⟩
      else if 0 ≤ x ∧ x < a.dst.count then copy n x.toNat
      else some ⟨[], 1, false, 0⟩

/-- The dimensions whose markers follow element n; for zero extents every dimension, with count 0 (R236). -/
def markersAfter (p : Pending) (a : StreamArgs) : List (Nat × Nat) :=
  if !a.dst.marks then []
  else if a.walk.count = 0 then (List.range a.walk.rank).map fun k => (k, 0)
  else (endedDims a.walk.dims 0 p.n).map fun k => (k, p.n + 1)

/-- Markers written from number `from'` on, and how many MCAP drops. -/
def markerWrites (a : StreamArgs) (from' : Nat) (ms : List (Nat × Nat)) : List EngWrite × Nat :=
  let kept := ms.take (a.mcap - from')
  ((List.zipIdx kept).flatMap fun (m, k) => wordWrites (a.mark + 8 * (from' + k)) (markerWord m.2 m.1),
   ms.length - kept.length)

/-- Every write translates: the engine stops before the element whose access faults (R240). -/
def checkWrites (u : XUnit) (c : Context) : List EngWrite → State → State × Except EngStop Unit
  | [], s => (s, .ok ())
  | w :: r, s =>
    match s.engineXlate u c w.va w.n .write with
    | (s1, .ok _) => checkWrites u c r s1
    | (s1, .error (.fault .poison _ _)) => checkWrites u c r s1
    | (s1, .error e) => (s1, .error e)

/-- One element performed into the command's pending writes, once its pieces have been read: until then it waits. -/
def stepElem (s : State) (u : XUnit) (c : Context) (p : Pending) (a : StreamArgs) : State × Except EngStop Pending :=
  match p.streamElem a with
  | none => (s, .error .sealed)
  | some o =>
    let ms := markersAfter p a
    let (mw, dropped) := markerWrites a p.marks ms
    match checkWrites u c (o.writes ++ mw) s with
    | (s2, .error e) => (s2, .error e)
    | (s2, .ok ()) =>
      (s2, .ok { p with
        n := p.n + 1, marks := p.marks + ms.length, count := p.count + o.count + dropped,
        code := if o.poisoned then 0x14 else p.code, cond := p.cond ||| o.cond,
        writes := p.writes ++ o.writes ++ mw })

/-- How many elements from the next on are written together: those whose places stay in one HBM line (R187, R372); one, where
markers follow elements, the places are scattered, or the destination is a vault. -/
def runLength (c : Context) (p : Pending) (a : StreamArgs) : Nat :=
  let z := max 1 (typeBits a.dst.ty / 8)
  let at' := fun (k : Nat) => (a.dst.place (positionOf a.dst.dims (p.n + k))).1
  if a.walk.count = 0 || a.op = 0x162 || a.dst.marks || (c.aperture? (at' 0)).isSome then 1
  else 1 + ((List.range 127).takeWhile fun k =>
    p.n + k + 1 < a.walk.count && (at' k + z - 1) / 64 == at' 0 / 64 && at' (k + 1) / 64 == at' 0 / 64).length

/-- The pieces a stream command wants next: those its run's elements still need, in order. -/
def Pending.streamWants (p : Pending) (c : Context) (a : StreamArgs) : List (Nat × Nat × Nat) :=
  (List.range (runLength c p a)).flatMap fun k => p.wanted a (p.n + k)

/-- How many elements of the run may be performed: all, once every piece has been read, or those before the first whose next
piece cannot be read (R240). -/
def State.streamReady (s : State) (u : XUnit) (c : Context) (p : Pending) (a : StreamArgs) : Nat :=
  match (List.range (runLength c p a)).find? fun k => !(p.wanted a (p.n + k)).isEmpty with
  | none => runLength c p a
  | some k => if ((p.wanted a (p.n + k)).head?.bind (s.pieceStop u c)).isSome then k else 0

/-- Elements performed in order; a stop ends the run before its element. -/
def streamRun (u : XUnit) (c : Context) (a : StreamArgs) : Nat → State → Pending → State × Pending
  | 0, s, p => (s, p)
  | k + 1, s, p =>
    match stepElem s u c p a with
    | (s1, .ok p1) => streamRun u c a k s1 p1
    | (s1, .error _) => (s1, p)

/-- The walk of the last round is over: nothing more is read. -/
def walkOver (p : Pending) (a : StreamArgs) : Bool := roundOver p a && p.round == p.rounds

/-- After its accesses of a step: with the last round over and every write made the command is done; each vault it will not
access again is released (R188; notes/assumptions 83). -/
def State.streamSettle (s : State) (n : Nat) : State :=
  match s.cmd? n with
  | none => s
  | some p =>
    match p.args?, s.ctx? p.cmd.cx with
    | some a, some c =>
      if !walkOver p a then s
      else if p.writes.isEmpty then s.endCommand p p.code p.count p.cond p.itemErr
      else s.releaseBut p.cmd (p.writeVaults c)
    | _, _ => s

/-- What a stop of the next element does: nothing (sealed), the fault of R240, the violation of R322. -/
inductive StopKind where
  | pageFault (va detail : Nat)
  | permission (va detail : Nat)
  | breach (pa : Nat)
  | wait
  deriving DecidableEq, Repr

def EngStop.kind : EngStop → StopKind
  | .fault .pageFault d va => .pageFault va d
  | .fault _ d va => .permission va d
  | .breach pa => .breach pa
  | .sealed => .wait

/-- The next access of a running stream command, tried: the next piece of its next element when no write is pending, and then the
element's writes; else the first pending write. -/
def State.nextStop (s : State) (u : XUnit) (c : Context) (p : Pending) (a : StreamArgs) : Option StopKind :=
  match p.writes with
  | w :: _ =>
    match s.engineXlate u c w.va w.n .write with
    | (_, .error (.fault .poison _ _)) => none
    | (_, .error e) => some e.kind
    | _ => none
  | [] =>
    match p.wanted a p.n with
    | x :: _ => (s.pieceStop u c x).map (·.kind)
    | [] =>
      match stepElem s u c p a with
      | (_, .error e) => some e.kind
      | _ => none

/-- STREAM_COMMAND_PERFORM (R238): the next element, or the elements of one HBM line, of what has been read line by line
(R187). -/
def execEvStreamCommandPerform (n : Nat) (s : State) : Out :=
  match s.cmd? n with
  | none => notEnabled "STREAM_COMMAND_PERFORM"
  | some p =>
    match p.engine?, p.args?, s.ctx? p.cmd.cx with
    | some e, some a, some c =>
      let u := s.engineUnit p
      if !p.writes.isEmpty || roundOver p a || !s.engineRuns p then notEnabled "STREAM_COMMAND_PERFORM"
      else
        let ready := s.streamReady u c p a
        match s.nextStop u c p a with
        | some (.breach pa) => .next (s.breach c.id 1 pa 0).tick
        | some _ => notEnabled "STREAM_COMMAND_PERFORM"
        | none =>
          if ready = 0 then notEnabled "STREAM_COMMAND_PERFORM"
          else
            let (s2, p2) := streamRun u c a ready s p
            let moved := (p2.n - p.n) * (typeBits a.dst.ty + 7) / 8
            let die := s.cmdDie p.cmd
            let s3 := (s2.charge (.stream die e) (.ctx c.id) classByte moved (8 + die)).countShared c.id.vf 3 moved
            s.inOrder "STREAM_COMMAND_PERFORM" (.next ((s3.modCmd n fun _ => { p2 with lines := [] }).streamSettle n).tick)
    | _, _, _ => notEnabled "STREAM_COMMAND_PERFORM"

/-- STREAM_PAGE_FAULT_STOP (R240): the engine stops before the element; a PERMISSION ends the command there. -/
def execEvStreamPageFaultStop (n : Nat) (s : State) : Out :=
  match s.cmd? n with
  | none => notEnabled "STREAM_PAGE_FAULT_STOP"
  | some p =>
    match p.engine?, p.args?, s.ctx? p.cmd.cx with
    | some e, some a, some c =>
      if (roundOver p a && p.writes.isEmpty) || !s.engineRuns p then notEnabled "STREAM_PAGE_FAULT_STOP"
      else
        match s.nextStop (s.engineUnit p) c p a with
        | some (.pageFault va d) =>
          .next ((s.modCmd n fun x => { x with phase := .stopped e, lines := [] }).queueFault c.id (engineFault p .pageFault d va e)).tick
        | some (.permission va d) =>
          .next ((s.endCommand p 0x13 p.count p.cond p.itemErr).queueFault c.id (engineFault p .permission d va e)).tick
        | _ => notEnabled "STREAM_PAGE_FAULT_STOP"
    | _, _, _ => notEnabled "STREAM_PAGE_FAULT_STOP"

/-! ### Round boundaries (R239) -/

/-- `v` put into `n` bytes at an offset of a block. -/
def patch (bs : List Byte) (off n v : Nat) : List Byte := bs.take off ++ leBytes n v ++ bs.drop (off + n)

/-- A block with one SPARAM applied. -/
def applySparam (bs : List Byte) (c : Command) : List Byte :=
  let (side, field, dim) := sparamFields c
  let at' := if side then 64 else 0
  if field then patch bs (at' + 16 + 8 * dim) 4 (c.val.toNat % 2 ^ 32) else patch bs at' 8 c.val.toNat

/-- A side stays inside the bound it registered at issue: the same vault and interval, or HBM as before (R237, R239). -/
def inBound (c : Context) (old new : Shape) (xb : Nat) : Bool :=
  match c.site new.base new.bound.1 new.bound.2, boundOf old xb with
  | .vault q lo hi, some b =>
    (match c.site old.base b.1 b.2 with
      | .vault v l h => v == q && (new.count == 0 || (l ≤ lo && hi ≤ h))
      | _ => false)
  | .hbm, some b => (match c.site old.base b.1 b.2 with | .hbm => true | _ => false)
  | _, _ => false

/-- The index array of a new walk stays inside what was registered for it at issue: where it lies in a vault, the walk grows
no longer (R237, R239). -/
def indexKept (c : Context) (op idx n0 n : Nat) : Bool :=
  !(op = 0x161 || op = 0x162) || (c.aperture? idx).isNone || n ≤ n0

/-- The shapes of a new round are valid, of equal counts where they must be, and within their bounds. -/
def roundGood (c : Context) (p : Pending) (bs : List Byte) : Bool :=
  match { p with bytes := bs }.shapes?, { p with bytes := p.cmd.bytes }.shapes? with
  | some (src, dst), some (src0, dst0) =>
    streamCounts p.cmd.op src dst && (p.cmd.op = 0x163 || inBound c src0 src (fieldAt bs 168)) &&
      inBound c dst0 dst (fieldAt bs 176) &&
      indexKept c p.cmd.op (fieldAt bs 144) (streamN p.cmd.op (some src0) (some dst0)) (streamN p.cmd.op (some src) (some dst))
  | _, _ => false

/-- STREAM_ROUND_BOUNDARY (R239). -/
def execEvStreamRoundBoundary (n : Nat) (s : State) : Out :=
  match s.cmd? n with
  | none => notEnabled "STREAM_ROUND_BOUNDARY"
  | some p =>
    match p.engine?, p.args?, s.ctx? p.cmd.cx with
    | some _, some a, some c =>
      if !roundOver p a || !p.writes.isEmpty || p.rounds ≤ p.round || !s.engineRuns p then
        notEnabled "STREAM_ROUND_BOUNDARY"
      else
        let bs := (p.sparams.filterMap s.cmd?).foldl (fun bs x => applySparam bs x.cmd) p.bytes
        let sps := p.sparams.filterMap s.cmd?
        if !sps.isEmpty && !roundGood c p bs then
          let s1 := sps.foldl (fun s x => s.endCommand x 0x18 0 0 false) s
          .next ((s1.modCmd n fun x => { x with sparams := [] }).endCommand p 0x18 p.count p.cond p.itemErr).tick
        else
          let s1 := sps.foldl (fun s x => s.endCommand x 0 0 0 false) s
          .next (s1.modCmd n fun x => { x with bytes := bs, sparams := [], round := x.round + 1, n := 0 }).tick
    | _, _, _ => notEnabled "STREAM_ROUND_BOUNDARY"

/-! ### STOK (R259) -/

/-- The payload of an element as a token. -/
def payloadOf (t v : Nat) : Nat := if isSignedType t then lowBits 64 (signedOf (typeBits t) v) else v

/-- A token of an engine: its credit taken, its item on the way to the space table, the token to follow (R266). -/
def State.engineToken (s : State) (p : Pending) (circ iter : Nat) (v : Word) : State :=
  let tag := p.cmd.tag / 65536 * 65536 + iter % 65536
  let s1 := s.modCtx p.cmd.cx fun c => { c with credits := modAt circ (· - 1) c.credits }
  s1.send p.cmd.cx (.quad p.cmd.quad) .k 0
    (.tableItem p.cmd.cx (tagSpace tag) (tagGen tag) 1 (some (circ, tag, p.cmd.id, v)))

/-- The capacity of a command's space. -/
def State.capacityOf (s : State) (p : Pending) : Nat :=
  ((s.space? p.cmd.cx (tagSpace p.cmd.tag)).map fun x => 2 ^ x.k).getD 0

/-- STOK has an element still to read: one whose iteration reaches the space's capacity is not read (R259). -/
def State.stokReads (s : State) (p : Pending) (N k : Nat) : Bool :=
  k < N && fieldAt p.bytes 64 % 65536 + k < s.capacityOf p

/-- STOK has read its last element: its source is released (R188); with its last marker sent it has sent everything. -/
def State.stokSettle (s : State) (n N : Nat) : State :=
  match s.cmd? n with
  | some p =>
    if (if N = 0 then p.n = 1 else N ≤ p.n) && p.pendingMarks.isEmpty then s.endCommand p p.code p.count p.cond p.itemErr
    else if !s.stokReads p N p.n then s.releaseBut p.cmd []
    else s
  | none => s

/-- The pieces STOK wants next: those of the element it is to send, once the markers of the one before it are out. -/
def State.stokWants (s : State) (p : Pending) : List (Nat × Nat × Nat) :=
  match p.cmd.op, parseShape (recordAt p.bytes 0) false false with
  | 0x172, some sh =>
    let going := match p.phase with | .queued => true | .running _ => true | _ => false
    if going && p.pendingMarks.isEmpty && s.stokReads p sh.count p.n then p.missing (elemPieces sh p.n) else []
  | _, _ => []

/-- The last piece STOK will read has been read: its source is released (R188). -/
def State.stokRead (s : State) (p : Pending) : State :=
  match parseShape (recordAt p.bytes 0) false false with
  | some sh =>
    if (p.missing (elemPieces sh p.n)).isEmpty && !s.stokReads p sh.count (p.n + 1) then s.releaseBut p.cmd [] else s
  | none => s

/-- STOK_ELEMENT_SEND (R259): the next marker, or the next element, once it has been read line by line (R187); it waits for a
credit (R220). A page fault of its source stops it as R240 says (notes/assumptions 51). -/
def execEvStokElementSend (n : Nat) (s : State) : Out :=
  match s.cmd? n with
  | none => notEnabled "STOK_ELEMENT_SEND"
  | some p =>
    match parseShape (recordAt p.bytes 0) false false, s.ctx? p.cmd.cx with
    | some sh, some c =>
      let going := match p.phase with | .queued => true | .running _ => true | _ => false
      if p.cmd.op ≠ 0x172 ∨ going = false ∨ s.engineRuns p = false then notEnabled "STOK_ELEMENT_SEND"
      else
        let w := fieldAt p.bytes 64
        let iter0 := w % 65536
        let circ := p.cmd.low % 1024
        let mcirc := bitsOf w 25 16
        let N := sh.count
        match p.pendingMarks with
        | (dim, it) :: rest =>
          if (c.credits[mcirc]?).getD 0 = 0 then notEnabled "STOK_ELEMENT_SEND"
          else .next (((s.engineToken p mcirc it (toWord dim)).modCmd n fun x => { x with pendingMarks := rest }).stokSettle n N).tick
        | [] =>
          let marks := if !sh.marks || mcirc == 0x3FF then []
            else if N = 0 then (List.range sh.rank).map fun k => (k, iter0)
            else (endedDims sh.dims 0 p.n).map fun k => (k, iter0 + p.n)
          let next := fun (s : State) (k : Nat) => Host.Outcome.next ((s.modCmd n fun x =>
            { x with n := x.n + 1, pendingMarks := marks, count := x.count + k, lines := [] }).stokSettle n N).tick
          if N = 0 then next s 0
          else if s.capacityOf p ≤ iter0 + p.n then next s 1
          else
            match p.elem? sh p.n with
            | some (v, bad) =>
              let s2 := s.chargeMoved p (elemBytes sh.ty)
              if bad then next s2 1
              else if (c.credits[circ]?).getD 0 = 0 then notEnabled "STOK_ELEMENT_SEND"
              else next (s2.engineToken p circ (iter0 + p.n) (toWord (payloadOf sh.ty v))) 0
            | none =>
              match (s.stokWants p).head?.bind (s.pieceStop (s.engineUnit p) c) with
              | some (.fault .pageFault d va) =>
                .next ((s.modCmd n fun x => { x with phase := .stopped 0, lines := [] }).queueFault c.id (engineFault p .pageFault d va 0)).tick
              | some (.fault code d va) =>
                .next ((s.endCommand p code.num p.count p.cond p.itemErr).queueFault c.id (engineFault p code d va 0)).tick
              | some (.breach pa) => .next (s.breach c.id 1 pa 0).tick
              | _ => notEnabled "STOK_ELEMENT_SEND"
    | _, _ => notEnabled "STOK_ELEMENT_SEND"

/-! ### TOKS (R260) -/

/-- TOKS_TOKEN_CAPTURE (R260): `n` is the token's message. -/
def execEvToksTokenCapture (n : Nat) (s : State) : Out :=
  match s.msg? n with
  | none => notEnabled "TOKS_TOKEN_CAPTURE"
  | some m =>
    match m.body, m.dst, s.ctx? m.cx with
    | .token circ tag v border, .quad qi, some c =>
      match s.quad? qi, (s.quad? qi).bind fun q => s.toksFor q circ with
      | some q, some p =>
        match parseShape (recordAt p.bytes 0) false false with
        | none => notEnabled "TOKS_TOKEN_CAPTURE"
        | some sh =>
          if !s.arrived m || (c.crosses circ && !border) || (s.recorder m).isSome || !s.engineRuns p || !s.unblocked p then
            notEnabled "TOKS_TOKEN_CAPTURE"
          else if s.stale c.id tag then
            .next ((s.land n).discardToken c q 0 (c.codeBase + ((c.circuits[circ]?).map (·.block)).getD 0) circ tag v).tick
          else
            let iter0 := fieldAt p.bytes 64 % 65536
            let want := bitsOf (fieldAt p.bytes 64) 31 16
            let k := tagIter tag - iter0
            let s1 := ((s.land n).returnCredit c qi circ).uncountTag c.id tag
            if tagIter tag < iter0 ∨ sh.count ≤ k then
              .next (s1.modCmd p.cmd.id fun x => { x with count := x.count + 1 }).tick
            else
              let s2 := (s1.homeWrites c qi 6 (writesOf sh k v.toNat false)).chargeMoved p (elemBytes sh.ty)
              let done := p.n + 1 = want
              let s3 := s2.modCmd p.cmd.id fun x => { x with n := x.n + 1 }
              .next (if done then s3.endCommand { p with n := want } 0 p.count 0 false else s3).tick
      | _, _ => notEnabled "TOKS_TOKEN_CAPTURE"
    | _, _, _ => notEnabled "TOKS_TOKEN_CAPTURE"

end Sys2Proof.Machine
end

