-- ==== Sys2Proof/Machine/Collective.lean ====
section
/-!
DEFINITION. Collective groups: which commands form one, what each rank contributes and receives (R195, R257, R258,
R373, R399); and the engines' line accesses, a collective's among them (R187).
-/

namespace Sys2Proof.Machine

/-- A COLL command as its block names it (R257). -/
structure Coll' where
  send : Nat
  recv : Nat
  count : Nat
  ty : Nat
  kind : Nat
  op : Nat
  scope : Nat
  nranks : Nat
  rank : Nat
  root : Nat
  key : Nat
  deriving DecidableEq, Repr

def collOf (bs : List Byte) : Coll' :=
  let w := fieldAt bs 16
  let r := fieldAt bs 24
  { send := fieldAt bs 0, recv := fieldAt bs 8, count := w % 2 ^ 32, ty := bitsOf w 35 32, kind := bitsOf w 39 36,
    op := bitsOf w 43 40, scope := bitsOf w 46 44, nranks := r % 65536, rank := bitsOf r 31 16, root := bitsOf r 47 32,
    key := fieldAt bs 32 }

/-- The fields that must be equal across a group (R258): all but the addresses and the rank. -/
def Coll'.fields (k : Coll') : List Nat := [k.count, k.ty, k.kind, k.op, k.nranks, k.root]

/-- Elements a rank contributes. -/
def Coll'.sends (k : Coll') : Nat :=
  if k.kind = 3 ∧ k.rank ≠ k.root then 0 else (collSizes k.kind k.count k.nranks).1

/-- A contribution's values, none for a poisoned element. -/
abbrev Part := List (Option Word)

/-- The reduction of one element's values in rank order, rounded to the type, with its conditions (R258, R170). -/
def collReduce (k : Coll') (xs : List (Option Word)) : Option Word × Nat :=
  if xs.contains none then (none, 0)
  else
    let vs := xs.filterMap fun x => x.map (·.toNat)
    let op := if k.op ≤ 2 then k.op else k.op + 2
    let r := vredOut op k.ty (vredRun op k.ty vs)
    (some (toWord r.1), condOf r.2 (k.op ≤ 2 && vs.any (isSnan k.ty)))

/-- What a rank receives, of the parts in rank order. -/
def collResult (k : Coll') (parts : List Part) : List (Option Word × Nat) :=
  let column := fun j => collReduce k (parts.map fun p => (p[j]?).getD none)
  match k.kind with
  | 0 => (List.range k.count).map column
  | 1 => (List.range k.count).map fun j => column (k.rank * k.count + j)
  | 2 => parts.flatMap fun p => p.map fun v => (v, 0)
  | _ => ((parts[k.root]?).getD []).map fun v => (v, 0)

/-- The writes of a rank's result. -/
def collWrites (k : Coll') (rs : List (Option Word × Nat)) : List EngWrite :=
  let z := typeBits k.ty / 8
  (List.zipIdx rs).flatMap fun (v, n) => (linePieces (k.recv + n * z) z).map fun (a, m, o) =>
    ⟨a, m, ((v.1.map (·.toNat)).getD 0) / 2 ^ (8 * o), none, v.1.isNone, false⟩

/-- A collective command has arrived at its engine and may go on. -/
def State.collReady (s : State) (p : Pending) : Bool :=
  p.cmd.op == 0x16F && (match p.phase with | .queued => true | .running _ => true | _ => false) && s.engineRuns p &&
    (match s.commandMsg? p.cmd.id with | some m => s.arrived m | none => true)

/-- A rank's contribution is read. -/
def Pending.collRead (p : Pending) : Bool := (collOf p.bytes).sends ≤ p.vals.length

/-- The commands of this package that wait in the group of a command: one function, equal KEY and SCOPE (R258). A group
whose results are being written has `marks` 1 and is closed to others. -/
def State.collGroup (s : State) (p : Pending) : List Pending :=
  s.cmds.filter fun x => s.collReady x && x.marks == 0 && x.cmd.cx.vf == p.cmd.cx.vf &&
    (collOf x.bytes).key == (collOf p.bytes).key && (collOf x.bytes).scope == (collOf p.bytes).scope

/-- A contribution of another package, put together of its packets: their messages and source, rank, fields, values, and how
many values it has in all. -/
structure PodPart where
  msgs : List Nat
  src : Node
  rank : Nat
  fields : List Nat
  vals : Part
  total : Nat
  deriving DecidableEq, Repr

/-- One packet more of a contribution: behind the packets of its source and rank before it, or the first of a new one. -/
def addPart (x : PodPart) (first : Nat) : List PodPart → List PodPart
  | [] => if first = 0 then [x] else []
  | y :: r =>
    if y.src = x.src ∧ y.rank = x.rank ∧ y.vals.length = first ∧ y.vals.length < y.total then
      { y with msgs := y.msgs ++ x.msgs, vals := y.vals ++ x.vals } :: r
    else y :: addPart x first r

/-- Contributions of other packages to the group, those whose every packet is here. -/
def State.collParts (s : State) (p : Pending) : List PodPart :=
  let k := collOf p.bytes
  if k.scope = 5 then
    (s.msgs.foldl (fun ps m => match m.body with
      | .part vf key rank fields vals first total =>
        if m.cls = 20 ∧ vf = p.cmd.cx.vf ∧ key = k.key then addPart ⟨[m.id], m.src, rank, fields, vals, total⟩ first ps else ps
      | _ => ps) []).filter fun x => x.vals.length = x.total
  else []

/-- A stop of a collective's access (R240; for collectives, notes/assumptions 21). -/
def State.collStop (s : State) (name : String) (p : Pending) (e : EngStop) : Out :=
  match e with
  | .fault .pageFault d va =>
    .next ((s.modCmd p.cmd.id fun x => { x with phase := .stopped 0, lines := [] }).queueFault p.cmd.cx
      (engineFault p .pageFault d va 0)).tick
  | .fault code d va =>
    .next ((s.endCommand p code.num 0 0 false).queueFault p.cmd.cx (engineFault p code d va 0)).tick
  | .breach pa => .next (s.breach p.cmd.cx 1 pa 0).tick
  | .sealed => notEnabled name

/-! ### A group's completion (R195, R258) -/

/-- One rank's result: its writes are to be made, line by line. `gid` names the group while it is written. -/
def State.collResults (s : State) (parts : List Part) (code gid : Nat) (p : Pending) : State :=
  let k := collOf p.bytes
  let rs := collResult k parts
  let m := s.cmdDie p.cmd
  let bytes := rs.length * (typeBits k.ty / 8)
  ((s.countShared p.cmd.cx.vf 5 bytes).charge (.coll m) (.ctx p.cmd.cx) classColl bytes (8 + m)).modCmd p.cmd.id fun x =>
    { x with phase := .running 0, marks := 1, order := gid, code := code, cond := rs.foldl (fun a r => joinCond a r.2) 0,
             writes := collWrites k rs }

/-- The messages of a group's commands and parts are consumed. -/
def State.dropGroup (s : State) (ps : List Pending) (parts : List PodPart) : State :=
  let s1 := ps.foldl (fun s p => match s.commandMsg? p.cmd.id with | some m => s.land m.id | none => s) s
  (parts.flatMap (·.msgs)).foldl State.dropMsg s1

/-- A contribution cut for its packets: 256 values each, which with their fields stay below the 4,096 bytes of R398 (DESIGN
CHOICE, notes/assumptions 66: the transport's layout is not given). -/
def chunksOf : Nat → Part → List Part
  | 0, _ => []
  | k + 1, xs => if xs.length ≤ 256 then [xs] else xs.take 256 :: chunksOf k (xs.drop 256)

/-- The contributions of this package's ranks on their way to the other packages of the pod (R399, class 3). -/
def State.sendParts (s : State) (ps : List Pending) : State :=
  ps.foldl (fun s p =>
    let k := collOf p.bytes
    let s1 := s.modCmd p.cmd.id fun x => { x with round := 1 }
    ((List.range s.podSize).filter (· ≠ s.pkgNo)).foldl (fun s pk =>
      ((chunksOf (p.vals.length + 1) p.vals).zipIdx).foldl (fun s (v, n) =>
        s.send p.cmd.cx (s.engineNode p) (.pod pk) 3 (.part p.cmd.cx.vf k.key k.rank k.fields v (256 * n) p.vals.length)
          [.ether (podPort pk)]) s) s1) s

/-- The ranks of this package in a group whose results are being written. -/
def State.collWriting (s : State) (p : Pending) : List Pending :=
  s.cmds.filter fun x => x.cmd.op == 0x16F && x.marks == 1 && x.order == p.order && x.phase != .done

/-- The group command `n` belongs to, taken further: a rank of a .pod group sends its contribution,
once read; with NRANKS ranks there the results are computed; and when every result of this package's ranks stands, its
commands are done. -/
def State.collComplete (s : State) (n : Nat) : Out :=
  match s.cmd? n with
  | none => notEnabled "COLL_GROUP_COMPLETE"
  | some p0 =>
    let k := collOf p0.bytes
    if p0.cmd.op ≠ 0x16F then notEnabled "COLL_GROUP_COMPLETE"
    else if p0.marks = 1 then
      let ps := s.collWriting p0
      if p0.phase = .done || ps.any fun p => !p.writes.isEmpty || s.postsAway p.cmd.id then notEnabled "COLL_GROUP_COMPLETE"
      else .next (ps.foldl (fun s p => s.endCommand p p.code 0 p.cond false) s).tick
    else
      let all := s.collGroup p0
      let parts := s.collParts p0
      let local' := all.take (k.nranks - parts.length)
      let unsent := local'.filter fun p => p.round = 0
      if !s.collReady p0 || (all.head?.map (·.cmd.id)) != some n then notEnabled "COLL_GROUP_COMPLETE"
      else if k.scope = 5 && 1 < s.podSize && !unsent.isEmpty then
        if unsent.all (·.collRead) then .next (s.sendParts unsent).tick else notEnabled "COLL_GROUP_COMPLETE"
      else if local'.length + parts.length < k.nranks then notEnabled "COLL_GROUP_COMPLETE"
      else
        let ranks := (local'.map fun p => (collOf p.bytes).rank) ++ parts.map (·.rank)
        let equal := (local'.all fun p => (collOf p.bytes).fields == k.fields) && parts.all (·.fields == k.fields)
        let once := (List.range k.nranks).all ranks.contains
        let gone := s.dropGroup local' parts
        if !equal || !once then .next (local'.foldl (fun s p => s.endCommand p 0x20 0 0 false) gone).tick
        else if !(local'.all (·.collRead)) then notEnabled "COLL_GROUP_COMPLETE"
        else
          let got := (local'.map fun p => ((collOf p.bytes).rank, p.vals)) ++ parts.map fun x => (x.rank, x.vals)
          let ordered := (List.range k.nranks).map fun r => valueOf r [] got
          let code := if ordered.any (·.contains none) then 0x14 else 0
          .next (local'.foldl (fun (t : State) p => t.collResults ordered code s.nextId p)
            { gone with nextId := gone.nextId + 1 }).tick

/-- COLL_GROUP_COMPLETE (R195, R258). -/
def execEvCollGroupComplete (n : Nat) (s : State) : Out := s.makesRoom (s.collComplete n)

/-! ### Line accesses (R187) -/

/-- The pieces of element `n` of a SEND buffer. -/
def Coll'.pieces (k : Coll') (n : Nat) : List (Nat × Nat × Nat) :=
  linePieces (k.send + n * (typeBits k.ty / 8)) (typeBits k.ty / 8)

/-- How many elements a line of a SEND buffer may hold, or begin in. -/
def Pending.collSpan (p : Pending) : Nat :=
  let k := collOf p.bytes
  min (k.sends - p.vals.length) (64 / (typeBits k.ty / 8) + 1)

/-- The pieces a collective's engine wants next. -/
def Pending.collWants (p : Pending) : List (Nat × Nat × Nat) :=
  p.missing ((List.range p.collSpan).flatMap fun i => (collOf p.bytes).pieces (p.vals.length + i))

/-- The elements whose every piece has been read join the contribution. -/
def Pending.collTake (p : Pending) : Pending :=
  let k := collOf p.bytes
  let got := (((List.range p.collSpan).map fun i => latched p.lines (k.pieces (p.vals.length + i))).takeWhile (·.isSome)).filterMap id
  { p with
    vals := p.vals ++ got.map fun x => if x.2 then none else some (toWord x.1),
    lines := p.lines.filter fun l => k.send + (p.vals.length + got.length) * (typeBits k.ty / 8) ≤ l.1 }

/-- A collective's next line read. With the last of them, the vaults the results do not go to are released (R188). -/
def State.collLine (s : State) (name : String) (c : Context) (p : Pending) : Out :=
  match p.collWants.head?.bind (s.pieceStop (s.engineUnit p) c) with
  | some e => s.collStop name p e
  | none =>
    s.latchLine name c p p.collWants fun p1 s =>
      let s1 := s.modCmd p.cmd.id fun _ => p1.collTake
      if p1.collTake.collRead then s1.releaseBut p.cmd ((p.cmd.foots.filter fun f => f.wr.lo < f.wr.hi).map (·.quad)) else s1

/-- A decoder's next line of its bitstream, kept with the poison it is read with (R187, R255). -/
def State.bitLine (s : State) (name : String) (c : Context) (p : Pending) : Out :=
  let d := decodeOf p.bytes
  match linesFrom' (d.bsva + p.got.length) (d.bslen - p.got.length) with
  | [] => notEnabled name
  | (a, n, k) :: _ =>
    match s.readLine (s.engineUnit p) c a n with
    | (s1, .error e) => s1.decodeStop name c p e
    | (_, .ok _) =>
      s.lineGate name p true (s.linesOf c [(a, n, k)]) fun s =>
        match s.readLine (s.engineUnit p) c a n with
        | (s1, .ok (v, bad)) =>
          let line := if bad then List.replicate n none else (leBytes n v).map some
          .next (s1.modCmd p.cmd.id fun x => { x with got := x.got ++ line }).tick
        | _ => notEnabled name

/-- What follows a line's writes: a stream's end, the vaults a last frame or a collective leaves (R188). -/
def State.writeSettle (s : State) (c : Context) (n : Nat) : State :=
  match s.cmd? n with
  | none => s
  | some p =>
    if p.cmd.op ≤ 0x163 then s.streamSettle n
    else if p.cmd.op = 0x16E then s.decodeSettle c n
    else s.releaseBut p.cmd (p.writeVaults c)

/-- The pending writes of one line performed at their home, or sent to another package. -/
def State.lineWrite (s : State) (name : String) (c : Context) (p : Pending) (w : EngWrite) : Out :=
  let u := s.engineUnit p
  let group := p.writes.takeWhile fun x => x.va / 64 = w.va / 64
  let go := fun (s : State) (code : Nat) =>
    Host.Outcome.next ((s.modCmd p.cmd.id fun x => { x with writes := p.writes.drop group.length, code := code }).writeSettle c
      p.cmd.id).tick
  match s.engineXlate u c w.va w.n .write with
  | (s1, .ok pa) =>
    if pa / 2 ^ 46 ≠ s1.pkgNo then go (s1.postLine p pa group) p.code
    else
      s.lineGate name p false [pa] fun s =>
        go ((s.engineXlate u c w.va w.n .write).1.putLine c.id 6 (pa % 2 ^ 46) group) p.code
  | (s1, .error (.fault .poison _ _)) => go s1 0x14
  | (s1, .error e) =>
    if p.cmd.op ≤ 0x163 then
      match e with
      | .breach pa => .next (s1.breach c.id 1 pa 0).tick
      | _ => notEnabled name
    else if p.cmd.op = 0x16E then s1.decodeStop name c p e
    else s1.collStop name p e

/-- A running stream command's next line read. -/
def State.streamLine (s : State) (name : String) (c : Context) (p : Pending) : Out :=
  match p.engine?, p.args? with
  | some _, some a => if roundOver p a then notEnabled name else s.latchLine name c p (p.streamWants c a) fun _ s => s
  | _, _ => notEnabled name

/-- One line's access of a command that may go on. -/
def State.lineStep (s : State) (name : String) (c : Context) (p : Pending) : Out :=
  match p.writes with
  | w :: _ => if p.engine?.isSome then s.lineWrite name c p w else notEnabled name
  | [] =>
    if p.cmd.op ≤ 0x163 then s.streamLine name c p
    else if p.cmd.op = 0x172 then s.latchLine name c p (s.stokWants p) fun p1 s => s.stokRead p1
    else if s.bitsWanted p then s.bitLine name c p
    else if s.collReady p && p.marks == 0 && !p.collRead then s.collLine name c p
    else notEnabled name

/-- ENGINE_LINE_ACCESS (R187, R190, R372): one line of a running command's pending writes, or of what it reads: a stream command's
elements and indices, STOK's source, a decoder's bitstream, a collective's contribution. -/
def execEvEngineLineAccess (n : Nat) (s : State) : Out :=
  match s.cmd? n with
  | none => notEnabled "ENGINE_LINE_ACCESS"
  | some p =>
    match s.ctx? p.cmd.cx with
    | none => notEnabled "ENGINE_LINE_ACCESS"
    | some c =>
      if !s.engineRuns p then notEnabled "ENGINE_LINE_ACCESS"
      else s.makesRoom (s.inOrder "ENGINE_LINE_ACCESS" (s.lineStep "ENGINE_LINE_ACCESS" c p))

end Sys2Proof.Machine
end

