-- ==== Sys2Proof/Machine/Fetch.lean ====
section
/-!
DEFINITION. Fetching the instruction of the lane being issued, and placing one so that the next step fetches it; a
context, a quad and a strand as creation leaves them (R53, R287, R319).
-/

namespace Sys2Proof.Machine

/-- The instruction of the oldest lane of the issue being performed (R32, R292). -/
def State.fetched? (s : State) : Option Instr :=
  match s.lanes with
  | [] => none
  | l :: _ => (s.inst? l.inst).bind fun i => i.instrAt? l.slot

/-- Launch parameters of a context not launched yet. -/
def LaunchParams.initial : LaunchParams :=
  { seed := 0, budget := 0, cls := 1, refill := false, bkpts := false, logMode := 0, stopMask := 0, handler := 0,
    traceBase := 0, traceSize := 0, traceMask := 0, profile := 0, logBase := 0, logRead := 0, podKey := 0 }

/-- Space `n` of a context without an image: not allocated, generation 0 (R266). -/
def Space.initial (n : Nat) : Space :=
  { num := n, decl := none, level := 0, k := 16, ordered := false, gen := 0, allocated := false, closed := false,
    reserved := false, held := [], resvIters := [], live := 0, freeing := [], quad := none, retiredBelow := 0 }

/-- A context as CREATE_CONTEXT leaves it. -/
def Context.initial (id : CtxId) : Context :=
  { id := id, aperture := 0, ring := 0, poolBase := 0, poolSize := 0, poolUsed := [], imageArea := 0, imageMiB := 0,
    root := 0, image := none, imageBytes := [], codeBase := 0, run := .created, params := LaunchParams.initial,
    regions := [], spaces := (List.range 64).map Space.initial, poolQueue := [], iterQueue := [], credits := [],
    energy := 0, budget := 0, energySeen := 0, budgetSeen := 0, cls := 1, clsSeen := 1, faultReg := 0, faultSeen := 0,
    faults := [], ringSlots := [], lost := 0, delivered := 0, overflow := 0, damaged := false, atStop := false, stopMsk := [],
    cutClk := 0, cutCmd := none, cutDest := 0, replaying := [] }

/-- A quad as zeroing leaves it, held for a region at relative coordinates (R319, R344). -/
def Quad.initial (id : QuadId) (cx : CtxId) (ldie x y : Nat) : Quad :=
  { id := id, cx := cx, ldie := ldie, x := x, y := y, zeroing := false, fpctl := 0, srseed := 0, mergedrop := 0,
    capfence := 0, replay := 0, width := List.replicate 4 (0, 0), ages := List.replicate 4 0, mapped := [],
    counters := List.replicate 22 0, seqs := [], ready := [], cleared := [], frameWait := [], entries := [],
    entryReqs := [], vseq := 0, waitFar := [], banks := [], tlb := [],
    me := { config := none, acc := [], live := [], marks := [] }, window := List.replicate 64 0, delay := [], hist := [],
    lostMatch := 0, traced := 0, dropped := 0, logged := 0, firstLost := none, relights := 0, snuff := .none,
    closed := [], link := [] }

/-- A strand as a seed starts it. -/
def Strand.initial (sid : Nat) (cx : CtxId) (tag : Nat) : Strand :=
  { sid := sid, cx := cx, tag := tag, refusals := 0, resv := none, tagResv := [], energy := 0, ordered := none,
    handler := none, pend := none, bkptSlot := none, after := [], due := none }

/-- An instance of a block whose body is given, started on a quad by a strand with zero registers. -/
def Inst.initial (id : Nat) (st : Strand) (q : QuadId) (body : List Slot) : Inst :=
  { id := id,
    frame := { strand := st, quad := q, elem := 0, block := 0, regs := List.replicate 32 0, status := .waiting, order := id },
    addr := 0,
    header := { chk := 0, live := 0, write := 0, effect := 0, prof := false, gather := false, far := false, exits := 0,
                size := 0 },
    body := body, age := 0, startClk := 0, fpctl0 := 0, seed0 := 0, mergedrop0 := 0, capfence0 := 0, replay0 := 0,
    slots := [⟨0, ⟨none, none, none⟩, .fired, none, false, 0⟩], wbuf := [], effs := [], resolved := [], exits := [], flags := 0,
    drops := 0, swrs := [], fwcalls := [], snuffs := [], usedResv := [], taken := [], flying := [], fired := [],
    held := false }

/-- Zero operands on every port, the predicate matching the slot's pr field. -/
def operandsFor (i : Option Instr) : Operands :=
  ⟨some (.val 0), some (.val 0), some (.val (if (i.map prOf) = some 3 then 1 else 0))⟩

/-- The state with a block of two slots started and its slot 0 being issued: the context and quad there are, or new
ones (notes/assumptions 19: how a program comes to run). -/
def State.placeSlots (s : State) (w0 w1 : Slot) : State :=
  let q : Quad := (s.quads.head?).getD (Quad.initial ⟨0, 0⟩ ⟨0, 0⟩ 0 0 0)
  let c : Context := (s.ctx? q.cx).getD { Context.initial q.cx with run := .running }
  let i := Inst.initial s.nextId (Strand.initial (s.nextId + 1) q.cx 0) q.id [w0, w1, 0, 0]
  { s with
    nextId := s.nextId + 2, powerOff := false,
    quads := if s.quads.isEmpty then [q] else s.quads,
    contexts := if (s.ctx? q.cx).isSome then s.contexts else s.contexts ++ [c],
    insts := s.insts ++ [i],
    lanes := [⟨s.nextId, 0, operandsFor (match decodeWords w0 (some w1) with | .ok x => some x | .error _ => none)⟩] }

end Sys2Proof.Machine
end

