-- ==== Sys2Proof/Machine/Recovery.lean ====
section
/-!
DEFINITION. Fault delivery, the handler's ACTION, precise stops, freezes and parity failures (R323, R353, R366-R371,
R374, R375).
-/

namespace Sys2Proof.Machine

/-! ### The slot and its record (R366, R367) -/

def ringSlotAt (c : Context) (k : Nat) : Nat := c.ring + 512 * k

/-- The first eight words of a record: w0 to w7. The LSID or N that K's record carries (R205, R224) has no bits in the map of R367
(notes/assumptions 90). -/
def recordWords (c : Context) (r : FaultRec) : List Nat :=
  [c.lost % 65536 * 2 ^ 48 + (match r.slotNo with | some n => 2 ^ 39 + n % 128 * 2 ^ 32 | none => 0) +
     r.detail % 65536 * 2 ^ 16 + r.kind % 4 * 2 ^ 8 + r.code.num,
   r.tag % 2 ^ 40, r.block % 2 ^ 57, r.addr % 2 ^ 64, r.handle % 2 ^ 64,
   r.unitNo % 256 * 2 ^ 20 + r.unit % 16 * 2 ^ 16 + r.elem % 4 * 2 ^ 11 + r.qindex % 128 * 2 ^ 4 + r.ldie % 16,
   r.data.toNat, (c.delivered + 1) % 2 ^ 64]

def bytesOfWords (ws : List Nat) : List Byte := ws.flatMap (leBytes 8)

/-- The ember's header and its 32 registers; all zero for a record without one. -/
def emberArea (s : State) (e : Option Ember) : List Nat :=
  match e with
  | some e => (emberWords s e).take 8 ++ (List.range 32).map fun n => if bitOf e.live n then ((e.regs[n]?).getD 0).toNat else 0
  | none => List.replicate 40 0

/-- What K writes into a slot, by offset: kinds 1 and 2 leave the ember's bytes as they are (R368). -/
def slotWrites (s : State) (c : Context) (r : FaultRec) (e : Option Ember) : List (Nat × List Byte) :=
  [(0, bytesOfWords (recordWords c r ++ List.replicate 8 0))] ++
  (if r.kind = 0 ∨ r.kind = 3 then [(0x80, bytesOfWords (emberArea s e))] else []) ++
  [(0x1C0, bytesOfWords (0xFFFFFFFFFFFFFFFF :: List.replicate 7 0))]

/-- K's access to a slot of the ring. -/
inductive SlotPage where
  | at' (s : State) (pa : Nat)
  | sealed
  | fails

/-- The slot's first byte, translated for a write or a read (R366). A page of another package is reached through the pod
transport (R19), and that package checks for itself. -/
def State.slotPage (s : State) (c : Context) (k : Nat) (kind : Kind) : SlotPage :=
  match translateBy s .k c (ringSlotAt c k) 512 kind with
  | (s', .ok pa) =>
    if s'.sealed pa then .sealed
    else if pa / 2 ^ 46 ≠ s'.pkgNo ∨ s'.serves (s'.homeOf pa) c.id pa = true then .at' s' pa else .fails
  | _ => .fails

/-- The lowest free slot (R368). -/
def Context.freeSlot (c : Context) : Option Nat :=
  (List.range 64).find? fun k => !(c.ringSlots.any (·.slot = k))

/-! ### What a fault does: handler or precise stop (R353, R368, R370) -/

/-- The strand a fault holds. -/
def State.faultStrand? (s : State) (r : FaultRec) : Option Strand :=
  match r.ember.bind s.ember? with
  | some e => some e.strand
  | none =>
    r.sid.bind fun n => (s.insts.map (·.frame.strand) ++ s.frames.map (·.strand)).find? fun st => st.sid = n

def State.faultsHandler (s : State) (r : FaultRec) : Bool := ((s.faultStrand? r).bind (·.handler)).isSome

/-- The record makes a precise stop: selected by the mask, without a handler, or of a handler's strand. -/
def State.mustStop (s : State) (c : Context) (r : FaultRec) : Bool := c.stopsOn r.code || s.faultsHandler r

/-- The event of a fault without a handler, or of a stop by ACTION (R368, R370, R394). -/
def State.stopEvent (s : State) (cx : CtxId) (r : FaultRec) (addr : Nat) : State :=
  s.event cx.vf 0 cx.vf cx.num r.code.num 4 addr 0

/-- A precise stop of the context (R353): its fault is kept, to spawn its handler once the context is restored. -/
def State.stopCtx (s : State) (cx : CtxId) (r : FaultRec) : State :=
  s.modCtx cx fun c => { c with run := .stopped, atStop := true, stopMsk := c.stopMsk ++ [r] }

/-- The fault K handles next: after a restore those that had stopped the context, else the first to arrive (R353, R362,
R368). -/
def Context.nextFault (c : Context) : Option FaultRec := (c.stopMsk ++ c.faults).head?

/-- A fault taken from where it waits. -/
def Context.dropFault (c : Context) (r : FaultRec) : Context :=
  if c.stopMsk.contains r then { c with stopMsk := c.stopMsk.erase r } else { c with faults := c.faults.erase r }

/-- A waiting fault makes a stop: one restored with its stop is delivered whatever the mask says (R353). -/
def State.nextStops (s : State) (c : Context) (r : FaultRec) : Bool :=
  if c.stopMsk.contains r then c.params.handler == 0 || s.faultsHandler r else s.mustStop c r

/-- PRECISE_STOP (R353, R368, R370): any waiting fault that must stop the context stops it. -/
def execEvPreciseStop (vf ctx : Nat) (s : State) : Out :=
  match s.ctx? ⟨vf, ctx⟩ with
  | none => notEnabled "PRECISE_STOP"
  | some c =>
    match (c.stopMsk ++ c.faults).find? fun r => s.nextStops c r with
    | some r =>
      if c.run ≠ .running then notEnabled "PRECISE_STOP"
      else
        let s1 := (s.modCtx c.id fun c => c.dropFault r).stopCtx c.id r
        .next (if c.params.handler = 0 || s.faultsHandler r then s1.stopEvent c.id r r.addr else s1).tick
    | none => notEnabled "PRECISE_STOP"

/-! ### Delivery (R368) -/

/-- The handler's seed of a slot; its first instance waits for K's writes to the slot, `after` (R368). -/
def handlerSeed (s : State) (c : Context) (r : FaultRec) (k : Nat) (q : QuadId) (after : List Nat) : Ember :=
  let iter := 0xFFC0 + k
  let tag := mkTag r.ldie c.id.num 0 0 iter
  { id := s.nextId, strand := { Strand.initial (s.nextId + 1) c.id tag with handler := some k, after := after }, quad := q, elem := 0,
    live := 0xF, regs := regsWith [(0, toWord iter), (1, toWord (iter + 1)), (2, toWord (ringSlotAt c k)), (3, toWord r.code.num)],
    exit := 0, reply := 0, reason := 0x89, seq := 0, cont := c.params.handler, source := 0, pkg := 0, home := 0, width := 0,
    op := 0, block := c.params.handler, pool := .slot k, addr := 0, size := emberSize 0xF, wait := .nothing, value := none }

/-- %fault: the code and the block (R343, R368). -/
def faultWord (r : FaultRec) : Word := toWord (r.block / 64 % 2 ^ 51 * 256 + r.code.num)

/-- The strand of a strand-kind fault as the record shows it: an ember whose REASON is the code. A strand a precise stop held
as a frame becomes one here, and one its snuff abandoned gets the code (R353, R365). -/
def State.faultEmber (s : State) (r : FaultRec) : State × Option Ember :=
  if r.kind ≠ 0 then (s, none)
  else
    match r.ember.bind s.ember? with
    | some e => (s, some { e with reason := if e.reason = 0x86 then r.code.num else e.reason })
    | none =>
      match s.frames.find? fun f => some f.strand.sid = r.sid with
      | none => (s, none)
      | some f =>
        let s1 := { s with frames := s.frames.filter fun x => x.strand.sid ≠ f.strand.sid }
        let (n, _, s2) := s1.fullEmber { f.strand with pend := none } f.quad f.elem f.block f.regs r.code.num .fault
        (s2, s2.ember? n)

/-- FAULT_DELIVERY (R368): the record, the ember and ACTION are written, %fault set, the handler's seed deposited; a
write that fails stops the context. -/
def execEvFaultDelivery (vf ctx : Nat) (s : State) : Out :=
  match s.ctx? ⟨vf, ctx⟩ with
  | none => notEnabled "FAULT_DELIVERY"
  | some c =>
    match c.nextFault, c.freeSlot with
    | some r, some k =>
      match c.region? r.ldie with
      | none => notEnabled "FAULT_DELIVERY"
      | some g =>
        if c.run ≠ .running || s.nextStops c r then notEnabled "FAULT_DELIVERY"
        else
          match s.slotPage c k .write with
          | .sealed => notEnabled "FAULT_DELIVERY"
          | .fails => .next (((s.modCtx c.id fun c => c.dropFault r).stopCtx c.id r).stopEvent c.id r (ringSlotAt c k)).tick
          | .at' s0 pa =>
            let (s0, e) := s0.faultEmber r
            let s1 := (slotWrites s0 c r e).foldl (fun s w => s.putPhys .k c.id (ringSlotAt c k + w.1) (pa + w.1) w.2) s0
            let s2 := match e with
              | some x => { s1 with embers := s1.embers.filter (·.id ≠ x.id) }
              | none => s1
            let q := g.quadAt 0 0
            let seed := handlerSeed s2 c r k q (List.range' s0.nextId (s1.nextId - s0.nextId))
            let slot : RingSlot := { slot := k, rec' := r, ember := e, sid := some seed.strand.sid }
            let s3 := { s2 with nextId := s2.nextId + 2 }.modCtx c.id fun c =>
              { (c.dropFault r) with
                faultReg := faultWord r, ringSlots := c.ringSlots ++ [slot], lost := 0, delivered := c.delivered + 1 }
            let s4 := (s3.countItem c.id 0 1).depositBy .k seed
            s.inOrder "FAULT_DELIVERY" (.next (s4.modQuad q fun x => { x with cleared := x.cleared ++ [seed.id] }).tick)
    | _, _ => notEnabled "FAULT_DELIVERY"

/-! ### ACTION (R370, R371) -/

/-- What a handler's strand left in its slot: ACTION, ARG, the header's LIVE, CONT and the registers. -/
structure Answer where
  act : Nat
  arg : Nat
  live : Nat
  cont : Nat
  regs : List Word
  deriving DecidableEq, Repr

/-- The slot's 512 bytes as the handler left them; a slot that cannot be read, or carries poison, answers stop. CONT is the
whole word, so that one with a reserved bit set starts no block (R51, R370). -/
def answerOf (bytes : List Byte) (bad : Bool) : Answer :=
  let w := fun (o : Nat) => leNat ((bytes.drop o).take 8)
  { act := if bad then 2 else w 0x1C0 % 4 + (if w 0x1C0 / 4 = 0 then 0 else 4), arg := w 0x1C8, live := w 0x80 / 2 ^ 32,
    cont := w 0x90, regs := (List.range 32).map fun n => toWord (w (0xC0 + 8 * n)) }

/-- K reads a slot (R370). -/
def State.readAnswer (s : State) (c : Context) (k pa : Nat) : State × Answer :=
  let r := s.readPhys .k c.id (ringSlotAt c k) pa 512
  (r.1, answerOf r.2.1 r.2.2)

/-- K's translation of the last `n` of the first `m` 64 KiB of the ember pool, for a write: all succeed. -/
def State.poolPages (s : State) (c : Context) (m : Nat) : Nat → State × Bool
  | 0 => (s, true)
  | n + 1 =>
    match translateBy s .k c (c.poolBase + 65536 * (m - (n + 1))) 1 .write with
    | (s1, .ok _) => s1.poolPages c m n
    | (s1, _) => (s1, false)

/-- A new pool size K can apply (R371): zero, or a multiple of 64 KiB, no smaller, each 64 KiB of it writable. -/
def State.poolGrows (s : State) (c : Context) (size : Nat) : State × Bool :=
  if size = 0 then (s, true)
  else if size % 65536 ≠ 0 ∨ size < c.poolSize ∨ 2 ^ 48 ≤ size then (s, false)
  else s.poolPages c (size / 65536) (size / 65536)

/-- The ember of a resumed strand: TAG, REASON, SEQ and ENERGY of the original, the rest from the slot (R370). The slot
named by a BKPT is exempt once (R351). -/
def resumed (e : Ember) (a : Answer) (slotNo : Option Nat) (addr : Nat) : Ember :=
  { e with
    live := a.live, cont := a.cont, pool := .image, addr := addr, size := 0, wait := .nothing,
    regs := (List.zipIdx a.regs).map (fun (w, n) => if bitOf a.live n then w else 0),
    strand := { e.strand with bkptSlot := if e.reason = 0x1E then slotNo else none } }

/-- A strand held as an ember retires as at END; its tag stays held, its reservations lapse (R370, R268, R303). -/
def State.retireEmber (s : State) (e : Ember) : State :=
  let s1 := e.strand.tagResv.foldl (fun s r => s.lapse e.strand.cx r) { s with embers := s.embers.filter (·.id ≠ e.id) }
  (s1.endResv e.strand []).leave { e.strand with tagResv := [], resv := none } e.quad

/-- An ember put where its quad's lamplighter takes it. -/
def State.relightLater (s : State) (e : Ember) : State :=
  { s with embers := s.embers.filter (fun (x : Ember) => x.id ≠ e.id) ++ [e] }.modQuad e.quad fun q =>
    { q with cleared := q.cleared ++ [e.id] }

/-- The hold of an EMBER_OVERFLOW record ends (R371). -/
def State.endHold (s : State) (cx : CtxId) (r : FaultRec) : State :=
  if r.code = .emberOverflow then s.modCtx cx fun c => { c with overflow := c.overflow - 1 } else s

/-- The range a lamplighter could not split may be taken again (R371). -/
def State.rangeAgain (s : State) (n : Nat) : State :=
  match s.ember? n with
  | none => s
  | some e =>
    if e.reason = 0x8A then s.modEmber n fun x => { x with wait := .range }
    else (s.modEmber n fun x => { x with wait := .nothing }).modQuad e.quad fun q => { q with cleared := q.cleared ++ [n] }

/-- The command stopped by the page fault of a record (R240): the record's own, of those with its handle (R229). -/
def State.stoppedCmd (s : State) (cx : CtxId) (r : FaultRec) : Option Pending :=
  s.cmds.find? fun p => p.cmd.cx = cx && some p.cmd.id == r.cmd && (match p.phase with | .stopped _ => true | _ => false)

/-- ACT = 0. -/
def State.actResume (s : State) (c : Context) (x : RingSlot) (a : Answer) : State :=
  let s0 := s.endHold c.id x.rec'
  let s1 := if x.rec'.code = .emberOverflow ∧ a.arg ≠ 0 then s0.modCtx c.id fun c => { c with poolSize := a.arg } else s0
  match x.rec'.kind, x.ember with
  | 0, some e => s1.relightLater (resumed e a x.rec'.slotNo (ringSlotAt c x.slot))
  | 1, _ =>
    if x.rec'.code = .emberOverflow then (x.rec'.ember.map s1.rangeAgain).getD s1
    else if x.rec'.code = .pageFault then
      match s1.stoppedCmd c.id x.rec' with
      | some p => s1.modCmd p.cmd.id fun y => { y with phase := match y.phase with | .stopped n => .running n | z => z }
      | none => s1
    else s1
  | _, _ => s1

/-- ACT = 1. For an engine's record other than a page fault it has no effect: a range that a lamplighter could not split stays
as it is (R370). -/
def State.actRetire (s : State) (c : Context) (x : RingSlot) : State :=
  let s0 := s.endHold c.id x.rec'
  match x.rec'.kind, x.ember with
  | 0, some e => s0.retireEmber e
  | 1, _ =>
    if x.rec'.code = .pageFault then
      match s0.stoppedCmd c.id x.rec' with
      | some p => s0.endCommand p 0x12 p.count p.cond false
      | none => s0
    else s0
  | _, _ => s0

/-- ACT = 2 or 3, or a reserved bit: a precise stop; the strand stays held (R353, R370). -/
def State.actStop (s : State) (c : Context) (x : RingSlot) : State :=
  let s1 := match x.ember with
    | some e => { s with embers := s.embers ++ [{ e with pool := .image, addr := ringSlotAt c x.slot, size := 0, wait := .fault }] }
    | none => s
  (s1.stopCtx c.id x.rec').stopEvent c.id x.rec' (ringSlotAt c x.slot)

/-- A strand has retired and every far posted effect of it is acknowledged (R370). -/
def State.strandGone (s : State) (sid : Nat) : Bool :=
  !((s.frames.any (·.strand.sid = sid)) || (s.insts.any (·.frame.strand.sid = sid)) ||
    (s.commits.any (·.inst.frame.strand.sid = sid)) || (s.embers.any (·.strand.sid = sid)) ||
    (s.msgs.any fun m => match m.body with | .frame f _ => f.strand.sid = sid | _ => false) ||
    (s.posted.any fun p => p.sid = sid ∧ p.trace = false))

/-- HANDLER_DONE (R370): K reads ACTION and applies it, then frees the slot and the handler's iteration. -/
def execEvHandlerDone (vf ctx slot : Nat) (s : State) : Out :=
  match s.ctx? ⟨vf, ctx⟩ with
  | none => notEnabled "HANDLER_DONE"
  | some c =>
    match c.ringSlots.find? (·.slot = slot) with
    | none => notEnabled "HANDLER_DONE"
    | some x =>
      if c.run ≠ .running || !((x.sid.map s.strandGone).getD false) then notEnabled "HANDLER_DONE"
      else
        let free := fun (s : State) =>
          (s.modCtx c.id fun c => { c with ringSlots := c.ringSlots.filter (·.slot ≠ slot) }).releaseReports c.id fun t =>
            tagSpace t = 0 && tagIter t = 0xFFC0 + slot
        match s.slotPage c slot .read with
        | .sealed => notEnabled "HANDLER_DONE"
        | .fails => .next (free (s.actStop c x)).tick
        | .at' s0 pa =>
          let (s1, a) := s0.readAnswer c slot pa
          s.inOrder "HANDLER_DONE" (.next (free (match a.act with
            | 0 =>
              if x.rec'.code = .emberOverflow then
                (match s1.poolGrows c a.arg with
                | (s2, true) => s2.actResume c x a
                | (s2, false) => s2.actStop c x)
              else s1.actResume c x a
            | 1 => s1.actRetire c x
            | _ => s1.actStop c x)).tick)

/-! ### Freezes (R323) and parity failures (R374, R375) -/

/-- Every instance not past step 1 is abandoned with reason 0x86; one that the fault of a precise stop holds stands in that
fault's record from then on, and its strand waits for the handler (R323, R353, R378). -/
def State.cutInst (s : State) (i : Inst) : State :=
  let cx := i.frame.strand.cx
  let mine := fun (r : FaultRec) => r.sid = some i.frame.strand.sid ∧ r.ember = none
  let held := i.held && ((s.ctx? cx).map fun c => (c.stopMsk ++ c.faults).any fun r => mine r).getD false
  if !held then s.abandon i 0x86 .restored
  else
    let s1 := s.abandon i 0x86 .fault
    let e := (s1.embers.find? (·.strand.sid = i.frame.strand.sid)).map (·.id)
    let set := fun (r : FaultRec) => if mine r then { r with ember := e } else r
    s1.modCtx cx fun c => { c with faults := c.faults.map set, stopMsk := c.stopMsk.map set }

/-- Every instance of a quad not past step 1 leaves it; frames stay in place. -/
def State.cutQuad (s : State) (q : QuadId) : State :=
  (s.insts.filter (·.frame.quad = q)).foldl (fun s i => s.cutInst i) s

/-- The frames of a quad that wait for a fetch in progress: of an element's next start request, whose block is not mapped
(R99). -/
def State.fetching (s : State) (q : Quad) : List Frame :=
  (List.range 4).flatMap fun elem =>
    match s.nextStart? q elem with
    | some f =>
      if (q.mapped? elem f.block).isSome || f.strand.pend.isSome then []
      else s.frames.filter fun x => x.quad = q.id ∧ x.elem = elem ∧ x.block = f.block ∧ x.status = .waiting
    | none => []

/-- A waiting instance of a discarded fetch is abandoned with reason 0x86 (R99). -/
def State.abandonFrame (s : State) (f : Frame) : State :=
  let s0 := s.traceRec f.strand.cx f.quad f.elem 5 0x86 0 0 f.strand.tag f.block 0
  let s1 := { (s0.countReplay f.quad 0x86) with frames := s0.frames.filter fun x => x.strand.sid ≠ f.strand.sid }
  (s1.fullEmber (f.strand.refuse 0x86 .restored) f.quad f.elem f.block f.regs 0x86 .restored).2.2

/-- What a quad's first marker does to its instances (R99, R378). -/
def State.snuffQuad (s : State) (q : QuadId) : State :=
  match s.quad? q with
  | none => s
  | some x => ((s.fetching x).foldl (fun s f => s.abandonFrame f) s).cutQuad q

/-- The quads a context holds. -/
def State.quadsOf (s : State) (cx : CtxId) : List Quad := s.quads.filter fun q => q.cx = cx && !q.zeroing

/-- MASTER_FREEZE (R323): the context found in violation stops. -/
def execEvMasterFreeze (n : Nat) (s : State) : Out :=
  match s.ctx? ⟨n / 1024, n % 1024⟩ with
  | none => notEnabled "MASTER_FREEZE"
  | some c =>
    if c.run ≠ .freezing then notEnabled "MASTER_FREEZE"
    else
      let s1 := (s.quadsOf c.id).foldl (fun s q => s.cutQuad q.id) s
      .next (s1.modCtx c.id fun c => { c with run := .frozen }).tick

/-- The quad of a message's end. -/
def Msg.quadSrc (m : Msg) : Option QuadId := match m.src with | .quad q => some q | _ => none

/-- A token or frame of a context on the networks beyond a quad. -/
def Msg.isTraffic (m : Msg) : Bool :=
  match m.body with
  | .token _ _ _ _ => true
  | .frame _ _ => true
  | _ => false

/-- The vault bytes of a quad's strand frames (0), ember pool (1) or matching-store overflow area (R203). -/
def State.areaOf (s : State) (q : Quad) (area : Nat) : Nat × Nat :=
  let ovf := s.overflowBase q
  let frames := ovf + (((s.ctx? q.cx).bind (·.decl? q.ldie)).map (·.overflowKiB * 1024)).getD 0
  match area with
  | 0 => (frames, 6 * 2 ^ 20)
  | 1 => (((s.ctx? q.cx).map fun c => c.emberBase q.ldie).getD 0, ovf)
  | _ => (ovf, frames)

/-- An ember's record discarded. -/
def State.discardEmber (s : State) (q : QuadId) (n : Nat) : State :=
  { s with embers := s.embers.filter (·.id ≠ n) }.modQuad q fun x =>
    { x with ready := x.ready.filter (· ≠ n), cleared := x.cleared.filter (· ≠ n), frameWait := x.frameWait.filter (· ≠ n) }

/-- What an uncorrectable word in an area of a quad's vault discards: a frame, an ember's record, or a spilled entry of the
matching store, the first there is (R372, R374; notes/assumptions 44). -/
def State.discardWord (s : State) (q : Quad) (area : Nat) : Option State :=
  let (lo, hi) := s.areaOf q area
  let gone := s.broken.find? fun k => vaultBase q.id + lo ≤ k && k < vaultBase q.id + hi
  let s0 := { s with broken := s.broken.filter fun k => some k ≠ gone }
  let out := fun (x : SlotState) => x.spilled && x.status == .idle
  match area with
  | 0 => (s0.frames.find? (·.quad = q.id)).map fun f => { s0 with frames := s0.frames.filter (·.strand.sid ≠ f.strand.sid) }
  | 1 => (s0.embers.find? (·.pool = .vault q.id)).map fun e => s0.discardEmber e.quad e.id
  | _ =>
    match s0.insts.find? fun i => i.frame.quad = q.id ∧ i.slots.any out = true with
    | some i => some (s0.modInst i.id fun i =>
        { i with slots := modWhere out (fun x => { x with ops := ⟨none, none, none⟩, spilled := false }) i.slots })
    | none => (s0.fifo.find? fun t => t.quad = q.id ∧ t.spilled = true).map fun t => { s0 with fifo := s0.fifo.erase t }

/-- The item a parity check discards at a hop of R375, if the context has one there. -/
def State.discardAt (s : State) (cx : CtxId) (q : Quad) (hop dir elem : Nat) : Option State :=
  let mine := fun (i : Inst) => i.frame.quad = q.id ∧ i.frame.elem = elem
  match hop with
  | 0 =>
    (s.flying.find? fun t => (s.insts.any fun i => i.id = t.inst ∧ mine i)).map fun t =>
      { s with flying := s.flying.filter (·.id ≠ t.id) }.modInst t.inst fun i => { i with flying := i.flying.filter (· ≠ t.id) }
  | 4 =>
    (s.insts.find? fun i => mine i ∧ i.slots.any fun x => x.status = .idle && (x.ops.left.isSome || x.ops.right.isSome || x.ops.third.isSome)).map
      fun i => s.modInst i.id fun i =>
        { i with slots := modWhere (fun x => x.status = .idle) (fun x => { x with ops := ⟨none, none, none⟩ }) i.slots }
  | 5 =>
    q.ready.head?.map fun e => s.discardEmber q.id e
  | 6 => s.discardWord q dir
  | _ => (s.msgs.find? fun m => m.cx = cx ∧ m.isTraffic = true ∧ m.quadSrc = some q.id).map fun m => s.dropMsg m.id

/-- PARITY_FREEZE_REPORT (R374, R375): a check fails at a hop of a quad's die; what failed is discarded. DIR is reported of a
mesh link only, ELEM of the element network and the matching store; of a vault word the input's `dir` names the area. -/
def execEvParityFreezeReport (vf ctx die idx hop dir elem : Nat) (s : State) : Out :=
  match s.quad? ⟨die, idx⟩ with
  | none => notEnabled "PARITY_FREEZE_REPORT"
  | some q =>
    if q.cx ≠ ⟨vf, ctx⟩ || q.zeroing then notEnabled "PARITY_FREEZE_REPORT"
    else
      match s.discardAt ⟨vf, ctx⟩ q hop dir elem with
      | none => notEnabled "PARITY_FREEZE_REPORT"
      | some s1 => .next (s1.parityFail q.cx q.id hop (if hop = 1 then dir else 0) (if hop = 0 ∨ hop = 4 then elem else 0) 0).tick

end Sys2Proof.Machine
end

