-- ==== Sys2Proof/Machine/Snuff.lean ====
section
/-!
DEFINITION. The snuff wave, the image and the zeroing of quads (R320, R354, R357, R376-R383, R432).
-/

namespace Sys2Proof.Machine

/-! ### Destinations (R432) -/

/-- The bound on an image of n quads: 1 MiB and 7.5 MiB for each. -/
def imageBound (n : Nat) : Nat := 2 ^ 20 + n * (15 * 2 ^ 19)

/-- Every page of [va, va + n) is mapped in the context's tables for a kind of access, and not poisoned. -/
def State.pagesAdmit (s : State) (c : Context) (kind : Kind) (va n : Nat) : Bool :=
  n == 0 || (va + n ≤ 2 ^ 57 && (List.range ((va + n - 1) / 65536 - va / 65536 + 1)).all fun k =>
    let a := (va / 65536 + k) * 65536
    (c.aperture? a).isNone && (match walkVa s c a kind with | (_, .ok _) => true | _ => false))

/-- K reads the table entries on the way to a page (R18, R329). -/
def State.kWalk (s : State) (c : Context) (va : Nat) : State :=
  (walkReads s va walkLevels c.root).foldl (fun s ea => s.lineAccess .k c.id ea false) s

/-- K reads the tables of the pages of [va, va + n) to check them. -/
def State.pagesRead (s : State) (c : Context) (va n : Nat) : State :=
  if n = 0 ∨ 2 ^ 57 < va + n then s
  else (List.range ((va + n - 1) / 65536 - va / 65536 + 1)).foldl (fun s k => s.kWalk c ((va / 65536 + k) * 65536)) s

/-- Every page of [va, va + n) is writable. -/
def State.writable (s : State) (c : Context) (va n : Nat) : Bool := s.pagesAdmit c .write va n

/-- The destination check of a cut whose image is kept: the whole image area, or another range as far as the bound. -/
def State.destGood (s : State) (c : Context) (dest : Nat) : Bool :=
  let n := imageBound (s.quadsOf c.id).length
  if dest = c.imageArea then n ≤ c.imageMiB * 2 ^ 20 && s.writable c dest (c.imageMiB * 2 ^ 20) else s.writable c dest n

/-- The tables K reads for that check. -/
def State.destRead (s : State) (c : Context) (dest : Nat) : State :=
  s.pagesRead c dest (if dest = c.imageArea then c.imageMiB * 2 ^ 20 else imageBound (s.quadsOf c.id).length)

/-- Bytes written through a context's tables, page by page, where the pages admit the kind of access; a page that fails
keeps what it holds. -/
def putVa (c : Context) (kind : Kind) : Nat → Nat → List Byte → State → State
  | 0, _, _, s => s
  | n + 1, va, bs, s =>
    if bs.isEmpty then s
    else
      let k := 65536 - va % 65536
      let s' := match translateBy s .k c va 1 kind with
        | (s1, .ok pa) => s1.putPhys .k c.id va pa (bs.take k)
        | (s1, _) => s1
      putVa c kind n (va + k) (bs.drop k) s'

def State.putLong (s : State) (c : Context) (va : Nat) (bs : List Byte) : State :=
  putVa c .write (bs.length / 65536 + 2) va bs s

/-! ### The start of a cut (R377) -/

/-- Every engine of a context stops, its line requests withdrawn (R323, R353, R380). -/
def State.stopEngines (s : State) (cx : CtxId) : State :=
  let s1 := (s.cmds.filter (·.cmd.cx = cx)).foldl (fun s p => s.dropLines p.cmd.id) s
  { s1 with cmds := modWhere (fun p => p.cmd.cx = cx) (fun p => { p with cutOff := true, lines := [] }) s1.cmds }

/-- A cut of a context begins. A context that is stopped or frozen fires nothing on the way: its quads take their
first marker, and its engines stop, at once (R323, R353). -/
def State.startCut (s : State) (cx : CtxId) (keep destroy : Bool) (cmd : Option Nat) (dest : Nat) : State :=
  let halted := ((s.ctx? cx).map fun c => match c.run with
    | .stopped => true
    | .frozen => true
    | .freezing => true
    | _ => false).getD false
  let s1 := s.modCtx cx fun c => { c with run := .cutting keep destroy, cutCmd := cmd, cutDest := dest, cutClk := 0 }
  if halted then
    let s2 := (s1.quadsOf cx).foldl (fun s q => (s.snuffQuad q.id).modQuad q.id fun x =>
      if x.snuff = .none then { x with snuff := .marked } else x) s1
    s2.stopEngines cx
  else s1

/-- The completions K holds for a context are delivered (R284, R380, R384). -/
def State.deliverKept (s : State) (cx : CtxId) : State :=
  let mine := fun (s : State) (p : Nat × Word) => ((s.ember? p.1).map fun e => decide (e.strand.cx = cx)).getD false
  s.barriers.foldl (fun s b => (b.keptDone.filter (mine s)).foldl (fun s p =>
      match s.ember? p.1 with
      | some e => s.send cx .k (.quad e.quad) 1 (.reply p.1 p.2 none)
      | none => s)
    (s.modBarrier b.site b.num fun x => { x with keptDone := x.keptDone.filter fun p => !mine s p })) s

/-- SNUFF_MARKER_BROADCAST (R377, R432): the destination of a SNUFF instruction or a candle cut is checked first; a
cut whose check fails ends: no effect for the instruction, a freeze for the candle; what K has held since the cut was asked for is
delivered (R283). The tables are read behind the packets that left for them before (R17). -/
def execEvSnuffMarkerBroadcast (vf ctx : Nat) (s : State) : Out :=
  match s.ctx? ⟨vf, ctx⟩ with
  | none => notEnabled "SNUFF_MARKER_BROADCAST"
  | some c =>
    match c.run with
    | .cutting keep _ =>
      if c.cutClk ≠ 0 then notEnabled "SNUFF_MARKER_BROADCAST"
      else if keep && c.cutCmd.isNone && !s.destGood c c.cutDest then
        s.inOrder "SNUFF_MARKER_BROADCAST" (.next (((s.destRead c c.cutDest).modCtx c.id fun c =>
          { c with run := if (s.func vf).cut then .freezing else .running }).deliverKept c.id).tick)
      else
        let s1 := if keep && c.cutCmd.isNone then s.destRead c c.cutDest else s
        s.inOrder "SNUFF_MARKER_BROADCAST" (.next (s1.modCtx c.id fun c => { c with cutClk := max 1 s.clk }).tick)
    | _ => notEnabled "SNUFF_MARKER_BROADCAST"

/-- The marker of a context's cut is on its way. -/
def State.cutting (s : State) (cx : CtxId) : Bool :=
  ((s.ctx? cx).map fun c => match c.run with | .cutting _ _ => c.cutClk != 0 | _ => false).getD false

/-! ### Channels (R378) -/

/-- The direction of the mesh link from one quad of a region to its neighbour. -/
def linkDir (a b : Quad) : Option Nat :=
  if a.cx ≠ b.cx ∨ a.ldie ≠ b.ldie then none
  else if b.y = a.y ∧ b.x = a.x + 1 then some 0
  else if b.y = a.y ∧ a.x = b.x + 1 then some 1
  else if b.x = a.x ∧ b.y = a.y + 1 then some 2
  else if b.x = a.x ∧ a.y = b.y + 1 then some 3
  else none

/-- The circuits into another region that end at a quad, with their sources. -/
def Context.circuitsInto (c : Context) (q : Quad) : List (Nat × QuadId) :=
  (List.range c.circuits.length).filterMap fun n =>
    match c.circuits[n]? with
    | some k =>
      if c.crosses n = true ∧ k.dstLdie = q.ldie ∧
          (c.places k.dstLdie (c.codeBase + k.block)).any (fun p => p.x = q.x ∧ p.y = q.y) = true then
        (c.circuitSource n).map fun src => (n, src)
      else none
    | none => none

/-- The channels from one quad to another: a mesh link, circuits' paths (numbered from 4). -/
def Context.channels (c : Context) (a b : Quad) : List Nat :=
  (linkDir a b).toList ++ ((c.circuitsInto b).filter (·.2 = a.id)).map fun x => 4 + x.1

/-- Every channel into a quad. -/
def State.incoming (s : State) (c : Context) (q : Quad) : List Nat :=
  (s.quadsOf c.id).flatMap fun a => if a.id = q.id then [] else c.channels a q

/-- A token or frame that has still to pass the channels from one quad to another before a marker does: sent on them, or put back
on them by a restore (R384). -/
def State.channelBusy (s : State) (c : Context) (a b : Quad) : Bool :=
  s.msgs.any fun m => m.isTraffic && (((m.via.map fun v => decide (v.1 = b.id) && (c.channels a b).contains v.2).getD false) ||
   m.src = .quad a.id && (m.dst = .quad b.id || ((linkDir a b).isSome && match m.dst with
    | .quad d => (((s.quad? d).map fun x => decide (x.ldie = a.ldie)).getD false) &&
        (((meshRoute a.id d).head?.map (·.1)) == some b.id)
    | _ => false)))

/-- A quad's first marker: it starts nothing more, and what is not past step 1 leaves (R378 steps 1 and 2). -/
def State.markQuad (s : State) (q : QuadId) : State := (s.snuffQuad q).modQuad q fun x => { x with snuff := .marked }

/-- A quad's histogram rows as numbers. -/
def histNumbers (q : Quad) : List Nat := q.hist.flatMap fun r => [r.block, r.slot, r.spilled] ++ r.buckets

/-- The wait histograms of a quad written to the profile area, and then zeroed (R357): the rows' layout is open
(notes/assumptions 9). DESIGN CHOICE (notes/assumptions 97): R357 does not say which unit writes them; K does, as it writes the
image, and K has no TLB, so 0x026 counts no walk for them. -/
def State.writeProfile (s : State) (c : Context) (q : Quad) : State :=
  if c.params.profile = 0 ∨ (q.hist = [] ∧ q.lostMatch = 0) then s
  else
    let size := c.params.traceSize * 4096
    let base := c.params.profile + (96 * q.ldie + c.indexOf q) * size
    let rows := if q.hist = [] then [] else (Config.sectionBytes 7 (histNumbers q) s.fresh).take (size - 64)
    let s1 := (s.putLong c base (leBytes 8 q.hist.length ++ leBytes 8 q.lostMatch)).putLong c (base + 64) rows
    { s1 with fresh := s.fresh + 1 }.modQuad q.id fun x => { x with hist := [], lostMatch := 0 }

/-- QUAD_MARKER_ARRIVAL (R378): K's marker reaches the quad; then, its commits complete, the quad saves and sends its
markers. -/
def execEvQuadMarkerArrival (die idx : Nat) (s : State) : Out :=
  match s.quad? ⟨die, idx⟩ with
  | none => notEnabled "QUAD_MARKER_ARRIVAL"
  | some q =>
    match s.ctx? q.cx with
    | none => notEnabled "QUAD_MARKER_ARRIVAL"
    | some c =>
      if q.zeroing || !s.cutting c.id then notEnabled "QUAD_MARKER_ARRIVAL"
      else
        match q.snuff with
        | .none => .next (s.markQuad q.id).tick
        | .saved => notEnabled "QUAD_MARKER_ARRIVAL"
        | .marked =>
          if s.commits.any fun r => r.inst.frame.quad = q.id ∧ r.parked = false then notEnabled "QUAD_MARKER_ARRIVAL"
          else
            let s1 := (s.writeProfile c q).modQuad q.id fun x => { x with snuff := .saved }
            let to' := (s.quadsOf c.id).filter fun b => b.id ≠ q.id ∧ c.channels q b ≠ []
            s.inOrder "QUAD_MARKER_ARRIVAL" (.next (to'.foldl (fun s b => s.send c.id (.quad q.id) (.quad b.id) 9 .marker) s1).tick)

/-- CHANNEL_MARKER_ARRIVAL (R378): after everything sent on its channels; it may be the quad's first. -/
def execEvChannelMarkerArrival (n : Nat) (s : State) : Out :=
  match s.msg? n with
  | none => notEnabled "CHANNEL_MARKER_ARRIVAL"
  | some m =>
    match m.body, m.src, m.dst with
    | .marker, .quad a, .quad b =>
      match s.quad? a, s.quad? b, s.ctx? m.cx with
      | some qa, some qb, some c =>
        if !s.cutting c.id || s.channelBusy c qa qb then notEnabled "CHANNEL_MARKER_ARRIVAL"
        else
          let s1 := (s.land n).modQuad b fun x => { x with closed := x.closed ++ c.channels qa qb }
          .next (if qb.snuff = .none then s1.markQuad b else s1).tick
      | _, _, _ => notEnabled "CHANNEL_MARKER_ARRIVAL"
    | _, _, _ => notEnabled "CHANNEL_MARKER_ARRIVAL"

/-- An engine stands at a point of R380: between two elements, blocks, rows or frames, every write of the last one made, or
stopped by a page fault; a collective group that has started completes first. -/
def Pending.atStop (p : Pending) : Bool :=
  match p.phase with
  | .registering _ => false
  | .done => false
  | .stopped _ => true
  | _ => p.writes.isEmpty && !((p.cmd.op = 0x16E || p.cmd.op = 0x16F) && p.marks = 1)

/-- ENGINE_SNUFF_STOP (R380): an engine stops at its point; its line requests are withdrawn. -/
def execEvEngineSnuffStop (n : Nat) (s : State) : Out :=
  match s.cmd? n with
  | none => notEnabled "ENGINE_SNUFF_STOP"
  | some p =>
    if p.cutOff || !p.atStop || !s.cutting p.cmd.cx then notEnabled "ENGINE_SNUFF_STOP"
    else .next ((s.dropLines n).modCmd n fun p => { p with cutOff := true, lines := [] }).tick

/-! ### The image (R354, R382, R383) -/

/-- A record of the unmatched-operand listing (R354). -/
def unmatchedRecord (qindex elem tag slot port : Nat) (t : Tok) : List Nat :=
  [(if t = .null then 2 ^ 58 else 0) + qindex % 128 * 2 ^ 51 + elem % 4 * 2 ^ 49 + port * 2 ^ 47 + slot % 128 * 2 ^ 40 +
     tag % 2 ^ 40, (t.value?.map (·.toNat)).getD 0]

/-- The records for one slot: the operands its entry of the matching store holds, waiting or marked ready (R291, R354). -/
def slotUnmatched (qindex elem tag : Nat) (x : SlotState) : List (List Nat) :=
  let one := fun (port : Nat) (t : Option Tok) => t.toList.map (unmatchedRecord qindex elem tag x.slot port)
  if x.status = .idle ∨ x.status = .marked then one 1 x.ops.left ++ one 2 x.ops.right ++ one 3 x.ops.third else []

/-- The listing of a context, sorted by quad index, element, slot and tag (R354): the operands of instances, and the tokens of
INLET FIFOs, which the matching store holds too (R222). DESIGN CHOICE (notes/assumptions 96): an INLET has no operand port; its
token is listed with PORT 01, its left. -/
def State.unmatched (s : State) (c : Context) : List Byte :=
  let key := fun (w : List Nat) =>
    let a := (w.head?).getD 0
    (bitsOf a 57 51, bitsOf a 50 49, bitsOf a 46 40, a % 2 ^ 40)
  let le := fun (x y : List Nat) =>
    let (a, b, d, e) := key x
    let (a', b', d', e') := key y
    a < a' || (a == a' && (b < b' || (b == b' && (d < d' || (d == d' && e ≤ e')))))
  let recs := (s.insts.filter fun i => i.frame.strand.cx = c.id).flatMap fun i =>
    let q := ((s.quad? i.frame.quad).map c.indexOf).getD 0
    i.slots.flatMap (slotUnmatched q i.frame.elem i.frame.strand.tag)
  let toks := (s.fifo.filter (·.cx = c.id)).map fun t =>
    unmatchedRecord (((s.quad? t.quad).map c.indexOf).getD 0) t.elem t.tag t.slot 1 (.val t.val)
  bytesOfWords (sortBy le (recs ++ toks)).flatten

/-- One directory entry's first word, the section's kind, its bytes of a known layout, and what the bytes behind them hold that
the spec gives no layout, as numbers (none: nothing). -/
structure Section' where
  e0 : Nat
  kind : Nat
  own : List Byte
  rest : Option (List Nat)

/-- CHAN of a channel of a quad's link contents: a mesh direction, or from 4 on the circuits as the section lists them (R382,
R426). DESIGN CHOICE (notes/assumptions 9): their number in that list, 255 for all from the 252nd on. -/
def chanCode (chans : List Nat) (ch : Nat) : Nat :=
  if ch < 4 then ch else min 255 (4 + (chans.filter (4 ≤ ·)).idxOf ch)

def dirWord (kind ldie quad chan : Nat) : Nat := chan % 256 * 2 ^ 16 + quad % 256 * 2 ^ 8 + ldie % 16 * 2 ^ 4 + kind % 16

/-- The marks of a vault, a bit per byte, for the 768 KiB that follow its contents. -/
def markBytes (s : State) (base n : Nat) : List Byte :=
  (List.range (n / 8)).map fun k =>
    BitVec.ofNat 8 (((List.range 8).map fun b => if s.poison.contains (base + 8 * k + b) then 2 ^ b else 0).foldl (· + ·) 0)

/-- A vault section: 6 MiB of contents, then the marks (R383). -/
def vaultBytes (s : State) (q : QuadId) : List Byte :=
  memBytes s.mem (vaultBase q) (6 * 2 ^ 20) ++ markBytes s (vaultBase q) (6 * 2 ^ 20)

/-- Channels of a quad with recorded contents, in order of first arrival. -/
def linkChannels (q : Quad) : List Nat := (q.link.map (·.1)).eraseDups

/-- The bytes of a record (R51). -/
def recordBytes (s : State) (e : Ember) : List Byte := bytesOfWords (emberWords s e)

/-- The node state of a quad as far as its bytes have a layout (DESIGN CHOICE of their order, notes/assumptions 9): the records
of its embers, then the registers of its frames (R42, R51). -/
def nodeBytes (s : State) (q : Quad) : List Byte :=
  ((s.embers.filter (·.quad = q.id)).flatMap (recordBytes s)) ++
    (s.frames.filter (·.quad = q.id)).flatMap fun f => bytesOfWords (f.regs.map (·.toNat))

/-- The rest of a quad's node state, as numbers. -/
def nodeNumbers (s : State) (q : Quad) : List Nat :=
  [q.fpctl, q.srseed.toNat, q.mergedrop.toNat, q.capfence.toNat, q.replay.toNat, q.vseq, q.entries.length] ++ q.ready ++ q.cleared ++
    q.frameWait ++ q.counters ++ (q.waitFar.flatMap fun w => [w.seq, w.off, w.a.n]) ++
    (s.frames.filter (·.quad = q.id)).flatMap (fun f => [f.strand.tag, f.block, f.order]) ++
    ((s.fifo.filter (·.quad = q.id)).flatMap fun t => [t.slot, t.tag, t.val.toNat])

/-- A link's entry as numbers (R383): a token's circuit, tag and payload, or a frame's tag, block and registers. -/
def linkNumbers (m : Msg) : List Nat :=
  match m.body with
  | .token n tag v _ => [0, n, tag, v.toNat]
  | .frame f _ => [1, f.strand.tag, f.block] ++ f.regs.map (·.toNat)
  | _ => []

/-- An engine's state as numbers (R380): a command's progress; a quad's ME, window register and delay line. -/
def engineNumbers (p : Pending) : List Nat :=
  [handleToken p.cmd.qindex p.cmd.tag p.cmd.lsid, p.n, p.round, p.marks, p.cond, p.count, p.code, p.pos] ++ p.sparams

def unitNumbers (q : Quad) : List Nat :=
  (q.me.config.map (·.toNat)).toList ++ (q.me.acc.flatMap fun x => [x.1, x.2.toNat]) ++ q.me.live ++ q.me.marks ++
    q.window.map (·.toNat) ++ q.delay.flatMap fun x => [x.1, x.2.1, x.2.2.1, x.2.2.2]

/-- A quad's ME or window unit holds something (R380). -/
def Quad.unitState (q : Quad) : Bool :=
  q.me.config.isSome || !q.me.live.isEmpty || !q.me.marks.isEmpty || !q.delay.isEmpty || q.window.any (· != 0)

/-- The sections of a context's image, in the order of R428. -/
def sectionsOf (s : State) (c : Context) : List Section' :=
  let qs := s.quadsOf c.id
  let open' := fun (kind ldie quad chan : Nat) (xs : List Nat) => Section'.mk (dirWord kind ldie quad chan) kind [] (some xs)
  let kept := (s.barriers.flatMap (·.keptDone)).filter fun x => ((s.ember? x.1).map fun e => decide (e.strand.cx = c.id)).getD false
  [open' 1 0 0xFF 0 ([c.energy, c.budget, c.overflow, c.lost, c.delivered, c.faults.length] ++
    kept.flatMap (fun x => [x.1, x.2.toNat]) ++ c.spaces.flatMap fun p => [p.num, p.gen, p.live])] ++
  (c.regions.map fun r => open' 2 r.ldie 0xFF 0
    (((c.decl? r.ldie).map fun d => [d.w, d.h, d.framesKiB, d.overflowKiB, d.embersKiB]).getD [] ++ c.credits)) ++
  (qs.map fun q => ⟨dirWord 3 q.ldie (c.indexOf q) 0, 3, nodeBytes s q, some (nodeNumbers s q)⟩) ++
  (qs.map fun q => ⟨dirWord 4 q.ldie (c.indexOf q) 0, 4, vaultBytes s q.id, none⟩) ++
  (qs.flatMap fun q => (linkChannels q).map fun ch => open' 5 q.ldie (c.indexOf q) (chanCode (linkChannels q) ch)
    ((q.link.filter (·.1 = ch)).flatMap fun x => x.1 :: linkNumbers x.2)) ++
  ((s.cmds.filter fun p => p.cmd.cx = c.id ∧ p.phase ≠ .done).map fun p => open' 6 p.cmd.ldie p.cmd.qindex 0 (engineNumbers p)) ++
  ((qs.filter Quad.unitState).map fun q => open' 6 q.ldie (c.indexOf q) 0 (unitNumbers q)) ++
  ((qs.filter fun q => !q.hist.isEmpty).map fun q => open' 7 q.ldie (c.indexOf q) 0 (histNumbers q))

/-- The sections' bytes in order, those without a layout kept within what R432 leaves beside those that have one. -/
def sectionData : List Section' → Nat → Nat → List (List Byte)
  | [], _, _ => []
  | x :: r, serial, room =>
    let more := match x.rest with
      | none => []
      | some xs => (Config.sectionBytes x.kind xs serial).take room
    (x.own ++ more) :: sectionData r (serial + 1) (room - more.length)

/-- The directory (R382): each section's offset from the header. -/
def directory : List Section' → List (List Byte) → Nat → List Nat
  | x :: xs, b :: bs, off => x.e0 :: off :: directory xs bs (off + b.length)
  | _, _, _ => []

/-- A context's image as K reads it out (R382, R383); a stopped state read without a release carries the listing of
R354 after its last section (notes/assumptions 9). -/
def imageOf (s : State) (c : Context) (cutClk : Nat) (listing : Bool) : List Byte :=
  let xs := sectionsOf s c
  let tail := if listing then s.unmatched c else []
  let own := (xs.map fun x => x.own.length).foldl (· + ·) 0
  let room := imageBound (s.quadsOf c.id).length - 64 - 16 * xs.length - tail.length - own
  let data := sectionData xs s.fresh room
  let size := 64 + 16 * xs.length + (data.map List.length).foldl (· + ·) 0 + tail.length
  let w0 := (if c.atStop then 2 ^ 21 else 0) + (if c.damaged then 2 ^ 20 else 0) + c.regions.length % 16 * 2 ^ 16 + 0x1A5
  bytesOfWords ([w0, c.id.vf % 64 * 2 ^ 10 + c.id.num % 1024, size, cutClk, xs.length, 0, 0, 0] ++
    directory xs data (64 + 16 * xs.length)) ++ data.flatten ++ tail

/-- What an image holds, kept beside its bytes. -/
def snapshot (s : State) (c : Context) (bytes : List Byte) : SavedImage :=
  let mine := fun (st : Strand) => st.cx = c.id
  let qs := s.quadsOf c.id
  { serial := s.fresh, bytes := bytes, cxt := c, quads := qs, insts := s.insts.filter fun i => mine i.frame.strand,
    commits := s.commits.filter fun r => mine r.inst.frame.strand, frames := s.frames.filter fun f => mine f.strand,
    embers := s.embers.filter fun e => mine e.strand, fifo := s.fifo.filter (·.cx = c.id),
    cmds := s.cmds.filter (·.cmd.cx = c.id),
    barriers := s.barriers.filter fun b => match b.site with
      | .quad q => qs.any (·.id = q)
      | .region x _ => x = c.id
      | .pkg x => x = c.id
      | .pod v k x => x = c.id ∨ (v = c.id.vf ∧ k = c.params.podKey),
    msgs := s.msgs.filter (·.cx = c.id), specs := s.specs.filter (·.cx = c.id),
    retiring := s.retiring.filter (·.2.1 = c.id), posted := s.posted.filter (·.cx = c.id),
    decoders := s.decoders.filter fun d => s.cmds.any fun p => p.cmd.id = d.num ∧ p.cmd.cx = c.id,
    vaults := qs.map fun q => (q.id, (s.mem.filter fun x => vaultBase q.id ≤ x.1 ∧ x.1 < vaultBase q.id + 2 ^ 23).map fun x =>
      (x.1 - vaultBase q.id, x.2),
      (s.poison.filter fun x => vaultBase q.id ≤ x ∧ x < vaultBase q.id + 2 ^ 23).map (· - vaultBase q.id)),
    stopped := c.atStop, damaged := c.damaged }

/-! ### Read-out (R379, R320) -/

/-- A quad's vault is read out: a read of its tile store or speculative buffer meets the errors of its words; a single-bit error is
corrected in the other areas too, whose uncorrectable ones are parity failures (R372, R374). -/
def State.meetVault (s : State) (c : Context) (q : Quad) : State :=
  let base := vaultBase q.id
  let s1 := s.scrub base (c.emberBase q.ldie)
  let hit := fun (k : Nat) => decide (base ≤ k ∧ k < base + 6 * 2 ^ 20)
  if s1.weak.any hit then
    { s1 with weak := s1.weak.filter fun k => !hit k, corrected := modAt q.id.die (· + s1.weak.countP hit) s1.corrected }
  else s1

/-- The vaults of a context are read out. -/
def State.readOut (s : State) (c : Context) : State := (s.quadsOf c.id).foldl (fun s q => s.meetVault c q) s

/-- What a message of a cut context may still be: held where it has arrived, a command on its way. -/
def Msg.savable (m : Msg) : Bool :=
  m.cls == 20 || (match m.body with | .command _ => true | .decode _ => true | .coll _ => true | _ => false)

/-- A message that may stay: a BARSYNC's arrival, too, which waits at its barrier for its strand's earlier events (R284). -/
def State.maySave (s : State) (m : Msg) : Bool :=
  m.savable || (match m.body with | .arrive site n a => m.hops.isEmpty && s.syncHeld site n a | _ => false)

/-- Every quad's state is complete and every engine has stopped (R379, R380). -/
def State.cutComplete (s : State) (c : Context) : Bool :=
  s.cutting c.id &&
  ((s.quadsOf c.id).all fun q => q.snuff == .saved && (s.incoming c q).all q.closed.contains) &&
  !(s.insts.any fun i => i.frame.strand.cx = c.id) &&
  !(s.commits.any fun r => r.inst.frame.strand.cx = c.id ∧ r.parked = false) &&
  (s.msgs.all fun m => m.cx ≠ c.id || s.maySave m) &&
  (s.posted.all fun p => p.cx ≠ c.id || s.quads.any fun q => q.waitFar.any (·.msg.id = p.id)) &&
  (s.cmds.all fun p => p.cmd.cx ≠ c.id || p.cutOff || p.phase == .done)

/-- An access of K's own on its way, an image's or a table's bytes: the end of a context does not withdraw it (R389). -/
def Msg.ofK (m : Msg) : Bool :=
  m.src == .k && (m.access?.isSome || match m.body with | .line _ => true | _ => false)

/-- Everything of a context outside its quads leaves the part: strands, commands, barriers, messages, TLB entries, the space
table (R376). -/
def State.sweep (s : State) (cx : CtxId) : State :=
  let far := fun (st : Strand) => st.cx ≠ cx
  let qs := (s.quads.filter (·.cx = cx)).map (·.id)
  { s with
    insts := s.insts.filter fun i => far i.frame.strand, commits := s.commits.filter fun r => far r.inst.frame.strand,
    frames := s.frames.filter fun f => far f.strand, embers := s.embers.filter fun e => far e.strand,
    retiring := s.retiring.filter (·.2.1 ≠ cx), posted := s.posted.filter (·.cx ≠ cx), fifo := s.fifo.filter (·.cx ≠ cx),
    specs := s.specs.filter (·.cx ≠ cx), cmds := s.cmds.filter (·.cmd.cx ≠ cx),
    decoders := s.decoders.filter fun d => !(s.cmds.any fun p => p.cmd.id = d.num ∧ p.cmd.cx = cx), msgs := s.msgs.filter fun m => m.cx ≠ cx || m.ofK,
    flying := s.flying.filter fun t => !(s.insts.any fun i => i.id = t.inst ∧ i.frame.strand.cx = cx),
    lanes := s.lanes.filter fun l => !(s.insts.any fun i => i.id = l.inst ∧ i.frame.strand.cx = cx),
    tlbs := s.tlbs.map fun p => (p.1, p.2.filter fun t => t.cx ≠ cx),
    barriers := s.barriers.filter fun b => match b.site with
      | .quad q => !qs.contains q
      | .region x _ => x ≠ cx
      | .pkg x => x ≠ cx
      | .pod v k _ => v ≠ cx.vf || s.contexts.any fun c => c.id ≠ cx ∧ c.id.vf = v ∧ c.params.podKey = k ∧ c.regions ≠ [] }

/-- The quads of a context released: each is zeroed before it is free (R320). -/
def State.release (s : State) (cx : CtxId) : State :=
  let go := fun (q : Quad) => if q.cx = cx then { q with zeroing := true, snuff := .saved } else q
  { s.sweep cx with quads := s.quads.map go }

/-- The function a cut's read-out is charged to: the one whose command or candle caused it (R340). -/
def State.cutPayer (s : State) (c : Context) : Nat :=
  ((c.cutCmd.bind fun n => s.kcmds.find? (·.id = n)).map (·.vf)).getD c.id.vf

/-- QUAD_STATE_READOUT (R376, R379, R382): the image is written to its destination, or discarded by a destroy; the
context's quads go to be zeroed. -/
def execEvQuadStateReadout (vf ctx : Nat) (s : State) : Out :=
  match s.ctx? ⟨vf, ctx⟩ with
  | none => notEnabled "QUAD_STATE_READOUT"
  | some c =>
    if !s.cutComplete c then notEnabled "QUAD_STATE_READOUT"
    else
      match c.run with
      | .cutting true false =>
        let s0 := s.readOut c
        let bytes := imageOf s0 c c.cutClk false
        let put := s0.putLong c c.cutDest bytes
        let s1 := { put with saved := put.saved ++ [snapshot s0 c bytes], fresh := put.fresh + (sectionsOf s0 c).length }
        let keep := fun (x : Context) =>
          { Context.initial x.id with
            aperture := x.aperture, ring := x.ring, poolBase := x.poolBase, poolSize := x.poolSize, imageArea := x.imageArea,
            imageMiB := x.imageMiB, root := x.root, image := x.image, imageBytes := x.imageBytes, codeBase := x.codeBase,
            run := .saved, energy := x.energy, budget := x.budget, cls := x.cls }
        s.inOrder "QUAD_STATE_READOUT"
          (.next (((s1.release c.id).modCtx c.id keep).charge .kdie (.vf (s.cutPayer c)) classFirmware 1 16).tick)
      | .cutting _ _ =>
        let s1 := s.release c.id
        .next { s1 with contexts := s1.contexts.filter (·.id ≠ c.id) }.tick
      | _ => notEnabled "QUAD_STATE_READOUT"

/-- QUAD_ZEROING (R320): everything of the quad becomes zero; the energy is the physical function's. -/
def execEvQuadZeroing (die idx : Nat) (s : State) : Out :=
  match s.quad? ⟨die, idx⟩ with
  | none => notEnabled "QUAD_ZEROING"
  | some q =>
    if !q.zeroing || q.snuff = .none then notEnabled "QUAD_ZEROING"
    else
      let base := vaultBase q.id
      let out := fun (k : Nat) => k < base || base + 6 * 2 ^ 20 ≤ k
      let s1 := { s with mem := memZero base (6 * 2 ^ 20) s.mem, poison := s.poison.filter out, weak := s.weak.filter out,
                         broken := s.broken.filter out }
      let wipe := fun (x : Quad) => { Quad.initial x.id x.cx x.ldie x.x x.y with zeroing := true }
      .next ((s1.modQuad q.id wipe).charge (.quad q.id) (.vf 0) classFirmware 1 q.id.die).tick

/-- QUAD_ZERO_COMPLETE (R320): the quad is unreserved. -/
def execEvQuadZeroComplete (die idx : Nat) (s : State) : Out :=
  match s.quad? ⟨die, idx⟩ with
  | none => notEnabled "QUAD_ZERO_COMPLETE"
  | some q =>
    if !q.zeroing || q.snuff ≠ .none then notEnabled "QUAD_ZERO_COMPLETE"
    else .next { s with quads := s.quads.filter (·.id ≠ q.id) }.tick

end Sys2Proof.Machine
end

