-- ==== Sys2Proof/Machine/Energy.lean ====
section
/-!
DEFINITION. Lantern reports, correction factors, shared costs, candles, budgets and classes (R289, R334-R341, R344).
-/

namespace Sys2Proof.Machine

/-! ### Reports (R336, R338, R344) -/

/-- A report added to a context's total and taken from its budget; an unlimited budget does not fall. DESIGN CHOICE
(notes/assumptions 97): R338 gives no rounding of charges of 2^-16 nJ to the budget's whole nJ; the budget falls by what the
total's whole nJ rise by, so the fraction carries over, a refill included. -/
def Context.addEnergy (c : Context) (e : Nat) : Context :=
  let nj := (c.energy + e) / 65536 - c.energy / 65536
  { c with energy := c.energy + e,
           budget := if c.params.budget = 0xFFFFFFFFFFFFFFFF then c.budget else c.budget - nj }

/-- One accumulation reported to K: to the context and to the function's total (R336). -/
def State.report1 (s : State) (x : Lantern × Payer × Nat) : State :=
  match x.2.1 with
  | .ctx cx =>
    (s.modCtx cx fun c => c.addEnergy x.2.2).modFunc cx.vf fun f => { f with spent := f.spent + x.2.2 }
  | .vf n => s.modFunc n fun f => { f with spent := f.spent + x.2.2 }

/-- The copies of %energy, %budget, %class and %fault delivered to the quads (R344). -/
def Context.deliverCopies (c : Context) : Context :=
  { c with energySeen := c.energy / 65536 % 2 ^ 64, budgetSeen := c.budget, clsSeen := c.cls, faultSeen := c.faultReg }

/-- LANTERN_REPORT (R336): every 2,048 cycles. -/
def execEvLanternReport (s : State) : Out :=
  if s.clk % 2048 ≠ 0 then notEnabled "LANTERN_REPORT"
  else
    let s1 := s.lanterns.foldl State.report1 s
    .next ({ s1 with lanterns := [], contexts := s1.contexts.map Context.deliverCopies }.tick)

/-- The class R289 gives: a System or Normal context whose budget is zero is Dim; else the launch class. -/
def Context.dueClass (c : Context) : Nat :=
  if (c.params.cls = 0 ∨ c.params.cls = 1) ∧ c.budget = 0 ∧ c.params.budget ≠ 0xFFFFFFFFFFFFFFFF then 2 else c.params.cls

/-- CLASS_CHANGE (R289, R338). -/
def execEvClassChange (vf ctx : Nat) (s : State) : Out :=
  match s.ctx? ⟨vf, ctx⟩ with
  | none => notEnabled "CLASS_CHANGE"
  | some c =>
    if c.run = .created ∨ c.run = .loaded ∨ c.cls = c.dueClass then notEnabled "CLASS_CHANGE"
    else .next (s.modCtx c.id fun c => { c with cls := c.dueClass }).tick

/-! ### The millisecond (R337, R340, R400) -/

/-- Clocks of a millisecond at the present fclk. -/
def State.msClocks (s : State) : Nat := s.fclk * 100

/-- fclk changed. What is left of the current millisecond passes at the new frequency; one that is over has ended when it
did. -/
def State.setFclk (s : State) (f : Nat) : State :=
  let at' := if s.msAt + s.msClocks ≤ s.clk then s.msAt + s.msClocks - f * 100
    else s.clk - (s.clk - s.msAt) * f / max 1 s.fclk
  { s with fclk := f, msAt := at' }

/-- The current millisecond is over. -/
def State.msOver (s : State) : Bool := s.msAt + s.msClocks ≤ s.clk

/-- measured ÷ charged, to the nearest 2^-12, between 0.75 and 1.25 (R337). -/
def factorOf (measured charged : Nat) : Nat := min 5120 (max 3072 ((2 * 4096 * measured + charged) / (2 * charged)))

/-- FACTOR_UPDATE (R337): the die's sensor energy for the millisecond against its charges and static share. With
nothing charged the quotient is open: a free value within the clamp. -/
def execEvFactorUpdate (die : Nat) (s : State) : Out :=
  if !s.msOver || s.msFactors.contains die || 16 < die then notEnabled "FACTOR_UPDATE"
  else
    let charged := (s.dieCharged[die]?).getD 0 + Config.sensor 1 die s.msNo
    let f := if charged = 0 then min 5120 (max 3072 (Config.freeWord s.fresh).toNat)
      else factorOf (Config.sensor 0 die s.msNo) charged
    .next ({ s with factors := s.factors.set die f, msFactors := die :: s.msFactors, fresh := s.fresh + 1 }.tick)

/-- The leaves of a table level by level: virtual address, size and physical address of each page (R327). -/
def leavesOf (s : State) : List (Nat × Nat × Nat) → Nat → Nat → List (Nat × Nat × Nat)
  | [], _, _ => []
  | (_, lo, n) :: rest, table, va =>
    (List.range (2 ^ n)).flatMap fun k =>
      let e := s.readNat ((table + 8 * k) % 2 ^ 46) 8
      if !bitOf e 0 then []
      else if bitOf e 1 then [(va + k * 2 ^ lo, 2 ^ lo, bitsOf e 51 12 * 4096)]
      else leavesOf s rest (bitsOf e 51 12 * 4096) (va + k * 2 ^ lo)

/-- Bytes a context has mapped on a stack of this package. -/
def State.mappedOn (s : State) (c : Context) (stack : Nat) : Nat :=
  ((leavesOf s walkLevels c.root 0).filterMap fun (_, n, pa) =>
    if pa / 2 ^ 46 = s.pkgNo ∧ bitsOf pa 45 40 = 0 ∧ bitsOf pa 39 36 = stack then some n else none).foldl (· + ·) 0

/-- The bytes each context has mapped on each stack of this package, as the split of the millisecond takes them (R340). -/
def State.mappedNow (s : State) : List (Nat × CtxId × Nat) :=
  (List.range 16).flatMap fun n => s.contexts.map fun c => (n, c.id, s.mappedOn c n)

/-- A cost split in proportion to weights, each share rounded down; the physical function gets what is left (R340). -/
def State.splitCost (s : State) (l : Lantern) (cost : Nat) (shares : List (Payer × Nat)) (total : Nat) : State :=
  let paid := shares.map fun p => (p.1, if total = 0 then 0 else cost * p.2 / total)
  let s1 := paid.foldl (fun s p => s.addCharge l p.1 p.2) s
  s1.addCharge l (.vf 0) (cost - (paid.map (·.2)).foldl (· + ·) 0)

/-- Neighbouring dies of the floor, in each direction: the Rosord boundaries (R17). -/
def boundaries : List (Nat × Nat) :=
  (List.range 17).flatMap fun a => ((List.range 17).filter fun b => a ≠ b ∧ dieRoute a b = [b]).map fun b => (a, b)

/-- A context has a circuit routed over a boundary direction. -/
def State.circuitOver (c : Context) (a b : Nat) : Bool :=
  (List.range c.circuits.length).any fun n =>
    match c.circuits[n]? with
    | some k =>
      match c.region? k.srcLdie, c.region? k.dstLdie with
      | some x, some y => (linksFrom x.die (dieRoute x.die y.die)).contains (.link a b)
      | _, _ => false
    | none => false

/-- The costs no single event causes, for the millisecond (R340). A stack's idle cost goes by what was mapped on it when the
millisecond began. -/
def State.splitShared (s : State) : State :=
  let hbm := (List.range 16).foldl (fun s n =>
    let ws := (s.msMapped.filter (·.1 = n)).map fun m => (Payer.ctx m.2.1, m.2.2)
    s.splitCost (.stack n) (Config.sensor 2 n s.msNo) ws ((ws.map (·.2)).foldl (· + ·) 0 + 2 ^ 28)) s
  let quads := s.quads.foldl (fun s q =>
    s.addCharge (.quad q.id) (if q.zeroing then .vf 0 else .ctx q.cx) (Config.sensor 3 (q.id.die * 128 + q.id.idx) s.msNo)) hbm
  let idle := quads.addCharge .kdie (.vf 0) (Config.sensor 4 0 s.msNo)
  boundaries.foldl (fun s p =>
    let who := (s.contexts.filter fun c => State.circuitOver c p.1 p.2).map fun c => (Payer.ctx c.id, 1)
    s.splitCost (.boundary p.1 p.2) (Config.sensor 5 (p.1 * 32 + p.2) s.msNo) who who.length) idle

/-- SHARED_COST_SPLIT (R340): the millisecond's other checks done, its shared costs are split and the next, which began when it
ended, goes on; a
calibration record loaded in it takes effect (R396). -/
def execEvSharedCostSplit (s : State) : Out :=
  if !s.msOver || !s.msPower || !((List.range 17).all s.msFactors.contains) then notEnabled "SHARED_COST_SPLIT"
  else
    let s1 := s.splitShared
    .next ({ s1 with
      msMapped := s1.mappedNow, msNo := s1.msNo + 1, msAt := s1.msAt + s1.msClocks, msFactors := [], msPower := false, msLowered := false, msHot := false,
      dieCharged := List.replicate 17 0, calibRec := s1.nextCalib.getD s1.calibRec, nextCalib := none }.tick)

/-! ### Candles (R339, R341, R432) -/

/-- E ≥ Q, for a limited quota; the physical function has no candle (R316). -/
def State.candleSpent (s : State) (vf : Nat) : Bool :=
  vf != 0 && (match (s.func vf).quota with | some q => q * 65536 ≤ (s.func vf).spent | none => false)

/-- A context a candle cut reaches: its image goes to its image area, or with a bad area it freezes (R432). -/
def State.candleCtx (s : State) (c : Context) : State :=
  let live := match c.run with | .running => true | .stopped => true | _ => false
  if !live then s
  else if s.destGood c c.imageArea then (s.destRead c c.imageArea).startCut c.id true false none c.imageArea
  else (s.destRead c c.imageArea).modCtx c.id fun c => { c with run := .freezing }

/-- CANDLE_CUT (R339): E has reached Q. -/
def execEvCandleCut (vf : Nat) (s : State) : Out :=
  if (s.func vf).cut || !s.candleSpent vf || 64 ≤ vf then notEnabled "CANDLE_CUT"
  else
    let s1 := (s.contexts.filter (·.id.vf = vf)).foldl (fun s c => s.candleCtx c) (s.modFunc vf fun f => { f with cut := true })
    .next ((s1.event vf 0 vf 0 0 2 0 0).event 0 0 vf 0 0 2 0 0).tick

/-- A context's budget at the start of its function's period (R338). -/
def Context.refill (c : Context) : Context :=
  if c.params.refill then { c with budget := c.params.budget } else c

/-- A function's period starts at a millisecond (R338, R339): the energy beyond the quota is carried over, a new quota
and period apply, budgets are refilled. DESIGN CHOICE (notes/assumptions 89): a period that begins with E still at or above Q
keeps the cut of the last one, so no second event is posted and no context is cut again. -/
def State.startPeriod (s : State) (vf ms : Nat) : State :=
  let f := s.func vf
  let left := match f.quota with | some q => f.spent - q * 65536 | none => 0
  let s1 := s.modFunc vf fun f =>
    { f with spent := left, started := ms, quota := (f.nextPeriod.map (·.1)).getD f.quota,
             period := (f.nextPeriod.map (·.2)).getD f.period, nextPeriod := none }
  let s2 := s1.modFunc vf fun f => { f with cut := f.cut && s1.candleSpent vf }
  { s2 with contexts := modWhere (fun c => c.id.vf = vf) Context.refill s2.contexts }

/-- CANDLE_PERIOD_START (R338, R339). -/
def execEvCandlePeriodStart (vf : Nat) (s : State) : Out :=
  let f := s.func vf
  if 64 ≤ vf || s.msNo < f.started + f.period then notEnabled "CANDLE_PERIOD_START"
  else .next (s.startPeriod vf (f.started + f.period)).tick

end Sys2Proof.Machine
end

