-- ==== Sys2Proof/Machine/SystemOps.lean ====
section
/-!
DEFINITION. System, energy, observation and trap instructions (chapter 16) at their firing.
-/

namespace Sys2Proof.Machine

/-! ### Status registers (R343, R344) -/

/-- %tspace of a strand. -/
def State.tspace (s : State) (st : Strand) : Nat :=
  match s.space? st.cx (tagSpace st.tag) with
  | some p => (if p.ordered then 2 ^ 24 else 0) + p.k * 2 ^ 16 + p.level * 2 ^ 8 + p.num
  | none => tagSpace st.tag

/-- %emberq of a quad. -/
def State.emberq (s : State) (q : Quad) : Nat :=
  (s.embers.countP fun e => e.quad = q.id ∧ e.pool = .hbm) % 2 ^ 32 * 2 ^ 32 +
  (s.embers.countP fun e => e.pool = .vault q.id) % 65536 * 65536 + q.ready.length % 8192

/-- SRD's value: the register as its holder has it at the instant R344 names. -/
def State.srd (s : State) (i : Inst) (reg : Nat) : Nat :=
  let st := i.frame.strand
  match s.quad? i.frame.quad, s.ctx? st.cx with
  | some q, some c =>
    match reg with
    | 0x00 => st.cx.num
    | 0x01 => st.cx.vf
    | 0x02 => ((c.decl? q.ldie).map fun d => d.h * 2 ^ 12 + d.w * 2 ^ 8).getD 0 + q.ldie
    | 0x03 => c.indexOf q * 2 ^ 8 + q.y * 16 + q.x
    | 0x04 => i.frame.elem
    | 0x05 => q.ldie
    | 0x06 => st.tag
    | 0x07 => s.tspace st
    | 0x08 => i.fpctl0
    | 0x09 => i.seed0.toNat
    | 0x0A => s.clk
    | 0x0B => ((q.width[i.frame.elem]?).map fun w => w.1 % 2 ^ 32 * 2 ^ 32 + w.2 % 2 ^ 32).getD 0
    | 0x0C => c.energySeen
    | 0x0D => c.budgetSeen
    | 0x0E => c.params.cls * 4 + c.clsSeen
    | 0x0F => c.faultSeen.toNat
    | 0x10 => s.emberq q
    | 0x11 => i.mergedrop0.toNat
    | 0x12 => i.capfence0.toNat
    | 0x13 => i.replay0.toNat
    | _ => 0
  | _, _ => 0

def execSrd (f : FmtI) (s : State) : Out :=
  firing s f.pr fun l i s => .next (s.deliver l.inst l.slot (.val (toWord (s.srd i f.imm9.toNat))) [f.t0])

/-- Registers marked RO (R91). -/
def readOnlyReg (reg : Nat) : Bool := reg ≤ 7 || (0x0A ≤ reg && reg ≤ 0x10)

/-- SWR: PRIVILEGE on a read-only register, else a write buffered for step 4 (R345). -/
def execSwr (f : FmtI) (s : State) : Out :=
  firing s f.pr fun l i s =>
    match l.ops.one? with
    | none => .refused .notFiring
    | some .null => .next s
    | some (.val v) =>
      if readOnlyReg f.imm9.toNat then .next (s.takeFault i .privilege (some l.slot) 0 0)
      else .next (s.modInst l.inst fun i => { i with swrs := i.swrs ++ [⟨l.slot, f.imm9.toNat, v⟩] })

/-! ### Observation (R346-R348, R355) -/

def execClk (f : FmtG) (s : State) : Out :=
  firing s f.pr fun l i s =>
    .next ((s.deliver l.inst l.slot (.val (toWord s.clk)) [f.t0]).deliver l.inst l.slot
      (.val (toWord i.startClk)) [f.t1])

def execEnrd (f : FmtG) (s : State) : Out :=
  firing s f.pr fun l i s =>
    let seen := ((s.ctx? i.frame.strand.cx).map (·.energySeen)).getD 0
    .next ((s.deliver l.inst l.slot (.val (toWord (i.frame.strand.energy / 65536))) [f.t0]).deliver l.inst l.slot
      (.val (toWord seen)) [f.t1])

/-- The counter PERFRD reads (R348). -/
def State.perf (s : State) (i : Inst) (n : Nat) : Nat :=
  if n < 0x20 then ((s.quad? i.frame.quad).bind fun q => q.counters[n]?).getD 0
  else if i.frame.strand.cx.vf = s.counting then (s.shared[n - 0x20]?).getD 0 else 0

def execPerfrd (f : FmtI) (s : State) : Out :=
  firing s f.pr fun l i s => .next (s.deliver l.inst l.slot (.val (toWord (s.perf i f.imm9.toNat))) [f.t0])

def execTrace (f : FmtS) (s : State) : Out :=
  effect1 s f.pr f.lsid.toNat fun l _ a s => .next (s.buffer l.inst l.slot f.lsid.toNat (.trace f.imm16.toNat a))

/-! ### Breakpoints and assertions (R351, R352) -/

def execBkpt (f : FmtG) (s : State) : Out :=
  firing s f.pr fun l i s =>
    if ((s.ctx? i.frame.strand.cx).map (·.params.bkpts)).getD false && i.frame.strand.bkptSlot != some l.slot then
      .next (s.takeFault i .bkpt (some l.slot) 0 0)
    else .next s

def execAssert (f : FmtG) (s : State) : Out :=
  firing s f.pr fun l i s =>
    match l.ops.one? with
    | none => .refused .notFiring
    | some .null => .next s
    | some (.val a) => if a.bit 0 then .next s else .next (s.takeFault i .assert (some l.slot) 0 0)

/-! ### Privileged instructions (R360, R361) -/

/-- The function of an instance has PRIV (R316). -/
def State.privileged (s : State) (i : Inst) : Bool := (s.func i.frame.strand.cx.vf).priv

def execSnuff (f : FmtG) (s : State) : Out :=
  firing s f.pr fun l i s =>
    match l.ops.one? with
    | none => .refused .notFiring
    | some .null => .next s
    | some (.val a) =>
      if !s.privileged i then .next (s.takeFault i .privilege (some l.slot) 0 0)
      else .next (s.modInst l.inst fun i => { i with snuffs := i.snuffs ++ [a.bits 9 0] })

/-- Commands only the physical function's window may issue (R391). -/
def pfCommand (cmd : Nat) : Bool :=
  cmd == 0x0B || cmd == 0x0D || cmd == 0x0E || cmd == 0x10 || cmd == 0x11 || cmd == 0x12

/-- The check code of an FWCALL record (R361). -/
def State.fwcheck (s : State) (i : Inst) (bs : List Byte) : Nat :=
  let w0 := fieldAt bs 0
  let w2 := fieldAt bs 16
  if w0 / 65536 ≠ 0 ∨ w2 / 128 ≠ 0 ∨ fieldAt bs 8 % 16 ≠ 0 then 1
  else if i.frame.strand.cx.vf ≠ 0 ∧ pfCommand w0 = true then 2
  else if bitOf w2 6 = true ∧ (s.barrierDecl? i (w2 % 64)).isNone = true then 3
  else 0

def execFwcall (f : FmtG) (s : State) : Out :=
  firing s f.pr fun l i s =>
    match l.ops.one? with
    | none => .refused .notFiring
    | some .null => .next (s.deliver l.inst l.slot .null [f.t0, f.t1])
    | some (.val a) =>
      if !s.privileged i then .next (s.takeFault i .privilege (some l.slot) 0 0)
      else
        match s.readBlock l i a 64 with
        | .error s' => .next s'
        | .ok bs =>
          let code := s.fwcheck i bs
          let s0 := s.scrubBlock i a 64
          let s1 := if code = 0 then s0.modInst l.inst fun i => { i with fwcalls := i.fwcalls ++ [bs] } else s0
          .next (s1.deliver l.inst l.slot (.val (toWord code)) [f.t0, f.t1])

end Sys2Proof.Machine
end

