-- ==== Sys2Proof/Machine/Endom.lean ====
section
/-!
DEFINITION. Endom's command processing: reading records and buffers, checks, order, status, FWCALL dispatch (R322,
R361, R387-R391).
-/

namespace Sys2Proof.Machine

/-! ### Records (R388, R391) -/

def KCmd.w (k : KCmd) (i : Nat) : Nat := (k.words[i]?).getD 0

/-- CMD. -/
def KCmd.code (k : KCmd) : Nat := k.w 0 % 65536

/-- From the physical function's window. -/
def KCmd.fromPf (k : KCmd) : Bool := k.vf == 0 && k.from'.isNone

/-- The word and the lowest bit of the function field of a command that names a function beside its context (R391,
R392). -/
def functionField (code : Nat) : Option (Nat × Nat) :=
  match code with
  | 0x02 | 0x05 | 0x06 | 0x07 | 0x08 | 0x09 | 0x0A | 0x0C => some (3, 10)
  | 0x03 => some (6, 16)
  | 0x04 => some (6, 10)
  | 0x0F => some (5, 10)
  | _ => none

/-- The function named, as its field is read (R391). -/
def KCmd.named (k : KCmd) : Nat :=
  match functionField k.code with
  | some (w, lo) => bitsOf (k.w w) (lo + 5) lo
  | none => 0

/-- GRANT and HOST of MAP's flags (R392). -/
def KCmd.grants (k : KCmd) : Bool := k.code == 0x03 && bitOf (k.w 6) 15
def KCmd.hosts (k : KCmd) : Bool := k.code == 0x03 && bitOf (k.w 6) 25

/-- The field names a function other than the issuer's own: a violation (R322, R391). GRANT's field names a receiver,
and what only the physical function may issue is no violation (R322). -/
def KCmd.foreign (k : KCmd) : Bool :=
  !k.fromPf && !k.grants && !(k.hosts && k.vf != 0) && k.named != 0 && k.named != k.vf

/-- The function whose context the command names. -/
def KCmd.fn (k : KCmd) : Nat := if k.fromPf then k.named else k.vf

/-- The context a command names, whether it exists or not. -/
def KCmd.target (k : KCmd) : Option CtxId :=
  match functionField k.code with
  | some (w, _) => if k.grants then none else some ⟨k.fn, k.w w % 1024⟩
  | none => none

/-- What becomes of a record when Endom has read it. -/
inductive Verdict where
  | perform
  | status (code : Nat)
  | violation
  deriving DecidableEq, Repr

/-- The checks that precede every command (R388, R390, R391, R395). An FWCALL's reserved bits and permission were
checked at its firing (R361). -/
def State.verdict (s : State) (k : KCmd) : Verdict :=
  if k.from'.isNone && (k.w 0 / 65536 != 0 || k.w 2 != 0) then .status 0x01
  else if k.code = 0 ∨ 0x12 < k.code then .status 0x03
  else if !s.ready && k.code != 0x0F && k.code != 0x10 then .status 0x0C
  else if (pfCommand k.code || k.grants || k.hosts) && k.vf != 0 then .status 0x02
  else if k.foreign then .violation
  else .perform

/-- A violation by a command: its function's window is frozen, the breach reported, nothing performed (R322). -/
def State.freezeWindow (s : State) (k : KCmd) : State :=
  let s1 := { s with kcmds := s.kcmds.filter (·.id ≠ k.id),
                     windows := modAt k.vf (fun w => { w with frozen := true }) s.windows }
  s1.event 0 2 k.vf (k.w ((functionField k.code).map (·.1)).toList.sum % 1024) 0x1A 1 (k.w 0) 0

/-! ### Host memory and context buffers (R372, R388) -/

/-- A byte at a host physical address carries poison: host memory's, or its line's of HBM through HDMBASE. -/
def State.hostPoisoned (s : State) (hpa n : Nat) : Bool :=
  (List.range n).any fun i => match s.hdm? (hpa + i) with
    | some o => s.poison.contains (poisonKey o)
    | none => s.hostPoison.contains (hpa + i)

/-- Bytes of host memory or of HBM through HDMBASE that K reads; none when one carries poison. -/
def State.hostBytes (s : State) (hpa n : Nat) : State × Option (List Byte) :=
  let (s1, bs) := s.hostFetch hpa n
  (s1, if s1.hostPoisoned hpa n then none else some bs)

/-- Bytes of a context's memory, page by page; another package's are free values (notes/assumptions 18). -/
def getVa (c : Context) : Nat → Nat → Nat → State → State × Option (List Byte)
  | 0, _, _, s => (s, some [])
  | f + 1, va, n, s =>
    if n = 0 then (s, some [])
    else
      let k := min n (65536 - va % 65536)
      match translateBy s .k c va 1 .read with
      | (s1, .ok pa) =>
        let got := s1.readPhys .k c.id va pa k
        if got.2.2 then (got.1, none)
        else
          match getVa c f (va + k) (n - k) got.1 with
          | (s2, some r) => (s2, some (got.2.1 ++ r))
          | r => r
      | (s1, _) => (s1, none)

/-- A command's buffer read whole (R388): host memory for a window's command, its context's for an FWCALL's. -/
def State.buffer? (s : State) (k : KCmd) (addr n : Nat) : State × Option (List Byte) :=
  match k.from' with
  | none => s.hostBytes addr n
  | some (cx, _, _, _) =>
    match s.ctx? cx with
    | some c => getVa c (n / 65536 + 2) addr n s
    | none => (s, none)

/-- A command's report written to its destination; none when a page refuses it. -/
def State.report? (s : State) (k : KCmd) (addr : Nat) (bs : List Byte) : Option State :=
  match k.from' with
  | none => some (s.hostWrite addr bs)
  | some (cx, _, _, _) =>
    (s.ctx? cx).bind fun c => if s.writable c addr bs.length then some ((s.pagesRead c addr bs.length).putLong c addr bs) else none

/-! ### Status (R361, R389, R390) -/

def statusBytes (code result : Nat) : List Byte := leBytes 8 code ++ leBytes 8 result

/-- Why a status write cannot be performed: a retired-kind fault with DETAIL 1 (R361). -/
def statusFault (s : State) (c : Context) (va : Nat) : FaultCode :=
  match translate s c va 1 .write with
  | (_, .fault code _) => code
  | (_, .breach _) => .permission
  | (_, .ok _) => .poison

/-- The status of a command written, and for an FWCALL the barrier told; its energy is its function's (R340). -/
def State.writeStatus (s : State) (k : KCmd) (code result : Nat) : State :=
  let s0 := { s with kcmds := s.kcmds.filter (·.id ≠ k.id) }.charge .kdie (.vf k.vf) classFirmware 1 16
  match k.from' with
  | none => s0.hostWrite (k.w 1) (statusBytes code result)
  | some (cx, block, tag, q, elem) =>
    match s0.ctx? cx with
    | none => s0
    | some c =>
      let put := writeVa s0 .k c (k.w 1) (statusBytes code result)
      let s1 := match put with
        | some s' => s'
        | none => s0.queueFault cx
          { code := statusFault s0 c (k.w 1), kind := 3, slotNo := none, detail := 1, tag := tag, block := block,
            addr := k.w 1, handle := 0, unitNo := 0, unit := 0, elem := elem, qindex := ((s.quad? q).map c.indexOf).getD 0,
            ldie := tagLdie tag, data := 0, ember := none, sid := none, cmd := none, lsid := none }
      if bitOf (k.w 2) 6 then s1.engineArrive c (tagLdie tag) q .k (k.w 2 % 64) (code != 0 || put.isNone) else s1

/-! ### A window's records in ring order (R387, R389) -/

/-- The window's next record, unread so far, taken from the ring. -/
def State.takeRecord (s : State) (vf : Nat) : Option (KCmd × Bool × State) :=
  match s.windows[vf]? with
  | none => none
  | some w =>
    if w.frozen || w.sqHead = w.sqTail || s.kcmds.any fun k => k.vf = vf ∧ k.from'.isNone = true then none
    else
      let a := w.sqBase * 4096 + 64 * w.sqHead
      let (s1, bs) := s.hostFetch a 64
      let k : KCmd := { id := s1.nextId, vf := vf, from' := none, words := wordsOf 8 bs, phase := .ready, dispatched := true }
      some (k, !s1.hostPoisoned a 64,
        { s1 with nextId := s1.nextId + 1,
                  windows := modAt vf (fun w => { w with sqHead := (w.sqHead + 1) % 64 }) s1.windows })

/-- Records are read until one is to be performed; a record refused at once has its status written at once. -/
def pump (vf : Nat) : Nat → State → State
  | 0, s => s
  | n + 1, s =>
    match s.takeRecord vf with
    | none => s
    | some (k, good, s1) =>
      if !good then pump vf n (s1.writeStatus k 0x04 0)
      else
        match s1.verdict k with
        | .perform => { s1 with kcmds := s1.kcmds ++ [k] }
        | .status c => pump vf n (s1.writeStatus k c 0)
        | .violation => s1.freezeWindow k

/-- A context whose writes by K belong to a command: the one it names, or calls from; every one of the function RESET_VF ends. -/
def KCmd.writesFor (k : KCmd) (cx : CtxId) : Bool :=
  some cx == k.target || some cx == k.from'.map (·.1) || (k.code == 0x11 && cx.vf == k.w 3)

/-- K's writes for a command to another package that are not acknowledged (R389). -/
def State.kWriting (s : State) (k : KCmd) : Bool :=
  s.msgs.any fun m => m.src == .k && (m.access?.map fun a => a.write && k.writesFor a.cx).getD false

/-- A command's status is written, and its window's next record read. -/
def State.finishK (s : State) (k : KCmd) (code result : Nat) : State :=
  let s1 := s.writeStatus k code result
  if k.from'.isNone then pump k.vf 64 s1 else s1

/-- A command goes on to a later phase. -/
def State.setPhase (s : State) (k : KCmd) (p : KPhase) : State :=
  { s with kcmds := modWhere (fun x => x.id = k.id) (fun x => { x with phase := p }) s.kcmds }

/-- A command ends: its status is written once everything it has written is performed, in another package too (R389). -/
def State.endK (s : State) (k : KCmd) (code result : Nat) : State :=
  if s.kWriting k then s.setPhase k (.settling code [result]) else s.finishK k code result

/-! ### Order (R389) -/

/-- No earlier command names the same context, nor comes from the same context's FWCALLs. -/
def State.firstOf (s : State) (k : KCmd) : Bool :=
  !((s.kcmds.takeWhile (·.id ≠ k.id)).any fun x =>
    (x.target.isSome && x.target == k.target) ||
      (x.from'.isSome && x.from'.map (·.1) == k.from'.map (·.1)))

/-- FWCALL_DISPATCH (R361, R389): K takes up an accepted call, in the commit order of its context. -/
def execEvFwcallDispatch (n : Nat) (s : State) : Out :=
  match s.kcmds.find? (·.id = n) with
  | none => notEnabled "FWCALL_DISPATCH"
  | some k =>
    if k.from'.isNone || k.dispatched || !s.firstOf k then notEnabled "FWCALL_DISPATCH"
    else
      match s.verdict k with
      | .perform => .next ({ s with kcmds := modWhere (fun x => x.id = n) (fun x => { x with dispatched := true }) s.kcmds }.tick)
      | .status c => s.inOrder "FWCALL_DISPATCH" (.next (s.endK k c 0).tick)
      | .violation => .next (s.freezeWindow k).tick

/-- A command that may be performed now, by its number; one whose status waits for its writes gets it when they are
performed. -/
def withCmd (name : String) (code n : Nat) (s : State) (f : KCmd → Out) : Out :=
  match s.kcmds.find? (·.id = n) with
  | none => notEnabled name
  | some k =>
    if k.code ≠ code || !k.dispatched || !s.firstOf k then notEnabled name
    else
      s.inOrder name (match k.phase with
      | .settling status result =>
        if s.kWriting k then notEnabled name else .next (s.finishK k status (result.head?.getD 0)).tick
      | _ => f k)

/-- The status of a command and the step's end. -/
def answer (s : State) (k : KCmd) (code : Nat) (result : Nat := 0) : Out := .next (s.endK k code result).tick

/-- A command on an existing context, its reserved bits above the function field zero. -/
def withCtx (name : String) (code word top n : Nat) (s : State) (f : KCmd → Context → Out) : Out :=
  withCmd name code n s fun k =>
    if k.phase = .ready ∧ k.w word / 2 ^ top ≠ 0 then answer s k 0x01
    else
      match k.target.bind s.ctx? with
      | some c => f k c
      | none => if k.phase = .ready then answer s k 0x05 else f k (Context.initial (k.target.getD ⟨0, 0⟩))

end Sys2Proof.Machine
end

