-- ==== Sys2Proof/Machine/Maps.lean ====
section
/-!
DEFINITION. CREATE_CONTEXT and DESTROY_CONTEXT, MAP in its three forms, UNMAP, page moves (R324, R326-R328, R330, R332,
R333, R366, R376, R391, R392).
-/

namespace Sys2Proof.Machine

/-! ### Page tables (R327, R328; notes/assumptions 6) -/

/-- Where Endom's tables begin and end: stack 0's reserved top. -/
def tableBase : Nat := 0xFF0000000
def tableEnd : Nat := 2 ^ 36

/-- Whole lines of this package's HBM zeroed by K, their poison marks cleared: its writes, line by line (R18, R25, R324, R372). -/
def State.zeroLines (s : State) (cx : CtxId) (a n : Nat) : State :=
  let s1 := s.rangeAccess .k cx 6 a n true
  { s1 with mem := memZero a n s1.mem, poison := s1.poison.filter fun k => k < a || a + n ≤ k }

/-- A zeroed table of `n` bytes at the next 4 KiB boundary; none when the reserve is used up. -/
def State.newTable (s : State) (cx : CtxId) (n : Nat) : Option (Nat × State) :=
  let size := (n + 4095) / 4096 * 4096
  if tableEnd < s.tableNext + size then none
  else some (s.tableNext, { s.zeroLines cx s.tableNext size with tableNext := s.tableNext + size })

/-- Entries of tables written by Endom. -/
def State.writeEntry (s : State) (cx : CtxId) (ea e : Nat) : State :=
  let s1 := s.lineAccess .k cx ea true
  { s1 with mem := memPut ea (leBytes 8 e) s1.mem }

/-- The physical address field of a table of this package. -/
def State.tablePa (s : State) (table : Nat) : Nat := s.pkgNo * 2 ^ 46 + table

/-- A leaf entered, with the tables it needs; none when a table cannot be had or a leaf stands in the way. -/
def putLeaf (cx : CtxId) (va size entry : Nat) : List (Nat × Nat × Nat) → Nat → State → Option State
  | [], _, _ => none
  | (_, lo, n) :: rest, table, s =>
    let ea := (table + va / 2 ^ lo % 2 ^ n * 8) % 2 ^ 46
    let e := s.readNat ea 8
    if 2 ^ lo = size then some (s.writeEntry cx ea entry)
    else
      let s0 := s.lineAccess .k cx ea false
      if !bitOf e 0 then
        match s0.newTable cx (2 ^ ((rest.head?.map (·.2.2)).getD 0) * 8) with
        | none => none
        | some (t, s1) => putLeaf cx va size entry rest t (s1.writeEntry cx ea (s1.tablePa t + 1))
      else if bitOf e 1 then none
      else putLeaf cx va size entry rest (bitsOf e 51 12 * 4096) s0

/-- Pages mapped one after another: virtual address, physical address. -/
def putLeaves (c : Context) (size flags : Nat) : Nat → Nat → Nat → State → Option State
  | 0, _, _, s => some s
  | n + 1, va, pa, s =>
    (putLeaf c.id va size (pa + flags) walkLevels c.root s).bind fun s1 => putLeaves c size flags n (va + size) (pa + size) s1

/-- A mapped page: its entry's address and value, virtual address, size. -/
structure Page where
  ea : Nat
  entry : Nat
  va : Nat
  size : Nat
  deriving DecidableEq, Repr

def Page.pa (p : Page) : Nat := bitsOf p.entry 51 12 * 4096

/-- The mapped pages of [lo', hi'), level by level. -/
def pagesIn (s : State) (lo' hi' : Nat) : List (Nat × Nat × Nat) → Nat → Nat → List Page
  | [], _, _ => []
  | (_, lo, n) :: rest, table, va =>
    (List.range (2 ^ n)).flatMap fun k =>
      if va + (k + 1) * 2 ^ lo ≤ lo' || hi' ≤ va + k * 2 ^ lo then []
      else
        let ea := (table + 8 * k) % 2 ^ 46
        let e := s.readNat ea 8
        if !bitOf e 0 then []
        else if bitOf e 1 then [⟨ea, e, va + k * 2 ^ lo, 2 ^ lo⟩]
        else pagesIn s lo' hi' rest (bitsOf e 51 12 * 4096) (va + k * 2 ^ lo)

/-- The pages a context has mapped in a range. -/
def State.pages (s : State) (c : Context) (va n : Nat) : List Page :=
  if n = 0 then [] else pagesIn s va (va + n) walkLevels c.root 0

/-! ### CREATE_CONTEXT (R326, R366, R391) -/

/-- The lowest context number of a function not in use. -/
def State.freeCtx (s : State) (vf : Nat) : Option Nat :=
  (List.range 1024).find? fun n => !(s.contexts.any (·.id = ⟨vf, n⟩))

/-- CREATE_CONTEXT: an aperture or fault ring base out of place is status 0x01. -/
def execEvCreateContext (n : Nat) (s : State) : Out :=
  withCmd "CREATE_CONTEXT" 0x01 n s fun k =>
    if k.w 3 % 2 ^ 33 ≠ 0 ∨ 2 ^ 57 < k.w 3 + 2 ^ 33 ∨ k.w 4 % 65536 ≠ 0 ∨ 2 ^ 57 < k.w 4 + 65536 then answer s k 0x01
    else
      match s.freeCtx k.vf, s.newTable (podCtx k.vf) 16384 with
      | some num, some (root, s1) =>
        let c := { Context.initial ⟨k.vf, num⟩ with
          aperture := k.w 3, ring := k.w 4, poolBase := k.w 5, poolSize := k.w 6 % 2 ^ 32 * 65536,
          imageMiB := k.w 6 / 2 ^ 32, imageArea := k.w 7, root := root }
        answer { s1 with contexts := s1.contexts ++ [c] } k 0 num
      | _, _ => answer s k 0x06

/-! ### DESTROY_CONTEXT (R376) -/

/-- A context with nothing on the part. -/
def Context.resting (c : Context) : Bool :=
  match c.run with | .created => true | .loaded => true | .saved => true | _ => false

/-- The destruction of a context begun: at once for one that holds no quad, else by the snuff wave. -/
def State.startDestroy (s : State) (c : Context) : State :=
  if c.resting then { s with contexts := s.contexts.filter (·.id ≠ c.id) }
  else s.startCut c.id false true none 0

/-- Nothing of a context is left, its quads zeroed. -/
def State.gone (s : State) (cx : CtxId) : Bool := (s.ctx? cx).isNone && !(s.quads.any (·.cx = cx))

/-- A cut of the context that something else started is under way, and ends by itself. -/
def Context.cutByOther (c : Context) : Bool := match c.run with | .cutting _ _ => true | _ => false

/-- Only the physical function ends the freeze of a context (R323). -/
def KCmd.barred (k : KCmd) (c : Context) : Bool :=
  k.vf != 0 && (match c.run with | .frozen => true | .freezing => true | _ => false)

/-- DESTROY_CONTEXT: the status follows the zeroing (R389). -/
def execEvDestroyContext (n : Nat) (s : State) : Out :=
  withCtx "DESTROY_CONTEXT" 0x02 3 16 n s fun k c =>
    if k.phase = .ready then
      if c.cutByOther then notEnabled "DESTROY_CONTEXT"
      else if k.barred c then answer s k 0x02
      else .next ((s.startDestroy c).setPhase k .cutting).tick
    else if s.gone c.id then answer s k 0
    else notEnabled "DESTROY_CONTEXT"

/-! ### MAP (R330, R392) -/

/-- The page size of PSIZE 0 to 3. -/
def pageSize : Nat → Nat
  | 0 => 2 ^ 16 | 1 => 2 ^ 21 | 2 => 2 ^ 29 | _ => 2 ^ 36

def KCmd.psize (k : KCmd) : Nat := bitsOf (k.w 6) 24 22

/-- Reserved bits of the flags, and PSIZE 4 to 7 (R392). -/
def KCmd.badFlags (k : KCmd) : Bool := k.w 6 / 2 ^ 26 != 0 || bitOf (k.w 6) 11 || 4 ≤ k.psize

/-- A physical range lies in the HBM window of one package (R19, R330). -/
def inHbm (pa n : Nat) : Bool := pa % 2 ^ 46 + n ≤ 2 ^ 40 && pa + n ≤ 2 ^ 52

/-- A physical range of this package meets Endom's tables (R330). -/
def State.meetsTables (s : State) (pa n : Nat) : Bool :=
  pa / 2 ^ 46 = s.pkgNo && overlaps (pa % 2 ^ 46) n tableBase (tableEnd - tableBase)

/-- What every MAP checks of its ranges (R330), with the pages' size. -/
def State.mapChecks (s : State) (k : KCmd) (c : Context) (size : Nat) : Bool :=
  !(bitOf (k.w 6) 10 && bitOf (k.w 6) 12) && k.w 3 % size == 0 && k.w 4 % size == 0 && k.w 5 % size == 0 &&
  k.w 3 + k.w 4 ≤ 2 ^ 57 && !overlaps (k.w 3) (k.w 4) c.aperture (2 ^ 33) && inHbm (k.w 5) (k.w 4) &&
  s.granted c.id.vf (k.w 5) (k.w 4) && !s.meetsTables (k.w 5) (k.w 4)

/-- A leaf's bits beside FRAME, from MAP's flags: V, LEAF, W, X, NC (R328). -/
def KCmd.leafFlags (k : KCmd) : Nat :=
  3 + (if bitOf (k.w 6) 10 then 4 else 0) + (if bitOf (k.w 6) 12 then 8 else 0) + (if bitOf (k.w 6) 13 then 64 else 0)

/-- 64 KiB frames of a physical range. -/
def framesOf (pa n : Nat) : List Nat := (List.range (n / 65536)).map fun i => pa / 65536 + i

/-- With HOST, the frames a MAP names are host-mapped (R333, R392). -/
def State.hostMap (s : State) (k : KCmd) : State :=
  if bitOf (k.w 6) 25 then { s with hostMapped := s.hostMapped ++ framesOf (k.w 5) (k.w 4) } else s

/-- MAP in its plain form. -/
def execEvMap (n : Nat) (s : State) : Out :=
  withCmd "MAP" 0x03 n s fun k =>
    if bitOf (k.w 6) 14 || bitOf (k.w 6) 15 then notEnabled "MAP"
    else if k.badFlags then answer s k 0x01
    else
      match k.target.bind s.ctx? with
      | none => answer s k 0x05
      | some c =>
        let size := pageSize k.psize
        if !s.mapChecks k c size || !(s.pages c (k.w 3) (k.w 4)).isEmpty then answer s k 0x08
        else
          match putLeaves c size k.leafFlags (k.w 4 / size) (k.w 3) (k.w 5) s with
          | none => answer s k 0x06
          | some s1 => answer (s1.hostMap k) k 0

/-! ### The grant form (R324, R341) -/

/-- A context of another function that owns a frame of the range still maps it. -/
def State.heldByOld (s : State) (vf pa n : Nat) : Bool :=
  s.contexts.any fun c => c.id.vf ≠ vf ∧
    (leavesOf s walkLevels c.root 0).any fun p => overlaps p.2.2 p.2.1 pa n &&
      (framesOf p.2.2 p.2.1).any fun f => pa / 65536 ≤ f && f < (pa + n) / 65536 && s.ownerOf f == c.id.vf

/-- An UNMAP of the range is not complete: accesses through its old entries are still to be performed (R332, R341). -/
def State.unmapOpen (s : State) (pa n : Nat) : Bool :=
  s.kcmds.any fun x => match x.phase with
    | .unmapping rs => rs.any fun r => overlaps r.1 r.2 pa n
    | _ => false

/-- A physical range zeroed for its new owner, its poison marks cleared. DESIGN CHOICE (notes/assumptions 97): of frames of
another package, which R316 lets the physical function grant, the spec does not say whose Endom zeroes them under R324; the
Endom of the package that holds them does, and this one sends nothing there. -/
def State.zeroPhys (s : State) (vf pa n : Nat) : State :=
  if pa / 2 ^ 46 = s.pkgNo then s.zeroLines (podCtx vf) (pa % 2 ^ 46) n else s

/-- A frame granted: zeroed unless its owner stays (R324). -/
def State.grantFrame (vf : Nat) (s : State) (f : Nat) : State :=
  let s1 := if s.ownerOf f = vf then s else s.zeroPhys vf (f * 65536) 65536
  { s1 with owners := (s1.owners.filter fun o => o.1 ≠ f) ++ (if vf = 0 then [] else [(f, vf)]),
            hostMapped := s1.hostMapped.filter (· ≠ f) }

/-- The range may be granted: whole frames of HBM, the top 256 MiB of a stack for the physical function only (R324). -/
def grantable (vf pa n : Nat) : Bool :=
  pa % 65536 == 0 && n % 65536 == 0 && inHbm pa n &&
  (vf == 0 || (framesOf pa n).all fun f => f * 65536 % 2 ^ 36 < 2 ^ 36 - 2 ^ 28)

/-- MAP with GRANT: it waits until the old owner's mappings are gone (R341). -/
def execEvMapGrant (n : Nat) (s : State) : Out :=
  withCmd "MAP_GRANT" 0x03 n s fun k =>
    if !k.grants then notEnabled "MAP_GRANT"
    else if k.badFlags then answer s k 0x01
    else if !grantable k.named (k.w 5) (k.w 4) then answer s k 0x08
    else if s.heldByOld k.named (k.w 5) (k.w 4) || s.unmapOpen (k.w 5) (k.w 4) then notEnabled "MAP_GRANT"
    else answer (((framesOf (k.w 5) (k.w 4)).foldl (State.grantFrame k.named) s).hostMap k) k 0

/-! ### The move form (R333) -/

/-- The pages of the range, when it is made of whole pages of the size. -/
def State.pagesToMove (s : State) (k : KCmd) (c : Context) (size : Nat) : Option (List Page) :=
  let ps := s.pages c (k.w 3) (k.w 4)
  if ps.length = k.w 4 / size ∧ ps.all (fun p => p.size == size) = true then some ps else none

/-- A page the host has mapped (R333). -/
def State.hostHas (s : State) (p : Page) : Bool :=
  s.hostMapped.any fun f => p.pa / 65536 ≤ f && f < (p.pa + p.size) / 65536

/-- MAP in its move form: checked, and its old range sealed. -/
def execEvMapMove (n : Nat) (s : State) : Out :=
  withCmd "MAP_MOVE" 0x03 n s fun k =>
    if bitOf (k.w 6) 15 || !bitOf (k.w 6) 14 || k.phase ≠ .ready then notEnabled "MAP_MOVE"
    else if k.badFlags then answer s k 0x01
    else
      match k.target.bind s.ctx? with
      | none => answer s k 0x05
      | some c =>
        let size := pageSize k.psize
        match if s.mapChecks k c size then s.pagesToMove k c size else none with
        | none => answer s k 0x08
        | some ps =>
          if ps.any s.hostHas then answer s k 0x08
          else
            let ranges := ps.map fun (p : Page) => (p.pa, p.size)
            .next ({ s with seals := s.seals ++ ranges }.setPhase k (.sealed' ranges)).tick

/-- A page's bytes and marks copied to a new frame; bytes of another package's frame come through the pod transport
(notes/assumptions 18). -/
def State.copyPage (s : State) (cx : CtxId) (va old new n : Nat) : State :=
  let here := old / 2 ^ 46 = s.pkgNo
  let got := s.readPhys .k cx va old n
  let marks :=
    if here then (got.1.poison.filter fun p => old % 2 ^ 46 ≤ p && p < old % 2 ^ 46 + n).map (· - old % 2 ^ 46)
    else if got.2.2 then (List.range (n / 64)).map (64 * ·) else []
  let s1 := got.1.putPhys .k cx va new got.2.1
  if new / 2 ^ 46 = s.pkgNo then marks.foldl (fun s m => s.markPoison (new % 2 ^ 46 + m) 1) s1
  else marks.foldl (fun s m => s.send cx .k (.pod (new / 2 ^ 46)) 0
    (.posted ⟨cx, va + m, new + m, 1, true, false, none, 0, 0, .poison⟩) [.ether (podPort (new / 2 ^ 46))]) s1

/-- Every TLB entry of a context's page invalidated: the quads', the dies' and the stream engines' (R331, R332). -/
def State.dropTlb (s : State) (cx : CtxId) (va : Nat) : State :=
  let keep := fun (t : TlbEntry) => !(t.cx = cx ∧ t.va = va)
  { s with quads := s.quads.map fun q => { q with tlb := q.tlb.filter keep },
           tlbs := s.tlbs.map fun p => (p.1, p.2.filter keep) }

/-- One page moved: copied, its leaf rewritten with A and D, its TLB entries invalidated. -/
def State.movePage (c : Context) (s : State) (p : Page × Nat) : State :=
  let s1 := s.copyPage c.id p.1.va p.1.pa p.2 p.1.size
  let e := s1.readNat p.1.ea 8
  ((s1.kWalk c p.1.va).writeEntry c.id p.1.ea (e - bitsOf e 51 12 * 4096 + p.2)).dropTlb c.id p.1.va

/-- An access to a frame of another package is on its way, or its answer is. -/
def State.remoteUnderway (s : State) (pa n : Nat) : Bool :=
  s.msgs.any fun m => m.dst = .pod (pa / 2 ^ 46) && !m.refused && (m.access?.map fun a => pa ≤ a.pa && a.pa < pa + n).getD false

/-- MIGRATION_DRAIN_COMPLETE (R333): no accepted request of the range is pending; the pages are copied and remapped. The
new range takes no request until those refused have been reissued. -/
def execEvMigrationDrainComplete (n : Nat) (s : State) : Out :=
  withCmd "MIGRATION_DRAIN_COMPLETE" 0x03 n s fun k =>
    match k.phase, k.target.bind s.ctx? with
    | .sealed' _, some c =>
      let size := pageSize k.psize
      let ps : List (Page × Nat) := (s.pages c (k.w 3) (k.w 4)).map fun p => (p, k.w 5 + (p.va - k.w 3))
      if ps.any fun (p : Page × Nat) => s.remoteUnderway p.1.pa size then notEnabled "MIGRATION_DRAIN_COMPLETE"
      else
      let s1 := ps.foldl (State.movePage c) (s.charge .kdie (.vf k.vf) classFirmware (k.w 4 / 65536) 16)
      .next ({ s1 with seals := s1.seals ++ ps.map fun (p : Page × Nat) => (p.2, size) }.setPhase k
        (.copied (ps.map fun (p : Page × Nat) => (p.1.pa, p.2, size)))).tick
    -- RESET_VF has ended the context since: nothing is moved, and the range takes requests again
    | .sealed' ranges, none => answer { s with seals := s.seals.filter fun x => !ranges.contains x } k 0x05
    | _, _ => notEnabled "MIGRATION_DRAIN_COMPLETE"

/-- The move a physical address is in, and whether it lies in the old range. -/
def movedTo (moved : List (Nat × Nat × Nat)) (pa : Nat) : Option Nat :=
  moved.findSome? fun m => if m.1 ≤ pa ∧ pa < m.1 + m.2.2 then some (m.2.1 + (pa - m.1)) else none

/-- An address of a context after a move of its pages: translated again, it names the new frame (R333). -/
def movedFor (cx : Option CtxId) (moved : List (Nat × Nat × Nat)) (who : CtxId) (pa : Nat) : Nat :=
  if cx = some who then (movedTo moved pa).getD pa else pa

/-- A request of a moved range that its source issues anew: one refused back to it, or one held for an earlier release and not
issued yet (R182, R333). -/
def Msg.toReissue (s : State) (moved : List (Nat × Nat × Nat)) (m : Msg) : Bool :=
  match m.access? with
  | none => false
  | some a => (m.refused || s.acquireBlocked m) &&
      ((movedTo moved a.pa).isSome || moved.any fun x => x.2.1 ≤ a.pa && a.pa < x.2.1 + x.2.2)

/-- It issued again, at the home its context's tables give it now. -/
def Msg.reissue (s : State) (cx : Option CtxId) (moved : List (Nat × Nat × Nat)) (m : Msg) : Msg :=
  match m.access? with
  | none => m
  | some a =>
    let a' := { a with pa := movedFor cx moved a.cx a.pa }
    let dst := s.homeOf a'.pa
    { m with
      refused := false, dst := dst, at' := s.clk, left := none, entered := none,
      hops := linksFrom m.src.die (dieRoute m.src.die dst.die) ++ homePoint dst,
      body := match m.body with | .far e _ => .far e a' | .posted _ => .posted a' | b => b }

/-- The messages after a move: the requests issued anew, in their order, behind what has been issued since (R333). -/
def State.reissueAll (s : State) (cx : Option CtxId) (moved : List (Nat × Nat × Nat)) : List Msg :=
  (s.msgs.filter fun m => !m.toReissue s moved) ++ (s.msgs.filter fun m => m.toReissue s moved).map (Msg.reissue s cx moved)

/-- A commit's translations of step 1 after a move (R212, R333). -/
def CommitRec.moved (cx : Option CtxId) (moved : List (Nat × Nat × Nat)) (r : CommitRec) : CommitRec :=
  { r with pas := r.pas.map fun p => (p.1, movedFor cx moved r.inst.frame.strand.cx p.2) }

def Posted.moved (cx : Option CtxId) (moved : List (Nat × Nat × Nat)) (p : Posted) : Posted :=
  { p with pa := movedFor cx moved p.cx p.pa }

/-- MIGRATION_REISSUE (R333): every request of the old range, and of the new one, has been refused back; each is translated again
and issued in its order, as are those a commit has still to issue, and the range is unsealed. -/
def execEvMigrationReissue (n : Nat) (s : State) : Out :=
  withCmd "MIGRATION_REISSUE" 0x03 n s fun k =>
    match k.phase with
    | .copied moved =>
      let onWay := s.msgs.any fun m => m.refused = false ∧ s.acquireBlocked m = false ∧
        ((m.access?.map fun a => (movedTo moved a.pa).isSome || moved.any fun x => x.2.1 ≤ a.pa && a.pa < x.2.1 + x.2.2) = some true)
      if onWay then notEnabled "MIGRATION_REISSUE"
      else
        let done := moved.flatMap fun m => [(m.1, m.2.2), (m.2.1, m.2.2)]
        answer ({ s with
          msgs := s.reissueAll k.target moved, commits := s.commits.map (CommitRec.moved k.target moved),
          posted := s.posted.map (Posted.moved k.target moved), seals := s.seals.filter fun x => !done.contains x }.hostMap k) k 0
    | _ => notEnabled "MIGRATION_REISSUE"

/-! ### UNMAP (R332) -/

/-- The range covers a mapped page only in part. -/
def splitsPage (va n : Nat) (p : Page) : Bool := p.va < va || va + n < p.va + p.size

/-- The range meets what stays mapped while the context lives (R332, R376). -/
def Context.keepsMapped (c : Context) (va n : Nat) : Bool :=
  overlaps va n c.poolBase c.poolSize || overlaps va n c.ring 65536 || overlaps va n c.imageArea (c.imageMiB * 2 ^ 20)

/-- A commit past step 1 has translated an address of the range and not yet issued it: a far effect of step 3, or the far
access of its exit (R37, R332). -/
def State.commitTouches (s : State) (cx : CtxId) (va n : Nat) : Bool :=
  s.commits.any fun r => r.inst.frame.strand.cx = cx ∧
    ((r.todo.any fun e => match e.eff with
      | .farStore a m _ _ => overlaps va n a m
      | .farReduce _ a m _ => overlaps va n a m
      | _ => false) ||
    (r.inst.exits.any fun x => match x.op with
      | .far (.load _ a m) _ _ _ => overlaps va n a m
      | .far (.rmw _ a m _ _) _ _ _ => overlaps va n a m
      | _ => false)) = true

/-- One page unmapped. -/
def State.unmapPage (c : Context) (s : State) (p : Page) : State :=
  ((s.kWalk c p.va).writeEntry c.id p.ea 0).dropTlb c.id p.va

/-- UNMAP: what it names is checked, its leaves cleared and their TLB entries invalidated. -/
def execEvUnmap (n : Nat) (s : State) : Out :=
  withCtx "UNMAP" 0x04 6 16 n s fun k c =>
    if k.phase ≠ .ready then notEnabled "UNMAP"
    else
      let ps := s.pages c (k.w 3) (k.w 4)
      if ps.any (splitsPage (k.w 3) (k.w 4)) || c.keepsMapped (k.w 3) (k.w 4) then answer s k 0x08
      else if s.commitTouches c.id (k.w 3) (k.w 4) then notEnabled "UNMAP"
      else .next ((ps.foldl (State.unmapPage c) s).setPhase k (.unmapping (ps.map fun p => (p.pa, p.size)))).tick

/-- UNMAP_COMPLETE (R332): every access issued through the old entries has been performed at its home. -/
def execEvUnmapComplete (n : Nat) (s : State) : Out :=
  withCmd "UNMAP_COMPLETE" 0x04 n s fun k =>
    match k.phase with
    | .unmapping ranges =>
      let open' := s.msgs.any fun m => (m.access?.map fun a =>
        k.target = some a.cx && ranges.any fun r => r.1 ≤ a.pa && a.pa < r.1 + r.2).getD false
      if open' then notEnabled "UNMAP_COMPLETE" else answer s k 0
    | _ => notEnabled "UNMAP_COMPLETE"

end Sys2Proof.Machine
end

