-- ==== Sys2Proof/Machine/Images.lean ====
section
/-!
DEFINITION. LOAD_IMAGE, LAUNCH and QUERY_QUIESCENT (R62, R88, R89, R220, R266, R280, R287, R288, R299, R300, R307, R308,
R310, R356-R359, R366, R393).
-/

namespace Sys2Proof.Machine

/-! ### Checks of an image (R62, R88, R89, R220, R266, R280, R299, R300) -/

/-- The body of the block at a byte offset of the code; empty when none fits there. -/
def imageBody (im : Image) (off : Nat) : List Slot :=
  let head := im.code.drop off
  let size := ((headerOf (leNat (head.take 8)) (leNat ((head.drop 8).take 8))).size + 1) * 4
  if head.length < 16 + 4 * size then [] else slotsOf size (head.drop 16)

/-- The data sections of a tile store with their places, from a first free byte on: in source order, each aligned to 64
bytes (R310). -/
def vaultPlaces : Nat → List (List Byte) → List (Nat × List Byte)
  | _, [] => []
  | at', bs :: r => ((at' + 63) / 64 * 64, bs) :: vaultPlaces ((at' + 63) / 64 * 64 + bs.length) r

/-- A region's shape, seeds, vault split and placements are those `.region` admits. -/
def regionGood (im : Image) (n : Nat) (d : RegionDecl) : Bool :=
  let inside := fun (p : Placement) => p.x < d.w && p.y < d.h && p.elem < 4
  let spec := if im.tagspaces.any (·.ordered = some n) then 256 else 0
  1 ≤ d.w && d.w ≤ 10 && 1 ≤ d.h && d.h ≤ 10 && (d.entry.isNone || (1 ≤ d.iters && d.iters ≤ 65536)) &&
  d.framesKiB % 64 == 0 && d.overflowKiB % 64 == 0 && d.embersKiB % 64 == 0 &&
  d.framesKiB + d.overflowKiB + d.embersKiB + spec ≤ 6144 &&
  (d.places.all fun p => 1 ≤ p.at'.length && p.at'.length ≤ 16 && p.at'.all inside) &&
  (d.entry.toList.all fun e => d.places.any (·.off = e)) &&
  (d.barriers.all fun b => b.num < 64 && 1 ≤ b.count && b.count ≤ 65535 && 2 ≤ b.scope && b.scope ≤ 5) &&
  (d.barriers.map (·.num)).eraseDups.length == d.barriers.length &&
  ((vaultPlaces 0 d.vault).all fun x => x.1 + x.2.length ≤ (6144 - d.framesKiB - d.overflowKiB - d.embersKiB - spec) * 1024)

/-- The .pkg and .pod barriers the image configures. -/
def sharedBarriers (im : Image) : List BarrierDecl := im.regions.flatMap fun d => d.barriers.filter fun b => 4 ≤ b.scope

/-- A number that one region configures at .pkg or .pod is configured alike by every region that configures it (R280). -/
def barriersAgree (im : Image) : Bool :=
  (sharedBarriers im).all fun a => (im.regions.flatMap (·.barriers)).all fun b => a.num ≠ b.num || a == b

/-- A circuit ends at a region, a placed block of it and an INLET slot of that block (R62). -/
def circuitGood (im : Image) (k : Circuit) : Bool :=
  match im.regions[k.srcLdie]?, im.regions[k.dstLdie]? with
  | some a, some b =>
    k.srcX < a.w && k.srcY < a.h && b.places.any (·.off = k.block) && (inletSlots (imageBody im k.block)).contains k.slot
  | _, _ => false

/-- The circuits that end at a quad of a region. -/
def circuitsEnding (im : Image) (ldie x y : Nat) : Nat :=
  im.circuits.countP fun k => k.dstLdie = ldie && (im.regions[ldie]?.map fun d =>
    d.places.any fun p => p.off = k.block && p.at'.any fun t => t.x = x && t.y = y).getD false

/-- 512 bytes of overflow area for each circuit that ends at a quad (R220). -/
def overflowGood (im : Image) : Bool :=
  (List.zipIdx im.regions).all fun (d, n) => (List.range d.h).all fun y => (List.range d.w).all fun x =>
    512 * circuitsEnding im n x y ≤ d.overflowKiB * 1024

/-- The pools in declaration order: numbers from 1, 63 at most (R266). -/
def poolsFrom : Nat → List TagDecl → Bool
  | n, [] => n ≤ 64
  | n, d :: r => d.first == n && 1 ≤ d.pool && poolsFrom (n + d.pool) r

/-- The declarations are those the linker admits, and the linker's record agrees with them (R299, R300). -/
def spacesGood (im : Image) : Bool :=
  poolsFrom 1 im.tagspaces &&
  (im.tagspaces.all fun d => 1 ≤ d.level && d.level ≤ 8 && d.k ≤ 16 &&
    (d.level == 1 || im.tagspaces.any (·.level + 1 = d.level)) && (d.ordered.toList.all (· < im.regions.length))) &&
  im.recorded == some (im.tagspaces.map fun d => (d.level, d.k, d.pool, true))

/-- The HBM sections meet the code placed at a base (R89). -/
def hbmOverCode (im : Image) (base : Nat) : Bool :=
  let hi := (im.hbm.map fun d => d.addr + d.bytes.length).foldl max im.hdata
  !im.hbm.isEmpty && overlaps im.hdata (hi - im.hdata) base im.code.length

/-- An image LOAD_IMAGE takes at a code base. -/
def imageGood (im : Image) (base : Nat) : Bool :=
  1 ≤ im.regions.length && im.regions.length ≤ 8 && ((List.zipIdx im.regions).all fun (d, n) => regionGood im n d) &&
  barriersAgree im && im.circuits.length ≤ 1023 && im.circuits.all (circuitGood im) && overflowGood im && spacesGood im &&
  im.hdata % 65536 == 0 && base % 64 == 0 && !hbmOverCode im base

/-- The quads marked bad count as disabled from a load or restore on (R375). -/
def State.takeMarks (s : State) : State := { s with badQuads := s.marked }

/-- LOAD_IMAGE (R89, R300): nothing is loaded unless every check passes; the code, then the HBM sections. -/
def execEvLoadImage (n : Nat) (s : State) : Out :=
  withCtx "LOAD_IMAGE" 0x05 3 16 n s fun k c =>
    if c.run ≠ .created then answer s k 0x0A
    else
      match s.buffer? k (k.w 4) (k.w 5) with
      | (s1, none) => answer s1 k 0x04
      | (s1, some bytes) =>
        match Config.parseLmi bytes with
        | none => answer s1 k 0x07
        | some im =>
          let base := k.w 6
          if !imageGood im base then answer s1 k 0x07
          else if !s1.pagesAdmit c .fetch base im.code.length ||
              !(im.hbm.all fun d => s1.writable c d.addr d.bytes.length) then answer s1 k 0x08
          else
            let s2 := putVa c .fetch (im.code.length / 65536 + 2) base im.code (s1.pagesRead c base im.code.length)
            let s3 := im.hbm.foldl (fun s d => s.putLong c d.addr d.bytes) s2
            let load := fun (x : Context) => { x with image := some im, imageBytes := bytes, codeBase := base, run := .loaded }
            answer (s3.modCtx c.id load).takeMarks k 0

/-! ### Placement (R287, R317, R384) -/

/-- The physical die of a guest die number; none: no valid entry (R317). -/
def State.guestDie (s : State) (vf g : Nat) : Option Nat :=
  if 8 ≤ g then none
  else if vf = 0 then some g
  else if bitOf (s.func vf).dieTable (4 * g + 3) then some (bitsOf (s.func vf).dieTable (4 * g + 2) (4 * g)) else none

/-- An enabled quad, not listed as bad, held by nothing and not being zeroed (R20, R287, R320). -/
def State.quadFree (s : State) (taken : List QuadId) (q : QuadId) : Bool :=
  bitOf ((s.enabled[q.die]?).getD 0) q.idx && !s.badQuads.contains q && !(s.quads.any (·.id = q)) && !taken.contains q

/-- The quads of a rectangle. -/
def rectQuads (die x y w h : Nat) : List QuadId :=
  (List.range h).flatMap fun j => (List.range w).map fun i => ⟨die, (y + j) * 10 + (x + i)⟩

def State.rectFree (s : State) (taken : List QuadId) (die x y w h : Nat) : Bool :=
  x + w ≤ 10 && y + h ≤ 10 && (rectQuads die x y w h).all (s.quadFree taken)

/-- A named placement: guest die, origin. -/
structure Named where
  guest : Nat
  x : Nat
  y : Nat
  deriving DecidableEq, Repr

/-- The entries of launch block bytes 80 to 143 (R393). -/
def namedOf (e : Nat) : Option Named := if bitOf e 12 then some ⟨e % 8, bitsOf e 7 4, bitsOf e 11 8⟩ else none

/-- The first free rectangle: guest dies ascending, then y, then x (R287, R317). -/
def State.searchRect (s : State) (vf : Nat) (taken : List QuadId) (w h : Nat) : Option (Nat × Nat × Nat) :=
  ((List.range 8).filterMap (s.guestDie vf)).findSome? fun d =>
    (List.range 10).findSome? fun y =>
      (List.range 10).findSome? fun x => if s.rectFree taken d x y w h then some (d, x, y) else none

/-- Regions placed one after another; none: a rectangle is missing, nothing is placed. -/
def placeRegions (s : State) (vf : Nat) (named : List (Option Named)) :
    Nat → List (Nat × Nat) → List QuadId → Option (List Region)
  | _, [], _ => some []
  | n, (w, h) :: rest, taken =>
    let spot := match (named[n]?).getD none with
      | some p => (s.guestDie vf p.guest).bind fun d => if s.rectFree taken d p.x p.y w h then some (d, p.x, p.y) else none
      | none => s.searchRect vf taken w h
    match spot with
    | none => none
    | some (d, x, y) =>
      (placeRegions s vf named (n + 1) rest (taken ++ rectQuads d x y w h)).map fun r => ⟨n, d, x, y⟩ :: r

/-- A named entry's guest die has no valid entry: a violation for a virtual function (R322). -/
def State.badGuest (s : State) (vf : Nat) (named : List (Option Named)) : Bool :=
  named.any fun p => match p with | some x => (s.guestDie vf x.guest).isNone | none => false

/-! ### The launch block (R393) -/

/-- The block's words, and the parameters they give. -/
def launchParams (l : Nat → Nat) : LaunchParams :=
  { seed := toWord (l 0), budget := l 1, cls := l 2 % 4, refill := bitOf (l 2) 2, bkpts := bitOf (l 2) 3,
    logMode := bitsOf (l 2) 5 4, stopMask := l 3, handler := l 4, traceBase := l 5, traceSize := l 6 % 2 ^ 32,
    traceMask := bitsOf (l 6) 36 32, profile := l 7, logBase := l 8, logRead := l 9, podKey := l 18 }

/-- The reserved bits of a placement entry: [3] and [63:13]. -/
def placeReserved (e : Nat) : Bool := e / 2 ^ 13 != 0 || bitOf e 3

/-- Bytes not listed, and values not admitted: class Dim, replay log 3 (R289, R393). -/
def launchReserved (l : Nat → Nat) : Bool :=
  l 2 / 2 ^ 7 != 0 || l 2 % 4 == 2 || bitsOf (l 2) 5 4 == 3 || l 6 / 2 ^ 37 != 0 ||
  ((List.range 8).any fun i => placeReserved (l (10 + i))) || ((List.range 13).any fun i => l (19 + i) != 0)

/-- A handler block is placed in every region; no entry uses the handler's iterations, whether the launch names one or not
(R366). -/
def handlerGood (im : Image) (base h : Nat) : Bool :=
  im.regions.all fun d => (h == 0 || d.places.any fun p => base + p.off = h) && (d.entry.isNone || d.iters ≤ 65472)

/-! ### What LAUNCH writes (R287, R288, R356, R358) -/

/-- The quads of a placed region with their coordinates. -/
def regionQuads (cx : CtxId) (d : RegionDecl) (r : Region) : List Quad :=
  (List.range d.h).flatMap fun y => (List.range d.w).map fun x => Quad.initial (r.quadAt x y) cx r.ldie x y

def Context.newQuads (c : Context) : List Quad :=
  c.regions.flatMap fun r => match c.decl? r.ldie with | some d => regionQuads c.id d r | none => []

/-- The vault data sections of every quad of a region (R310). -/
def State.writeVault (s : State) (c : Context) (q : Quad) : State :=
  (vaultPlaces 0 (((c.decl? q.ldie).map (·.vault)).getD [])).foldl (fun s x => s.write (vaultBase q.id + x.1) x.2) s

/-- A configured barrier with phase 0 and no arrivals. -/
def freshBarrier (b : BarrierDecl) (site : BarrierAt) : Barrier :=
  { site := site, num := b.num, count := b.count, scope := b.scope, members := b.members, phase := 0, arrivals := [],
    waiters := [], keptDone := [] }

/-- The barriers of a context: one in each quad, region, or shared (R280). -/
def Context.newBarriers (c : Context) : List Barrier :=
  c.newQuads.flatMap fun q => ((c.decl? q.ldie).map (·.barriers)).getD [] |>.map fun b =>
    freshBarrier b (c.barrierSite q.ldie q.id b.scope)

/-- Barriers added, one for each site and number; those joined by a pod key are there already. -/
def State.addBarriers (s : State) (bs : List Barrier) : State :=
  bs.foldl (fun s b => if (s.barrier? b.site b.num).isSome then s else { s with barriers := s.barriers ++ [b] }) s

/-- A barrier joined under the pod key was configured differently by an earlier launch (R393). -/
def State.podDiffers (s : State) (c : Context) : Bool :=
  c.newBarriers.any fun b => match s.barrier? b.site b.num with
    | some x => x.count != b.count || x.members != b.members
    | none => false

/-- Space 0, allocated with the entry seeds' iterations and the handler's held (R266, R288). -/
def rootSpace (im : Image) : Space :=
  { Space.initial 0 with
    allocated := true,
    held := (im.regions.filterMap fun d => d.entry.map fun _ => (0, d.iters)) ++ [(0xFFC0, 0x10000)] }

/-- The seed of a region's entry (R288). -/
def entrySeed (s : State) (c : Context) (d : RegionDecl) (e : Nat) (r : Region) (space : Pool × Nat × Nat) : Ember :=
  { id := s.nextId, strand := Strand.initial (s.nextId + 1) c.id (mkTag r.ldie c.id.num 0 0 0), quad := r.quadAt 0 0, elem := 0,
    live := 3, regs := regsWith [(1, toWord d.iters)], exit := 0, reply := 0, reason := 0x89, seq := 0,
    cont := c.codeBase + e, source := 0, pkg := 0, home := 0, width := 0, op := 0, block := c.codeBase + e, pool := space.1,
    addr := space.2.1, size := 80, wait := .nothing, value := none }

/-- The seeds deposited; one for which neither pool has room stands in the origin's frame area (notes/assumptions 23). -/
def seedRegions (c : Context) : List Region → State → State
  | [], s => s
  | r :: rest, s =>
    match (c.decl? r.ldie).bind fun d => d.entry.map fun e => (d, e) with
    | none => seedRegions c rest s
    | some (d, e) =>
      let em := entrySeed s c d e r ((s.findSpace c.id (r.quadAt 0 0) 80 []).getD (.frameArea (r.quadAt 0 0), 0, 80))
      let s1 := ({ s with nextId := s.nextId + 2 }.countItem c.id 0 1).depositBy .k em
      seedRegions c rest (s1.modQuad (r.quadAt 0 0) fun q => { q with cleared := q.cleared ++ [em.id] })

/-- The heads of a quad's trace area and replay log. -/
def State.startAreas (s : State) (c : Context) (q : Quad) : State :=
  let off := (96 * q.ldie + c.indexOf q) * (c.params.traceSize * 4096)
  let s1 := if c.params.traceMask ≠ 0 ∧ c.params.traceSize ≠ 0 then
      (writeVa s .k c (c.params.traceBase + off) (List.replicate 16 0)).getD s else s
  if c.params.logMode ≠ 0 then
    (writeVa s1 .k c (c.params.logBase + off) (leBytes 8 0 ++ List.replicate 8 0xFF)).getD s1
  else s1

/-- The relights of a quad's log up to its FIRSTLOST: tag and SEQ (R358, R359). -/
def replayOf (bs : List Byte) (size : Nat) : List (Nat × Nat) :=
  let word := fun a => leNat ((bs.drop a).take 8)
  let n := min (min (word 0) (word 8)) ((size - 64) / 16)
  (List.range n).map fun i => (word (64 + 16 * i) % 2 ^ 40, word (72 + 16 * i))

/-- The log a launch replays, quad by quad; none when its memory cannot be read. -/
def readLogs (c : Context) : List Quad → State → State × Option (List (QuadId × List (Nat × Nat)))
  | [], s => (s, some [])
  | q :: rest, s =>
    let size := c.params.traceSize * 4096
    match getVa c (size / 65536 + 2) (c.params.logRead + (96 * q.ldie + c.indexOf q) * size) size s with
    | (s1, none) => (s1, none)
    | (s1, some bs) =>
      match readLogs c rest s1 with
      | (s2, some r) => (s2, some ((q.id, replayOf bs size) :: r))
      | x => x

/-- The context as LAUNCH starts it. -/
def Context.launched (c : Context) (im : Image) (p : LaunchParams) (rs : List Region) : Context :=
  { c with
    run := .running, params := p, regions := rs, spaces := rootSpace im :: (List.range 63).map fun n => Space.initial (n + 1),
    credits := List.replicate im.circuits.length 32, budget := p.budget, budgetSeen := p.budget, cls := p.cls,
    clsSeen := p.cls, energy := 0, energySeen := 0 }

/-- The counters of the links of quads newly held start at zero (R308). -/
def State.freshLinks (s : State) (qs : List QuadId) : State :=
  { s with links := s.links.filter fun l => !qs.contains l.1.quad }

/-- The placed quads with their seeds and data, the networks, barriers and heads of areas (R287). -/
def State.installQuads (s : State) (c : Context) : State :=
  let qs := c.newQuads.map fun q => { q with srseed := c.params.seed }
  let s1 := { s with contexts := modWhere (fun x => x.id = c.id) (fun _ => c) s.contexts, quads := s.quads ++ qs }
  let s2 := qs.foldl (fun s q => s.writeVault c q) (s1.freshLinks (qs.map (·.id)))
  qs.foldl (fun s q => s.startAreas c q) (s2.addBarriers c.newBarriers)

/-- LAUNCH (R287, R366, R393). -/
def execEvLaunch (n : Nat) (s : State) : Out :=
  withCtx "LAUNCH" 0x06 3 16 n s fun k c =>
    match c.image with
    | none => answer s k 0x0A
    | some im =>
      if c.run ≠ .loaded then answer s k 0x0A
      else if s.candleSpent c.id.vf then answer s k 0x0B
      else
        match s.buffer? k (k.w 4) 256 with
        | (s1, none) => answer s1 k 0x04
        | (s1, some bs) =>
          let l := fun i => leNat ((bs.drop (8 * i)).take 8)
          let named := if bitOf (l 2) 6 then (List.range 8).map fun i => namedOf (l (10 + i)) else []
          if launchReserved l then answer s1 k 0x01
          else if l 2 % 4 = 0 ∧ k.vf ≠ 0 then answer s1 k 0x02
          else if !handlerGood im c.codeBase (l 4) then answer s1 k 0x07
          else if s1.badGuest c.id.vf named then
            (if k.fromPf then answer s1 k 0x05 else .next (s1.freezeWindow k).tick)
          else
            match placeRegions s1 c.id.vf named 0 (im.regions.map fun d => (d.w, d.h)) [] with
            | none => answer s1 k 0x06
            | some rs =>
              let c1 := c.launched im (launchParams l) rs
              match if c1.params.logMode = 2 then readLogs c1 c1.newQuads s1 else (s1, some []) with
              | (s2, none) => answer s2 k 0x04
              | (s2, some logs) =>
                if s2.podDiffers c1 then answer s2 k 0x07
                else answer (seedRegions c1 rs (s2.installQuads { c1 with replaying := logs })) k 0

/-! ### QUERY_QUIESCENT (R307, R308, R357) -/

/-- A unit's traffic for lines whose bytes its own step has read or written. -/
def Msg.lines (m : Msg) : Bool := match m.body with | .line _ => true | .lineBack => true | _ => false

/-- No fault waits at K and no slot of the ring holds a strand: neither can make a strand again (R307, R308 Stability). -/
def Context.noFault (c : Context) : Bool := c.faults.isEmpty && c.stopMsk.isEmpty && c.ringSlots.isEmpty

/-- Every count of R307 is zero for a context on the part. -/
def State.quietCtx (s : State) (c : Context) : Bool :=
  !(s.msgs.any fun m => m.cx = c.id && !m.ofK && !m.lines) && !(s.insts.any (·.frame.strand.cx = c.id)) &&
  !(s.commits.any (·.inst.frame.strand.cx = c.id)) && !(s.frames.any (·.strand.cx = c.id)) &&
  !(s.embers.any (·.strand.cx = c.id)) && !(s.fifo.any (·.cx = c.id)) && !(s.specs.any (·.cx = c.id)) &&
  !(s.cmds.any (·.cmd.cx = c.id)) && !(s.posted.any (·.cx = c.id)) && c.credits.all (· == 32) &&
  !(s.quads.any fun q => q.cx = c.id ∧ (q.waitFar ≠ [] ∨ q.link ≠ [])) && c.noFault

/-- The counts of an image. -/
def SavedImage.quiet (v : SavedImage) : Bool :=
  v.msgs.isEmpty && v.insts.isEmpty && v.commits.isEmpty && v.frames.isEmpty && v.embers.isEmpty && v.fifo.isEmpty &&
  v.specs.isEmpty && v.cmds.isEmpty && v.posted.isEmpty && v.cxt.credits.all (· == 32) &&
  v.cxt.noFault && v.quads.all fun q => q.waitFar.isEmpty && q.link.isEmpty

/-- The last image saved of a context. -/
def State.savedOf (s : State) (cx : CtxId) : Option SavedImage := (s.saved.filter (·.cxt.id = cx)).getLast?

/-- What one read of a round finds: every count zero (R308, R353); a stopped context is quiescent for no round. -/
def State.quiescent (s : State) (c : Context) : Bool :=
  match c.run with
  | .stopped => false
  | .saved => ((s.savedOf c.id).map SavedImage.quiet).getD true
  | _ => s.quietCtx c

/-- The counters of the links of a context's quads (R308). -/
def State.linkCounts (s : State) (c : Context) : List (LinkEnd × Nat × Nat) :=
  s.links.filter fun l => s.quads.any fun q => q.cx = c.id ∧ q.id = l.1.quad

/-- QUERY_QUIESCENT (R308): the first read of the round is kept; with the second the round is quiescent when every count of
both is zero, every link of the first has received what it sent, and no counter has moved. The profile rows of a quiescent
context are written, then zeroed (R357). -/
def execEvQueryQuiescent (n : Nat) (s : State) : Out :=
  withCtx "QUERY_QUIESCENT" 0x07 3 16 n s fun k c =>
    match k.phase with
    | .round zero counts =>
      if (s.ctx? c.id).isNone then answer s k 0x05
      else if zero && s.quiescent c && s.linkCounts c == counts then
        answer ((s.quadsOf c.id).foldl (fun s q => s.writeProfile c q) s) k 0 1
      else answer s k 0 0
    | _ =>
      let links := s.linkCounts c
      .next (s.setPhase k (.round (s.quiescent c && links.all fun l => l.2.1 == l.2.2) links)).tick

end Sys2Proof.Machine
end

