-- ==== Sys2Proof/Machine/Restore.lean ====
section
/-!
DEFINITION. SAVE_IMAGE in both forms, SNUFF, RESTORE_IMAGE (R353, R354, R376-R384, R391, R432).
-/

namespace Sys2Proof.Machine

/-! ### SAVE_IMAGE and SNUFF -/

/-- The destination of SAVE_IMAGE: 0 names the context's image area. -/
def KCmd.saveTo (k : KCmd) (c : Context) : Nat := if k.code = 0x08 ∧ k.w 5 ≠ 0 then k.w 5 else c.imageArea

/-- A cut whose image is kept, begun for a command and answered when the quads are zeroed (R389): SIZE, or 0x0A when
something else froze or ended the context on the way. -/
def cutAndSave (name : String) (k : KCmd) (c : Context) (admits : Run → Bool) (s : State) : Out :=
  if k.phase = .ready then
    if c.cutByOther then notEnabled name
    else if !admits c.run then answer s k 0x0A
    else if !s.destGood c (k.saveTo c) then answer (s.destRead c (k.saveTo c)) k 0x08
    else .next (((s.destRead c (k.saveTo c)).startCut c.id true false (some k.id) (k.saveTo c)).setPhase k .cutting).tick
  else
    match c.run with
    | .cutting _ _ => notEnabled name
    | .saved =>
      if s.quads.any (·.cx = c.id) then notEnabled name
      else answer s k 0 (((s.savedOf c.id).map (·.bytes.length)).getD 0)
    | _ => answer s k 0x0A

/-- A state SAVE_IMAGE releases from. A stopped context leaves its stop by SNUFF or DESTROY_CONTEXT only (R353;
notes/assumptions 91). -/
def savesFrom : Run → Bool
  | .running => true
  | .freezing => true
  | .frozen => true
  | _ => false

/-- SAVE_IMAGE with RELEASE = 1 (R377, R391). -/
def execEvSaveImage (n : Nat) (s : State) : Out :=
  withCtx "SAVE_IMAGE" 0x08 3 16 n s fun k c =>
    if k.w 4 / 2 ≠ 0 then answer s k 0x01
    else if k.w 4 = 0 then notEnabled "SAVE_IMAGE"
    else if k.phase = .ready ∧ k.barred c = true then answer s k 0x02
    else cutAndSave "SAVE_IMAGE" k c savesFrom s

/-- A stopped context with nothing of it on its way. -/
def State.settled (s : State) (c : Context) : Bool :=
  (s.msgs.all fun m => m.cx ≠ c.id || s.maySave m) &&
  (s.posted.all fun p => p.cx ≠ c.id || s.quads.any fun q => q.waitFar.any (·.msg.id = p.id)) &&
  !(s.commits.any fun r => r.inst.frame.strand.cx = c.id ∧ r.parked = false)

/-- The state whose snapshot an image of a stop is: every instance has left its quad as a cut makes it leave. -/
def State.asCut (s : State) (cx : CtxId) : State :=
  let s1 := (s.quadsOf cx).foldl (fun s q => s.snuffQuad q.id) s
  s1.stopEngines cx

/-- SAVE_IMAGE with RELEASE = 0 (R353, R354): a precise stop is read out with its unmatched operands; nothing ends. -/
def execEvSaveImageNonreleasing (n : Nat) (s : State) : Out :=
  withCtx "SAVE_IMAGE_NONRELEASING" 0x08 3 16 n s fun k c =>
    if k.w 4 ≠ 0 then notEnabled "SAVE_IMAGE_NONRELEASING"
    else if c.run ≠ .stopped then answer s k 0x0A
    else if !s.destGood c (k.saveTo c) then answer (s.destRead c (k.saveTo c)) k 0x08
    else if !s.settled c then notEnabled "SAVE_IMAGE_NONRELEASING"
    else
      let s0 := (s.destRead c (k.saveTo c)).readOut c
      let bytes := imageOf s0 c s.clk true
      let cut := s0.asCut c.id
      let saved := snapshot cut ((cut.ctx? c.id).getD c) bytes
      let put := s0.putLong c (k.saveTo c) bytes
      answer { put with saved := put.saved ++ [saved], fresh := put.fresh + (sectionsOf s0 c).length } k 0 bytes.length

/-- SNUFF (R360, R391). -/
def execEvSnuffCommand (n : Nat) (s : State) : Out :=
  withCtx "SNUFF" 0x0A 3 16 n s fun k c =>
    cutAndSave "SNUFF" k c (fun r => match r with | .running => true | .stopped => true | _ => false) s

/-! ### What an image says, on other quads (R383, R384) -/

/-- Where a quad of an image lies after a restore. -/
abbrev Reloc := QuadId → QuadId

/-- The quad at the same relative coordinates of the region's new place. -/
def relocation (v : SavedImage) (rs : List Region) : Reloc := fun q =>
  match v.quads.find? (·.id = q) with
  | some x => ((rs.find? (·.ldie = x.ldie)).map fun r => r.quadAt x.x x.y).getD q
  | none => q

/-- A vault's physical address of this package. -/
def Reloc.pa (f : Reloc) (pkg pa : Nat) : Nat :=
  if pa / 2 ^ 46 = pkg ∧ bitsOf pa 45 40 = 1 then
    pkg * 2 ^ 46 + vaultBase (f ⟨bitsOf pa 32 30, bitsOf pa 29 23⟩) + pa % 2 ^ 23
  else pa

def Reloc.resv (f : Reloc) : Resv → Resv
  | .entries want => .entries (want.map fun w => (f w.1, w.2))
  | .lines q lo hi u => .lines (f q) lo hi u
  | r => r

def Reloc.strand (f : Reloc) (st : Strand) : Strand := { st with resv := st.resv.map f.resv, due := st.due.map f.resv }

def Reloc.pool (f : Reloc) : Pool → Pool
  | .vault q => .vault (f q)
  | .frameArea q => .frameArea (f q)
  | p => p

def Reloc.wait (f : Reloc) : Wait → Wait
  | .entries qs needs => .entries (qs.map f) (needs.map fun p => (f p.1, p.2))
  | .conflict q id lo hi => .conflict (f q) id lo hi
  | .frameOf q => .frameOf (f q)
  | w => w

def Reloc.frame (f : Reloc) (x : Frame) : Frame := { x with strand := f.strand x.strand, quad := f x.quad }

def Reloc.ember (f : Reloc) (e : Ember) : Ember :=
  { e with strand := f.strand e.strand, quad := f e.quad, pool := f.pool e.pool, wait := f.wait e.wait }

def Reloc.command (f : Reloc) (c : Command) : Command :=
  { c with quad := f c.quad, foots := c.foots.map fun p => { p with quad := f p.quad } }

/-- A pending command: a stream command stays with the die it was saved at (R384). -/
def Reloc.pending (f : Reloc) (die : Command → Nat) (p : Pending) : Pending :=
  { p with
    cmd := { f.command p.cmd with eng := if p.cmd.op ≤ 0x163 then die p.cmd else p.cmd.eng },
    phase := match p.phase with | .registering l => .registering (l.map f) | x => x,
    cutOff := false }

def Reloc.eff (f : Reloc) (e : Eff) : Eff :=
  { e with eff := match e.eff with | .command c => .command (f.command c) | x => x }

def Reloc.tok (f : Reloc) (t : FifoTok) : FifoTok := { t with quad := f t.quad }

/-- A commit parked at the cut (R221). -/
def Reloc.commit (f : Reloc) (pkg : Nat) (r : CommitRec) : CommitRec :=
  { r with
    inst := { r.inst with frame := f.frame r.inst.frame, effs := r.inst.effs.map f.eff, taken := r.inst.taken.map f.tok },
    todo := r.todo.map f.eff, pas := r.pas.map fun p => (p.1, f.pa pkg p.2),
    space := r.space.map fun x => (f.pool x.1, x.2) }

def Reloc.site (f : Reloc) : BarrierAt → BarrierAt
  | .quad q => .quad (f q)
  | s => s

def Reloc.node (f : Reloc) : Node → Node
  | .quad q => .quad (f q)
  | n => n

def Reloc.access (f : Reloc) (pkg : Nat) (a : Access) : Access := { a with pa := f.pa pkg a.pa }

def Reloc.body (f : Reloc) (pkg : Nat) : MsgBody → MsgBody
  | .far e a => .far e (f.access pkg a)
  | .posted a => .posted (f.access pkg a)
  | .frame x held => .frame (f.frame x) held
  | .register c q => .register c (f q)
  | .arrive s n a => .arrive (f.site s) n a
  | .barwait s n e => .barwait (f.site s) n e
  | b => b

/-- A message of the image: on its way again from its new ends; one held where it had arrived stays held. -/
def Reloc.msg (f : Reloc) (pkg clk : Nat) (m : Msg) : Msg :=
  let src := f.node m.src
  let dst := f.node m.dst
  { m with
    src := src, dst := dst, at' := clk, body := f.body pkg m.body,
    hops := if m.hops.isEmpty then [] else linksFrom src.die (dieRoute src.die dst.die) ++ m.hops.getLast?.toList }

/-- A link's entry: it stands at the quad that recorded it, before every new arrival on its channel, and continues its route
from there (R378, R384). -/
def Reloc.linked (f : Reloc) (pkg clk : Nat) (x : QuadId × Nat × Msg) : Msg :=
  { f.msg pkg clk x.2.2 with src := .quad (f x.1), hops := [], refused := false, via := some (f x.1, x.2.1) }

/-- A quad's node state, on its new quad: nothing mapped, an empty TLB (R384). -/
def Reloc.quad (f : Reloc) (pkg clk : Nat) (q : Quad) : Quad :=
  { q with
    id := f q.id, zeroing := false, mapped := [], tlb := [], banks := [], snuff := .none, closed := [], link := [],
    waitFar := q.waitFar.map fun w => { w with msg := f.msg pkg clk w.msg, a := f.access pkg w.a } }

def Reloc.barrier (f : Reloc) (b : Barrier) : Barrier := { b with site := f.site b.site }

def Reloc.spec (f : Reloc) (p : SpecIter) : SpecIter := { p with quad := f p.quad, strand := f.strand p.strand }

/-! ### RESTORE_IMAGE (R384) -/

/-- The context an image and its new context make together: the tables and areas are the context's, the rest the image's.
Every fault that stopped the context, or was raised before the stop and would have, spawns its handler now (R353, R362). -/
def restoredCtx (c : Context) (v : SavedImage) (rs : List Region) (f : Reloc) : Context :=
  { v.cxt with
    id := c.id, aperture := c.aperture, ring := c.ring, poolBase := c.poolBase,
    poolSize := if c.run = .saved then c.poolSize else max c.poolSize v.cxt.poolSize,
    imageArea := c.imageArea, imageMiB := c.imageMiB, root := c.root, run := .running, regions := rs, atStop := false,
    cutClk := 0, cutCmd := none, cutDest := 0, damaged := v.damaged,
    stopMsk := if v.stopped then v.cxt.stopMsk ++ v.cxt.faults.filter (fun r => v.cxt.stopsOn r.code) else v.cxt.stopMsk,
    faults := if v.stopped then v.cxt.faults.filter (fun r => !v.cxt.stopsOn r.code) else v.cxt.faults,
    spaces := v.cxt.spaces.map fun p => { p with quad := p.quad.map f },
    replaying := v.cxt.replaying.map fun r => (f r.1, r.2) }

/-- The vaults of an image written with their marks. -/
def State.putVaults (s : State) (v : SavedImage) (f : Reloc) : State :=
  v.vaults.foldl (fun s x =>
    let s1 := x.2.1.foldl (fun s cell => { s with mem := memSet (vaultBase (f x.1) + cell.1) cell.2 s.mem }) s
    x.2.2.foldl (fun s o => s.markPoison (vaultBase (f x.1) + o) 1) s1) s

/-- Embers abandoned by the cut become ready (R294, R384). -/
def State.readyRestored (s : State) (cx : CtxId) : State := s.wakeWhere fun e => e.strand.cx = cx && e.wait = .restored

/-- The link contents of an image, in the order in which they were recorded, each with its quad and channel (R201, R378). -/
def SavedImage.linkContents (v : SavedImage) : List (QuadId × Nat × Msg) :=
  sortBy (fun a b => a.2.2.at' ≤ b.2.2.at') (v.quads.flatMap fun q => q.link.map fun x => (q.id, x.1, x.2))

/-- A message of an image stands on the first link it has still to cross, which has sent it (R308). -/
def State.countSent (s : State) (ms : List Msg) : State :=
  ms.foldl (fun s m => ((s.linkEnds m.src m.dst).take 1).foldl (fun s l => s.countLink l 1 0) s) s

/-- A parked commit's far accesses translated by the tables as they stand at the restore (R384); one whose page is gone keeps
the address it had, which its home serves only while the function owns the frame (notes/assumptions 92). -/
def State.rewalk (s : State) (c : Context) (r : CommitRec) : State :=
  r.inst.farUses.foldl (fun s u =>
    match if r.pas.any (·.1 = u.1) then translateBy s (.quad r.inst.frame.quad) c u.2.1 1 u.2.2 else (s, .breach 0) with
    | (s1, .ok pa) =>
      { s1 with commits := modWhere (fun x => x.inst.id = r.inst.id) (fun x => { x with pas := setValue u.1 pa x.pas }) s1.commits }
    | (s1, _) => s1) s

/-- An image put back on the part (R384). -/
def State.restoreImage (s : State) (c : Context) (v : SavedImage) (rs : List Region) : State :=
  let f := relocation v rs
  let links := v.linkContents.map (f.linked s.pkgNo s.clk)
  let held := v.msgs.map (f.msg s.pkgNo s.clk)
  let die := fun (x : Command) => s.cmdDie x
  let s1 := { s with contexts := modWhere (fun x => x.id = c.id) (fun _ => restoredCtx c v rs f) s.contexts }.putVaults v f
  let s2 := { s1.freshLinks (v.quads.map fun q => f q.id) with
    quads := s1.quads ++ v.quads.map (f.quad s.pkgNo s.clk),
    commits := s1.commits ++ v.commits.map (f.commit s.pkgNo),
    frames := s1.frames ++ v.frames.map f.frame,
    embers := s1.embers ++ v.embers.map f.ember,
    retiring := s1.retiring ++ v.retiring,
    posted := s1.posted ++ v.posted.map fun (p : Posted) => { p with quad := f p.quad, pa := f.pa s.pkgNo p.pa },
    fifo := s1.fifo ++ v.fifo.map f.tok,
    specs := s1.specs ++ v.specs.map f.spec,
    cmds := s1.cmds ++ v.cmds.map (f.pending die),
    decoders := s1.decoders ++ v.decoders,
    msgs := links ++ s1.msgs ++ held }
  let s3 := (v.commits.map (f.commit s.pkgNo)).foldl (fun s r => s.rewalk c r) (s2.countSent (links ++ held))
  ((s3.addBarriers (v.barriers.map f.barrier)).readyRestored c.id).deliverKept c.id

/-- The image read from a buffer: its header, then all of it (R382). -/
def State.readImage (s : State) (k : KCmd) : State × Except Nat (List Byte) :=
  match s.buffer? k (k.w 4) 64 with
  | (s1, none) => (s1, .error 0x04)
  | (s1, some h) =>
    let size := leNat ((h.drop 16).take 8)
    if leNat (h.take 2) ≠ 0x1A5 ∨ size < 64 ∨ imageBound 768 < size then (s1, .error 0x07)
    else
      match s1.buffer? k (k.w 4) size with
      | (s2, none) => (s2, .error 0x04)
      | (s2, some bs) => (s2, .ok bs)

/-- The placement entries a restore names, none named without a buffer; or the status: a buffer that cannot be read, a
reserved bit that is not zero (R11, R390, R391). -/
def State.restorePlaces (s : State) (k : KCmd) : State × Except Nat (List (Option Named)) :=
  if k.w 5 = 0 then (s, .ok [])
  else
    match s.buffer? k (k.w 5) 64 with
    | (s1, some bs) =>
      let es := (List.range 8).map fun i => leNat ((bs.drop (8 * i)).take 8)
      (s1, if es.any placeReserved then .error 0x01 else .ok (es.map namedOf))
    | (s1, none) => (s1, .error 0x04)

/-- The shapes of an image's regions. -/
def SavedImage.shapes (v : SavedImage) : List (Nat × Nat) := ((v.cxt.image.map (·.regions)).getD []).map fun d => (d.w, d.h)

/-- The vault sections of an image's bytes (R382, R383): each one's quad, by logical die and region quad index, its contents and its
marks. -/
def vaultSections (bs : List Byte) (v : SavedImage) : List (QuadId × List Host.Cell × List Nat) :=
  (List.range (leNat ((bs.drop 32).take 8))).filterMap fun i =>
    let e0 := leNat ((bs.drop (64 + 16 * i)).take 8)
    let body := bs.drop (leNat ((bs.drop (72 + 16 * i)).take 8))
    if e0 % 16 ≠ 4 then none
    else
      (v.quads.find? fun q => q.ldie = bitsOf e0 7 4 ∧ v.cxt.indexOf q = bitsOf e0 15 8).map fun q =>
        (q.id,
          ((body.take (6 * 2 ^ 20)).zipIdx.filter (·.1 ≠ 0)).map (fun x => (x.2, x.1)),
          ((body.drop (6 * 2 ^ 20)).take (3 * 2 ^ 18)).zipIdx.flatMap fun x =>
            ((List.range 8).filter fun b => bitOf x.1.toNat b).map fun b => 8 * x.2 + b)

/-- What an image's bytes stand for: what this device saved with them, else what Config.parseImage makes of the sections that the
spec gives no layout, with the vaults as the bytes have them (R383, R384; notes/assumptions 58). -/
def State.imageHeld (s : State) (bs : List Byte) : Option SavedImage :=
  match (s.saved.filter (·.bytes = bs)).getLast? with
  | some v => some v
  | none => (Config.parseImage bs).map fun v => { v with vaults := vaultSections bs v }

/-- The context can take the image: it is of the shapes loaded (R384), and the context's own. DESIGN CHOICE (notes/assumptions
97): R384 refuses another shape with 0x0A and names no check of the context; an image of another one gets 0x0A too. -/
def takes (c : Context) (v : SavedImage) : Bool :=
  v.cxt.id == c.id && (match c.image with | some im => im.regions.map (fun d => (d.w, d.h)) == v.shapes | none => true)

/-- RESTORE_IMAGE (R339, R384, R391). -/
def execEvRestoreImage (n : Nat) (s : State) : Out :=
  withCtx "RESTORE_IMAGE" 0x09 3 16 n s fun k c =>
    if !c.resting then answer s k 0x0A
    else if s.candleSpent c.id.vf then answer s k 0x0B
    else
      match s.readImage k with
      | (s1, .error e) => answer s1 k e
      | (s1, .ok bs) =>
        let w1 := leNat ((bs.drop 8).take 8)
        if w1 / 2 ^ 16 ≠ 0 then answer s1 k 0x07
        else if w1 ≠ c.id.vf % 64 * 1024 + c.id.num % 1024 then answer s1 k 0x0A
        else
          match s1.imageHeld bs with
          | none => answer s1 k 0x07
          | some v =>
            if !takes c v then answer s1 k 0x0A
            else
              match s1.restorePlaces k with
              | (s2, .error e) => answer s2 k e
              | (s2, .ok named) =>
                if s2.badGuest c.id.vf named then
                  (if k.fromPf then answer s2 k 0x05 else .next (s2.freezeWindow k).tick)
                else
                  match placeRegions s2.takeMarks c.id.vf named 0 v.shapes [] with
                  | none => answer s2 k 0x06
                  | some rs => answer (s2.takeMarks.restoreImage c v rs) k 0

end Sys2Proof.Machine
end

