-- ==== Sys2Proof/Machine/Admin.lean ====
section
/-!
DEFINITION. SET_CANDLE, READ_LANTERNS, SET_DIE_TABLE, MARK_BAD_NODES, ATTEST, LOAD_CALIBRATION, RESET_VF and
SET_COUNTING (R20, R316, R317, R325, R336, R339, R348, R375, R391, R395-R397).
-/

namespace Sys2Proof.Machine

/-- A virtual function's number. -/
def isVf (n : Nat) : Bool := 1 ≤ n && n ≤ 63

/-- SET_CANDLE (R316, R339): it applies from the next period; Q of all ones is unlimited. A function's first SET_CANDLE
ends its default period, so that the next begins at once, as the clocks of R431 need (notes/assumptions 24). -/
def execEvSetCandle (n : Nat) (s : State) : Out :=
  withCmd "SET_CANDLE" 0x0B n s fun k =>
    if !isVf (k.w 3) then answer s k 0x05
    else if k.w 5 = 0 ∨ 2 ^ 32 ≤ k.w 5 then answer s k 0x01
    else
      let q := if k.w 4 = 0xFFFFFFFFFFFFFFFF then none else some (k.w 4)
      let s1 := s.modFunc (k.w 3) fun f => { f with nextPeriod := some (q, k.w 5), candled := true }
      answer (if (s.func (k.w 3)).candled then s1 else s1.startPeriod (k.w 3) s.msNo) k 0

/-- An entry of READ_LANTERNS: the context, and its total in nJ (R336). -/
def lanternEntry (c : Context) : List Byte :=
  leBytes 8 (c.id.vf % 64 * 1024 + c.id.num % 1024) ++ leBytes 8 (c.energy / 65536)

/-- READ_LANTERNS (R391): one context's entry, or those of all a function's contexts in ascending number. -/
def execEvReadLanterns (n : Nat) (s : State) : Out :=
  withCmd "READ_LANTERNS" 0x0C n s fun k =>
    let which : Option (List Context) :=
      if bitOf (k.w 3) 16 then some (sortBy (fun a b => a.id.num ≤ b.id.num) (s.contexts.filter (·.id.vf = k.fn)))
      else (k.target.bind s.ctx?).map fun c => [c]
    if k.w 3 / 2 ^ 17 ≠ 0 then answer s k 0x01
    else
      match which with
      | none => answer s k 0x05
      | some cs =>
        match s.report? k (k.w 4) (cs.flatMap lanternEntry) with
        | some s1 => answer s1 k 0 cs.length
        | none => answer s k 0x04

/-- The physical dies a table's valid entries name (R317). -/
def tableDies (t : Nat) : List Nat :=
  (List.range 8).filterMap fun n => if bitOf t (4 * n + 3) then some (bitsOf t (4 * n + 2) (4 * n)) else none

/-- SET_DIE_TABLE (R317): a table naming one die twice is refused. -/
def execEvSetDieTable (n : Nat) (s : State) : Out :=
  withCmd "SET_DIE_TABLE" 0x0D n s fun k =>
    if !isVf (k.w 3) then answer s k 0x05
    else if 2 ^ 32 ≤ k.w 4 ∨ (tableDies (k.w 4)).eraseDups.length ≠ (tableDies (k.w 4)).length then answer s k 0x01
    else answer (s.modFunc (k.w 3) fun f => { f with dieTable := k.w 4 }) k 0

/-- MARK_BAD_NODES (R20, R375): the quad is listed, and the register's report cleared (notes/assumptions 44: in either form). A
register without a report names no quad. -/
def execEvMarkBadNodes (n : Nat) (s : State) : Out :=
  withCmd "MARK_BAD_NODES" 0x0E n s fun k =>
    let reg := (s.badNode[k.w 3]?).getD 0
    let fromReg := bitOf (k.w 4) 0
    let x := if fromReg then bitsOf reg 11 8 else bitsOf (k.w 4) 7 4
    let y := if fromReg then bitsOf reg 15 12 else bitsOf (k.w 4) 11 8
    if 7 < k.w 3 then answer s k 0x05
    else if k.w 4 / 2 ^ 12 ≠ 0 ∨ bitsOf (k.w 4) 3 1 ≠ 0 ∨ 9 < x ∨ 9 < y ∨ (fromReg = true ∧ s.badHeld.contains (k.w 3) = false) then answer s k 0x01
    else
      let q : QuadId := ⟨k.w 3, y * 10 + x⟩
      answer { s with marked := if s.marked.contains q then s.marked else s.marked ++ [q],
                      badNode := modAt (k.w 3) (fun r => r / 65536 * 65536) s.badNode,
                      badHeld := s.badHeld.filter (· ≠ k.w 3) } k 0

/-! ### ATTEST (R397) -/

/-- Exactly `n` bytes. -/
def fitBytes (n : Nat) (bs : List Byte) : List Byte := (bs ++ List.replicate n 0).take n

def digest (bs : List Byte) : List Byte := fitBytes 64 (Config.shake256 bs)

/-- The report's bytes before its signature. -/
def reportBody (s : State) (vf ctx : Nat) (image : Bool) (nonce loaded : List Byte) : List Byte :=
  let w0 := 0xA7 + 256 + s.pkgNo % 64 * 2 ^ 16 + vf % 64 * 2 ^ 22 + ctx % 1024 * 2 ^ 28 + (if image then 2 ^ 38 else 0)
  leBytes 8 w0 ++ fitBytes 32 nonce ++ leBytes 8 s.clk ++ fitBytes 1952 Config.identityPublic ++ digest Config.endomRom ++
    digest s.configRec ++ digest s.calibRec ++ (if image && !loaded.isEmpty then digest loaded else List.replicate 64 0)

/-- ATTEST: of a context of the function named, with its image's digest when asked for (R391, R397; notes/assumptions 37). -/
def execEvAttest (n : Nat) (s : State) : Out :=
  withCmd "ATTEST" 0x0F n s fun k =>
    let image := bitOf (k.w 5) 16
    let c := k.target.bind s.ctx?
    if k.w 5 / 2 ^ 17 ≠ 0 then answer s k 0x01
    else if c.isNone then answer s k 0x05
    else
      match s.buffer? k (k.w 3) 32 with
      | (s1, none) => answer s1 k 0x04
      | (s1, some nonce) =>
        let body := reportBody s1 k.fn (k.w 5 % 1024) image nonce ((c.map (·.imageBytes)).getD [])
        match s1.report? k (k.w 4) (body ++ fitBytes 3309 (Config.identitySign body)) with
        | some s2 => answer s2 k 0 5565
        | none => answer s1 k 0x04

/-! ### LOAD_CALIBRATION (R20, R337, R395, R396) -/

/-- A mask enables 96 quads, none beyond 99 (R20). -/
def maskGood (m : Nat) : Bool := m < 2 ^ 100 && (List.range 100).countP (bitOf m) == 96

/-- The record is well formed: KIND, VERSION, LENGTH. -/
def recordForm (bs : List Byte) : Bool :=
  let w0 := leNat (bs.take 8)
  (w0 == 0x101 || w0 == 0x102) && leNat ((bs.drop 8).take 8) == bs.length && 80 + 3309 ≤ bs.length

/-- The signature verifies with the root key, and the digest is this device's (R396). -/
def recordSigned (bs : List Byte) : Bool :=
  let n := bs.length - 3309
  Config.rootVerify (bs.take n) (bs.drop n) && (bs.drop 16).take 64 == digest (fitBytes 1952 Config.identityPublic)

/-- A configuration accepted: quads, package, pod and limits set, every vault zeroed, READY (R395 step 4). -/
def State.configure (s : State) (bs : List Byte) (pkg pod : Nat) (masks : List Nat) (sus peak : Nat) (addrs : List Nat) : State :=
  { s with
    ready := true, configRec := bs, pkgNo := pkg, podSize := pod, podAddrs := addrs, enabled := masks,
    sustained := min 3200000 sus, peak := min 3600000 peak,
    mem := s.mem.filter fun x => x.1 < 2 ^ 40, poison := s.poison.filter fun x => x < 2 ^ 40,
    weak := s.weak.filter fun x => x < 2 ^ 40, broken := s.broken.filter fun x => x < 2 ^ 40 }

/-- LOAD_CALIBRATION: a configuration only while READY = 0; a calibration from the next millisecond. -/
def execEvLoadCalibration (n : Nat) (s : State) : Out :=
  withCmd "LOAD_CALIBRATION" 0x10 n s fun k =>
    match s.buffer? k (k.w 3) (k.w 4) with
    | (s1, none) => answer s1 k 0x04
    | (s1, some bs) =>
      if !recordForm bs then answer s1 k 0x01
      else if !recordSigned bs then answer s1 k 0x09
      else if leNat (bs.take 1) = 2 then answer { s1 with nextCalib := some bs } k 0 2
      else if s1.ready then answer s1 k 0x0A
      else
        match Config.parseConfig ((bs.take (bs.length - 3309)).drop 80) with
        | none => answer s1 k 0x01
        | some (pkg, pod, masks, sus, peak, addrs) =>
          if masks.length ≠ 8 ∨ masks.all maskGood = false ∨ pod = 0 ∨ 64 < pod ∨ pod ≤ pkg then answer s1 k 0x01
          else answer (s1.configure bs pkg pod masks sus peak addrs) k 0 1

/-! ### RESET_VF and SET_COUNTING -/

/-- The limits of R325 as w5's bytes give them, 0 meaning the default. -/
def limitsOf (w : Nat) : List Nat :=
  (List.zipIdx [16, 8, 16, 64, 32]).map fun (d, i) => let b := w / 256 ^ i % 256; if b = 0 then d else b

/-- No limit is beyond its queue's size (R325). -/
def limitsGood (w : Nat) : Bool := ((limitsOf w).zip [64, 16, 64, 256, 128]).all fun p => p.1 ≤ p.2

/-- A context of the function that is not on its way out. -/
def State.toEnd (s : State) (vf : Nat) : Option Context :=
  s.contexts.find? fun c => c.id.vf = vf && (match c.run with | .cutting false true => false | _ => true)

/-- Its end begun; a cut under way goes on without an image. -/
def State.endCtx (s : State) (c : Context) : State :=
  if c.cutByOther then s.modCtx c.id fun x => { x with run := .cutting false true, cutCmd := none }
  else s.startDestroy c

/-- RESET_VF (R316, R376, R391): the function's contexts end, then its window is unfrozen and its policy set. -/
def execEvResetVf (n : Nat) (s : State) : Out :=
  withCmd "RESET_VF" 0x11 n s fun k =>
    let vf := k.w 3
    if !isVf vf then answer s k 0x05
    else if k.w 4 / 4 ≠ 0 ∨ 2 ^ 40 ≤ k.w 5 ∨ limitsGood (k.w 5) = false then answer s k 0x01
    else
      match s.toEnd vf with
      | some c => .next ((s.endCtx c).setPhase k .cutting).tick
      | none =>
        if s.contexts.any (·.id.vf = vf) || s.quads.any (·.cx.vf = vf) then notEnabled "RESET_VF"
        else
          let s1 := s.modFunc vf fun f => { f with sysScope := bitOf (k.w 4) 0, priv := bitOf (k.w 4) 1, limits := limitsOf (k.w 5) }
          answer (pump vf 64 { s1 with windows := modAt vf (fun w => { w with frozen := false }) s1.windows }) k 0

/-- SET_COUNTING (R348): a change of selection zeroes the shared counters. -/
def execEvSetCounting (n : Nat) (s : State) : Out :=
  withCmd "SET_COUNTING" 0x12 n s fun k =>
    if 63 < k.w 3 then answer s k 0x05
    else if k.w 3 = s.counting then answer s k 0
    else answer { s with counting := k.w 3, shared := List.replicate 8 0 } k 0

end Sys2Proof.Machine
end

