-- ==== Sys2Proof/Machine/HostPort.lean ====
section
/-!
DEFINITION. The host port: CXL.mem, the window's registers, power, temperature, reset (R372, R373, R386, R387, R395,
R400).
-/

namespace Sys2Proof.Machine

/-! ### CXL.mem (R324, R372, R373, R386) -/

/-- An earlier packet of the request class from K to a die, or of the reply class from there to K, has still a boundary to
cross (R18). -/
def State.kAhead (s : State) (die : Nat) : Bool :=
  s.msgs.any fun m => m.underway &&
    ((m.src.die = 16 && m.dst.die = die && m.cls = 0) || (m.src.die = die && m.dst.die = 16 && m.cls = 1))

/-- The points a request of the host's passes from K to its stack, and its answer on the way back (R18, R25, R293). -/
def hostWay (o : Nat) : List Point :=
  let d := 8 + bitsOf o 39 37
  linksFrom 16 (dieRoute 16 d) ++ [.stackPort (bitsOf o 39 37)] ++ linksFrom d (dieRoute d 16)

/-- The host's request is the next that a point grants (R293). DESIGN CHOICE (notes/assumptions 95): the input is its grants; when
it entered is not stated, so it is taken to be as old as any of its class, which is Normal's. -/
def State.hostGranted (s : State) (p : Point) : Bool :=
  let m : Msg :=
    { id := s.nextId, cx := podCtx 0, src := .k, dst := .k, cls := 0, prio := 1, hops := [p], at' := 0, left := none, entered := none,
      refused := false, via := none, body := .lineBack }
  (pickGrant (valueOf p 0 s.grants) (m :: perSource ((s.queued p).filter (·.src ≠ .k)))).map (·.id) == some s.nextId

/-- A request of the host's: HBM through HDMBASE, within one 64-byte line, of a die that has power; it does not overtake what
K has sent there, nor its answer what is on its way to K (R18). -/
def State.hostLine (s : State) (hpa n : Nat) : Option Nat :=
  if n = 0 ∨ 64 < hpa % 64 + n ∨ s.powerOff = true then none
  else (s.hdm? hpa).bind fun o => if s.kAhead (8 + bitsOf o 39 37) || !(hostWay o).all s.hostGranted then none else some o

/-- A packet of the host is granted at a point; at a boundary it crosses, its energy is the physical function's, which governs the
host's requests (R324; notes/assumptions 4). -/
def State.hostHop (s : State) (p : Point) : State :=
  let s1 := { s with grants := setValue p (valueOf p 0 s.grants + 1) s.grants }
  match p with
  | .link a b => (s1.countShared 0 2 1).charge (.boundary a b) (.vf 0) classHop 1 a
  | _ => s1

/-- The way of a request of the host's from K to the stack's die and of its answer back (R18, R26), and its access to the
stack cache (R25). -/
def State.hostAccess (s : State) (o : Nat) (write : Bool) : State :=
  (((hostWay o).foldl State.hostHop s).cacheAccess ⟨0, 0⟩ o write).checkLine o

/-- CXL_MEM_READ: the bytes, with the data-poison indication. -/
def execEvCxlMemRead (hpa len : Nat) (s : State) : Out :=
  match s.hostLine hpa len with
  | none => notEnabled "CXL_MEM_READ"
  | some o =>
    let s1 := s.hostAccess o false
    .next { s1 with cxlReply := some (memBytes s1.mem o len, s1.poisoned o len) }.tick

/-- CXL_MEM_WRITE: a write with the poison indication sets the line's mark. -/
def execEvCxlMemWrite (hpa : Nat) (bytes : List Byte) (poison : Bool) (s : State) : Out :=
  match s.hostLine hpa bytes.length with
  | none => notEnabled "CXL_MEM_WRITE"
  | some o =>
    let s1 := (s.hostAccess o true).write o bytes
    .next (if poison then s1.markPoison o bytes.length else s1).tick

/-! ### Window registers (R387) -/

/-- COMMAND_DOORBELL: SQTAIL written; Endom reads the window's records. -/
def execEvCommandDoorbell (vf tail : Nat) (s : State) : Out :=
  if 64 ≤ vf ∨ 64 ≤ tail then notEnabled "COMMAND_DOORBELL"
  else .next (pump vf 64 { s with windows := modAt vf (fun w => { w with sqTail := tail }) s.windows }).tick

/-- EVENT_HEAD_WRITE: EQHEAD written. -/
def execEvEventHeadWrite (vf head : Nat) (s : State) : Out :=
  if 64 ≤ vf ∨ 256 ≤ head then notEnabled "EVENT_HEAD_WRITE"
  else .next { s with windows := modAt vf (fun w => { w with eqHead := head }) s.windows }.tick

/-- A write of a window's register by offset; read-only registers and reserved bits keep what they hold. HDMBASE has no
offset in the spec: the physical function's 0x1000 stands for the HDM decoder. -/
def State.writeRegister (s : State) (vf off : Nat) (val : Word) : State :=
  match off with
  | 0x000 => { s with windows := modAt vf (fun w => { w with sqBase := val.toNat / 4096 }) s.windows }
  | 0x008 => pump vf 64 { s with windows := modAt vf (fun w => { w with sqTail := val.toNat % 64 }) s.windows }
  | 0x018 => { s with windows := modAt vf (fun w => { w with eqBase := val.toNat / 8192 }) s.windows }
  | 0x020 => { s with windows := modAt vf (fun w => { w with eqHead := val.toNat % 256 }) s.windows }
  | 0x1000 => if vf = 0 then { s with hdmBase := val.toNat } else s
  | _ => s

/-- What a host read of a window's register returns: read-only and read-write fields alike, reserved bits zero (R9, R11,
R387). -/
def State.readRegister (s : State) (vf off : Nat) : Word :=
  let w := (s.windows[vf]?).getD Window.initial
  match off with
  | 0x000 => toWord (w.sqBase * 4096)
  | 0x008 => toWord w.sqTail
  | 0x010 => toWord w.sqHead
  | 0x018 => toWord (w.eqBase * 8192)
  | 0x020 => toWord w.eqHead
  | 0x028 => toWord (w.eqLost * 2 ^ 32 + w.eqTail)
  | 0x030 => toWord ((if s.ready then 2 else 0) + (if w.frozen then 1 else 0))
  | 0x1000 => if vf = 0 then toWord s.hdmBase else 0
  | _ => 0

/-- REGISTER_WRITE. -/
def execEvRegisterWrite (vf off : Nat) (val : Word) (s : State) : Out :=
  if 64 ≤ vf then notEnabled "REGISTER_WRITE" else .next (s.writeRegister vf off val).tick

/-! ### Power and temperature (R400) -/

/-- The average of a list. -/
def average (xs : List Nat) : Nat := xs.foldl (· + ·) 0 / max 1 xs.length

/-- One step of fclk down, to 900 MHz, or up; 112.5 MHz. -/
def fclkDown (f : Nat) : Nat := max 9000 (f - 1125)
def fclkUp (f : Nat) : Nat := min 18000 (f + 1125)

/-- POWER_CHECK: the millisecond's measured power, in mW, and what the averages make of fclk. -/
def execEvPowerCheck (mw : Nat) (s : State) : Out :=
  if !s.msOver || s.msPower then notEnabled "POWER_CHECK"
  else
    let log := (mw :: s.powerLog).take 1000
    let short := average (log.take 10)
    let long := average log
    let above := s.peak < short || s.sustained < long
    let under := short * 100 ≤ s.peak * 95 && long * 100 ≤ s.sustained * 95
    let f :=
      if above then (if s.msLowered then s.fclk else fclkDown s.fclk)
      else if under && !s.msHot && !s.msLowered then fclkUp s.fclk
      else s.fclk
    .next ({ s with powerLog := log, msPower := true, msLowered := s.msLowered || above }.setFclk f).tick

/-- THERMAL_LIMIT: a sensor above 95 °C lowers fclk; above 105 °C holds it at 900 MHz and posts an event with the
power in watts. -/
def execEvThermalLimit (die deg : Nat) (s : State) : Out :=
  if 16 < die ∨ deg ≤ 95 ∨ 115 < deg then notEnabled "THERMAL_LIMIT"
  else if 105 < deg then
    .next (({ s with msHot := true, msLowered := true }.setFclk 9000 |>.event 0 3 0 0 0 5 0 ((s.powerLog.head?).getD 0 / 1000)).tick)
  else
    .next ({ s with msHot := true, msLowered := true }.setFclk (if s.msLowered then s.fclk else fclkDown s.fclk)).tick

/-- Every die but K has lost its power: nothing of any context is left, no quad is enabled, no port of a die answers. K goes
on, with its windows, functions and commands (notes/assumptions 70). -/
def State.lostContexts (s : State) : State :=
  { s with
    quads := [], tlbs := [], links := [], insts := [], commits := [], frames := [], embers := [], retiring := [], flying := [],
    msgs := [], posted := [], fifo := [], specs := [], cmds := [], barriers := [], contexts := [], decoders := [], lanes := [],
    seals := [], grants := [], flows := [], sentFrame := none, enabled := s.enabled.map fun _ => 0, ports := s.ports.map fun p => (p.1, false),
    mem := s.mem.filter fun c => c.1 < 2 ^ 40, poison := s.poison.filter fun k => k < 2 ^ 40, weak := [], badLines := [], broken := [], cached := [],
    msMapped := [], lanterns := s.lanterns.filter fun l => l.1 = .kdie }

/-- THERMAL_SHUTDOWN: above 115 °C every die except K loses power, and every context its state. -/
def execEvThermalShutdown (die deg : Nat) (s : State) : Out :=
  if 16 < die ∨ deg ≤ 115 then notEnabled "THERMAL_SHUTDOWN" else .next { s.lostContexts with powerOff := true }.tick

/-! ### Reset and the port (R386, R395) -/

/-- DEVICE_RESET: the state of `State.reset`; the host's own memory, the images it may have kept there, the inputs to come and
the model's counters stay. -/
def execEvDeviceReset (s : State) : Out :=
  .next { State.reset with
    hostMem := s.hostMem, hostPoison := s.hostPoison, saved := s.saved, agenda := s.agenda, nextId := s.nextId, fresh := s.fresh }

/-- HOST_LINK_DEGRADE: one module fails; half rate, and a LINK event. -/
def execEvHostLinkDegrade (s : State) : Out :=
  if s.halfRate then notEnabled "HOST_LINK_DEGRADE"
  else .next ({ s with halfRate := true }.event 0 3 0 0 0 6 0 0).tick

end Sys2Proof.Machine
end

