-- ==== Sys2Proof/Machine/Pod.lean ====
section
/-!
DEFINITION. The pod transport's receiving side: packets, retransmission, ports, lost packages (R217, R258, R280, R322,
R373, R398, R399).
-/

namespace Sys2Proof.Machine

/-! ### Packets (R399) -/

/-- An answer from another package for a request of this one. -/
def State.podReply (s : State) (src req : Nat) (v : Word) (poisoned : Bool) : State :=
  match s.msgs.find? fun m => m.id = req ∧ m.dst = .pod src with
  | none => s
  | some m =>
    match m.body with
    | .far e a => (s.dropMsg req).send m.cx m.dst m.src 1 (.reply e v (if poisoned then some (a.va, a.detail) else none))
    | .posted _ => (s.dropMsg req).send m.cx m.dst m.src 1 (.ack req)
    | _ => s

/-- A packet of a rank's contribution, held for its group (R258). -/
def State.podPart (s : State) (src vf key rank : Nat) (fields : List Nat) (vals : List (Option Word)) (first total : Nat) :
    State :=
  { s with
    nextId := s.nextId + 1,
    msgs := s.msgs ++ [{ id := s.nextId, cx := podCtx vf, src := .pod src, dst := .k, cls := 20, prio := 1, hops := [], at' := s.clk,
                         left := none, entered := none, refused := true, via := none, body := .part vf key rank fields vals first total }] }

/-- Packet `a` comes before `b` in a triple's numbering. -/
def seqBefore (a b : Nat) : Bool := a != b && (b + 2 ^ 32 - a) % 2 ^ 32 < 2 ^ 31

/-- A request goes on from its port to the stack it names, where it is performed (R25, R293, R399); one for no stack of this
package is a violation at once (R322). -/
def State.podServe (s : State) (src : Nat) (b : PodBody) : State :=
  match podRequestOf b with
  | none => s
  | some (r, perform) =>
    if bitsOf r.pa 45 40 ≠ 0 ∨ 2 ^ 46 ≤ r.pa then s.podRequest src r perform
    else s.send (podCtx r.vf) (.pod src) (.mdie (bitsOf r.pa 39 37)) 0 (.served b) (homePoint (.mdie (bitsOf r.pa 39 37)))

/-- What a delivered packet does. -/
def State.podDeliver (s : State) (src : Nat) : PodBody → State
  | .read vf ctx req pa n => s.podServe src (.read vf ctx req pa n)
  | .write vf ctx req pa n v half poison whole => s.podServe src (.write vf ctx req pa n v half poison whole)
  | .atomic vf ctx req op xop pa n b x => s.podServe src (.atomic vf ctx req op xop pa n b x)
  | .reply req v poisoned => s.podReply src req v poisoned
  | .ackUpTo _ _ => s
  | .barrier vf key bar engine err => s.arrive (.pod vf key ⟨vf, 0⟩) bar ⟨engine, err, none, none⟩
  | .coll vf key rank fields vals first total => s.podPart src vf key rank fields vals first total
  | .foreign _ _ => s

/-- The class a packet travels in. -/
def podClass : PodBody → Nat
  | .read _ _ _ _ _ => 0
  | .write _ _ _ _ _ _ _ _ _ => 0
  | .atomic _ _ _ _ _ _ _ _ _ => 0
  | .reply _ _ _ => 1
  | .ackUpTo _ _ => 1
  | .barrier _ _ _ _ _ => 2
  | .coll _ _ _ _ _ _ _ => 3
  | .foreign _ _ => 0

/-- The early packets that are now in sequence, delivered. -/
def podCatchUp (src cls : Nat) : Nat → State → State
  | 0, s => s
  | n + 1, s =>
    let f := s.flow src cls
    match f.early.find? (·.1 = f.nextRecv) with
    | none => s
    | some (k, b) =>
      podCatchUp src cls n
        ((s.setFlow { f with nextRecv := (f.nextRecv + 1) % 2 ^ 32, early := f.early.filter (·.1 ≠ k) }).podDeliver src b)

/-- A cumulative acknowledgement: the triple's packets before `upTo` have arrived. -/
def State.podAck (s : State) (src cls upTo : Nat) : State :=
  let f := s.flow src cls
  s.setFlow { f with unacked := f.unacked.filter fun p => !seqBefore p.number upTo }

/-- The package has been heard: it is reachable, and what it has not acknowledged waits from now on. -/
def State.heard (s : State) (src : Nat) : State :=
  { s with
    lostPkgs := s.lostPkgs.filter (· ≠ src),
    flows := modWhere (·.peer = src) (fun f => { f with lost := false, silent := if f.unacked.isEmpty then none else some s.clk }) s.flows }

/-- The acknowledgement of a triple goes back: the number it expects next (R399). -/
def State.sendAck (s : State) (src cls : Nat) : State :=
  s.send (podCtx 0) (.mdie (podPort src / 2)) (.pod src) 1 (.podAck cls (s.flow src cls).nextRecv) [.ether (podPort src)]

/-- A package of the pod other than this one. -/
def State.isPeer (s : State) (p : Nat) : Bool := p < s.podSize && p != s.pkgNo

/-- A packet of a triple: delivered in sequence with those that had come early, kept until then, or a copy of what has been
delivered; and acknowledged. -/
def State.podTake (s : State) (src cls seqno : Nat) (pkt : PodBody) : State :=
  let f := s.flow src cls
  let s1 :=
    if seqno = f.nextRecv then
      podCatchUp src cls (f.early.length + 1)
        ((s.setFlow { f with nextRecv := (f.nextRecv + 1) % 2 ^ 32 }).podDeliver src pkt)
    else if seqBefore f.nextRecv seqno && !(f.early.any (·.1 = seqno)) then s.setFlow { f with early := f.early ++ [(seqno, pkt)] }
    else s
  s1.sendAck src cls

/-- POD_PACKET_RECEIVE (R398, R399): a frame of the pod's EtherType for this package carries a packet of a triple; any other
frame is not answered and changes nothing. -/
def execEvPodPacketReceive (src cls seqno port : Nat) (pkt : PodBody) (s : State) : Out :=
  if !s.portUp port then notEnabled "POD_PACKET_RECEIVE"
  else
    match pkt with
    | .foreign ty addr => if (ty, addr) = s.podFrame s.pkgNo then notEnabled "POD_PACKET_RECEIVE" else .next s.tick
    | .ackUpTo c n => if s.isPeer src && cls = 1 then .next ((s.podAck src c n).heard src).tick else notEnabled "POD_PACKET_RECEIVE"
    | _ =>
      if !s.isPeer src || podClass pkt ≠ cls || 2 ^ 32 ≤ seqno then notEnabled "POD_PACKET_RECEIVE"
      else .next ((s.heard src).podTake src cls seqno pkt).tick

/-! ### Retransmission, ports, lost packages (R399) -/

/-- A packet sent more than 20 µs ago: fclk / 10 cycles a microsecond. -/
def State.overdue (s : State) (p : PodFrame) : Bool := p.at' + 2 * s.fclk < s.clk

/-- POD_RETRANSMIT_TIMEOUT: the overdue packets of triple `n` (package × 4 + class) go again, on another live port. -/
def execEvPodRetransmitTimeout (n port : Nat) (s : State) : Out :=
  let f := s.flow (n / 4) (n % 4)
  let late := f.unacked.filter fun p => s.overdue p && p.port != port
  if late.isEmpty || !s.portUp port then notEnabled "POD_RETRANSMIT_TIMEOUT"
  else
    let again := fun (p : PodFrame) => if late.contains p then { p with at' := s.clk, port := port } else p
    let sent := (late.getLast?).map again
    .next ({ s.setFlow { f with unacked := f.unacked.map again } with sentFrame := sent.or s.sentFrame }).tick

/-- What waits for a port that has gone out of service goes on to the next one. -/
def State.rerouteAll (s : State) : State := { s with msgs := s.msgs.map fun m => { m with hops := s.rerouted m.hops } }

/-- POD_PORT_FAILURE: 64 consecutive frames have failed; the port goes out of service, with a LINK event. -/
def execEvPodPortFailure (port : Nat) (s : State) : Out :=
  if !s.portUp port then notEnabled "POD_PORT_FAILURE"
  else .next ({ s with ports := setValue port false s.ports }.rerouteAll.event 0 3 0 0 0 6 0 0).tick

/-- Nothing has come from a package for 100 ms while packets to it wait for their acknowledgement (R399). -/
def State.unreached (s : State) (pkg : Nat) : Bool :=
  s.flows.any fun f => f.peer = pkg && !f.unacked.isEmpty && (f.silent.map fun t => decide (t + 10000 * s.fclk ≤ s.clk)).getD false

/-- POD_LOST: no port has reached a package for 100 ms; every request pending to it gets a poisoned reply. -/
def execEvPodLost (pkg : Nat) (s : State) : Out :=
  if !s.isPeer pkg || s.lostPkgs.contains pkg || !s.unreached pkg then notEnabled "POD_LOST"
  else
    let pending := s.msgs.filter fun m => m.dst = .pod pkg ∧ m.access?.isSome
    let s1 := pending.foldl (fun s m => poisonedAnswer (s.dropMsg m.id) m)
      { s with lostPkgs := s.lostPkgs ++ [pkg], flows := modWhere (·.peer = pkg) (fun f => { f with lost := true }) s.flows }
    .next (s1.event 0 3 0 0 0 7 pkg 0).tick

end Sys2Proof.Machine
end

