-- ==== Sys2Proof/Machine/Dispatch.lean ====
section
/-!
DEFINITION. One arm per constructor of Instr: the call of its meaning.
-/

namespace Sys2Proof.Machine

def exec (i : Instr) (s : State) : Host.Outcome State Fault Refusal :=
  match i with
  | .add f => Sys2Proof.Machine.execAdd f s
  | .sub f => Sys2Proof.Machine.execSub f s
  | .mul f => Sys2Proof.Machine.execMul f s
  | .mulhs f => Sys2Proof.Machine.execMulhs f s
  | .mulhu f => Sys2Proof.Machine.execMulhu f s
  | .divs f => Sys2Proof.Machine.execDivs f s
  | .divu f => Sys2Proof.Machine.execDivu f s
  | .rems f => Sys2Proof.Machine.execRems f s
  | .remu f => Sys2Proof.Machine.execRemu f s
  | .andOp f => Sys2Proof.Machine.execAndOp f s
  | .orOp f => Sys2Proof.Machine.execOrOp f s
  | .xorOp f => Sys2Proof.Machine.execXorOp f s
  | .andn f => Sys2Proof.Machine.execAndn f s
  | .orn f => Sys2Proof.Machine.execOrn f s
  | .shl f => Sys2Proof.Machine.execShl f s
  | .shr f => Sys2Proof.Machine.execShr f s
  | .sar f => Sys2Proof.Machine.execSar f s
  | .rol f => Sys2Proof.Machine.execRol f s
  | .ror f => Sys2Proof.Machine.execRor f s
  | .mins f => Sys2Proof.Machine.execMins f s
  | .minu f => Sys2Proof.Machine.execMinu f s
  | .maxs f => Sys2Proof.Machine.execMaxs f s
  | .maxu f => Sys2Proof.Machine.execMaxu f s
  | .absd f => Sys2Proof.Machine.execAbsd f s
  | .neg f => Sys2Proof.Machine.execNeg f s
  | .abs f => Sys2Proof.Machine.execAbs f s
  | .notOp f => Sys2Proof.Machine.execNotOp f s
  | .clz f => Sys2Proof.Machine.execClz f s
  | .ctz f => Sys2Proof.Machine.execCtz f s
  | .popc f => Sys2Proof.Machine.execPopc f s
  | .brev f => Sys2Proof.Machine.execBrev f s
  | .bswap f => Sys2Proof.Machine.execBswap f s
  | .sext f => Sys2Proof.Machine.execSext f s
  | .zext f => Sys2Proof.Machine.execZext f s
  | .mov f => Sys2Proof.Machine.execMov f s
  | .nullOp f => Sys2Proof.Machine.execNullOp f s
  | .bfx f => Sys2Proof.Machine.execBfx f s
  | .bfxs f => Sys2Proof.Machine.execBfxs f s
  | .bfi f => Sys2Proof.Machine.execBfi f s
  | .sel f => Sys2Proof.Machine.execSel f s
  | .madd f => Sys2Proof.Machine.execMadd f s
  | .fsh f => Sys2Proof.Machine.execFsh f s
  | .addi f => Sys2Proof.Machine.execAddi f s
  | .muli f => Sys2Proof.Machine.execMuli f s
  | .andi f => Sys2Proof.Machine.execAndi f s
  | .ori f => Sys2Proof.Machine.execOri f s
  | .xori f => Sys2Proof.Machine.execXori f s
  | .shli f => Sys2Proof.Machine.execShli f s
  | .shri f => Sys2Proof.Machine.execShri f s
  | .sari f => Sys2Proof.Machine.execSari f s
  | .roli f => Sys2Proof.Machine.execRoli f s
  | .minsi f => Sys2Proof.Machine.execMinsi f s
  | .maxsi f => Sys2Proof.Machine.execMaxsi f s
  | .movi f => Sys2Proof.Machine.execMovi f s
  | .teq f => Sys2Proof.Machine.execTeq f s
  | .tne f => Sys2Proof.Machine.execTne f s
  | .tlts f => Sys2Proof.Machine.execTlts f s
  | .tles f => Sys2Proof.Machine.execTles f s
  | .tltu f => Sys2Proof.Machine.execTltu f s
  | .tleu f => Sys2Proof.Machine.execTleu f s
  | .tgts f => Sys2Proof.Machine.execTgts f s
  | .tges f => Sys2Proof.Machine.execTges f s
  | .tgtu f => Sys2Proof.Machine.execTgtu f s
  | .tgeu f => Sys2Proof.Machine.execTgeu f s
  | .teqi f => Sys2Proof.Machine.execTeqi f s
  | .tnei f => Sys2Proof.Machine.execTnei f s
  | .tltsi f => Sys2Proof.Machine.execTltsi f s
  | .tlesi f => Sys2Proof.Machine.execTlesi f s
  | .tltui f => Sys2Proof.Machine.execTltui f s
  | .tleui f => Sys2Proof.Machine.execTleui f s
  | .tgtsi f => Sys2Proof.Machine.execTgtsi f s
  | .tgesi f => Sys2Proof.Machine.execTgesi f s
  | .pand f => Sys2Proof.Machine.execPand f s
  | .por f => Sys2Proof.Machine.execPor f s
  | .pxor f => Sys2Proof.Machine.execPxor f s
  | .pnot f => Sys2Proof.Machine.execPnot f s
  | .steer f => Sys2Proof.Machine.execSteer f s
  | .merge f => Sys2Proof.Machine.execMerge f s
  | .fan f => Sys2Proof.Machine.execFan f s
  | .rdc f => Sys2Proof.Machine.execRdc f s
  | .tagof f => Sys2Proof.Machine.execTagof f s
  | .retag f => Sys2Proof.Machine.execRetag f s
  | .fadd f => Sys2Proof.Machine.execFadd f s
  | .fsub f => Sys2Proof.Machine.execFsub f s
  | .fmul f => Sys2Proof.Machine.execFmul f s
  | .fdiv f => Sys2Proof.Machine.execFdiv f s
  | .fmin f => Sys2Proof.Machine.execFmin f s
  | .fmax f => Sys2Proof.Machine.execFmax f s
  | .fminm f => Sys2Proof.Machine.execFminm f s
  | .fmaxm f => Sys2Proof.Machine.execFmaxm f s
  | .fcpys f => Sys2Proof.Machine.execFcpys f s
  | .fscale f => Sys2Proof.Machine.execFscale f s
  | .fabs f => Sys2Proof.Machine.execFabs f s
  | .fneg f => Sys2Proof.Machine.execFneg f s
  | .fsqrt f => Sys2Proof.Machine.execFsqrt f s
  | .frcp f => Sys2Proof.Machine.execFrcp f s
  | .frsq f => Sys2Proof.Machine.execFrsq f s
  | .ex2 f => Sys2Proof.Machine.execEx2 f s
  | .lg2 f => Sys2Proof.Machine.execLg2 f s
  | .sinp f => Sys2Proof.Machine.execSinp f s
  | .cosp f => Sys2Proof.Machine.execCosp f s
  | .tanh f => Sys2Proof.Machine.execTanh f s
  | .frnd f => Sys2Proof.Machine.execFrnd f s
  | .fclass f => Sys2Proof.Machine.execFclass f s
  | .ffrac f => Sys2Proof.Machine.execFfrac f s
  | .ffma f => Sys2Proof.Machine.execFfma f s
  | .ffms f => Sys2Proof.Machine.execFfms f s
  | .fnfma f => Sys2Proof.Machine.execFnfma f s
  | .fnfms f => Sys2Proof.Machine.execFnfms f s
  | .fteq f => Sys2Proof.Machine.execFteq f s
  | .ftne f => Sys2Proof.Machine.execFtne f s
  | .ftlt f => Sys2Proof.Machine.execFtlt f s
  | .ftle f => Sys2Proof.Machine.execFtle f s
  | .ftun f => Sys2Proof.Machine.execFtun f s
  | .ftord f => Sys2Proof.Machine.execFtord f s
  | .fcvt f => Sys2Proof.Machine.execFcvt f s
  | .fcvts f => Sys2Proof.Machine.execFcvts f s
  | .fcvtu f => Sys2Proof.Machine.execFcvtu f s
  | .scvtf f => Sys2Proof.Machine.execScvtf f s
  | .ucvtf f => Sys2Proof.Machine.execUcvtf f s
  | .mxscl f => Sys2Proof.Machine.execMxscl f s
  | .mxq f => Sys2Proof.Machine.execMxq f s
  | .ldd f => Sys2Proof.Machine.execLdd f s
  | .ldw f => Sys2Proof.Machine.execLdw f s
  | .ldws f => Sys2Proof.Machine.execLdws f s
  | .ldh f => Sys2Proof.Machine.execLdh f s
  | .ldhs f => Sys2Proof.Machine.execLdhs f s
  | .ldb f => Sys2Proof.Machine.execLdb f s
  | .ldbs f => Sys2Proof.Machine.execLdbs f s
  | .std f => Sys2Proof.Machine.execStd f s
  | .stw f => Sys2Proof.Machine.execStw f s
  | .sth f => Sys2Proof.Machine.execSth f s
  | .stb f => Sys2Proof.Machine.execStb f s
  | .nstore f => Sys2Proof.Machine.execNstore f s
  | .aadd f => Sys2Proof.Machine.execAadd f s
  | .amins f => Sys2Proof.Machine.execAmins f s
  | .aminu f => Sys2Proof.Machine.execAminu f s
  | .amaxs f => Sys2Proof.Machine.execAmaxs f s
  | .amaxu f => Sys2Proof.Machine.execAmaxu f s
  | .aand f => Sys2Proof.Machine.execAand f s
  | .aor f => Sys2Proof.Machine.execAor f s
  | .axor f => Sys2Proof.Machine.execAxor f s
  | .afadd f => Sys2Proof.Machine.execAfadd f s
  | .fld f => Sys2Proof.Machine.execFld f s
  | .flda f => Sys2Proof.Machine.execFlda f s
  | .fst f => Sys2Proof.Machine.execFst f s
  | .fstr f => Sys2Proof.Machine.execFstr f s
  | .faadd f => Sys2Proof.Machine.execFaadd f s
  | .famins f => Sys2Proof.Machine.execFamins f s
  | .faminu f => Sys2Proof.Machine.execFaminu f s
  | .famaxs f => Sys2Proof.Machine.execFamaxs f s
  | .famaxu f => Sys2Proof.Machine.execFamaxu f s
  | .faand f => Sys2Proof.Machine.execFaand f s
  | .faor f => Sys2Proof.Machine.execFaor f s
  | .faxor f => Sys2Proof.Machine.execFaxor f s
  | .faxchg f => Sys2Proof.Machine.execFaxchg f s
  | .facas f => Sys2Proof.Machine.execFacas f s
  | .fafadd f => Sys2Proof.Machine.execFafadd f s
  | .fence f => Sys2Proof.Machine.execFence f s
  | .xmit f => Sys2Proof.Machine.execXmit f s
  | .inlet f => Sys2Proof.Machine.execInlet f s
  | .fradd f => Sys2Proof.Machine.execFradd f s
  | .frfadd f => Sys2Proof.Machine.execFrfadd f s
  | .br f => Sys2Proof.Machine.execBr f s
  | .bri f => Sys2Proof.Machine.execBri f s
  | .call f => Sys2Proof.Machine.execCall f s
  | .calli f => Sys2Proof.Machine.execCalli f s
  | .ret f => Sys2Proof.Machine.execRet f s
  | .endStrand f => Sys2Proof.Machine.execEndStrand f s
  | .tsalloc f => Sys2Proof.Machine.execTsalloc f s
  | .tsfree f => Sys2Proof.Machine.execTsfree f s
  | .tagnew f => Sys2Proof.Machine.execTagnew f s
  | .tagrel f => Sys2Proof.Machine.execTagrel f s
  | .spawn f => Sys2Proof.Machine.execSpawn f s
  | .spawnr f => Sys2Proof.Machine.execSpawnr f s
  | .joinOp f => Sys2Proof.Machine.execJoinOp f s
  | .bararr f => Sys2Proof.Machine.execBararr f s
  | .barwait f => Sys2Proof.Machine.execBarwait f s
  | .barsync f => Sys2Proof.Machine.execBarsync f s
  | .waitOp f => Sys2Proof.Machine.execWaitOp f s
  | .yieldOp f => Sys2Proof.Machine.execYieldOp f s
  | .scopy f => Sys2Proof.Machine.execScopy f s
  | .sgather f => Sys2Proof.Machine.execSgather f s
  | .sscatter f => Sys2Proof.Machine.execSscatter f s
  | .sfill f => Sys2Proof.Machine.execSfill f s
  | .sparam f => Sys2Proof.Machine.execSparam f s
  | .mxcfg f => Sys2Proof.Machine.execMxcfg f s
  | .mxrun f => Sys2Proof.Machine.execMxrun f s
  | .mxldacc f => Sys2Proof.Machine.execMxldacc f s
  | .mxstacc f => Sys2Proof.Machine.execMxstacc f s
  | .mxrel f => Sys2Proof.Machine.execMxrel f s
  | .vmap f => Sys2Proof.Machine.execVmap f s
  | .vred f => Sys2Proof.Machine.execVred f s
  | .wincfg f => Sys2Proof.Machine.execWincfg f s
  | .winrun f => Sys2Proof.Machine.execWinrun f s
  | .decode f => Sys2Proof.Machine.execDecode f s
  | .coll f => Sys2Proof.Machine.execColl f s
  | .hquery f => Sys2Proof.Machine.execHquery f s
  | .rsquery f => Sys2Proof.Machine.execRsquery f s
  | .stok f => Sys2Proof.Machine.execStok f s
  | .toks f => Sys2Proof.Machine.execToks f s
  | .srd f => Sys2Proof.Machine.execSrd f s
  | .swr f => Sys2Proof.Machine.execSwr f s
  | .trap f => Sys2Proof.Machine.execTrap f s
  | .bkpt f => Sys2Proof.Machine.execBkpt f s
  | .enrd f => Sys2Proof.Machine.execEnrd f s
  | .perfrd f => Sys2Proof.Machine.execPerfrd f s
  | .trace f => Sys2Proof.Machine.execTrace f s
  | .clk f => Sys2Proof.Machine.execClk f s
  | .snuff f => Sys2Proof.Machine.execSnuff f s
  | .fwcall f => Sys2Proof.Machine.execFwcall f s
  | .assert f => Sys2Proof.Machine.execAssert f s
  | .genc f => Sys2Proof.Machine.execGenc f s
  | .appc f => Sys2Proof.Machine.execAppc f s
  | .evElementIssue die idx elem => Sys2Proof.Machine.execEvElementIssue die idx elem s
  | .evTokenArrival n => Sys2Proof.Machine.execEvTokenArrival n s
  | .evBlockFetch die idx elem => Sys2Proof.Machine.execEvBlockFetch die idx elem s
  | .evBlockInstanceStart die idx elem => Sys2Proof.Machine.execEvBlockInstanceStart die idx elem s
  | .evBlockStarved inst => Sys2Proof.Machine.execEvBlockStarved inst s
  | .evCommit inst => Sys2Proof.Machine.execEvCommit inst s
  | .evFootprintRegistration n => Sys2Proof.Machine.execEvFootprintRegistration n s
  | .evParkedCommitResume n => Sys2Proof.Machine.execEvParkedCommitResume n s
  | .evFrameMoveArrival n => Sys2Proof.Machine.execEvFrameMoveArrival n s
  | .evFarAccessAtHome n => Sys2Proof.Machine.execEvFarAccessAtHome n s
  | .evPostedEffectAtHome n => Sys2Proof.Machine.execEvPostedEffectAtHome n s
  | .evPostedAckArrival n => Sys2Proof.Machine.execEvPostedAckArrival n s
  | .evWaitingFarAccessPerform die idx n => Sys2Proof.Machine.execEvWaitingFarAccessPerform die idx n s
  | .evBankArbitration die idx bank => Sys2Proof.Machine.execEvBankArbitration die idx bank s
  | .evBankStarvationPromote die idx bank => Sys2Proof.Machine.execEvBankStarvationPromote die idx bank s
  | .evFarReplyArrival n => Sys2Proof.Machine.execEvFarReplyArrival n s
  | .evReplyHeldResend n => Sys2Proof.Machine.execEvReplyHeldResend n s
  | .evLamplighterRelight die idx => Sys2Proof.Machine.execEvLamplighterRelight die idx s
  | .evRangeSplit die idx => Sys2Proof.Machine.execEvRangeSplit die idx s
  | .evFrameWaitGrant die idx => Sys2Proof.Machine.execEvFrameWaitGrant die idx s
  | .evEmberReady n => Sys2Proof.Machine.execEvEmberReady n s
  | .evRefusalCountLimit n => Sys2Proof.Machine.execEvRefusalCountLimit n s
  | .evReservationTimeout n => Sys2Proof.Machine.execEvReservationTimeout n s
  | .evArbitrationGrant point => Sys2Proof.Machine.execEvArbitrationGrant point s
  | .evCircuitTokenArrival n => Sys2Proof.Machine.execEvCircuitTokenArrival n s
  | .evCreditReturn n => Sys2Proof.Machine.execEvCreditReturn n s
  | .evBorderCrossing n => Sys2Proof.Machine.execEvBorderCrossing n s
  | .evMasterFreeze n => Sys2Proof.Machine.execEvMasterFreeze n s
  | .evSpaceTableItem n => Sys2Proof.Machine.execEvSpaceTableItem n s
  | .evJoinRequest n => Sys2Proof.Machine.execEvJoinRequest n s
  | .evLiveCountZero vf ctx space => Sys2Proof.Machine.execEvLiveCountZero vf ctx space s
  | .evWaitRequest n => Sys2Proof.Machine.execEvWaitRequest n s
  | .evBarrierArrival n => Sys2Proof.Machine.execEvBarrierArrival n s
  | .evBarrierPhaseComplete n => Sys2Proof.Machine.execEvBarrierPhaseComplete n s
  | .evBarwaitRequest n => Sys2Proof.Machine.execEvBarwaitRequest n s
  | .evTlbWalk n => Sys2Proof.Machine.execEvTlbWalk n s
  | .evStreamCommandArrival n => Sys2Proof.Machine.execEvStreamCommandArrival n s
  | .evStreamCommandPerform n => Sys2Proof.Machine.execEvStreamCommandPerform n s
  | .evStreamRoundBoundary n => Sys2Proof.Machine.execEvStreamRoundBoundary n s
  | .evStreamPageFaultStop n => Sys2Proof.Machine.execEvStreamPageFaultStop n s
  | .evEngineLineAccess n => Sys2Proof.Machine.execEvEngineLineAccess n s
  | .evMeCommandPerform n => Sys2Proof.Machine.execEvMeCommandPerform n s
  | .evVsuCommandPerform n => Sys2Proof.Machine.execEvVsuCommandPerform n s
  | .evWindowCommandPerform n => Sys2Proof.Machine.execEvWindowCommandPerform n s
  | .evDecodeFrame n => Sys2Proof.Machine.execEvDecodeFrame n s
  | .evCollGroupComplete n => Sys2Proof.Machine.execEvCollGroupComplete n s
  | .evStokElementSend n => Sys2Proof.Machine.execEvStokElementSend n s
  | .evToksTokenCapture n => Sys2Proof.Machine.execEvToksTokenCapture n s
  | .evCommandCompletion n => Sys2Proof.Machine.execEvCommandCompletion n s
  | .evFaultDelivery vf ctx => Sys2Proof.Machine.execEvFaultDelivery vf ctx s
  | .evHandlerDone vf ctx slot => Sys2Proof.Machine.execEvHandlerDone vf ctx slot s
  | .evPreciseStop vf ctx => Sys2Proof.Machine.execEvPreciseStop vf ctx s
  | .evParityFreezeReport vf ctx die idx hop dir elem => Sys2Proof.Machine.execEvParityFreezeReport vf ctx die idx hop dir elem s
  | .evSnuffMarkerBroadcast vf ctx => Sys2Proof.Machine.execEvSnuffMarkerBroadcast vf ctx s
  | .evQuadMarkerArrival die idx => Sys2Proof.Machine.execEvQuadMarkerArrival die idx s
  | .evChannelMarkerArrival n => Sys2Proof.Machine.execEvChannelMarkerArrival n s
  | .evQuadStateReadout vf ctx => Sys2Proof.Machine.execEvQuadStateReadout vf ctx s
  | .evEngineSnuffStop n => Sys2Proof.Machine.execEvEngineSnuffStop n s
  | .evQuadZeroing die idx => Sys2Proof.Machine.execEvQuadZeroing die idx s
  | .evQuadZeroComplete die idx => Sys2Proof.Machine.execEvQuadZeroComplete die idx s
  | .evLanternReport => Sys2Proof.Machine.execEvLanternReport s
  | .evFactorUpdate die => Sys2Proof.Machine.execEvFactorUpdate die s
  | .evSharedCostSplit => Sys2Proof.Machine.execEvSharedCostSplit s
  | .evCandlePeriodStart vf => Sys2Proof.Machine.execEvCandlePeriodStart vf s
  | .evCandleCut vf => Sys2Proof.Machine.execEvCandleCut vf s
  | .evClassChange vf ctx => Sys2Proof.Machine.execEvClassChange vf ctx s
  | .evPowerCheck mw => Sys2Proof.Machine.execEvPowerCheck mw s
  | .evThermalLimit die deg => Sys2Proof.Machine.execEvThermalLimit die deg s
  | .evThermalShutdown die deg => Sys2Proof.Machine.execEvThermalShutdown die deg s
  | .evDeviceReset => Sys2Proof.Machine.execEvDeviceReset s
  | .evHostLinkDegrade => Sys2Proof.Machine.execEvHostLinkDegrade s
  | .evCxlMemRead hpa len => Sys2Proof.Machine.execEvCxlMemRead hpa len s
  | .evCxlMemWrite hpa bytes poison => Sys2Proof.Machine.execEvCxlMemWrite hpa bytes poison s
  | .evCommandDoorbell vf tail => Sys2Proof.Machine.execEvCommandDoorbell vf tail s
  | .evEventHeadWrite vf head => Sys2Proof.Machine.execEvEventHeadWrite vf head s
  | .evRegisterWrite vf off val => Sys2Proof.Machine.execEvRegisterWrite vf off val s
  | .evFwcallDispatch n => Sys2Proof.Machine.execEvFwcallDispatch n s
  | .evCreateContext n => Sys2Proof.Machine.execEvCreateContext n s
  | .evDestroyContext n => Sys2Proof.Machine.execEvDestroyContext n s
  | .evMap n => Sys2Proof.Machine.execEvMap n s
  | .evMapGrant n => Sys2Proof.Machine.execEvMapGrant n s
  | .evMapMove n => Sys2Proof.Machine.execEvMapMove n s
  | .evMigrationDrainComplete n => Sys2Proof.Machine.execEvMigrationDrainComplete n s
  | .evMigrationReissue n => Sys2Proof.Machine.execEvMigrationReissue n s
  | .evUnmap n => Sys2Proof.Machine.execEvUnmap n s
  | .evUnmapComplete n => Sys2Proof.Machine.execEvUnmapComplete n s
  | .evLoadImage n => Sys2Proof.Machine.execEvLoadImage n s
  | .evLaunch n => Sys2Proof.Machine.execEvLaunch n s
  | .evQueryQuiescent n => Sys2Proof.Machine.execEvQueryQuiescent n s
  | .evSaveImage n => Sys2Proof.Machine.execEvSaveImage n s
  | .evSaveImageNonreleasing n => Sys2Proof.Machine.execEvSaveImageNonreleasing n s
  | .evRestoreImage n => Sys2Proof.Machine.execEvRestoreImage n s
  | .evSnuffCommand n => Sys2Proof.Machine.execEvSnuffCommand n s
  | .evSetCandle n => Sys2Proof.Machine.execEvSetCandle n s
  | .evReadLanterns n => Sys2Proof.Machine.execEvReadLanterns n s
  | .evSetDieTable n => Sys2Proof.Machine.execEvSetDieTable n s
  | .evMarkBadNodes n => Sys2Proof.Machine.execEvMarkBadNodes n s
  | .evAttest n => Sys2Proof.Machine.execEvAttest n s
  | .evLoadCalibration n => Sys2Proof.Machine.execEvLoadCalibration n s
  | .evResetVf n => Sys2Proof.Machine.execEvResetVf n s
  | .evSetCounting n => Sys2Proof.Machine.execEvSetCounting n s
  | .evPodPacketReceive src cls seqno port pkt => Sys2Proof.Machine.execEvPodPacketReceive src cls seqno port pkt s
  | .evPodRetransmitTimeout n port => Sys2Proof.Machine.execEvPodRetransmitTimeout n port s
  | .evPodPortFailure port => Sys2Proof.Machine.execEvPodPortFailure port s
  | .evPodLost pkg => Sys2Proof.Machine.execEvPodLost pkg s

end Sys2Proof.Machine
end

