-- ==== Sys2Proof/Machine/Schedule.lean ====
section
/-!
DEFINITION. What moves next when nothing on the agenda says so (notes/assumptions 2): the steps the present state may
take, in the order they are tried.
-/

namespace Sys2Proof.Machine

/-- A device step, its place or identity given: the meaning of an `ev` instruction. -/
abbrev Move := State → Out

/-- The steps a message may take where it is. -/
def Msg.steps (m : Msg) : List Move :=
  match m.body with
  | .far _ _ => [execEvFarAccessAtHome m.id]
  | .posted _ => [execEvPostedEffectAtHome m.id]
  | .served _ => [execEvFarAccessAtHome m.id, execEvPostedEffectAtHome m.id]
  | .ack _ => [execEvPostedAckArrival m.id]
  | .reply _ _ _ => [execEvFarReplyArrival m.id, execEvReplyHeldResend m.id]
  | .frame _ _ => [execEvFrameMoveArrival m.id]
  | .token _ _ _ _ => [execEvBorderCrossing m.id, execEvToksTokenCapture m.id, execEvCircuitTokenArrival m.id]
  | .credit _ _ => [execEvCreditReturn m.id]
  | .register _ _ => [execEvFootprintRegistration m.id]
  | .arrive _ _ _ => [execEvBarrierArrival m.id]
  | .barwait _ _ _ => [execEvBarwaitRequest m.id]
  | .join _ _ => [execEvJoinRequest m.id]
  | .wait _ _ => [execEvWaitRequest m.id]
  | .command _ => [execEvStreamCommandArrival m.id]
  | .coll _ => []
  | .lineOf _ => []
  | .part _ _ _ _ _ _ _ => []
  | .decode _ => []
  | .line _ => []
  | .lineBack => []
  | .podAck _ _ => []
  | .tableItem _ _ _ _ _ => [execEvSpaceTableItem m.id]
  | .marker => [execEvChannelMarkerArrival m.id]

/-- Elements, lamplighter, vault and marker steps of a quad. -/
def Quad.steps (q : Quad) : List Move :=
  let die := q.id.die
  let idx := q.id.idx
  ((List.range 4).flatMap fun e => [execEvElementIssue die idx e, execEvBlockInstanceStart die idx e, execEvBlockFetch die idx e]) ++
  [execEvFrameWaitGrant die idx, execEvLamplighterRelight die idx, execEvRangeSplit die idx, execEvQuadMarkerArrival die idx,
   execEvQuadZeroing die idx, execEvQuadZeroComplete die idx] ++
  (q.waitFar.map fun w => execEvWaitingFarAccessPerform die idx w.msg.id) ++
  (q.banks.flatMap fun r => [execEvBankStarvationPromote die idx r.bank, execEvBankArbitration die idx r.bank])

/-- The steps of a pending engine command. -/
def Pending.steps (p : Pending) : List Move :=
  let n := p.cmd.id
  [execEvEngineSnuffStop n, execEvEngineLineAccess n, execEvStreamRoundBoundary n, execEvStreamCommandPerform n, execEvStreamPageFaultStop n,
   execEvStokElementSend n, execEvMeCommandPerform n, execEvVsuCommandPerform n, execEvWindowCommandPerform n, execEvDecodeFrame n,
   execEvCollGroupComplete n, execEvCommandCompletion n]

/-- The steps of a context. -/
def Context.steps (c : Context) : List Move :=
  let vf := c.id.vf
  let n := c.id.num
  [execEvMasterFreeze (vf * 1024 + n), execEvPreciseStop vf n, execEvFaultDelivery vf n, execEvSnuffMarkerBroadcast vf n,
   execEvQuadStateReadout vf n, execEvClassChange vf n] ++
  (c.ringSlots.map fun x => execEvHandlerDone vf n x.slot) ++
  ((List.range 64).map fun k => execEvLiveCountZero vf n k)

/-- The steps of a command K holds. -/
def KCmd.steps (k : KCmd) : List Move :=
  let n := k.id
  [execEvFwcallDispatch n, execEvCreateContext n, execEvDestroyContext n, execEvMap n, execEvMapGrant n, execEvMapMove n,
   execEvMigrationDrainComplete n, execEvMigrationReissue n, execEvUnmap n, execEvUnmapComplete n, execEvLoadImage n, execEvLaunch n,
   execEvQueryQuiescent n, execEvSaveImage n, execEvSaveImageNonreleasing n, execEvRestoreImage n, execEvSnuffCommand n, execEvSetCandle n,
   execEvReadLanterns n, execEvSetDieTable n, execEvMarkBadNodes n, execEvAttest n, execEvLoadCalibration n, execEvResetVf n, execEvSetCounting n]

/-- The steps K takes by the clock, in the order R341 and R400 give them: the period before the candle, the millisecond's
measurements before its costs. -/
def State.timed (s : State) : List Move :=
  [execEvLanternReport] ++ ((List.range 17).map execEvFactorUpdate) ++ [execEvPowerCheck (Config.sensor 6 0 s.msNo), execEvSharedCostSplit] ++
  ((List.range 64).flatMap fun v => [execEvCandlePeriodStart v, execEvCandleCut v])

/-- Overdue packets of the pod transport. -/
def PodFlow.steps (ports : List (Nat × Bool)) (f : PodFlow) : List Move :=
  if f.unacked.isEmpty then [] else ports.map fun p => execEvPodRetransmitTimeout (f.peer * 4 + f.cls) p.1

/-- The steps of the units that run side by side. -/
def State.running (s : State) : List Move :=
  (s.msgs.flatMap Msg.steps) ++ ((s.msgs.filterMap fun m => m.hops.head?.map execEvArbitrationGrant)) ++
  (s.flying.map fun t => execEvTokenArrival t.id) ++ (s.quads.flatMap Quad.steps) ++
  (s.insts.flatMap fun i => [execEvCommit i.id, execEvBlockStarved i.id]) ++ (s.commits.map fun r => execEvParkedCommitResume r.inst.id) ++
  (s.embers.flatMap fun e => [execEvRefusalCountLimit e.id, execEvEmberReady e.id, execEvReservationTimeout e.strand.sid]) ++
  ((s.frames.map (·.strand.sid) ++ s.insts.map (·.frame.strand.sid)).map execEvReservationTimeout) ++
  (s.cmds.flatMap Pending.steps) ++ ((List.range s.barriers.length).map execEvBarrierPhaseComplete) ++
  (s.contexts.flatMap Context.steps) ++ (s.kcmds.flatMap KCmd.steps) ++ (s.flows.flatMap (PodFlow.steps s.ports))

/-- The steps that may come next: those by the clock, then the units' from a place that moves on with the clock, so that
no unit is passed over for ever; walks, which change only timing, last. -/
def State.candidates (s : State) : List Move :=
  let n := s.clk % max 1 s.running.length
  s.timed ++ s.running.drop n ++ s.running.take n ++ s.insts.map fun i => execEvTlbWalk i.id

end Sys2Proof.Machine
end

