-- ==== Sys2Proof/Machine/Step.lean ====
section
/-!
DEFINITION. One step of the machine: the oldest lane of the issue being performed, else the next device step of the
agenda, else the first of the candidates that can occur, else a clock in which nothing happens.
-/

namespace Sys2Proof.Machine

/-- The first device step of a list that occurs; none: an idle clock. -/
def firstStep (s : State) : List Move → Host.Outcome State Fault Refusal
  | [] => .next s.tick
  | m :: r =>
    match m s with
    | .next s' => .next s'
    | .fault f => .fault f
    | .refused _ => firstStep s r

/-- A step that fetches nothing. -/
def stepDevice (s : State) : Host.Outcome State Fault Refusal :=
  match s.agenda with
  | [] => firstStep s s.candidates
  | i :: rest => exec i { s with agenda := rest }

/-- One step: the oldest lane of the issue being performed fetches and fires its instruction; with no lane, a device step. -/
def step (s : State) : Host.Outcome State Fault Refusal :=
  match s.lanes with
  | [] => stepDevice s
  | _ :: _ =>
    match s.fetched? with
    | some i => exec i s
    | none => .refused .notAnInstruction

/-- The instruction of an opcode table word placed where step fetches its next one. -/
def State.withFetchWord (s : State) (nbits w : Nat) : State :=
  s.placeSlots (tableSlots (w % 2 ^ nbits)).1 (tableSlots (w % 2 ^ nbits)).2

end Sys2Proof.Machine
end

