-- ==== Sys2Proof/Safety.lean ====
section
/-!
DEFINITION. What counts as a safe run (the memories keep their canonical form, and the step goes on), and the words the
statements are made of: a lane that fires, a result sent, an instance's effect, an exit taken, operands at a width.
-/

namespace Sys2Proof.Machine

/-- The memories of a state are canonical. -/
def State.memOk (s : State) : Bool := Memory.wf s.mem && Memory.wf s.hostMem

/-- The machine goes on from a state. -/
def State.goesOn (s : State) : Prop := ∃ s', step s = .next s'

/-! ### A lane that fires -/

/-- The oldest lane of the issue being performed is `l`, its instance is `i`, and the predicate port matches the pr field
(R32, R76, R77). -/
def Fires (s : State) (pr : BitVec 2) (l : Lane) (i : Inst) : Prop :=
  s.lanes.head? = some l ∧ s.inst? l.inst = some i ∧ predicate pr l.ops.third = some true

/-- The state with the oldest lane taken from the issue. -/
def State.issued (s : State) : State := { s with lanes := s.lanes.tail }

/-- A result token goes from the lane's slot to targets, and nothing else happens (R80). -/
def sends (s : State) (l : Lane) (ts : List (BitVec 9)) (t : Tok) : Out := .next (s.issued.deliver l.inst l.slot t ts)

/-- As `sends`, with exception flags ORed into the instance's (R112). -/
def sendsFlags (s : State) (l : Lane) (ts : List (BitVec 9)) (p : Word × Nat) : Out :=
  .next ((s.issued.orFlags l.inst p.2).deliver l.inst l.slot (.val p.1) ts)

/-- An effect is buffered at its LSID, which is resolved, and nothing else happens (R33). -/
def buffers (s : State) (l : Lane) (lsid : BitVec 5) (e : Effect) : Out :=
  .next (s.issued.buffer l.inst l.slot lsid.toNat e)

/-- The instance's one exit has fired, and nothing else happens (R35, R263). -/
def exits (s : State) (l : Lane) (id : Nat) (op : ExitOp) : Out :=
  .next (s.issued.modInst l.inst fun i => { i with exits := [⟨id, l.slot, op⟩] })

/-- The lane's data operands (R74): one, two, three values. -/
def One (l : Lane) (a : Word) : Prop := l.ops.left = some (.val a)
def Two (l : Lane) (a b : Word) : Prop := l.ops.left = some (.val a) ∧ l.ops.right = some (.val b)
def Three (l : Lane) (a b x : Word) : Prop :=
  l.ops.left = some (.val a) ∧ l.ops.right = some (.val b) ∧ l.ops.third = some (.val x)

/-! ### Operands at a width (R118) -/

/-- w: 64, 32, 16 or 8, by xop[1:0]. -/
def widthBits (xop : BitVec 3) : Nat :=
  match xop.extractLsb' 0 2 with
  | 0 => 64
  | 1 => 32
  | 2 => 16
  | _ => 8

/-- A result of one operand read at the width, its bits above the width zero. -/
def atWidth1 (g : (w : Nat) → BitVec w → BitVec w) (xop : BitVec 3) (a : Word) : Word :=
  (g (widthBits xop) (a.setWidth _)).setWidth 64

/-- A result of two operands read at the width. -/
def atWidth2 (g : (w : Nat) → BitVec w → BitVec w → BitVec w) (xop : BitVec 3) (a b : Word) : Word :=
  (g (widthBits xop) (a.setWidth _) (b.setWidth _)).setWidth 64

/-- The immediate of an I format, extended to a payload (R125). -/
def immWord (f : FmtI) : Word := f.imm9.signExtend 64

/-- sat(z, st) of R121: the nearest value of the signed type of the width. -/
def satSigned (w : Nat) (z : Int) : BitVec w := BitVec.ofInt w (max (-(2 : Int) ^ (w - 1)) (min ((2 : Int) ^ (w - 1) - 1) z))

/-- A truth value as a payload: 1 or 0 (R131). -/
def boolWord (b : Bool) : Word := if b then 1 else 0

/-! ### Encodings of the element float formats (R103, R141) -/

/-- w: 32 in FP32, 16 in FP16 and BF16. -/
def fltWidth (xop : BitVec 3) : Nat := if xop = 0 then 32 else 16

/-- The encoding of +∞, and of the canonical NaN. -/
def fltInf (xop : BitVec 3) : Nat := if xop = 0 then 0x7F800000 else if xop = 1 then 0x7C00 else 0x7F80
def fltNan (xop : BitVec 3) : Nat := if xop = 0 then 0x7FC00000 else if xop = 1 then 0x7E00 else 0x7FC0

/-- The encoding of a format's smallest normal value. -/
def fltNormal (xop : BitVec 3) : Nat := if xop = 0 then 0x800000 else if xop = 1 then 0x400 else 0x80

/-- The encoding in a payload, its sign and its magnitude. -/
def fltEnc (xop : BitVec 3) (a : Word) : Nat := a.toNat % 2 ^ fltWidth xop
def fltNeg (xop : BitVec 3) (a : Word) : Bool := a.getLsbD (fltWidth xop - 1)
def fltMag (xop : BitVec 3) (a : Word) : Nat := a.toNat % 2 ^ (fltWidth xop - 1)

def fltIsNan (xop : BitVec 3) (a : Word) : Bool := fltInf xop < fltMag xop a
def fltIsSnan (xop : BitVec 3) (a : Word) : Bool := fltInf xop < fltMag xop a && fltMag xop a < fltNan xop

/-- Encodings that are not NaN, in the order of their values with -0 below +0, and with -0 equal to +0. -/
def fltKey (xop : BitVec 3) (a : Word) : Int := if fltNeg xop a then -(fltMag xop a : Int) - 1 else fltMag xop a
def fltOrd (xop : BitVec 3) (a : Word) : Int := if fltNeg xop a then -(fltMag xop a : Int) else fltMag xop a

/-- The value of a payload's encoding (R103, R104), and a result rounded to nearest even with the flags of R106 and
R112. -/
def fltEx (xop : BitVec 3) (a : Word) : Ex := (floatValue (8 + xop.toNat) a.toNat).ex
def fltRound (xop : BitVec 3) (ops : List Word) (y : Ex) : Word × Nat :=
  let r := roundRne (8 + xop.toNat) y
  (BitVec.ofNat 64 r.1,
    r.2 ||| if ops.any (fltIsSnan xop) || (y.isNan && !ops.any (fltIsNan xop)) then 1 else 0)

/-- The number an exact finite result is. -/
def Ex.rat : Ex → Rat
  | .fin s n d => (if s then -(n : Rat) else n) / d
  | _ => 0

/-- An exact result that is a number: a zero, or a quotient of positive numbers. -/
def Ex.isNumber : Ex → Prop
  | .zero _ => True
  | .fin _ n d => 0 < n ∧ 0 < d
  | _ => False

/-- The sign an exact result carries; a NaN carries none. -/
def Ex.sign : Ex → Bool
  | .nan => false
  | .inf s => s
  | .zero s => s
  | .fin s _ _ => s

/-- The fraction bits of FP32, FP16 and BF16 (R103). -/
def fltFrac (xop : BitVec 3) : Nat := if xop = 0 then 23 else if xop = 1 then 10 else 7

/-- The draw of a lane's stochastic rounding (R110). -/
def laneDraw (l : Lane) (i : Inst) : Nat := stochasticDraw i.seed0 i.frame.strand.tag l.slot 0

/-! ### Addresses, conflicts and tags as the forms name them -/

/-- base + sext(immediate) of a near load, a store, a far exit and a posted far effect, modulo 2^64 (R70). -/
def loadAddr (f : FmtL) (n : Nat) (a : Word) : Nat := (a + f.imm7.signExtend 64 * BitVec.ofNat 64 n).toNat
def storeAddr (f : FmtS) (a : Word) : Nat := (a + f.imm16.signExtend 64).toNat
def exitAddr (f : FmtX) (a : Word) : Nat := (a + f.imm14.signExtend 64).toNat
def postedAddr (f : FmtE) (a : Word) : Nat := (a + (f.cmd.setWidth 24).signExtend 64).toNat

/-- base + sext(off18) × 64, modulo 2^64: a branch target, a continuation, a spawned block (R70). -/
def blockFrom (base : Nat) (off : BitVec 18) : Nat := (BitVec.ofNat 64 base + off.signExtend 64 * 64).toNat

/-- No earlier registered write interval, and no waiting far write or atomic, meets [a, a + n) (R191). -/
def Quad.clearOfWrites (q : Quad) (a n : Nat) : Prop :=
  (∀ c k rd wr, Entry.pending c k rd wr ∈ q.entries → overlaps a n wr.lo (wr.hi - wr.lo) = false) ∧
    ∀ w ∈ q.waitFar, w.a.write = true → overlaps w.off w.a.n a n = false

/-- No earlier registered interval, and no waiting far access, meets [a, a + n) (R191). -/
def Quad.clearOfAccesses (q : Quad) (a n : Nat) : Prop :=
  (∀ c k rd wr, Entry.pending c k rd wr ∈ q.entries →
      overlaps a n wr.lo (wr.hi - wr.lo) = false ∧ overlaps a n rd.lo (rd.hi - rd.lo) = false) ∧
    ∀ w ∈ q.waitFar, overlaps w.off w.a.n a n = false

/-- A tag carries the strand's context and logical die, and names an allocated space by its current generation, its
iteration below a bound of the space's capacity (R269, R270). -/
def TagNames (s : State) (st : Strand) (t : BitVec 40) (below : Nat → Prop) : Prop :=
  t.extractLsb' 26 14 = (BitVec.ofNat 40 st.tag).extractLsb' 26 14 ∧
    ∃ p, s.space? st.cx (t.extractLsb' 20 6).toNat = some p ∧ p.openTo st = true ∧
      p.gen = (t.extractLsb' 16 4).toNat ∧ below (2 ^ p.k)

/-- A barrier is configured in the region that runs an instance (R280). -/
def BarrierNamed (s : State) (i : Inst) (n : Nat) : Prop :=
  ∃ c d b, s.ctx? i.frame.strand.cx = some c ∧ c.decl? (tagLdie i.frame.strand.tag) = some d ∧ b ∈ d.barriers ∧ b.num = n

/-! ### Commits (R37) -/

/-- No packet that has left its die, but a unit's request for a line, is still on its way: a unit's own requests pass none
(R17). -/
def State.pathsClear (s : State) : Prop :=
  ∀ x ∈ s.msgs, x.underway = true → x.left = none ∨ ∃ w, x.body = .line w

/-- An instance may begin its commit on a quad that runs, and what its unit asks of the networks passes no earlier packet. -/
def MayCommit (s : State) (i : Inst) (c : Context) (q : Quad) : Prop :=
  s.inst? i.id = some i ∧ s.ctx? i.frame.strand.cx = some c ∧ s.quad? i.frame.quad = some q ∧ s.mayCommit i = true ∧
    s.unitFree q.id = true ∧ s.quadRuns q = true ∧ s.pathsClear

/-- A commit that has nothing to do beside its effects, its register writes and its one exit: no privileged request, no
circuit token taken, no tag reserved or waited for in a queue, the oldest iteration of its space if ordered, untraced. -/
def Plain (s : State) (i : Inst) (c : Context) (ex : Exit) : Prop :=
  i.exits = [ex] ∧ i.fwcalls = [] ∧ i.snuffs = [] ∧ i.taken = [] ∧ i.frame.strand.tagResv = [] ∧
    i.frame.strand.pend = none ∧ s.nonOldest i.frame.strand = false ∧ c.params.traceMask = 0 ∧
    ∀ x ∈ c.poolQueue ++ c.iterQueue, x.2 ≠ i.frame.strand.sid

/-- An iteration of an ordered space stands in the speculative buffer's record of it (R57). -/
def SpecIter.isOf (p : SpecIter) (cx : CtxId) (space iter : Nat) : Bool := p.cx == cx && p.space == space && p.iter == iter

/-- The exit is a branch, of kind 1 when it calls, to a block placed on a quad and element. -/
def BranchesTo (i : Inst) (c : Context) (ex : Exit) (tgt kind : Nat) (p : QuadId) (el : Nat) : Prop :=
  ex.op = .branch tgt kind ∧ tgt < 2 ^ 57 ∧ c.places (tagLdie i.frame.strand.tag) tgt ≠ [] ∧
    c.placeOf? (tagLdie i.frame.strand.tag) tgt i.frame.strand.tag = some (p, el)

/-- Carry register `r` after step 4: the value written, or what the frame held (R34, R37). -/
def Inst.carry (i : Inst) (r : Nat) : Word :=
  match i.wbuf.find? (·.1 = r) with
  | some (_, _, some v) => v
  | _ => (i.frame.regs[r]?).getD 0

/-- The first 64-byte boundary after a block's last slot (R264). -/
def Inst.after (i : Inst) : Nat := i.addr + 64 * ((16 * (i.header.size + 2) + 63) / 64)

/-- What a read-modify-write leaves at the width of its access (R210, R213): from the old value, b and x. -/
def atomicNew (op : Rmw) (w : Nat) (old b x : BitVec w) : BitVec w :=
  match op with
  | .add => old + b
  | .minS => if b.slt old then b else old
  | .minU => if b.ult old then b else old
  | .maxS => if old.slt b then b else old
  | .maxU => if old.ult b then b else old
  | .and => old &&& b
  | .or => old ||| b
  | .xor => old ^^^ b
  | .xchg => b
  | .cas => if old = b then x else old
  | .fadd f => BitVec.ofNat w (roundRne (8 + f) ((floatValue (8 + f) old.toNat).ex.add (floatValue (8 + f) b.toNat).ex)).1

/-! ### Command blocks (R228) -/

/-- The block of `n` bytes at a near offset may be read, and is `bs`; a command without a block has none. -/
def BlockRead (s : State) (i : Inst) (a : Word) (n : Nat) (bs : List Byte) : Prop :=
  (n = 0 ∧ bs = []) ∨
  (n ≠ 0 ∧ bs.length = n ∧ (∀ k < n, bs[k]? = some (memGet (vaultBase i.frame.quad + a.toNat + k) s.mem)) ∧
    ∃ q, s.quad? i.frame.quad = some q ∧ a.toNat + n ≤ s.tileTop q ∧ a.toNat % 64 = 0 ∧
      q.clearOfWrites a.toNat n ∧ (s.scrubBlock i a n).poisoned (vaultBase i.frame.quad + a.toNat) n = false)

/-- BEN = 0, or BAR is a barrier of the region whose member list, if it has one, holds the kind of engine (R228, R410). -/
def BarrierAdmits (s : State) (i : Inst) (kind : Nat) (cmd : BitVec 27) : Prop :=
  cmd.getLsbD 26 = true → ∃ b, s.barrierDecl? i (cmd.extractLsb' 20 6).toNat = some b ∧
    ∀ ms, b.members = some ms → kind ∈ ms

/-- The handle token: QUAD, TAG, LSID, ITERLO (R229). -/
def handleWord (qindex tag : Nat) (lsid : BitVec 5) : Word :=
  0#1 ++ BitVec.ofNat 7 qindex ++ BitVec.ofNat 40 tag ++ lsid ++ BitVec.ofNat 11 tag

/-- The engine commands with a handle: code, bytes of block, R410's kind, and the check of their section. -/
structure CommandRow where
  ins : FmtE → Instr
  op : Nat
  size : Nat
  kind : Nat
  check : FmtE → BlockCheck

/-- The commands of one operand (R237, R242-R245, R246, R247, R249-R251, R257, R259, R260). -/
def commandRows : List CommandRow :=
  [⟨.scopy, 0x160, 192, 1, fun _ => checkStream 0x160⟩, ⟨.sgather, 0x161, 192, 1, fun _ => checkStream 0x161⟩,
   ⟨.sscatter, 0x162, 192, 1, fun _ => checkStream 0x162⟩, ⟨.sfill, 0x163, 192, 1, fun _ => checkStream 0x163⟩,
   ⟨.mxcfg, 0x165, 0, 2, fun _ _ _ _ a _ =>
     if a.toNat / 2 ^ 14 ≠ 0 ∨ a.bits 13 10 = 0 ∨ meMode (a.bits 3 0) (a.bits 7 4) = none then .error .shapeInvalid
     else .ok ⟨[], []⟩⟩,
   ⟨.mxrun, 0x166, 264, 2, fun _ => checkMxrun⟩, ⟨.mxldacc, 0x167, 72, 2, fun _ => checkTile false⟩,
   ⟨.mxstacc, 0x168, 72, 2, fun _ => checkTile true⟩, ⟨.vmap, 0x16A, 264, 3, fun _ => checkVmap⟩,
   ⟨.vred, 0x16B, 136, 3, fun _ => checkVred⟩,
   ⟨.wincfg, 0x16C, 64, 4, fun _ _ _ _ _ bs => if windowOk bs then .ok ⟨[], bs⟩ else .error .shapeInvalid⟩,
   ⟨.winrun, 0x16D, 80, 4, fun _ => checkWinrun⟩, ⟨.decode, 0x16E, 256, 5, fun _ => checkDecode⟩,
   ⟨.coll, 0x16F, 64, 6, fun _ => checkColl⟩, ⟨.stok, 0x172, 72, 7, fun f => checkStok (f.cmd.setWidth 10).toNat⟩,
   ⟨.toks, 0x173, 72, 7, fun f => checkToks (f.cmd.setWidth 10).toNat⟩]

/-- The command a form issues: its own fields, the instance's tag and quad, its operands and its block. -/
def IssuesCommand (s : State) (l : Lane) (i : Inst) (q : Quad) (c : Context) (f : FmtE) (out : Out) (op : Nat) (a v : Word)
    (bs : List Byte) (foots : List Footprint) : Prop :=
  ∃ cmd : Command, out = .next (({ s.issued.scrubBlock i a bs.length with nextId := s.nextId + 1 }.buffer l.inst l.slot f.lsid.toNat
      (.command cmd)).deliver l.inst l.slot (.val (handleWord (c.indexOf q) i.frame.strand.tag f.lsid)) [f.t0, f.t1]) ∧
    cmd.op = op ∧ cmd.arg = a ∧ cmd.val = v ∧ cmd.bytes = bs ∧ cmd.tag = i.frame.strand.tag ∧ cmd.lsid = f.lsid.toNat ∧
    cmd.quad = q.id ∧ cmd.cx = c.id ∧ cmd.block = i.addr ∧ cmd.seed = i.seed0 ∧ cmd.eng = (f.cmd.extractLsb' 16 4).toNat ∧
    cmd.bar = (if f.cmd.getLsbD 26 then some (f.cmd.extractLsb' 20 6).toNat else none) ∧
    cmd.low = (f.cmd.setWidth 16).toNat ∧ (∃ p ∈ cmd.foots, p.quad = q.id) ∧ ∀ p ∈ foots, p ∈ cmd.foots

/-! ### Device steps -/

/-- A step completes: it answers a next state, of which `P` holds. -/
def Completes (o : Out) (P : State → Prop) : Prop := ∃ t, o = .next t ∧ P t

/-- A quad holds a context that runs there: not stopped, frozen, or reached by a marker (R323, R353, R378). -/
def QuadAt (s : State) (die idx : Nat) (q : Quad) : Prop := s.quad? ⟨die, idx⟩ = some q ∧ s.quadRuns q = true

/-- A message has arrived where it goes, the oldest of its channel (R17). -/
def Arrives (s : State) (n : Nat) (m : Msg) (body : MsgBody) : Prop :=
  s.msg? n = some m ∧ m.body = body ∧ s.arrived m = true

/-- One message more; one that stood before a full queue may have entered it. -/
def Sent (old new : List Msg) (src dst : Node) (body : MsgBody) : Prop :=
  ∃ r : Msg, r.src = src ∧ r.dst = dst ∧ r.body = body ∧
    new.map (fun m => { m with entered := none }) = (old ++ [r]).map fun m => { m with entered := none }

/-- A record of a context has failed its CHECK at a lamplighter (R52, R374, R375): the ember is no more and no frame has come
of it, the context is damaged and, when it ran, freezes; its die's register counts the failure and holds a report. -/
def RecordLost (s t : State) (die : Nat) (c : Context) (e : Ember) : Prop :=
  t.embers = s.embers.filter (fun y => y.id ≠ e.id) ∧ t.frames = s.frames ∧ die ∈ t.badHeld ∧
    (∃ c' : Context, t.ctx? c.id = some c' ∧ c'.damaged = true ∧ (c.run = .running → c'.run = .freezing)) ∧
    ∀ r : Nat, s.badNode[die]? = some r → ∃ r' : Nat, t.badNode[die]? = some r' ∧
      r' / 2 ^ 32 = min (2 ^ 32 - 1) (r / 2 ^ 32 + 1) ∧ (die ∈ s.badHeld → r' % 2 ^ 16 = r % 2 ^ 16)

/-- A relit strand's frame goes to its place (R43, R44): it stands in the quad of the lamplighter's own, or is on its way over
the mesh to another with its place there held. -/
def FrameSent (old t : State) (from' to' : QuadId) (f : Frame) : Prop :=
  (from' = to' → t.frames = old.frames ++ [f]) ∧
    (from' ≠ to' → t.frames = old.frames ∧ ∃ m ∈ t.msgs, m.src = .quad from' ∧ m.dst = .quad to' ∧ m.body = .frame f true)

/-- K performs a command next: it has been read or dispatched, no earlier command of its context is open, it has not
been performed already (R389), and what K asks of the networks passes no earlier packet (R17). -/
def Performs (s : State) (n code : Nat) (k : KCmd) : Prop :=
  s.kcmds.find? (fun x => x.id = n) = some k ∧ k.code = code ∧ k.dispatched = true ∧ s.firstOf k = true ∧
    (∀ c r, k.phase ≠ .settling c r) ∧ s.pathsClear

/-- Nothing is read after the command: it came by FWCALL, or its window is frozen or empty (R387). -/
def LastRead (s : State) (k : KCmd) : Prop :=
  k.from'.isSome ∨ ∃ w : Window, s.windows[k.vf]? = some w ∧ (w.frozen = true ∨ w.sqHead = w.sqTail)

/-- The command waits in a later phase. -/
def Waits (t : State) (k : KCmd) (p : KPhase) : Prop := t.kcmds.find? (fun x => x.id = k.id) = some { k with phase := p }

/-- The command has ended: K holds it no longer, and a window's has its status and result where its record names
(R390). -/
def Ended (t : State) (k : KCmd) (code result : Nat) : Prop :=
  (∀ x ∈ t.kcmds, x.id ≠ k.id) ∧
    (k.from' = none → t.hostRead (k.w 1) 16 = leBytes 8 code ++ leBytes 8 result)

/-- The command is performed, with its status and result: it has ended, or K's writes for its context to another package are
on their way and its status waits for them (R389). -/
def Answered (t : State) (k : KCmd) (code result : Nat) : Prop :=
  Ended t k code result ∨ (t.kWriting k = true ∧ Waits t k (.settling code [result]))

/-- An engine access to lines may go on (R187, R190, R293): no home has an earlier conflict, and the command's line requests,
where any is needed, have been granted at every point of their way. -/
def State.linesGranted (s : State) (p : Pending) (lines : List Nat) : Prop :=
  (∀ pa ∈ lines, s.clearAt p.cmd.id (s.homeOf pa) = true) ∧
    (∀ m ∈ s.msgs, m.body = .lineOf p.cmd.id → m.hops = [] ∧ s.packetAhead m = false) ∧
    ((∃ m ∈ s.msgs, m.body = .lineOf p.cmd.id) ∨
      ∀ pa ∈ lines, s.lineHops (s.engineNode p) (pa / 64 * 64) = [])

/-- The state with a command's granted line requests at their homes, and the lines a read asked of other dies on their way
back. -/
def State.landed (s : State) (p : Pending) (read : Bool) : State :=
  (s.msgs.filter fun m => m.body = .lineOf p.cmd.id).foldl (fun s m =>
    if read && m.dst.die != m.src.die then (s.land m.id).send m.cx m.dst m.src 1 .lineBack else s.land m.id) s

/-- The address in package memory of an element that lies in a quad's own vault, its elements whole bytes. -/
def Shape.homeAddr (c : Context) (q : QuadId) (sh : Shape) (n : Nat) : Nat :=
  vaultBase q + ((sh.place (positionOf sh.dims n)).1 - c.aperture) % 2 ^ 23

/-- An element of a shape takes whole bytes within one line. -/
def Shape.inLine (sh : Shape) (n : Nat) : Prop :=
  sh.ty ≠ 0xD ∧ 8 ≤ typeBits sh.ty ∧ (sh.place (positionOf sh.dims n)).1 % 64 + typeBits sh.ty / 8 ≤ 64

/-- Such an element lies at or behind the start of the context's aperture, which is a line's. -/
def Shape.atHome (c : Context) (sh : Shape) (n : Nat) : Prop :=
  sh.inLine n ∧ c.aperture % 64 = 0 ∧ c.aperture ≤ (sh.place (positionOf sh.dims n)).1

/-- The handler ember record of a slot lies apart from the slot, in a page of the tables no line of which is bad: in no reading
of the tables does storing it touch the slot's 512 bytes at `o` (R366 gives them different offsets of one ring, which starts at
a page; that two pages share no frame is the mapping's). -/
def SlotApart (s : State) (c : Context) (k o : Nat) : Prop :=
  let va := c.ring + 0x8000 + 512 * k
  c.ring % 65536 = 0 ∧ c.aperture? va = none ∧ s.badLines = [] ∧ o + 512 ≤ 2 ^ 46 ∧
    (∀ ea ∈ walkReads s va walkLevels c.root, ea + 8 ≤ o ∨ o + 512 ≤ ea) ∧
    ∀ (t : State) (pa : Nat), walkVa s c va .read = (t, .ok pa) → pa % 2 ^ 46 + 512 ≤ o ∨ o + 512 ≤ pa % 2 ^ 46

/-! ### Memory as a reader sees it -/

/-- The byte of package memory at an address. -/
def State.byteAt (s : State) (a : Nat) : Byte := memGet a s.mem

/-- What a near load does beside its value: an iteration that is not the oldest enters the lines in its read set (R57); any
other reads the vault, whose single-bit errors are corrected (R372). -/
def State.nearRead (s : State) (st : Strand) (q : QuadId) (ea n : Nat) : State :=
  if s.nonOldest st then s.readLines st ea n else s.scrub (vaultBase q + ea) n

/-- Everything but the lanes, the instances, the tokens in flight and the identity counter is as it was. -/
def State.sameOutside (s t : State) : Prop :=
  t = { s with lanes := t.lanes, insts := t.insts, flying := t.flying, nextId := t.nextId }

/-- Every instance but one is as it was. -/
def State.sameInsts (s t : State) (n : Nat) : Prop :=
  t.insts.filter (fun i => i.id ≠ n) = s.insts.filter (fun i => i.id ≠ n)

end Sys2Proof.Machine
end

