-- ==== Sys2Proof/Certificates/Slice0/Obligations.lean ====
section
/-!
DEFINITION. The statements for the provers. Where an identity number, a clock step or a free value appears, it is the
model's own (notes/assumptions 2 and 14); everything else comes from the rules each docstring cites.
-/

open Sys2Proof Sys2Proof.Machine

/-! ### Integer instructions (chapter 06) -/

/-- R118, R121: ADD and SUB (saturating with xop[2] = 1), MUL, MULHS, MULHU, ABSD, and the four selections. -/
def Obligations.IntArithmeticResults : Prop :=
  ∀ (f : FmtG) (s : State) (l : Lane) (i : Inst) (a b : Word), Fires s f.pr l i → Two l a b →
    let sat := f.xop.getLsbD 2
    let gives := fun (g : (w : Nat) → BitVec w → BitVec w → BitVec w) => sends s l [f.t0, f.t1] (.val (atWidth2 g f.xop a b))
    exec (.add f) s = gives (fun w x y => if sat then satSigned w (x.toInt + y.toInt) else x + y) ∧
    exec (.sub f) s = gives (fun w x y => if sat then satSigned w (x.toInt - y.toInt) else x - y) ∧
    exec (.mul f) s = gives (fun _ x y => x * y) ∧
    exec (.mulhs f) s = gives (fun w x y => (x.signExtend (2 * w) * y.signExtend (2 * w)).extractLsb' w w) ∧
    exec (.mulhu f) s = gives (fun w x y => (x.setWidth (2 * w) * y.setWidth (2 * w)).extractLsb' w w) ∧
    exec (.absd f) s = gives (fun _ x y => if x ≤ y then y - x else x - y) ∧
    exec (.mins f) s = gives (fun _ x y => if x.sle y then x else y) ∧
    exec (.minu f) s = gives (fun _ x y => if x ≤ y then x else y) ∧
    exec (.maxs f) s = gives (fun _ x y => if y.sle x then x else y) ∧
    exec (.maxu f) s = gives (fun _ x y => if y ≤ x then x else y)

/-- R122: the division rule; no operand faults. -/
def Obligations.DivisionResults : Prop :=
  ∀ (f : FmtG) (s : State) (l : Lane) (i : Inst) (a b : Word), Fires s f.pr l i → Two l a b →
    let gives := fun (g : (w : Nat) → BitVec w → BitVec w → BitVec w) => sends s l [f.t0, f.t1] (.val (atWidth2 g f.xop a b))
    exec (.divu f) s = gives (fun w x y => if y = 0 then BitVec.allOnes w else x / y) ∧
    exec (.remu f) s = gives (fun _ x y => if y = 0 then x else x - x / y * y) ∧
    exec (.divs f) s = gives (fun w x y => if y = 0 then BitVec.allOnes w
      else if x = BitVec.intMin w ∧ y = BitVec.allOnes w then x else BitVec.ofInt w (x.toInt.tdiv y.toInt)) ∧
    exec (.rems f) s = gives (fun w x y => if y = 0 then x
      else if x = BitVec.intMin w ∧ y = BitVec.allOnes w then 0 else BitVec.ofInt w (x.toInt - x.toInt.tdiv y.toInt * y.toInt))

/-- R121: the bitwise operations at the width; R123: the shift rule, its amount the whole right operand. -/
def Obligations.LogicAndShiftResults : Prop :=
  ∀ (f : FmtG) (s : State) (l : Lane) (i : Inst) (a b : Word), Fires s f.pr l i → Two l a b →
    let n := b.toNat
    let gives := fun (g : (w : Nat) → BitVec w → BitVec w → BitVec w) => sends s l [f.t0, f.t1] (.val (atWidth2 g f.xop a b))
    exec (.andOp f) s = gives (fun _ x y => x &&& y) ∧
    exec (.orOp f) s = gives (fun _ x y => x ||| y) ∧
    exec (.xorOp f) s = gives (fun _ x y => x ^^^ y) ∧
    exec (.andn f) s = gives (fun _ x y => x &&& ~~~y) ∧
    exec (.orn f) s = gives (fun _ x y => x ||| ~~~y) ∧
    exec (.shl f) s = gives (fun w x _ => if w ≤ n then 0 else x <<< n) ∧
    exec (.shr f) s = gives (fun w x _ => if w ≤ n then 0 else x >>> n) ∧
    exec (.sar f) s = gives (fun w x _ => x.sshiftRight (if w ≤ n then w - 1 else n)) ∧
    exec (.rol f) s = gives (fun w x _ => x.rotateLeft (n % w)) ∧
    exec (.ror f) s = gives (fun w x _ => x.rotateRight (n % w))

/-- R124: NEG to MOV. CLZ and CTZ give the count c that the operand's bits pin down: c zeros, then a one unless c = w. -/
def Obligations.IntUnaryResults : Prop :=
  ∀ (f : FmtG) (s : State) (l : Lane) (i : Inst) (a : Word), Fires s f.pr l i → One l a →
    let w := widthBits f.xop
    let gives := fun (g : (w : Nat) → BitVec w → BitVec w) => sends s l [f.t0, f.t1] (.val (atWidth1 g f.xop a))
    exec (.neg f) s = gives (fun _ x => -x) ∧
    exec (.abs f) s = gives (fun _ x => if x.msb then -x else x) ∧
    exec (.notOp f) s = gives (fun _ x => ~~~x) ∧
    (∃ c ≤ w, exec (.clz f) s = sends s l [f.t0, f.t1] (.val (BitVec.ofNat 64 c)) ∧
      (∀ k < c, a.getLsbD (w - 1 - k) = false) ∧ (c < w → a.getLsbD (w - 1 - c) = true)) ∧
    (∃ c ≤ w, exec (.ctz f) s = sends s l [f.t0, f.t1] (.val (BitVec.ofNat 64 c)) ∧
      (∀ k < c, a.getLsbD k = false) ∧ (c < w → a.getLsbD c = true)) ∧
    exec (.popc f) s = sends s l [f.t0, f.t1] (.val (BitVec.ofNat 64 ((List.range w).countP a.getLsbD))) ∧
    (∃ v : Word, exec (.brev f) s = sends s l [f.t0, f.t1] (.val v) ∧
      ∀ k < 64, v.getLsbD k = (decide (k < w) && a.getLsbD (w - 1 - k))) ∧
    (∃ v : Word, exec (.bswap f) s = sends s l [f.t0, f.t1] (.val v) ∧
      ∀ j < 8, v.extractLsb' (8 * j) 8 = if j < w / 8 then a.extractLsb' (8 * (w / 8 - 1 - j)) 8 else 0) ∧
    exec (.sext f) s = sends s l [f.t0, f.t1] (.val ((a.setWidth w).signExtend 64)) ∧
    exec (.zext f) s = gives (fun _ x => x) ∧
    exec (.mov f) s = gives (fun _ x => x)

/-- R128: BFX and BFXS. Bit k of the field at `off` of width `wid` is a source bit, or beyond the width a zero (BFX) or a
copy of the source's sign (BFXS); the field, signed for BFXS, is placed at n. R129: BFI, bit by bit: the field's bits inside
the width come from the insert value, the others from the destination. -/
def Obligations.BitFieldResults : Prop :=
  ∀ (f : FmtG) (s : State) (l : Lane) (i : Inst) (a b x : Word), Fires s 0 l i → Three l a b x →
    let w := widthBits f.xop
    let off := (x.extractLsb' 0 8).toNat
    let wid := (x.extractLsb' 8 8).toNat
    let n := b.toNat
    (∃ v : Word, exec (.bfx f) s = sends s l [f.t0, f.t1] (.val v) ∧
      ∀ k < 64, v.getLsbD k =
        (decide (k < w ∧ n < w ∧ n ≤ k ∧ k - n < wid ∧ off + (k - n) < w) && a.getLsbD (off + (k - n)))) ∧
    (∃ v : Word, exec (.bfxs f) s = sends s l [f.t0, f.t1] (.val v) ∧
      ∀ k < 64, v.getLsbD k =
        (decide (k < w ∧ n < w ∧ n ≤ k ∧ 0 < wid) && a.getLsbD (min (off + min (k - n) (wid - 1)) (w - 1)))) ∧
    (∃ v : Word, exec (.bfi f) s = sends s l [f.t0, f.t1] (.val v) ∧
      ∀ k < 64, v.getLsbD k =
        (decide (k < w) && if off ≤ k ∧ k < off + wid then b.getLsbD (k - off) else a.getLsbD k))

/-- R130: SEL, MADD and FSH. -/
def Obligations.SelMaddFshResults : Prop :=
  ∀ (f : FmtG) (s : State) (l : Lane) (i : Inst) (a b x : Word), Fires s 0 l i → Three l a b x →
    let gives := fun (g : (w : Nat) → BitVec w → BitVec w → BitVec w) => sends s l [f.t0, f.t1] (.val (atWidth2 g f.xop a b))
    exec (.sel f) s = gives (fun _ y z => if x.getLsbD 0 then y else z) ∧
    exec (.madd f) s = gives (fun w y z => y * z + x.setWidth w) ∧
    exec (.fsh f) s = gives (fun w y z => ((y ++ z) >>> (x.toNat % w)).setWidth w)

/-- R125, R126: the immediate forms compute as their two-source counterparts, the right operand being sext(imm9, 9);
a shift reads it as an unsigned 64-bit amount. MOVI needs no operand. -/
def Obligations.ImmediateResults : Prop :=
  ∀ (f : FmtI) (s : State) (l : Lane) (i : Inst) (a : Word), Fires s f.pr l i →
    f.xop.toNat < 4 →
    let b := immWord f
    let n := b.toNat
    let gives := fun (g : (w : Nat) → BitVec w → BitVec w → BitVec w) => sends s l [f.t0] (.val (atWidth2 g f.xop a b))
    (One l a →
      exec (.addi f) s = gives (fun _ x y => x + y) ∧
      exec (.muli f) s = gives (fun _ x y => x * y) ∧
      exec (.andi f) s = gives (fun _ x y => x &&& y) ∧
      exec (.ori f) s = gives (fun _ x y => x ||| y) ∧
      exec (.xori f) s = gives (fun _ x y => x ^^^ y) ∧
      exec (.shli f) s = gives (fun w x _ => if w ≤ n then 0 else x <<< n) ∧
      exec (.shri f) s = gives (fun w x _ => if w ≤ n then 0 else x >>> n) ∧
      exec (.sari f) s = gives (fun w x _ => x.sshiftRight (if w ≤ n then w - 1 else n)) ∧
      exec (.roli f) s = gives (fun w x _ => x.rotateLeft (n % w)) ∧
      exec (.minsi f) s = gives (fun _ x y => if x.sle y then x else y) ∧
      exec (.maxsi f) s = gives (fun _ x y => if y.sle x then x else y)) ∧
    exec (.movi f) s = sends s l [f.t0] (.val (atWidth1 (fun _ x => x) f.xop b))

/-- R131: the comparisons, register and immediate, as the 64-bit value 1 or 0. -/
def Obligations.CompareResults : Prop :=
  ∀ (s : State) (l : Lane) (i : Inst),
    (∀ (f : FmtG) (a b : Word), Fires s f.pr l i → Two l a b →
      let x := a.setWidth (widthBits f.xop)
      let y := b.setWidth (widthBits f.xop)
      let gives := fun (r : Bool) => sends s l [f.t0, f.t1] (.val (boolWord r))
      exec (.teq f) s = gives (x == y) ∧ exec (.tne f) s = gives (x != y) ∧
      exec (.tlts f) s = gives (x.slt y) ∧ exec (.tles f) s = gives (x.sle y) ∧
      exec (.tltu f) s = gives (x.ult y) ∧ exec (.tleu f) s = gives (x.ule y) ∧
      exec (.tgts f) s = gives (y.slt x) ∧ exec (.tges f) s = gives (y.sle x) ∧
      exec (.tgtu f) s = gives (y.ult x) ∧ exec (.tgeu f) s = gives (y.ule x)) ∧
    (∀ (f : FmtI) (a : Word), Fires s f.pr l i → One l a →
      let x := a.setWidth (widthBits f.xop)
      let y := (immWord f).setWidth (widthBits f.xop)
      let gives := fun (r : Bool) => sends s l [f.t0] (.val (boolWord r))
      exec (.teqi f) s = gives (x == y) ∧ exec (.tnei f) s = gives (x != y) ∧
      exec (.tltsi f) s = gives (x.slt y) ∧ exec (.tlesi f) s = gives (x.sle y) ∧
      exec (.tltui f) s = gives (x.ult y) ∧ exec (.tleui f) s = gives (x.ule y) ∧
      exec (.tgtsi f) s = gives (y.slt x) ∧ exec (.tgesi f) s = gives (y.sle x))

/-! ### Floating-point instructions (chapters 05 and 07) -/

/-- R105-R107: sums, products, quotients and negations of numbers are the exact ones; an exact zero sum is +0 unless both
terms are -0; a zero product or quotient is -0 for unlike signs and +0 otherwise; a negation inverts the sign, a zero's too.
With a zero divisor a number that is not zero gives the infinity of the xor of the signs and is the case that raises DZ, a
zero gives NaN. Infinities as in IEEE 754-2019; a NaN operand gives NaN. -/
def Obligations.ExactOperations : Prop :=
  (∀ x y : Ex, x.isNumber → y.isNumber →
    ((x.add y).isNumber ∧ (x.add y).rat = x.rat + y.rat ∧
      (x.rat + y.rat = 0 → x.add y = .zero (x = .zero true ∧ y = .zero true))) ∧
    ((x.mul y).isNumber ∧ (x.mul y).rat = x.rat * y.rat ∧ (x.mul y).sign = (x.sign ^^ y.sign) ∧
      (x.rat * y.rat = 0 → x.mul y = .zero (x.sign ^^ y.sign))) ∧
    (y.rat ≠ 0 → (x.div y).2 = false ∧ (x.div y).1.isNumber ∧ (x.div y).1.rat = x.rat / y.rat ∧
      (x.rat = 0 → (x.div y).1 = .zero (x.sign ^^ y.sign))) ∧
    (y.rat = 0 → (x.rat ≠ 0 → x.div y = (.inf (x.sign ^^ y.sign), true)) ∧ (x.rat = 0 → x.div y = (.nan, false))) ∧
    x.neg.isNumber ∧ x.neg.rat = -x.rat ∧ x.neg.sign = !x.sign) ∧
  (∀ (g : Bool) (y : Ex), y.isNumber → (Ex.inf g).add y = .inf g ∧ y.add (.inf g) = .inf g ∧
    (y.rat = 0 → (Ex.inf g).mul y = .nan ∧ y.mul (.inf g) = .nan) ∧
    (y.rat ≠ 0 → (Ex.inf g).mul y = .inf (g ^^ y.sign) ∧ y.mul (.inf g) = .inf (y.sign ^^ g)) ∧
    (Ex.inf g).div y = (.inf (g ^^ y.sign), false) ∧ y.div (.inf g) = (.zero (y.sign ^^ g), false)) ∧
  (∀ g h : Bool, (Ex.inf g).add (.inf h) = (if g = h then .inf g else .nan) ∧ (Ex.inf g).mul (.inf h) = .inf (g ^^ h) ∧
    (Ex.inf g).div (.inf h) = (.nan, false) ∧ (Ex.inf g).neg = .inf !g) ∧
  (∀ x : Ex, Ex.nan.add x = .nan ∧ x.add .nan = .nan ∧ Ex.nan.mul x = .nan ∧ x.mul .nan = .nan ∧
    Ex.nan.div x = (.nan, false) ∧ x.div .nan = (.nan, false)) ∧ Ex.nan.neg = .nan

/-- R108: which of the two neighbours k·2^q and (k+1)·2^q of a magnitude n/d each rounding mode chooses, written with
rational numbers; an exact multiple stays. R109, R112-R114: round_mode to an integer type clamps to the type's range with NV,
NX being an inexact result inside it; to a float type of code 0x8 to 0xD it rounds to the type's grid, whose step below
2^(e+1) is 2^(max(e, emin) - M), and gives the encoding of that value with NX when inexact and UF beside it when tiny; a
value beyond the largest finite one gives R109's entry with OF and NX; NaN, infinities and zeros give R113's. round_rne is
round_mode with ties to even and no saturation. -/
def Obligations.RoundingModes : Prop :=
  (∀ (mode u : Nat) (neg : Bool) (n d : Nat) (q : Int), 0 < d →
    let x : Rat := (n : Rat) / d / (2 : Rat) ^ q
    let r := roundAt mode u neg n d q
    let k := x.floor.toNat
    let e := x - k
    (e = 0 → r = (k, false)) ∧
    (e ≠ 0 → r.2 = true ∧ (r.1 = k ∨ r.1 = k + 1) ∧
      (mode = 0 → (e < 1 / 2 → r.1 = k) ∧ (1 / 2 < e → r.1 = k + 1) ∧ (e = 1 / 2 → r.1 % 2 = 0)) ∧
      (mode = 1 → r.1 = k) ∧
      (mode = 2 → r.1 = if neg then k else k + 1) ∧
      (mode = 3 → r.1 = if neg then k + 1 else k) ∧
      (mode = 4 → (r.1 = k + 1 ↔ 1 / 2 ≤ e)) ∧
      (mode = 5 → (r.1 = k + 1 ↔ (u : Int) < (e * 2 ^ 24).floor)))) ∧
  (∀ (w : Nat) (signed : Bool) (mode u : Nat),
    let lo : Int := if signed then -(2 : Int) ^ (w - 1) else 0
    let hi : Int := if signed then (2 : Int) ^ (w - 1) - 1 else (2 : Int) ^ w - 1
    roundInt w signed mode u .nan = (0, 1) ∧
    (∀ g : Bool, roundInt w signed mode u (.inf g) = (if g then lo else hi, 1) ∧ roundInt w signed mode u (.zero g) = (0, 0)) ∧
    ∀ (neg : Bool) (n d : Nat), 0 < d →
      let r := roundAt mode u neg n d 0
      let z : Int := if neg then -(r.1 : Int) else r.1
      (z < lo → lo ≤ hi → roundInt w signed mode u (.fin neg n d) = (lo, 1)) ∧
      (hi < z → lo ≤ hi → roundInt w signed mode u (.fin neg n d) = (hi, 1)) ∧
      (lo ≤ z → z ≤ hi → roundInt w signed mode u (.fin neg n d) = (z, if r.2 then 16 else 0))) ∧
  (∀ (t mode u : Nat) (sat : Bool), 8 ≤ t → t ≤ 0xD →
    let f := floatFmt t
    let top := fun (g : Bool) => if g then 2 ^ (f.bits - 1) else 0
    let canon := ([0x7FC00000, 0x7E00, 0x7FC0, 0x7F, 0x7E, 0][t - 8]?).getD 0
    roundRne t = roundFloat t 0 0 false ∧
    roundFloat t mode u sat .nan = (canon, if t = 0xD then 1 else 0) ∧
    (∀ g : Bool, roundFloat t mode u sat (.zero g) = (top g, 0) ∧
      roundFloat t mode u sat (.inf g) =
        (if t = 0xD then (top g + f.max, 1) else if sat then (top g + f.max, 0) else if t = 0xB then (0x7F, 0)
         else (top g + (f.max + 1), 0))) ∧
    ∀ (neg : Bool) (n d : Nat) (e : Int), 0 < n → 0 < d → (2 : Rat) ^ e ≤ (n : Rat) / d → (n : Rat) / d < (2 : Rat) ^ (e + 1) →
      let emin : Int := 1 - f.bias
      let r := roundAt mode u neg n d (max e emin - f.m)
      let value : Rat := (r.1 : Rat) * (2 : Rat) ^ (max e emin - f.m)
      let tiny : Prop := ((roundAt mode u neg n d (e - f.m)).1 : Rat) * (2 : Rat) ^ (e - f.m) < (2 : Rat) ^ emin
      let big : Rat := (floatValue t f.max).ex.rat
      let out := roundFloat t mode u sat (.fin neg n d)
      (value ≤ big → out.1 < 2 ^ f.bits ∧ (floatValue t out.1).ex.rat = (if neg then -value else value) ∧
        (floatValue t out.1).ex.sign = neg ∧ (r.2 = false → out.2 = 0) ∧ (r.2 = true → ¬ tiny → out.2 = 16) ∧
        (r.2 = true → tiny → out.2 = 24)) ∧
      (big < value → out.2 = 20 ∧ out.1 =
        if t = 0xD ∨ sat = true then top neg + f.max
        else if t = 0xB then 0x7F
        else if mode = 1 ∨ (mode = 2 ∧ neg = true) ∨ (mode = 3 ∧ neg = false) then top neg + f.max
        else top neg + (f.max + 1)))

/-- R144, R105, R106: FADD, FSUB, FMUL, FDIV and FSCALE round the exact result once; FDIV of a finite non-zero value by a
zero raises DZ; FSCALE reads a signed 32-bit exponent and scales by it. -/
def Obligations.FloatArithmeticResults : Prop :=
  ∀ (f : FmtG) (s : State) (l : Lane) (i : Inst) (a b : Word), Fires s f.pr l i → Two l a b → f.xop.toNat < 3 →
    let x := fltEx f.xop a
    let y := fltEx f.xop b
    let gives := fun (p : Word × Nat) => sendsFlags s l [f.t0, f.t1] p
    exec (.fadd f) s = gives (fltRound f.xop [a, b] (x.add y)) ∧
    exec (.fsub f) s = gives (fltRound f.xop [a, b] (x.add y.neg)) ∧
    exec (.fmul f) s = gives (fltRound f.xop [a, b] (x.mul y)) ∧
    (let r := fltRound f.xop [a, b] (x.div y).1
     let zero := !fltIsNan f.xop a && fltMag f.xop a != fltInf f.xop && fltMag f.xop a != 0 && fltMag f.xop b == 0
     exec (.fdiv f) s = gives (r.1, r.2 ||| if zero then 2 else 0)) ∧
    (∃ z, exec (.fscale f) s = gives (fltRound f.xop [a] z) ∧
      (∀ m d neg, x = .fin neg m d → ((b.setWidth 32).toInt.natAbs < 400 →
        z.isNumber ∧ z.rat = x.rat * (2 : Rat) ^ (b.setWidth 32).toInt)) ∧
      (x.isNan ∨ (∃ g, x = .inf g) ∨ (∃ g, x = .zero g) → z = x))

/-- R145: the selections, on encodings; FCPYS. A NaN is passed over by FMIN and FMAX and gives the canonical NaN in FMINM
and FMAXM; only a signalling NaN raises NV. -/
def Obligations.FloatSelectionResults : Prop :=
  ∀ (f : FmtG) (s : State) (l : Lane) (i : Inst) (a b : Word), Fires s f.pr l i → Two l a b → f.xop.toNat < 3 →
    let nan := BitVec.ofNat 64 (fltNan f.xop)
    let enc := fun (x : Word) => BitVec.ofNat 64 (fltEnc f.xop x)
    let na := fltIsNan f.xop a
    let nb := fltIsNan f.xop b
    let gives := fun (v : Word) =>
      sendsFlags s l [f.t0, f.t1] (v, if fltIsSnan f.xop a || fltIsSnan f.xop b then 1 else 0)
    let either := fun (v : Word) => if na && nb then nan else if na then enc b else if nb then enc a else v
    let strict := fun (v : Word) => if na || nb then nan else v
    let le := if fltKey f.xop a ≤ fltKey f.xop b then enc a else enc b
    let ge := if fltKey f.xop b ≤ fltKey f.xop a then enc a else enc b
    exec (.fmin f) s = gives (either le) ∧ exec (.fmax f) s = gives (either ge) ∧
    exec (.fminm f) s = gives (strict le) ∧ exec (.fmaxm f) s = gives (strict ge) ∧
    exec (.fcpys f) s = sendsFlags s l [f.t0, f.t1]
      (BitVec.ofNat 64 (fltMag f.xop a + if fltNeg f.xop b then 2 ^ (fltWidth f.xop - 1) else 0), 0)

/-- R146: the fused forms round a·b ± c, or its negative product's, once; ∞·0 raises NV even beside a NaN addend. -/
def Obligations.FusedResults : Prop :=
  ∀ (f : FmtG) (s : State) (l : Lane) (i : Inst) (a b c : Word), Fires s 0 l i → Three l a b c → f.xop.toNat < 3 →
    let p := (fltEx f.xop a).mul (fltEx f.xop b)
    let z := fltEx f.xop c
    let invalid := !fltIsNan f.xop a && !fltIsNan f.xop b && p.isNan
    let gives := fun (y : Ex) =>
      let r := fltRound f.xop [a, b, c] y
      sendsFlags s l [f.t0, f.t1] (r.1, r.2 ||| if invalid then 1 else 0)
    exec (.ffma f) s = gives (p.add z) ∧ exec (.ffms f) s = gives (p.add z.neg) ∧
    exec (.fnfma f) s = gives (p.neg.add z) ∧ exec (.fnfms f) s = gives (p.neg.add z.neg)

/-- R147, R148: FABS and FNEG change the sign bit and nothing else; FFRAC is a - trunc(a), exact, with a's sign; FCLASS
gives the one bit of the operand's class. R79, R141, R149, R150, R152-R157: the other float instructions of one operand send
one value, with flags of R112, to their targets: they complete on every operand. -/
def Obligations.FloatUnaryResults : Prop :=
  (∀ (s : State) (l : Lane) (i : Inst) (a : Word), One l a →
    (∀ f : FmtG, Fires s f.pr l i → ∀ ins ∈ [Instr.fabs f, .fneg f, .fsqrt f, .frcp f, .frsq f, .ex2 f, .lg2 f, .sinp f,
      .cosp f, .tanh f, .fclass f, .ffrac f], ∃ v fl, exec ins s = sendsFlags s l [f.t0, f.t1] (v, fl)) ∧
    (∀ f : FmtI, Fires s f.pr l i → ∀ ins ∈ [Instr.frnd f, .fcvt f, .fcvts f, .fcvtu f, .scvtf f, .ucvtf f, .mxscl f,
      .mxq f], ∃ v fl, exec ins s = sendsFlags s l [f.t0] (v, fl))) ∧
  ∀ (f : FmtG) (s : State) (l : Lane) (i : Inst) (a : Word), Fires s f.pr l i → One l a → f.xop.toNat < 3 →
    let m := fltMag f.xop a
    let neg := fltNeg f.xop a
    let top := 2 ^ (fltWidth f.xop - 1)
    let gives := fun (v fl : Nat) => sendsFlags s l [f.t0, f.t1] (BitVec.ofNat 64 v, fl)
    exec (.fabs f) s = gives m 0 ∧
    exec (.fneg f) s = gives (m + if neg then 0 else top) 0 ∧
    exec (.fclass f) s = gives (2 ^
      (if fltIsSnan f.xop a then 8 else if fltIsNan f.xop a then 9
       else if m = fltInf f.xop then (if neg then 0 else 7)
       else if m = 0 then (if neg then 3 else 4)
       else if m < fltNormal f.xop then (if neg then 2 else 5)
       else (if neg then 1 else 6))) 0 ∧
    (∃ v fl, exec (.ffrac f) s = gives v fl ∧
      (fltIsNan f.xop a ∨ m = fltInf f.xop → v = fltNan f.xop ∧ fl = if fltIsNan f.xop a && !fltIsSnan f.xop a then 0 else 1) ∧
      (m < fltInf f.xop → fl = 0 ∧ fltNeg f.xop (BitVec.ofNat 64 v) = neg ∧
        ∃ k : Nat, (fltEx f.xop (BitVec.ofNat 64 v)).rat = (fltEx f.xop a).rat - (if neg then -(k : Rat) else k) ∧
          |(fltEx f.xop (BitVec.ofNat 64 v)).rat| < 1))

/-- R149: the special functions and FSQRT complete on every operand; the table of special operands, for each. R115 where it
can be said in rational numbers: FRCP and FRSQ of an ordinary operand round to nearest even the 34-bit truncation k·2^g of
1/x and 1/√x, EX2 of an integer n rounds 2^n, LG2 of 2^n rounds n; FSQRT's result is the encoding whose value lies within
half a unit in the last place of the exact root, NX being an inexact one. The other operands of EX2, LG2, SINP, COSP and TANH
give some encoding of the format: their values are not stated (notes/assumptions 15). -/
def Obligations.SpecialFunctionResults : Prop :=
  ∀ (f : FmtG) (s : State) (l : Lane) (i : Inst) (a : Word), Fires s f.pr l i → One l a → f.xop.toNat < 3 →
    let m := fltMag f.xop a
    let neg := fltNeg f.xop a
    let top := 2 ^ (fltWidth f.xop - 1)
    let inf := fltInf f.xop
    let nan := fltNan f.xop
    let one := fltInf f.xop / 2 / fltNormal f.xop * fltNormal f.xop
    let gives := fun (v fl : Nat) => sendsFlags s l [f.t0, f.t1] (BitVec.ofNat 64 v, fl)
    let signed := fun (v : Nat) => if neg then top + v else v
    let table := fun (i : Instr) (minusInf plusInf zero : Nat × Nat) =>
      (fltIsNan f.xop a → exec i s = gives nan (if fltIsSnan f.xop a then 1 else 0)) ∧
      (m = inf ∧ neg = true → exec i s = gives minusInf.1 minusInf.2) ∧
      (m = inf ∧ neg = false → exec i s = gives plusInf.1 plusInf.2) ∧
      (m = 0 → exec i s = gives zero.1 zero.2)
    table (.ex2 f) (0, 0) (inf, 0) (one, 0) ∧
    table (.lg2 f) (nan, 1) (inf, 0) (top + inf, 2) ∧
    table (.sinp f) (nan, 1) (nan, 1) (signed 0, 0) ∧
    table (.cosp f) (nan, 1) (nan, 1) (one, 0) ∧
    table (.tanh f) (top + one, 0) (one, 0) (signed 0, 0) ∧
    table (.frcp f) (top, 0) (0, 0) (signed inf, 2) ∧
    table (.frsq f) (nan, 1) (0, 0) (signed inf, 2) ∧
    table (.fsqrt f) (nan, 1) (inf, 0) (signed 0, 0) ∧
    (0 < m ∧ m < inf ∧ neg = true →
      exec (.lg2 f) s = gives nan 1 ∧ exec (.frsq f) s = gives nan 1 ∧ exec (.fsqrt f) s = gives nan 1) ∧
    (∀ n : Int, n ≠ 0 → (fltEx f.xop a).rat = n ∧ m < inf →
      exec (.sinp f) s = gives (signed 0) 0 ∧ exec (.cosp f) s = gives (if n % 2 = 0 then one else top + one) 0) ∧
    (∀ n : Int, (fltEx f.xop a).rat = n + 1 / 2 ∧ m < inf →
      exec (.sinp f) s = gives (if n % 2 = 0 then one else top + one) 0 ∧ exec (.cosp f) s = gives 0 0) ∧
    (let x : Rat := (fltEx f.xop a).rat
     let rounds := fun (g inexact : Bool) (n d : Nat) =>
       let r := roundFloat (8 + f.xop.toNat) 0 0 false (.fin g n d) inexact
       gives r.1 r.2
     (0 < m ∧ m < inf → ∃ (k n d : Nat) (g : Int), 2 ^ 33 ≤ k ∧ k < 2 ^ 34 ∧ 0 < d ∧ (n : Rat) / d = k * (2 : Rat) ^ g ∧
       (k : Rat) * (2 : Rat) ^ g ≤ 1 / |x| ∧ 1 / |x| < ((k : Rat) + 1) * (2 : Rat) ^ g ∧
       exec (.frcp f) s = rounds neg (decide ((k : Rat) * (2 : Rat) ^ g ≠ 1 / |x|)) n d) ∧
     (0 < m ∧ m < inf ∧ neg = false →
       (∃ (k n d : Nat) (g : Int), 2 ^ 33 ≤ k ∧ k < 2 ^ 34 ∧ 0 < d ∧ (n : Rat) / d = k * (2 : Rat) ^ g ∧
         ((k : Rat) * (2 : Rat) ^ g) ^ 2 * x ≤ 1 ∧ 1 < (((k : Rat) + 1) * (2 : Rat) ^ g) ^ 2 * x ∧
         exec (.frsq f) s = rounds false (decide (((k : Rat) * (2 : Rat) ^ g) ^ 2 * x ≠ 1)) n d) ∧
       (∃ v : Nat, v < top ∧ let y : Rat := (fltEx f.xop (BitVec.ofNat 64 v)).rat
         0 < y ∧ exec (.fsqrt f) s = gives v (if y ^ 2 = x then 0 else 16) ∧
         ∀ g : Int, (2 : Rat) ^ g ≤ y → y < (2 : Rat) ^ (g + 1) → (y - (2 : Rat) ^ (g - fltFrac f.xop - 1)) ^ 2 ≤ x ∧
           x ≤ (y + (2 : Rat) ^ (g - fltFrac f.xop - 1)) ^ 2) ∧
       (∀ z : Int, x = (2 : Rat) ^ z →
         exec (.lg2 f) s = if z = 0 then gives 0 0 else rounds (decide (z < 0)) false z.natAbs 1)) ∧
     (∀ z : Int, m < inf → x = z →
       (z.natAbs ≤ 300 → ∃ n d : Nat, 0 < d ∧ (n : Rat) / d = (2 : Rat) ^ z ∧ exec (.ex2 f) s = rounds false false n d) ∧
       (300 < z → exec (.ex2 f) s = gives inf 20) ∧ (z < -300 → exec (.ex2 f) s = gives 0 24))) ∧
    (∀ op ∈ [Instr.fsqrt f, .frcp f, .frsq f, .ex2 f, .lg2 f, .sinp f, .cosp f, .tanh f],
      ∃ v fl, exec op s = gives v fl ∧ v < 2 ^ fltWidth f.xop)

/-- R151: the float comparisons as 1 or 0; what an unordered pair gives, and which NaNs raise NV. -/
def Obligations.FloatCompareResults : Prop :=
  ∀ (f : FmtG) (s : State) (l : Lane) (i : Inst) (a b : Word), Fires s f.pr l i → Two l a b → f.xop.toNat < 3 →
    let un := fltIsNan f.xop a || fltIsNan f.xop b
    let x := fltOrd f.xop a
    let y := fltOrd f.xop b
    let nv : Nat := if fltIsSnan f.xop a || fltIsSnan f.xop b then 1 else 0
    let gives := fun (r : Bool) (fl : Nat) => sendsFlags s l [f.t0, f.t1] (boolWord r, fl)
    exec (.fteq f) s = gives (!un && x == y) nv ∧
    exec (.ftne f) s = gives (un || x != y) nv ∧
    exec (.ftlt f) s = gives (!un && decide (x < y)) (if un then 1 else 0) ∧
    exec (.ftle f) s = gives (!un && decide (x ≤ y)) (if un then 1 else 0) ∧
    exec (.ftun f) s = gives un nv ∧
    exec (.ftord f) s = gives (!un) nv

/-- R150, R152-R157: FRND and the conversions complete on every operand and apply round_mode of R114 to the operand's value,
with the rounding code of their field and the lane's draw; the result is zero-extended; FCVT between equal types changes a
NaN only. The scale of MXSCL is pinned by powers of two over the range of |x| in which it is not clamped, with UF where it is
clamped at 0 and OF where the ceiling rule clamps it at 254 (no source value is large enough for the floor rule to); NV of
MXSCL and MXQ as R156 and R157 say. -/
def Obligations.ConversionResults : Prop :=
  ∀ (f : FmtI) (s : State) (l : Lane) (i : Inst) (a : Word), Fires s f.pr l i → One l a →
    let src := (f.imm9.extractLsb' 5 4).toNat
    let dst := (f.imm9.extractLsb' 1 4).toNat
    let sat := f.imm9.getLsbD 0
    let mode := f.xop.toNat
    let u := laneDraw l i
    let x := floatValue src a.toNat
    let nv : Nat := if x.snan then 1 else 0
    let gives := fun (v fl : Nat) => sendsFlags s l [f.t0] (BitVec.ofNat 64 v, fl)
    let bits := 8 * 2 ^ (dst / 2)
    let int : Int := if src % 2 = 1 then (a.setWidth (8 * 2 ^ (src / 2))).toInt else (a.setWidth (8 * 2 ^ (src / 2))).toNat
    (let r := if src = dst ∧ x.ex.isNan = false then (a.toNat % 2 ^ (floatFmt src).bits, 0) else roundFloat dst mode u sat x.ex
     exec (.fcvt f) s = gives r.1 (r.2 ||| nv)) ∧
    (∀ op ∈ [Instr.frnd f, .fcvt f, .fcvts f, .fcvtu f, .scvtf f, .ucvtf f, .mxscl f, .mxq f], ∃ t, exec op s = .next t) ∧
    (src ≤ 0xA → 8 ≤ src → dst < 8 →
      let r := roundInt bits (dst % 2 == 1) mode u x.ex
      exec (.fcvts f) s = sendsFlags s l [f.t0] ((BitVec.ofInt bits r.1).setWidth 64, r.2) ∧
      exec (.fcvtu f) s = sendsFlags s l [f.t0] ((BitVec.ofInt bits r.1).setWidth 64, r.2)) ∧
    (src < 8 →
      let r := roundFloat dst mode u sat (if int = 0 then .zero false else .fin (int < 0) int.natAbs 1)
      exec (.scvtf f) s = gives r.1 r.2 ∧ exec (.ucvtf f) s = gives r.1 r.2) ∧
    (∃ v fl, exec (.mxq f) s = gives v fl ∧ (dst = 1 ∨ dst = 0xB ∨ dst = 0xC ∨ dst = 0xD →
      let k := (a.extractLsb' 56 8).toNat
      (x.ex.isNan ∨ k = 0xFF → v = (if dst = 0xB then 0x7F else if dst = 0xC then 0x7E else 0) ∧
        fl = if dst = 1 ∨ dst = 0xD then 1 else nv) ∧
      (∀ g : Bool, x.ex = .inf g → k < 0xFF → (dst ≠ 1 → (v, fl) = roundFloat dst mode u sat (.inf g)) ∧
        (dst = 1 → v = (if g then 0x80 else 0x7F) ∧ fl = 1)) ∧
      (x.ex.isNumber → k < 0xFF → ∃ q : Ex, q.isNumber ∧ q.rat = x.ex.rat * (2 : Rat) ^ (127 - (k : Int)) ∧
        (dst ≠ 1 → (v, fl) = roundFloat dst mode u sat q) ∧
        (dst = 1 → ∃ q' : Ex, q'.isNumber ∧ q'.rat = q.rat * 64 ∧
          v = (BitVec.ofInt 8 (roundInt 8 true mode u q').1).toNat ∧ fl = (roundInt 8 true mode u q').2)))) ∧
    (∃ v fl, exec (.mxscl f) s = gives v fl ∧ (dst = 1 ∨ dst = 0xB ∨ dst = 0xC ∨ dst = 0xD →
      let top : Rat := if dst = 0xB then 448 else if dst = 0xC then 57344 else if dst = 0xD then 6 else 127 / 64
      let emax : Int := if dst = 0xB then 8 else if dst = 0xC then 15 else if dst = 0xD then 2 else 0
      let k : Int := (v : Int) - 127
      let y := |x.ex.rat|
      (x.ex = .nan → v = 0xFF ∧ fl = nv) ∧ ((∃ g, x.ex = .inf g) → v = 0xFF ∧ fl = 1) ∧
      ((∃ g, x.ex = .zero g) → v = 0 ∧ fl = 0) ∧ (x.ex.isNumber → v ≤ 254) ∧
      (0 < y → mode = 3 →
        (y < (2 : Rat) ^ (emax - 127) → v = 0 ∧ fl = 8) ∧
        ((2 : Rat) ^ (emax - 127) ≤ y →
          fl = 0 ∧ (2 : Rat) ^ (k + emax) ≤ y ∧ y < (2 : Rat) ^ (k + emax + 1))) ∧
      (0 < y → mode = 2 →
        (y ≤ top * (2 : Rat) ^ (-128 : Int) → v = 0 ∧ fl = 8) ∧ (top * (2 : Rat) ^ (127 : Int) < y → v = 254 ∧ fl = 4) ∧
        (top * (2 : Rat) ^ (-128 : Int) < y → y ≤ top * (2 : Rat) ^ (127 : Int) →
          fl = 0 ∧ top * (2 : Rat) ^ (k - 1) < y ∧ y ≤ top * (2 : Rat) ^ k)))) ∧
    (∃ v fl, exec (.frnd f) s = gives v fl ∧ (f.xop.toNat < 3 → f.imm9.toNat < 6 →
      let y := fltEx f.xop a
      let r := roundAt f.imm9.toNat u (fltNeg f.xop a) (y.rat.num.natAbs) y.rat.den 0
      (fltIsNan f.xop a → v = fltNan f.xop ∧ fl = if fltIsSnan f.xop a then 1 else 0) ∧
      (fltMag f.xop a = 0 ∨ fltMag f.xop a = fltInf f.xop → v = fltEnc f.xop a ∧ fl = 0) ∧
      (0 < fltMag f.xop a ∧ fltMag f.xop a < fltInf f.xop →
        (fltEx f.xop (BitVec.ofNat 64 v)).rat = (if fltNeg f.xop a then -(r.1 : Rat) else r.1) ∧
        fltNeg f.xop (BitVec.ofNat 64 v) = fltNeg f.xop a ∧ fl = if r.2 then 16 else 0)))

/-! ### Dataflow: predicates, steering, constants, tokens (chapters 03 and 06) -/

/-- R132-R135: PAND to FAN on bits 0 of their operands; STEER's value to the chosen target only; MERGE's selected token,
value or null, its unselected port not looked at; FAN to four targets. -/
def Obligations.PredicateAndSteering : Prop :=
  ∀ (s : State) (l : Lane) (i : Inst),
    (∀ (f : FmtG) (a b : Word), Fires s f.pr l i → Two l a b →
      let gives := fun (r : Bool) => sends s l [f.t0, f.t1] (.val (boolWord r))
      exec (.pand f) s = gives (a.getLsbD 0 && b.getLsbD 0) ∧
      exec (.por f) s = gives (a.getLsbD 0 || b.getLsbD 0) ∧
      exec (.pxor f) s = gives (a.getLsbD 0 ^^ b.getLsbD 0) ∧
      exec (.steer f) s = sends s l [if b.getLsbD 0 then f.t0 else f.t1] (.val a)) ∧
    (∀ (f : FmtG) (a : Word), Fires s f.pr l i → One l a →
      exec (.pnot f) s = sends s l [f.t0, f.t1] (.val (boolWord (!a.getLsbD 0)))) ∧
    (∀ (f : FmtG) (t : Tok), Fires s 0 l i →
      (∀ x : Word, l.ops.third = some (.val x) → (if x.getLsbD 0 then l.ops.left else l.ops.right) = some t →
        exec (.merge f) s = sends s l [f.t0, f.t1] t) ∧
      (l.ops.third = some .null → exec (.merge f) s = sends s l [f.t0, f.t1] .null)) ∧
    (∀ (f : FmtF) (a : Word), Fires s f.pr l i → One l a →
      exec (.fan f) s = sends s l [f.t0, f.t1, f.t2, f.t3] (.val a))

/-- R124 (NULL), R136 to R139, R223: the instructions whose value needs no port, APPC and INLET; RETAG joins the base tag's
upper part and the iteration when the five checks hold, and raises TAGSPACE_INVALID when one fails. That a space which the
strand's own TSALLOC has reserved counts as allocated in RETAG's check is the model's choice (notes/assumptions 22). -/
def Obligations.ConstantsReadsAndTags : Prop :=
  ∀ (s : State) (l : Lane) (i : Inst),
    (∀ f : FmtG, Fires s f.pr l i →
      exec (.nullOp f) s = sends s l [f.t0, f.t1] .null ∧
      exec (.tagof f) s = sends s l [f.t0, f.t1] (.val (BitVec.ofNat 64 (i.frame.strand.tag % 2 ^ 40)))) ∧
    (∀ (f : FmtR) (c : Word), Fires s 0 l i → i.frame.regs[f.reg.toNat]? = some c →
      exec (.rdc f) s = sends s l [f.t0, f.t1] (.val c)) ∧
    (∀ f : FmtC, Fires s f.pr l i → exec (.genc f) s = sends s l [f.t0] (.val (f.imm16.signExtend 64))) ∧
    (∀ (f : FmtC) (a : Word), Fires s f.pr l i → One l a →
      exec (.appc f) s = sends s l [f.t0] (.val (a.extractLsb' 0 48 ++ f.imm16))) ∧
    (∀ (f : FmtR) (a : Word), Fires s 0 l i → One l a → exec (.inlet f) s = sends s l [f.t0, f.t1] (.val a)) ∧
    (∀ (f : FmtG) (a b : Word), Fires s f.pr l i → Two l a b →
      let t : BitVec 40 := b.setWidth 40
      let own : BitVec 40 := BitVec.ofNat 40 i.frame.strand.tag
      let good := t.extractLsb' 26 10 = own.extractLsb' 26 10 ∧
        (∃ (c : Context) (r : Region), s.ctx? i.frame.strand.cx = some c ∧ c.region? (t.extractLsb' 36 4).toNat = some r) ∧
        ∃ (p : Space), s.space? i.frame.strand.cx (t.extractLsb' 20 6).toNat = some p ∧ p.openTo i.frame.strand = true ∧
          p.gen = (t.extractLsb' 16 4).toNat ∧ a.toNat < 2 ^ p.k
      (good → exec (.retag f) s = sends s l [f.t0, f.t1] (.val (((b.extractLsb' 16 24).setWidth 64 <<< 16) + a))) ∧
      (¬ good → exec (.retag f) s = .next (s.issued.takeFault i .tagspaceInvalid (some l.slot) 0 0)))

/-- R77: a predicate that does not match, a null among them, absorbs the operands of any well-formed instruction of the
forms: nothing is produced, performed, exited or written. R81: a null on a data port passes through a value instruction to
all its targets, resolves the LSID of an effect and performs nothing, and leaves an exit unfired; a query or SPARAM does both
(its LSID resolved, nulls to its targets), and SWR, SNUFF and ASSERT perform nothing. MERGE's nulls are its own statement's. -/
def Obligations.PredicatesAndNulls : Prop :=
  (∀ (ins : Instr) (op : Nat) (flds : Fields) (s : State) (l : Lane) (i : Inst), ins.WellFormed →
    ins.form = some (op, flds) → s.lanes.head? = some l → s.inst? l.inst = some i →
    (flds.pr = 2 ∨ flds.pr = 3) →
    (l.ops.third = some .null ∨ ∃ w : Word, l.ops.third = some (.val w) ∧ w.getLsbD 0 = (flds.pr == 2)) →
    exec ins s = .next (s.issued.modInst l.inst fun i =>
      i.setStatus l.slot (.absorbed l.ops.left.isSome l.ops.right.isSome true))) ∧
  ∀ (s : State) (l : Lane) (i : Inst),
    ((l.ops.left = some .null ∧ l.ops.right.isSome) ∨ (l.ops.left.isSome ∧ l.ops.right = some .null) →
      (∀ f : FmtG, Fires s f.pr l i → ∀ ins ∈ [Instr.add f, .sub f, .mul f, .mulhs f, .mulhu f, .divs f, .divu f,
          .rems f, .remu f, .andOp f, .orOp f, .xorOp f, .andn f, .orn f, .shl f, .shr f, .sar f, .rol f, .ror f, .mins f,
          .minu f, .maxs f, .maxu f, .absd f, .teq f, .tne f, .tlts f, .tles f, .tltu f, .tleu f, .tgts f, .tges f,
          .tgtu f, .tgeu f, .pand f, .por f, .pxor f, .steer f, .retag f, .fadd f, .fsub f, .fmul f, .fdiv f, .fmin f,
          .fmax f, .fminm f, .fmaxm f, .fcpys f, .fscale f, .fteq f, .ftne f, .ftlt f, .ftle f, .ftun f, .ftord f],
        exec ins s = sends s l [f.t0, f.t1] .null) ∧
      (∀ f : FmtS, Fires s f.pr l i → ∀ ins ∈ [Instr.std f, .stw f, .sth f, .stb f, .aadd f, .amins f, .aminu f, .amaxs f,
          .amaxu f, .aand f, .aor f, .axor f, .afadd f],
        exec ins s = .next (s.issued.resolveLsid l.inst f.lsid.toNat)) ∧
      (∀ f : FmtE, Fires s f.pr l i → ∀ ins ∈ [Instr.fst f, .fstr f, .fradd f, .frfadd f],
        exec ins s = .next (s.issued.resolveLsid l.inst f.lsid.toNat)) ∧
      (∀ f : FmtX, Fires s f.pr l i → ∀ ins ∈ [Instr.faadd f, .famins f, .faminu f, .famaxs f, .famaxu f, .faand f,
          .faor f, .faxor f, .faxchg f, .fafadd f],
        exec ins s = .next s.issued)) ∧
    (l.ops.left = some .null →
      (∀ f : FmtG, Fires s f.pr l i → ∀ ins ∈ [Instr.neg f, .abs f, .notOp f, .clz f, .ctz f, .popc f, .brev f, .bswap f,
          .sext f, .zext f, .mov f, .pnot f, .fabs f, .fneg f, .fsqrt f, .frcp f, .frsq f, .ex2 f, .lg2 f, .sinp f,
          .cosp f, .tanh f, .fclass f, .ffrac f],
        exec ins s = sends s l [f.t0, f.t1] .null) ∧
      (∀ f : FmtI, Fires s f.pr l i → ∀ ins ∈ [Instr.addi f, .muli f, .andi f, .ori f, .xori f, .shli f, .shri f, .sari f,
          .roli f, .minsi f, .maxsi f, .teqi f, .tnei f, .tltsi f, .tlesi f, .tltui f, .tleui f, .tgtsi f, .tgesi f,
          .frnd f, .fcvt f, .fcvts f, .fcvtu f, .scvtf f, .ucvtf f, .mxscl f, .mxq f],
        exec ins s = sends s l [f.t0] .null) ∧
      (∀ f : FmtC, Fires s f.pr l i → exec (.appc f) s = sends s l [f.t0] .null) ∧
      (∀ f : FmtF, Fires s f.pr l i → exec (.fan f) s = sends s l [f.t0, f.t1, f.t2, f.t3] .null) ∧
      (∀ f : FmtL, Fires s f.pr l i → ∀ ins ∈ [Instr.ldd f, .ldw f, .ldws f, .ldh f, .ldhs f, .ldb f, .ldbs f],
        exec ins s = sends s l [f.t0] .null) ∧
      (∀ f : FmtX, Fires s f.pr l i → ∀ ins ∈ [Instr.fld f, .flda f, .joinOp f, .waitOp f], exec ins s = .next s.issued) ∧
      (∀ f : FmtG, Fires s f.pr l i → ∀ ins ∈ [Instr.bri f, .calli f, .ret f, .snuff f, .assert f], exec ins s = .next s.issued) ∧
      (∀ f : FmtI, Fires s f.pr l i → exec (.swr f) s = .next s.issued) ∧
      (∀ f : FmtG, Fires s f.pr l i → exec (.fwcall f) s = sends s l [f.t0, f.t1] .null) ∧
      (∀ f : FmtR, Fires s 0 l i → exec (.inlet f) s = sends s l [f.t0, f.t1] .null) ∧
      (∀ f : FmtS, Fires s f.pr l i → (∀ ins ∈ [Instr.tagrel f, .trace f],
          exec ins s = .next (s.issued.resolveLsid l.inst f.lsid.toNat)) ∧
        (f.imm16.getLsbD 15 = true → ∀ ins ∈ [Instr.fence f, .bararr f, .tsfree f],
          exec ins s = .next (s.issued.resolveLsid l.inst f.lsid.toNat))) ∧
      (∀ f : FmtE, Fires s f.pr l i → (∀ ins ∈ [Instr.xmit f, .spawn f],
          exec ins s = .next (s.issued.resolveLsid l.inst f.lsid.toNat)) ∧
        ∀ ins ∈ [Instr.hquery f, .rsquery f], exec ins s =
          .next ((s.issued.resolveLsid l.inst f.lsid.toNat).deliver l.inst l.slot .null [f.t0, f.t1]))) ∧
    ((l.ops.left = some .null ∧ l.ops.right.isSome) ∨ (l.ops.left.isSome ∧ l.ops.right = some .null) →
      ∀ f : FmtE, Fires s f.pr l i →
        exec (.spawnr f) s = .next (s.issued.resolveLsid l.inst f.lsid.toNat) ∧
        exec (.sparam f) s =
          .next ((s.issued.resolveLsid l.inst f.lsid.toNat).deliver l.inst l.slot .null [f.t0, f.t1])) ∧
    (l.ops.left.isSome ∧ l.ops.right.isSome ∧ l.ops.third.isSome ∧
        (l.ops.left = some .null ∨ l.ops.right = some .null ∨ l.ops.third = some .null) →
      (∀ f : FmtG, Fires s 0 l i → ∀ ins ∈ [Instr.bfx f, .bfxs f, .bfi f, .sel f, .madd f, .fsh f, .ffma f, .ffms f,
          .fnfma f, .fnfms f], exec ins s = sends s l [f.t0, f.t1] .null) ∧
      ∀ f : FmtX, Fires s 0 l i → exec (.facas f) s = .next s.issued)

/-- R73, R80, R81: what a result does at one target. 0x000 is nothing; PORT 00 is the instance's write buffer, where a
value wins over a null and, between two values, the higher-numbered slot wins; any other port is a token in flight. -/
def Obligations.TokenDelivery : Prop :=
  (∀ (s : State) (n slot : Nat) (v : Tok), s.deliver1 n slot v 0 = s) ∧
  (∀ (s : State) (n slot : Nat) (v : Tok) (r : BitVec 7), r ≠ 0 →
    ∃ w : List (Nat × Nat × Option Word) → List (Nat × Nat × Option Word),
      s.deliver1 n slot v (0#2 ++ r) = s.modInst n (fun i => { i with wbuf := w i.wbuf }) ∧
      ∀ ws : List (Nat × Nat × Option Word),
        (∀ k, k ≠ r.toNat → (w ws).find? (·.1 = k) = ws.find? (·.1 = k)) ∧
        (ws.find? (·.1 = r.toNat) = none → (w ws).find? (·.1 = r.toNat) = some (r.toNat, slot, v.value?)) ∧
        (∀ s0 old, ws.find? (·.1 = r.toNat) = some (r.toNat, s0, old) →
          (w ws).find? (·.1 = r.toNat) = some
            (if v = .null ∨ (old.isSome ∧ slot < s0) then (r.toNat, s0, old) else (r.toNat, slot, v.value?)))) ∧
  (∀ (s : State) (n slot : Nat) (v : Tok) (k : BitVec 7) (p : BitVec 2), p ≠ 0 →
    let q : Port := if p = 1 then .left else if p = 2 then .right else .third
    s.deliver1 n slot v (p ++ k) =
      { s.modInst n (fun i => { i with flying := i.flying ++ [s.nextId] }) with
        nextId := s.nextId + 1, flying := s.flying ++ [⟨s.nextId, n, slot, k.toNat, q, v⟩] })

/-! ### Memory instructions (chapter 10) -/

/-- R204, R206: a near load inside [0, T), aligned, that meets no earlier write and no poison returns the bytes at
base + sext(imm7) × n, lowest address lowest, zero- or sign-extended; of an iteration that is not the oldest of its ordered
space, the bytes the space's buffer shows it, and the lines enter its read set (R57). -/
def Obligations.NearLoadResults : Prop :=
  ∀ (f : FmtL) (s : State) (l : Lane) (i : Inst) (a : Word) (q : Quad), Fires s f.pr l i → One l a →
    s.quad? i.frame.quad = some q →
    ∀ p ∈ [(Instr.ldd f, 8, false), (.ldw f, 4, false), (.ldws f, 4, true), (.ldh f, 2, false), (.ldhs f, 2, true),
        (.ldb f, 1, false), (.ldbs f, 1, true)],
      let n := p.2.1
      let ea := loadAddr f n a
      let st := i.frame.strand
      let extended := fun (v : Word) =>
        v = if p.2.2 then (v.setWidth (8 * n)).signExtend 64 else (v.setWidth (8 * n)).setWidth 64
      ea + n ≤ s.tileTop q → ea % n = 0 → q.clearOfWrites ea n →
      (s.nearRead st i.frame.quad ea n).nearPoisoned st i.frame.quad ea n = false →
      ∃ v : Word, exec p.1 s =
          .next ((s.issued.nearRead st i.frame.quad ea n).deliver l.inst l.slot (.val v) [f.t0]) ∧ extended v ∧
        (s.nonOldest st = false → ∀ k < n, v.extractLsb' (8 * k) 8 = s.byteAt (vaultBase i.frame.quad + ea + k)) ∧
        (s.nonOldest st = true → ∀ k < n, v.extractLsb' (8 * k) 8 = s.specByte st i.frame.quad (ea + k))

/-- R208, R209, R211: a near store or posted near atomic inside [0, T), aligned, that meets no earlier access buffers its
effect at base + sext(imm16); NSTORE resolves its LSID and stores nothing. Memory is untouched until the commit. -/
def Obligations.NearEffectsBuffered : Prop :=
  ∀ (f : FmtS) (s : State) (l : Lane) (i : Inst), Fires s f.pr l i →
    exec (.nstore f) s = .next (s.issued.resolveLsid l.inst f.lsid.toNat) ∧
    ∀ (a b : Word) (q : Quad), Two l a b → s.quad? i.frame.quad = some q →
      let ea := storeAddr f a
      ∀ p ∈ [(Instr.std f, 8, Effect.store ea 8 b), (.stw f, 4, .store ea 4 b), (.sth f, 2, .store ea 2 b),
          (.stb f, 1, .store ea 1 b), (.aadd f, 8, .atomic .add ea 8 b), (.amins f, 8, .atomic .minS ea 8 b),
          (.aminu f, 8, .atomic .minU ea 8 b), (.amaxs f, 8, .atomic .maxS ea 8 b), (.amaxu f, 8, .atomic .maxU ea 8 b),
          (.aand f, 8, .atomic .and ea 8 b), (.aor f, 8, .atomic .or ea 8 b), (.axor f, 8, .atomic .xor ea 8 b),
          (.afadd f, 4, .atomic (.fadd 0) ea 4 b)],
        ea + p.2.1 ≤ s.tileTop q → ea % p.2.1 = 0 → q.clearOfAccesses ea p.2.1 →
        exec p.1 s = buffers s l f.lsid p.2.2

/-- R204, R191, R206: a near access outside [0, T) takes NEAR_RANGE, then a misaligned one takes ALIGN, each with the
address; one that meets an earlier registered access is abandoned with reason 0x83; a load that reads poison takes POISON,
its lines read all the same. -/
def Obligations.NearAccessFaults : Prop :=
  ∀ (s : State) (l : Lane) (i : Inst) (a : Word) (q : Quad), s.quad? i.frame.quad = some q → l.ops.left = some (.val a) →
    let stops := fun (ins : Instr) (ea n detail : Nat) (clear : Prop) =>
      (s.tileTop q < ea + n → exec ins s = .next (s.issued.takeFault i .nearRange (some l.slot) detail ea)) ∧
      (ea + n ≤ s.tileTop q → ea % n ≠ 0 →
        exec ins s = .next (s.issued.takeFault i .align (some l.slot) detail ea)) ∧
      (ea + n ≤ s.tileTop q → ea % n = 0 → ¬ clear →
        ∃ c, exec ins s = .next (s.issued.abandon i 0x83 (.conflict i.frame.quad c ea (ea + n))))
    (∀ f : FmtL, Fires s f.pr l i → ∀ p ∈ [(Instr.ldd f, 8), (.ldw f, 4), (.ldws f, 4), (.ldh f, 2), (.ldhs f, 2),
        (.ldb f, 1), (.ldbs f, 1)],
      let ea := loadAddr f p.2 a
      stops p.1 ea p.2 0 (q.clearOfWrites ea p.2) ∧
      (ea + p.2 ≤ s.tileTop q → ea % p.2 = 0 → q.clearOfWrites ea p.2 →
        (s.nearRead i.frame.strand i.frame.quad ea p.2).nearPoisoned i.frame.strand i.frame.quad ea p.2 = true →
        exec p.1 s = .next ((s.issued.nearRead i.frame.strand i.frame.quad ea p.2).takeFault i .poison (some l.slot) 0 ea))) ∧
    (∀ (f : FmtS) (b : Word), Fires s f.pr l i → l.ops.right = some (.val b) →
      let ea := storeAddr f a
      ∀ p ∈ [(Instr.std f, 8, 1), (.stw f, 4, 1), (.sth f, 2, 1), (.stb f, 1, 1), (.aadd f, 8, 2), (.amins f, 8, 2),
          (.aminu f, 8, 2), (.amaxs f, 8, 2), (.amaxu f, 8, 2), (.aand f, 8, 2), (.aor f, 8, 2), (.axor f, 8, 2),
          (.afadd f, 4, 2)],
        stops p.1 ea p.2.1 p.2.2 (q.clearOfAccesses ea p.2.1))

/-- R213, R70: FLD to FAFADD fire as exits: the access at base + sext(imm14), its width, its continuation
a + sext(off18) × 64 and its reply register; off a multiple of the width they take ALIGN instead. -/
def Obligations.FarExits : Prop :=
  ∀ (f : FmtX) (s : State) (l : Lane) (i : Inst) (a : Word), i.exits = [] →
    let va := exitAddr f a
    let n := widthBits f.xop / 8
    let m := fltWidth f.xop / 8
    let cont := blockFrom i.addr f.off18
    let fires := fun (ins : Instr) (op : FarOp) (code n detail : Nat) =>
      (va % n = 0 → exec ins s = exits s l f.exit.toNat (.far op code cont f.dst.toNat)) ∧
      (va % n ≠ 0 → exec ins s = .next (s.issued.takeFault i .align (some l.slot) detail va))
    (Fires s f.pr l i → One l a →
      fires (.fld f) (.load false va n) 0x120 n 0 ∧ fires (.flda f) (.load true va n) 0x121 n 0) ∧
    (∀ b : Word, Fires s f.pr l i → Two l a b →
      fires (.faadd f) (.rmw .add va n b 0) 0x124 n 2 ∧ fires (.famins f) (.rmw .minS va n b 0) 0x125 n 2 ∧
      fires (.faminu f) (.rmw .minU va n b 0) 0x126 n 2 ∧ fires (.famaxs f) (.rmw .maxS va n b 0) 0x127 n 2 ∧
      fires (.famaxu f) (.rmw .maxU va n b 0) 0x128 n 2 ∧ fires (.faand f) (.rmw .and va n b 0) 0x129 n 2 ∧
      fires (.faor f) (.rmw .or va n b 0) 0x12A n 2 ∧ fires (.faxor f) (.rmw .xor va n b 0) 0x12B n 2 ∧
      fires (.faxchg f) (.rmw .xchg va n b 0) 0x12C n 2 ∧
      fires (.fafadd f) (.rmw (.fadd f.xop.toNat) va m b 0) 0x12E m 2) ∧
    (∀ b x : Word, Fires s 0 l i → Three l a b x → fires (.facas f) (.rmw .cas va n b x) 0x12D n 2)

/-- R216-R219, R282: posted far stores and reductions, FENCE, XMIT and BARARR buffer their effect at its LSID; a
misaligned address takes ALIGN, a circuit the image lacks CIRCUIT_INVALID, an unconfigured barrier ENGINE_ERROR. -/
def Obligations.PostedEffectsBuffered : Prop :=
  ∀ (s : State) (l : Lane) (i : Inst),
    (∀ (f : FmtE) (a b : Word), Fires s f.pr l i → Two l a b →
      let va := postedAddr f a
      let n := widthBits f.xop / 8
      let m := fltWidth f.xop / 8
      ∀ p ∈ [(Instr.fst f, n, 1, Effect.farStore va n b none),
          (.fstr f, n, 1, .farStore va n b (some (f.cmd.extractLsb' 24 3).toNat)),
          (.fradd f, n, 2, .farReduce .add va n b), (.frfadd f, m, 2, .farReduce (.fadd f.xop.toNat) va m b)],
        (va % p.2.1 = 0 → exec p.1 s = buffers s l f.lsid p.2.2.2) ∧
        (va % p.2.1 ≠ 0 → exec p.1 s = .next (s.issued.takeFault i .align (some l.slot) p.2.2.1 va))) ∧
    (∀ (f : FmtE) (a : Word) (c : Context) (im : Image), Fires s f.pr l i → One l a →
      s.ctx? i.frame.strand.cx = some c → c.image = some im →
      let k := (f.cmd.setWidth 10).toNat
      (k < im.circuits.length → exec (.xmit f) s = buffers s l f.lsid (.xmit k a)) ∧
      (im.circuits.length ≤ k → exec (.xmit f) s = .next (s.issued.takeFault i .circuitInvalid (some l.slot) 0 0))) ∧
    (∀ f : FmtS, Fires s f.pr l i → (f.imm16.getLsbD 15 = true → ∃ a, One l a) →
      exec (.fence f) s = buffers s l f.lsid (.fence (f.imm16.setWidth 3).toNat) ∧
      (let n := (f.imm16.setWidth 6).toNat
       (BarrierNamed s i n → exec (.bararr f) s = buffers s l f.lsid (.arrive n)) ∧
       (¬ BarrierNamed s i n → exec (.bararr f) s = .next (s.issued.takeFault i .engineError (some l.slot) 0 0))))

/-! ### Control, tags, strands and barriers (chapter 12) -/

/-- R263, R264, R350: BR, CALL and END, BRI, CALLI and RET, and TRAP fire as the instance's exit; a register target off a
64-byte boundary takes ALIGN. -/
def Obligations.ExitsFire : Prop :=
  ∀ (s : State) (l : Lane) (i : Inst), i.exits = [] →
    (∀ f : FmtB, Fires s f.pr l i →
      exec (.br f) s = exits s l f.exit.toNat (.branch (blockFrom i.addr f.off18) 0) ∧
      exec (.call f) s = exits s l f.exit.toNat (.branch (blockFrom i.addr f.off18) 1) ∧
      exec (.endStrand f) s = exits s l f.exit.toNat .finish) ∧
    (∀ (f : FmtG) (a : Word), Fires s f.pr l i → One l a →
      let id := (f.t1.extractLsb' 6 3).toNat
      ∀ p ∈ [(Instr.bri f, 0), (.calli f, 1), (.ret f, 2)],
        (a.setWidth 6 = 0 → exec p.1 s = exits s l id (.branch a.toNat p.2)) ∧
        (a.setWidth 6 ≠ 0 → exec p.1 s = .next (s.issued.takeFault i .align (some l.slot) 0 a.toNat))) ∧
    (∀ f : FmtI, Fires s f.pr l i → exec (.trap f) s = exits s l f.xop.toNat (.trap f.imm9.toNat))

/-- R276, R277, R282: JOIN, BARWAIT, BARSYNC, WAIT and YIELD fire as exits with their continuation when what they name
exists; else they take TAGSPACE_INVALID, or ENGINE_ERROR for a barrier. That a space which the strand's own TSALLOC has
reserved counts as allocated in JOIN's check is the model's choice (notes/assumptions 22). -/
def Obligations.WaitingExits : Prop :=
  ∀ (f : FmtX) (s : State) (l : Lane) (i : Inst), Fires s f.pr l i → i.exits = [] →
    let far := fun (op : FarOp) (code : Nat) => exits s l f.exit.toNat (.far op code (blockFrom i.addr f.off18) f.dst.toNat)
    let st := i.frame.strand
    let bar := (f.imm14.setWidth 6).toNat
    exec (.yieldOp f) s = far .yield 0x151 ∧
    (BarrierNamed s i bar → exec (.barwait f) s = far (.barwait bar) 0x14E ∧ exec (.barsync f) s = far (.barsync bar) 0x14F) ∧
    (¬ BarrierNamed s i bar →
      exec (.barwait f) s = .next (s.issued.takeFault i .engineError (some l.slot) 0 0) ∧
      exec (.barsync f) s = .next (s.issued.takeFault i .engineError (some l.slot) 0 0)) ∧
    ∀ a : Word, One l a →
      let t : BitVec 40 := a.setWidth 40
      (TagNames s st t (fun _ => True) → exec (.joinOp f) s = far (.join t.toNat) 0x14C) ∧
      (¬ TagNames s st t (fun _ => True) →
        exec (.joinOp f) s = .next (s.issued.takeFault i .tagspaceInvalid (some l.slot) 0 0)) ∧
      (let own := (BitVec.ofNat 40 st.tag).extractLsb' 26 14
       let good := a.getLsbD 63 = false ∧ a.extractLsb' 42 14 = own ∧
         ∃ c q, s.ctx? st.cx = some c ∧ c.quadOf? (own.extractLsb' 10 4).toNat (a.extractLsb' 56 7).toNat = some q
       (good → exec (.waitOp f) s = far (.wait a.toNat) 0x150) ∧
       (¬ good → exec (.waitOp f) s = .next (s.issued.takeFault i .tagspaceInvalid (some l.slot) 0 0)))

/-- R269, R270, R273, R274: TSFREE, TAGREL, SPAWN and SPAWNR buffer their effect when the tag they name passes the checks
at firing, and take TAGSPACE_INVALID when it does not; an empty SPAWNR range resolves its LSID. That a space which the
strand's own TSALLOC has reserved counts as allocated in these checks is the model's choice (notes/assumptions 22). -/
def Obligations.TagEffects : Prop :=
  ∀ (s : State) (l : Lane) (i : Inst),
    let st := i.frame.strand
    let bad : Out := .next (s.issued.takeFault i .tagspaceInvalid (some l.slot) 0 0)
    (∀ f : FmtS, Fires s f.pr l i → f.imm16.getLsbD 15 = false →
      let own := ((BitVec.ofNat 40 st.tag).extractLsb' 20 6).toNat
      exec (.tsfree f) s = if own = 0 then bad else buffers s l f.lsid (.tsfree own false)) ∧
    (∀ (f : FmtS) (a : Word), Fires s f.pr l i → One l a →
      let t : BitVec 40 := a.setWidth 40
      let sp := (t.extractLsb' 20 6).toNat
      (f.imm16.getLsbD 15 = true → TagNames s st t (fun _ => True) ∧ sp ≠ 0 →
        exec (.tsfree f) s = buffers s l f.lsid (.tsfree sp true)) ∧
      (f.imm16.getLsbD 15 = true → ¬ (TagNames s st t (fun _ => True) ∧ sp ≠ 0) → exec (.tsfree f) s = bad) ∧
      (let good := TagNames s st t (fun cap => (t.setWidth 16).toNat < cap)
       (good → exec (.tagrel f) s = buffers s l f.lsid (.tagrel t.toNat)) ∧ (¬ good → exec (.tagrel f) s = bad))) ∧
    (∀ (f : FmtE) (a : Word), Fires s f.pr l i → One l a →
      let t : BitVec 40 := a.setWidth 40
      let good := TagNames s st t (fun cap => (t.setWidth 16).toNat < cap)
      (good → exec (.spawn f) s = buffers s l f.lsid (.spawn t.toNat (blockFrom i.addr (f.cmd.setWidth 18)))) ∧
      (¬ good → exec (.spawn f) s = bad)) ∧
    (∀ (f : FmtE) (a b : Word), Fires s f.pr l i → Two l a b →
      let t : BitVec 40 := a.setWidth 40
      let stop := (b.setWidth 17).toNat
      let good := TagNames s st t (fun cap => (t.setWidth 16).toNat < cap ∧ stop ≤ cap)
      (good → exec (.spawnr f) s = if stop ≤ (t.setWidth 16).toNat then .next (s.issued.resolveLsid l.inst f.lsid.toNat)
        else buffers s l f.lsid (.spawnr t.toNat (blockFrom i.addr (f.cmd.setWidth 18)) b)) ∧
      (¬ good → exec (.spawnr f) s = bad))

/-- R267, R268, R303: TSALLOC and TAGNEW deliver the tag of the slot's reservation when the strand holds one; else they reserve
the lowest free number of the pool, its generation one more modulo 16, or the lowest free iteration; with none free, or with
the strand not among those whom the pool's queue of waiting strands admits, the instance is abandoned with reason 0x81. A
declaration of the wrong level faults. The model's own choices: the generation advances at the firing (notes/assumptions 36),
and while strands wait with a reservation for the pool, the free numbers are the first of them's (40). -/
def Obligations.TagAllocation : Prop :=
  ∀ (f : FmtI) (s : State) (l : Lane) (i : Inst) (c : Context) (im : Image) (own : Space), Fires s f.pr l i →
    let st := i.frame.strand
    let tag : BitVec 40 := BitVec.ofNat 40 st.tag
    s.ctx? st.cx = some c → c.image = some im → s.space? st.cx (tag.extractLsb' 20 6).toNat = some own →
    let d := (f.imm9.setWidth 6).toNat
    (∀ dl, im.tagspaces[d]? = some dl →
      (dl.level ≠ own.level + 1 ∨ (∃ k, dl.ordered = some k ∧ k ≠ (tag.extractLsb' 36 4).toNat) →
        exec (.tsalloc f) s = .next (s.issued.takeFault i .tagspaceInvalid (some l.slot) 0 0)) ∧
      (dl.level = own.level + 1 → (∀ k, dl.ordered = some k → k = (tag.extractLsb' 36 4).toNat) →
        (∀ r, st.resvOf? i.addr l.slot = some r →
          exec (.tsalloc f) s = .next ((s.issued.useResv l.inst i.addr l.slot).deliver l.inst l.slot
            (.val (BitVec.ofNat 64 r.tag)) [f.t0])) ∧
        (st.resvOf? i.addr l.slot = none →
          (queueAdmits d st.sid c.poolQueue = false ∨
            (∀ p ∈ c.spaces, dl.first ≤ p.num → p.num < dl.first + dl.pool → p.allocated = true ∨ p.reserved = true) →
            exec (.tsalloc f) s = .next (s.issued.abandon i 0x81 (.poolOf d i.addr l.slot))) ∧
          (∀ p : Space, s.space? st.cx p.num = some p → p ∈ c.spaces → dl.first ≤ p.num → p.num < dl.first + dl.pool →
            p.allocated = false → p.reserved = false → queueAdmits d st.sid c.poolQueue = true → p.num < 64 →
            (∀ p' ∈ c.spaces, dl.first ≤ p'.num → p'.num < p.num → p'.allocated = true ∨ p'.reserved = true) →
            ∃ s2 : State, exec (.tsalloc f) s = .next (s2.deliver l.inst l.slot (.val ((tag.extractLsb' 26 14 ++
                BitVec.ofNat 6 p.num ++ BitVec.ofNat 4 (p.gen + 1) ++ 0#16).setWidth 64)) [f.t0]) ∧
              s2.space? st.cx p.num = some { p with reserved := true, gen := (p.gen + 1) % 16, decl := some d, k := dl.k })))) ∧
    (im.tagspaces[d]? = none →
      exec (.tsalloc f) s = .next (s.issued.takeFault i .tagspaceInvalid (some l.slot) 0 0)) ∧
    (∀ r, st.resvOf? i.addr l.slot = some r →
      exec (.tagnew f) s = .next ((s.issued.useResv l.inst i.addr l.slot).deliver l.inst l.slot
        (.val (BitVec.ofNat 64 r.tag)) [f.t0])) ∧
    (st.resvOf? i.addr l.slot = none →
      let free := fun it => it < 2 ^ own.k ∧ heldIn it own.held = false ∧ it ∉ own.resvIters
      (queueAdmits (tag.extractLsb' 20 6).toNat st.sid c.iterQueue = false ∨ (∀ it, ¬ free it) → exec (.tagnew f) s =
        .next (s.issued.abandon i 0x81 (.iterOf (tag.extractLsb' 20 6).toNat i.addr l.slot))) ∧
      (∀ it, free it → (∀ j < it, ¬ free j) → queueAdmits (tag.extractLsb' 20 6).toNat st.sid c.iterQueue = true →
        own.k ≤ 16 → st.tag < 2 ^ 40 →
        ∃ s2 : State, exec (.tagnew f) s = .next (s2.deliver l.inst l.slot
            (.val ((tag.extractLsb' 16 24 ++ BitVec.ofNat 16 it).setWidth 64)) [f.t0]) ∧
          ∃ p, s2.space? st.cx (tag.extractLsb' 20 6).toNat = some p ∧ p.resvIters = own.resvIters ++ [it]))

/-- R36, R64: an exit that fires in an instance whose exit has fired already takes MULTI_EXIT, whatever its form and
whatever fault it could raise of its own. -/
def Obligations.SecondExitFaults : Prop :=
  ∀ (s : State) (l : Lane) (i : Inst), i.exits ≠ [] →
    let multi : Out := .next (s.issued.takeFault i .multiExit (some l.slot) 0 0)
    (∀ f : FmtB, Fires s f.pr l i → ∀ ins ∈ [Instr.br f, .call f, .endStrand f], exec ins s = multi) ∧
    (∀ (f : FmtG) (a : Word), Fires s f.pr l i → One l a → ∀ ins ∈ [Instr.bri f, .calli f, .ret f], exec ins s = multi) ∧
    (∀ f : FmtI, Fires s f.pr l i → exec (.trap f) s = multi) ∧
    (∀ f : FmtX, Fires s f.pr l i → (∀ ins ∈ [Instr.barwait f, .barsync f, .yieldOp f], exec ins s = multi) ∧
      (∀ a : Word, One l a → ∀ ins ∈ [Instr.fld f, .flda f, .joinOp f, .waitOp f], exec ins s = multi) ∧
      ∀ a b : Word, Two l a b → ∀ ins ∈ [Instr.faadd f, .famins f, .faminu f, .famaxs f, .famaxu f, .faand f, .faor f,
        .faxor f, .faxchg f, .fafadd f], exec ins s = multi) ∧
    (∀ (f : FmtX) (a b x : Word), Fires s 0 l i → Three l a b x → exec (.facas f) s = multi)

/-! ### Engine commands, queries (chapter 11) -/

/-- R226-R229, R237-R260: a command of `commandRows` (SCOPY, SGATHER, SSCATTER, SFILL, MXCFG, MXRUN, MXLDACC, MXSTACC,
VMAP, VRED, WINCFG, WINRUN, DECODE, COLL, STOK, TOKS) whose block can be read and passes its section's check sends its
handle to T0 and T1 and buffers the command, with the block's bytes as they stand, at its LSID; SPARAM and MXREL, which
have no block, do so with their operands. -/
def Obligations.CommandsIssued : Prop :=
  ∀ (f : FmtE) (s : State) (l : Lane) (i : Inst) (q : Quad) (c : Context), Fires s f.pr l i →
    s.quad? i.frame.quad = some q → s.ctx? i.frame.strand.cx = some c → c.indexOf q < 128 →
    i.frame.strand.tag < 2 ^ 40 →
    (∀ ins ∈ [Instr.scopy f, .sgather f, .sscatter f, .sfill f, .mxcfg f, .mxrun f, .mxldacc f, .mxstacc f, .vmap f, .vred f,
      .wincfg f, .winrun f, .decode f, .coll f, .stok f, .toks f], ∃ r ∈ commandRows, r.ins f = ins) ∧
    (∀ r ∈ commandRows, ∀ (a : Word) (bs : List Byte) (k : Checked), One l a → BlockRead s i a r.size bs →
      r.check f c q i a bs = .ok k → BarrierAdmits s i r.kind f.cmd →
      IssuesCommand s l i q c f (exec (r.ins f) s) r.op a 0 bs k.foots) ∧
    (∀ h v : Word, Two l h v → BarrierAdmits s i 1 f.cmd →
      IssuesCommand s l i q c f (exec (.sparam f) s) 0x164 h v [] []) ∧
    (BarrierAdmits s i 2 f.cmd → IssuesCommand s l i q c f (exec (.mxrel f) s) 0x169 0 0 [] [])

/-- R228, for each command of `commandRows`: a null operand sends nulls and resolves the LSID; a block outside [0, T)
takes NEAR_RANGE, one off a 64-byte boundary ALIGN, one that meets an earlier write interval is abandoned with 0x83, one
with poison takes POISON; a failed check takes its fault, a barrier that does not admit the command ENGINE_ERROR. That the
block's fault or abandonment comes before the barrier's check is the model's choice (notes/assumptions 32). SPARAM's null is
stated with the nulls. -/
def Obligations.CommandsRefused : Prop :=
  ∀ (f : FmtE) (s : State) (l : Lane) (i : Inst) (q : Quad) (c : Context), Fires s f.pr l i →
    s.quad? i.frame.quad = some q → s.ctx? i.frame.strand.cx = some c → ∀ r ∈ commandRows,
    (l.ops.left = some .null → exec (r.ins f) s =
      .next ((s.issued.resolveLsid l.inst f.lsid.toNat).deliver l.inst l.slot .null [f.t0, f.t1])) ∧
    ∀ a : Word, One l a →
      (r.size ≠ 0 → s.tileTop q < a.toNat + r.size →
        exec (r.ins f) s = .next (s.issued.takeFault i .nearRange (some l.slot) 0 a.toNat)) ∧
      (r.size ≠ 0 → a.toNat + r.size ≤ s.tileTop q → a.toNat % 64 ≠ 0 →
        exec (r.ins f) s = .next (s.issued.takeFault i .align (some l.slot) 0 a.toNat)) ∧
      (r.size ≠ 0 → a.toNat + r.size ≤ s.tileTop q → a.toNat % 64 = 0 → ¬ q.clearOfWrites a.toNat r.size →
        ∃ e, exec (r.ins f) s =
          .next (s.issued.abandon i 0x83 (.conflict i.frame.quad e a.toNat (a.toNat + r.size)))) ∧
      (r.size ≠ 0 → a.toNat + r.size ≤ s.tileTop q → a.toNat % 64 = 0 → q.clearOfWrites a.toNat r.size →
        (s.scrubBlock i a r.size).poisoned (vaultBase i.frame.quad + a.toNat) r.size = true →
        exec (r.ins f) s = .next ((s.issued.scrubBlock i a r.size).takeFault i .poison (some l.slot) 0 a.toNat)) ∧
      (∀ bs code, BlockRead s i a r.size bs → r.check f c q i a bs = .error code →
        ∃ addr, exec (r.ins f) s = .next ((s.issued.scrubBlock i a r.size).takeFault i code (some l.slot) 0 addr) ∧
          (code ≠ .permission → addr = 0)) ∧
      (∀ bs k, BlockRead s i a r.size bs → r.check f c q i a bs = .ok k → ¬ BarrierAdmits s i r.kind f.cmd →
        exec (r.ins f) s = .next ((s.issued.scrubBlock i a r.size).takeFault i .engineError (some l.slot) 0 0))

/-- R261: HQUERY sends the number of pending commands of the handle and whether a report is kept; RSQUERY sends the free
and used entries of the home scoreboard and whether the lines meet a registered write or read interval. Both resolve their
LSID and issue nothing. -/
def Obligations.QueryResults : Prop :=
  ∀ (f : FmtE) (s : State) (l : Lane) (i : Inst) (q : Quad) (c : Context) (a : Word), Fires s f.pr l i → One l a →
    s.quad? i.frame.quad = some q → s.ctx? i.frame.strand.cx = some c →
    let gives := fun (v : Word) =>
      Host.Outcome.next ((s.issued.resolveLsid l.inst f.lsid.toNat).deliver l.inst l.slot (.val v) [f.t0, f.t1])
    let tag := (a.extractLsb' 16 40).toNat
    let lsid := (a.extractLsb' 11 5).toNat
    (∃ v, exec (.hquery f) s = gives v ∧ v.extractLsb' 17 47 = 0 ∧
      ∀ home, c.quadOf? (tag / 2 ^ 36) (a.extractLsb' 56 7).toNat = some home → tag < 2 ^ 40 →
        v.extractLsb' 0 16 = BitVec.ofNat 16 ((s.cmds.filter fun p =>
          p.cmd.cx = c.id ∧ p.cmd.quad = home ∧ p.cmd.tag = tag ∧ p.cmd.lsid = lsid).length) ∧
        (v.getLsbD 16 = true ↔ ∃ x w n, s.quad? home = some x ∧ Entry.report tag lsid w n ∈ x.entries)) ∧
    (q.entries.length ≤ 64 → ∃ v, exec (.rsquery f) s = gives v ∧ v.extractLsb' 18 46 = 0 ∧
      v.extractLsb' 7 1 = 0 ∧ v.extractLsb' 15 1 = 0 ∧
      v.extractLsb' 0 7 = BitVec.ofNat 7 (64 - q.entries.length) ∧ v.extractLsb' 8 7 = BitVec.ofNat 7 q.entries.length ∧
      let n := 64 * (f.cmd.setWidth 16).toNat
      (v.getLsbD 16 = true ↔ ∃ k m rd wr, Entry.pending k m rd wr ∈ q.entries ∧
        overlaps a.toNat n wr.lo (wr.hi - wr.lo) = true) ∧
      (v.getLsbD 17 = true ↔ ∃ k m rd wr, Entry.pending k m rd wr ∈ q.entries ∧
        overlaps a.toNat n rd.lo (rd.hi - rd.lo) = true))

/-! ### System, observation, traps (chapter 16) -/

/-- R343, R344: SRD sends the register its imm9 names, as the instance or its quad or context holds it; %emberq joins the
counts of the quad's embers in the context's HBM pool and of those in its vault's pool to the length of its ready list. -/
def Obligations.StatusReads : Prop :=
  ∀ (f : FmtI) (s : State) (l : Lane) (i : Inst) (q : Quad) (c : Context), Fires s f.pr l i →
    s.quad? i.frame.quad = some q → s.ctx? i.frame.strand.cx = some c →
    let st := i.frame.strand
    let gives := fun (v : Nat) => exec (.srd f) s = sends s l [f.t0] (.val (BitVec.ofNat 64 v))
    (f.imm9 = 0x00 → gives st.cx.num) ∧ (f.imm9 = 0x01 → gives st.cx.vf) ∧
    (f.imm9 = 0x02 → ∀ d, c.decl? q.ldie = some d → gives (d.h * 4096 + d.w * 256 + q.ldie)) ∧
    (f.imm9 = 0x03 → gives (c.indexOf q * 256 + q.y * 16 + q.x)) ∧
    (f.imm9 = 0x04 → gives i.frame.elem) ∧ (f.imm9 = 0x05 → gives q.ldie) ∧ (f.imm9 = 0x06 → gives st.tag) ∧
    (f.imm9 = 0x07 → ∀ p : Space, s.space? st.cx (tagSpace st.tag) = some p →
      gives ((if p.ordered then 2 ^ 24 else 0) + p.k * 2 ^ 16 + p.level * 256 + p.num)) ∧
    (f.imm9 = 0x08 → gives i.fpctl0) ∧ (f.imm9 = 0x09 → gives i.seed0.toNat) ∧ (f.imm9 = 0x0A → gives s.clk) ∧
    (f.imm9 = 0x0B → ∀ w, q.width[i.frame.elem]? = some w → gives (w.1 % 2 ^ 32 * 2 ^ 32 + w.2 % 2 ^ 32)) ∧
    (f.imm9 = 0x0C → gives c.energySeen) ∧ (f.imm9 = 0x0D → gives c.budgetSeen) ∧
    (f.imm9 = 0x0E → gives (c.params.cls * 4 + c.clsSeen)) ∧ (f.imm9 = 0x0F → gives c.faultSeen.toNat) ∧
    (f.imm9 = 0x10 →
      let hbm := (s.embers.filter fun e => e.quad = q.id ∧ e.pool = .hbm).length
      let vault := (s.embers.filter fun e => e.pool = .vault q.id).length
      gives (hbm % 2 ^ 32 * 2 ^ 32 + vault % 2 ^ 16 * 2 ^ 16 + q.ready.length % 2 ^ 13)) ∧
    (f.imm9 = 0x11 → gives i.mergedrop0.toNat) ∧ (f.imm9 = 0x12 → gives i.capfence0.toNat) ∧
    (f.imm9 = 0x13 → gives i.replay0.toNat) ∧ ∃ v, gives v

/-- R346-R348: CLK sends %clk to T0 and the start clock to T1, ENRD the strand's energy and %energy, PERFRD its counter;
a shared counter reads zero for any function but the counting one. -/
def Obligations.CounterReads : Prop :=
  ∀ (s : State) (l : Lane) (i : Inst) (q : Quad) (c : Context), s.quad? i.frame.quad = some q →
    s.ctx? i.frame.strand.cx = some c →
    let pair := fun (v w : Nat) (t0 t1 : BitVec 9) => Host.Outcome.next
      ((s.issued.deliver l.inst l.slot (.val (BitVec.ofNat 64 v)) [t0]).deliver l.inst l.slot (.val (BitVec.ofNat 64 w)) [t1])
    (∀ f : FmtG, Fires s f.pr l i →
      exec (.clk f) s = pair s.clk i.startClk f.t0 f.t1 ∧
      exec (.enrd f) s = pair (i.frame.strand.energy / 65536) c.energySeen f.t0 f.t1) ∧
    (∀ f : FmtI, Fires s f.pr l i →
      let n := f.imm9.toNat
      let gives := fun (v : Nat) => exec (.perfrd f) s = sends s l [f.t0] (.val (BitVec.ofNat 64 v))
      (∀ v, n < 0x20 → q.counters[n]? = some v → gives v) ∧
      (∀ v, 0x20 ≤ n → i.frame.strand.cx.vf = s.counting → s.shared[n - 0x20]? = some v → gives v) ∧
      (0x20 ≤ n → i.frame.strand.cx.vf ≠ s.counting → gives 0))

/-- R345, R350-R352, R355, R360, R361: SWR buffers its write, TRACE its record, SNUFF and FWCALL what they ask for when
the function has PRIV, FWCALL sending its check code; ASSERT of 1 and a disabled BKPT do nothing. A null at port 01 leaves
each unperformed: it resolves TRACE's LSID and goes to FWCALL's targets (R342). That FWCALL passes at its firing with a
command code the spec does not define is the model's choice (notes/assumptions 31). -/
def Obligations.SystemEffects : Prop :=
  ∀ (s : State) (l : Lane) (i : Inst),
    (∀ (f : FmtI) (v : Word), Fires s f.pr l i → One l v → f.imm9 ∈ [0x08#9, 0x09, 0x11, 0x12, 0x13] →
      exec (.swr f) s = .next (s.issued.modInst l.inst fun i =>
        { i with swrs := i.swrs ++ [⟨l.slot, f.imm9.toNat, v⟩] })) ∧
    (∀ (f : FmtS) (v : Word), Fires s f.pr l i → One l v →
      exec (.trace f) s = buffers s l f.lsid (.trace f.imm16.toNat v)) ∧
    (∀ (f : FmtG) (v : Word), Fires s f.pr l i → One l v →
      (v.getLsbD 0 = true → exec (.assert f) s = .next s.issued) ∧
      ((s.func i.frame.strand.cx.vf).priv = true →
        exec (.snuff f) s = .next (s.issued.modInst l.inst fun i =>
          { i with snuffs := i.snuffs ++ [(v.setWidth 10).toNat] }) ∧
        ∀ bs, BlockRead s i v 64 bs →
          let w0 := fieldAt bs 0
          let w2 := fieldAt bs 16
          let reserved := 2 ^ 16 ≤ w0 ∨ 2 ^ 7 ≤ w2 ∨ fieldAt bs 8 % 16 ≠ 0
          let outside := i.frame.strand.cx.vf ≠ 0 ∧ w0 ∈ [0x0B, 0x0D, 0x0E, 0x10, 0x11, 0x12]
          let nobar := 2 ^ 6 ≤ w2 ∧ ¬ BarrierNamed s i (w2 % 64)
          let s0 := s.issued.scrubBlock i v 64
          let code := fun (k : Word) => Host.Outcome.next (s0.deliver l.inst l.slot (.val k) [f.t0, f.t1])
          (reserved → exec (.fwcall f) s = code 1) ∧
          (¬ reserved → outside → exec (.fwcall f) s = code 2) ∧
          (¬ reserved → ¬ outside → nobar → exec (.fwcall f) s = code 3) ∧
          (¬ reserved → ¬ outside → ¬ nobar → exec (.fwcall f) s =
            .next ((s0.modInst l.inst fun i => { i with fwcalls := i.fwcalls ++ [bs] }).deliver l.inst l.slot (.val 0)
              [f.t0, f.t1])))) ∧
    (∀ (f : FmtG) (c : Context), Fires s f.pr l i → s.ctx? i.frame.strand.cx = some c →
      c.params.bkpts = false ∨ i.frame.strand.bkptSlot = some l.slot → exec (.bkpt f) s = .next s.issued) ∧
    (l.ops.left = some .null →
      (∀ f : FmtI, Fires s f.pr l i → exec (.swr f) s = .next s.issued) ∧
      (∀ f : FmtS, Fires s f.pr l i → exec (.trace f) s = .next (s.issued.resolveLsid l.inst f.lsid.toNat)) ∧
      ∀ f : FmtG, Fires s f.pr l i → exec (.snuff f) s = .next s.issued ∧ exec (.assert f) s = .next s.issued ∧
        exec (.fwcall f) s = sends s l [f.t0, f.t1] .null)

/-- R345, R351, R352, R360, R361: SWR of a read-only register, and SNUFF and FWCALL without PRIV, take PRIVILEGE; ASSERT
of 0 takes ASSERT, an enabled BKPT takes BKPT, each with its slot. -/
def Obligations.SystemFaults : Prop :=
  ∀ (s : State) (l : Lane) (i : Inst),
    (∀ (f : FmtI) (v : Word), Fires s f.pr l i → One l v →
      f.imm9 ∈ [0x00#9, 0x01, 0x02, 0x03, 0x04, 0x05, 0x06, 0x07, 0x0A, 0x0B, 0x0C, 0x0D, 0x0E, 0x0F, 0x10] →
      exec (.swr f) s = .next (s.issued.takeFault i .privilege (some l.slot) 0 0)) ∧
    (∀ (f : FmtG) (v : Word), Fires s f.pr l i → One l v →
      (v.getLsbD 0 = false → exec (.assert f) s = .next (s.issued.takeFault i .assert (some l.slot) 0 0)) ∧
      ((s.func i.frame.strand.cx.vf).priv = false →
        exec (.snuff f) s = .next (s.issued.takeFault i .privilege (some l.slot) 0 0) ∧
        exec (.fwcall f) s = .next (s.issued.takeFault i .privilege (some l.slot) 0 0))) ∧
    (∀ (f : FmtG) (c : Context), Fires s f.pr l i → s.ctx? i.frame.strand.cx = some c →
      c.params.bkpts = true → i.frame.strand.bkptSlot ≠ some l.slot →
      exec (.bkpt f) s = .next (s.issued.takeFault i .bkpt (some l.slot) 0 0))

/-! ### Taking an exception; abandonment (chapters 02, 04 and 17) -/

/-- R82 (fault), R365, R367, R368: a strand-kind fault where a handler is named and no stop mask selects it. The instance
ends with none of its effects performed; its strand becomes one more ember, whose REASON is the code, with every register
live, the frame's registers and the block itself as continuation; and K's queue for the context gets the record of it.
R353: where the stop mask selects the code, or no handler is named, the instance stays as it stands and is held. -/
def Obligations.TakingAFault : Prop :=
  ∀ (s : State) (i : Inst) (c : Context) (code : FaultCode) (slot : Option Nat) (detail addr : Nat),
    s.inst? i.id = some i → s.ctx? i.frame.strand.cx = some c → code ≠ .emberOverflow →
    let t := s.takeFault i code slot detail addr
    let st := i.frame.strand
    ∃ (r : FaultRec) (c' : Context), t.ctx? st.cx = some c' ∧ c'.faults = c.faults ++ [r] ∧ r.code = code ∧ r.kind = 0 ∧
      r.slotNo = slot ∧ r.detail = detail ∧ r.addr = addr ∧ r.block = i.addr ∧ r.tag = st.tag ∧ t.frames = s.frames ∧
      t.commits = s.commits ∧
      (c.params.handler ≠ 0 → bitOf c.params.stopMask code.num = false → ∃ (e : Ember), t.embers = s.embers ++ [e] ∧
        e.strand.sid = st.sid ∧ e.strand.tag = st.tag ∧ e.strand.cx = st.cx ∧ e.strand.energy = st.energy + s.laneEnergy i ∧
        e.reason = code.num ∧ e.live = 0xFFFFFFFF ∧ e.regs = i.frame.regs ∧ e.cont = i.addr ∧ e.exit = 0 ∧
        e.quad = i.frame.quad ∧ e.wait = .fault ∧ r.ember = some e.id ∧
        t.insts = s.insts.filter (fun j => j.id ≠ i.id) ∧ t.flying = s.flying.filter (fun k => k.inst ≠ i.id)) ∧
      (c.params.handler = 0 ∨ bitOf c.params.stopMask code.num = true → r.ember = none ∧
        t.inst? i.id = some { i with held := true } ∧ t.embers = s.embers ∧ t.flying = s.flying)

/-- R39, R40: an abandonment with pool space, or with reason 0x86, whose ember is held in the saved image. The instance
ends with none of its effects performed, its strand becomes one more ember that waits for the cause, re-executing the same
block with the frame it began with; %replay counts one; no fault is raised. -/
def Obligations.Abandonment : Prop :=
  ∀ (s : State) (i : Inst) (c : Context) (q : Quad) (reason : Nat) (wait : Wait), reason ≠ 0x87 →
    s.inst? i.id = some i → s.ctx? i.frame.strand.cx = some c → s.quad? i.frame.quad = some q →
    i.frame.strand.handler = none → c.params.traceMask = 0 →
    reason = 0x86 ∨ (s.findSpace i.frame.strand.cx i.frame.quad 320 []).isSome →
    let t := s.abandon i reason wait
    let st := i.frame.strand
    ∃ (e : Ember) (q' : Quad), t.embers = s.embers ++ [e] ∧ e.strand.sid = st.sid ∧ e.strand.tag = st.tag ∧
      e.reason = reason ∧ e.wait = wait ∧ e.live = 0xFFFFFFFF ∧ e.regs = i.frame.regs ∧ e.cont = i.addr ∧
      e.size = 320 ∧ (reason = 0x86 → e.pool = .image) ∧ (reason ≠ 0x86 → s.findSpace st.cx i.frame.quad 320 [] = some
        (e.pool, e.addr, 320)) ∧ (reason ≤ 0x83 → e.strand.refusals = st.refusals + 1) ∧
      t.quad? i.frame.quad = some q' ∧ q'.replay = q.replay + 1 ∧
      t.insts = s.insts.filter (fun j => j.id ≠ i.id) ∧ t.frames = s.frames ∧ t.commits = s.commits ∧
      t.ctx? st.cx = some c

/-! ### Device steps: from a frame to its commit (chapters 02 to 04)

The clock of one step and the order in which steps are tried are the model's own (notes/assumptions 2). -/

/-- R68, R75, R77, R36, R290-R292: fetch, start, matching, issue and starvation complete under their conditions. A block
that passes its checks is mapped; the earliest start request becomes an instance with the frame's registers and no effects,
its frame gone; a token fills an idle port, the producer's lowest slot first of several on their way there, or is dropped and
counted at a slot that has matched or a port that is full, and MERGE drops its unselected token once the selector is there;
the oldest instance's lowest ready slot fires, alone without GATHER and with at most seven others of the slot with it; an
instance at rest whose conditions are unmet takes BLOCK_STARVED. -/
def Obligations.DataflowSteps : Prop :=
  ∀ (s : State),
    (∀ (n : Nat) (t : Flying) (i : Inst) (q : Quad), s.flying.find? (·.id = n) = some t → s.inst? t.inst = some i →
      i.held = false → s.quad? i.frame.quad = some q → s.quadRuns q = true →
      (∀ x ∈ s.flying, x.inst = t.inst → x.slot = t.slot → x.port = t.port → t.from' ≤ x.from') →
      Completes (exec (.evTokenArrival n) s) fun s' => s'.flying = s.flying.filter (·.id ≠ n) ∧
        ∃ j : Inst, s'.inst? t.inst = some j ∧ j.flying = i.flying.filter (· ≠ n) ∧
          ∀ (x : SlotState) (ins : Instr), i.slots.find? (·.slot = t.slot) = some x → i.instrAt? t.slot = some ins →
            let full := x.status ∈ [.fired, .ready, .marked] ∨ (x.status = .idle ∧ (x.ops.get t.port).isSome)
            (full → j.drops = i.drops + 1 ∧
              ∀ k, (j.slots.find? (·.slot = k)).map (·.ops) = (i.slots.find? (·.slot = k)).map (·.ops)) ∧
            (x.status = .idle → x.ops.get t.port = none → ∃ y : SlotState, j.slots.find? (·.slot = t.slot) = some y ∧
              let o := x.ops.set t.port t.tok
              let m := matchOf (portsOfInstr ins) (prOf ins) o
              (m = .wait → y.status = .idle) ∧ (m = .fire → y.status = .marked ∨ y.status = .ready) ∧
              (m = .absorb → ∃ a b, y.status = .absorbed a b true) ∧
              ((∀ f, ins ≠ .merge f) → y.ops = o ∧ j.drops = i.drops) ∧
              ((∃ f, ins = .merge f) → ∀ w : Word, o.third = some (.val w) → y.ops.third = o.third ∧
                (w.getLsbD 0 = true → y.ops.left = o.left ∧ y.ops.right = none ∧
                  j.drops = i.drops + if o.right.isSome then 1 else 0) ∧
                (w.getLsbD 0 = false → y.ops.right = o.right ∧ y.ops.left = none ∧
                  j.drops = i.drops + if o.left.isSome then 1 else 0)))) ∧
    (∀ (die idx elem : Nat) (q : Quad) (b : Inst) (n : Nat), QuadAt s die idx q →
      let u := s.fillQueue q.id elem
      let ready := fun (j : Inst) => j ∈ u.insts ∧ j.frame.quad = q.id ∧ j.frame.elem = elem ∧ j.held = false ∧
        j.readySlots ≠ []
      ready b → n ∈ b.readySlots → (∀ k ∈ b.readySlots, n ≤ k) → (∀ j : Inst, ready j → b.age < j.age ∨ j = b) →
      Completes (exec (.evElementIssue die idx elem) s) fun s' => ∃ (first : Lane) (more : List Lane), s'.lanes = s.lanes ++ first :: more ∧
        first.inst = b.id ∧ first.slot = n ∧ (b.header.gather = false → more = []) ∧
        more.length ≤ 7 ∧ (∀ l ∈ more, l.slot = n ∧ ∃ j ∈ u.insts, l.inst = j.id ∧ j.addr = b.addr)) ∧
    (∀ (die idx elem : Nat) (q : Quad) (f : Frame) (c : Context) (s1 : State) (bs : List Byte) (h : Header), QuadAt s die idx q →
      s.nextStart? q elem = some f → s.ctx? q.cx = some c → q.mapped? elem f.block = none → f.strand.pend = none →
      fetchBlock (.quad q.id) s c f.block = (s1, .ok bs) → s.pathsClear →
      let body := slotsOf (4 * (bitsOf (leNat (bs.take 8)) 8 4 + 1)) (bs.drop 16)
      checkBlock (leNat (bs.take 8)) (leNat ((bs.drop 8).take 8)) body = .ok h →
      mappedSlots elem q.mapped + body.length ≤ 4096 →
      Completes (exec (.evBlockFetch die idx elem) s) fun s' => ∃ (q' : Quad) (m : Mapped), s'.quad? q.id = some q' ∧ m ∈ q'.mapped ∧
        m.elem = elem ∧ m.addr = f.block ∧ m.header = h ∧ m.body = body) ∧
    (∀ (die idx elem : Nat) (q : Quad) (f : Frame) (m : Mapped), QuadAt s die idx q → s.nextStart? q elem = some f →
      f.strand.pend = none → q.mapped? elem f.block = some m → s.matchUsed q.id + m.body.length ≤ s.matchCapacity q →
      Completes (exec (.evBlockInstanceStart die idx elem) s) fun s' => ∃ i : Inst,
        s'.insts.length = s.insts.length + 1 ∧ s'.insts.getLast? = some i ∧
        s'.frames = s.frames.filter (fun x => x.strand.sid ≠ f.strand.sid) ∧ i.frame.regs = f.regs ∧
        i.frame.strand.tag = f.strand.tag ∧ i.frame.strand.sid = f.strand.sid ∧ i.addr = m.addr ∧ i.header = m.header ∧
        i.body = m.body ∧ i.startClk = s.clk ∧ i.seed0 = q.srseed ∧ i.fpctl0 = q.fpctl ∧ i.wbuf = [] ∧ i.effs = [] ∧
        i.exits = [] ∧ i.resolved = [] ∧ i.held = false) ∧
    (∀ (n : Nat) (i : Inst) (q : Quad), s.inst? n = some i → i.held = false → s.quad? i.frame.quad = some q →
      s.quadRuns q = true → i.flying = [] → i.readySlots = [] → i.markedSlots = [] → (∀ l ∈ s.lanes, l.inst ≠ i.id) →
      (i.exitMet = false ∨ i.effectsMet = false ∨ i.writesMet = false) →
      exec (.evBlockStarved n) s = .next (s.takeFault i .blockStarved none 0 0).tick)

/-- R34, R35, R37, R38, R43, R44, R50, R112, R188, R221, R302, R345, R350: a commit whose step 1 fails takes its fault or is
abandoned and performs nothing; one that succeeds, and a parked one whose wait is over, goes on. Its exit: a branch leaves its
strand a frame at the target, in its quad or on the way to another, with memory as it was, each register the highest written
value or what it was, c31 the next block for a call, its refusals counted from zero again; END leaves none and takes the
strand from its space's count; a far load leaves an ember with the LIVE registers and sends its request with that ember
written; TRAP leaves an ember at the next block and the fault. At step 4 the quad's %fpctl keeps the flags no SWR cleared and
takes the instance's, %srseed and the counters take the SWR's value, %mergedrop the drops beside. A footprint enters its
vault's sequence. -/
def Obligations.CommitSteps : Prop :=
  ∀ (s : State),
    (∀ (i : Inst) (c : Context) (q : Quad), MayCommit s i c q →
      Completes (exec (.evCommit i.id) s) fun t =>
        (∀ (code : FaultCode) (slot : Option Nat) (d a : Nat), (reserve s c i).2 = .error (.fault code slot d a) →
          t = ((reserve s c i).1.takeFault i code slot d a).tick) ∧
        (∀ (reason : Nat) (w : Wait), (reserve s c i).2 = .error (.refuse reason w) →
          t = ((reserve s c i).1.abandon i reason w).tick) ∧
        (∀ pa : Nat, (reserve s c i).2 = .error (.breach pa) → t = ((reserve s c i).1.breach c.id 0 pa 0).tick) ∧
        ∀ ex : Exit, Plain s i c ex → i.effs = [] →
          (∀ (tgt kind el : Nat) (p : QuadId), BranchesTo i c ex tgt kind p el →
            t.mem = s.mem ∧ t.insts = s.insts.filter (·.id ≠ i.id) ∧
            ∃ f : Frame, (p = q.id → t.frames = s.frames ++ [f]) ∧
              (p ≠ q.id → t.frames = s.frames ∧
                ∃ m ∈ t.msgs, m.src = .quad q.id ∧ m.dst = .quad p ∧ m.body = .frame f false) ∧
              f.block = tgt ∧ f.quad = p ∧ f.elem = el ∧ f.strand.tag = i.frame.strand.tag ∧
              f.strand.sid = i.frame.strand.sid ∧ f.strand.refusals = 0 ∧ f.regs.length = 32 ∧
              ∀ r < 32, f.regs[r]? = some (if kind = 1 ∧ r = 31 then BitVec.ofNat 64 i.after else i.carry r)) ∧
          (∀ p : Space, ex.op = .finish → s.space? i.frame.strand.cx (tagSpace i.frame.strand.tag) = some p →
            p.ordered = false → p.freeing = [] → p.gen = tagGen i.frame.strand.tag →
            (∀ x ∈ s.posted, x.sid ≠ i.frame.strand.sid) →
            t.mem = s.mem ∧ t.insts = s.insts.filter (·.id ≠ i.id) ∧ t.frames = s.frames ∧
            t.embers.map (·.id) = s.embers.map (·.id) ∧
            ∃ p' : Space, t.space? i.frame.strand.cx (tagSpace i.frame.strand.tag) = some p' ∧ p'.live = p.live - 1 ∧
              p'.allocated = p.allocated ∧ p'.held = p.held) ∧
          (∀ (v : Reserved), (reserve s c i).2 = .ok v →
            (∀ (acq : Bool) (va n opc cont dst : Nat), ex.op = .far (.load acq va n) opc cont dst → t.frames = s.frames ∧
              ∃ e ∈ t.embers, e.strand.sid = i.frame.strand.sid ∧ e.strand.tag = i.frame.strand.tag ∧ e.reason = 0x80 ∧
                e.wait = .reply ∧ e.cont = cont ∧ e.reply = dst ∧ e.op = opc ∧ e.exit = ex.id ∧ e.live = i.header.live ∧
                v.space.head? = some (e.pool, e.addr, e.size) ∧
                (∀ r < 32, bitOf e.live r = true → e.regs[r]? = some (i.carry r)) ∧
                ∃ (m : Msg) (a : Access), m ∈ t.msgs ∧ m.src = .quad q.id ∧ m.dst = s.homeOf a.pa ∧ m.body = .far e.id a ∧
                  a.va = va ∧ a.n = n ∧ a.op = none ∧ a.write = false ∧ a.acq = acq ∧ a.pa = valueOf ex.slot 0 v.pas) ∧
            (∀ code : Nat, ex.op = .trap code → t.frames = s.frames ∧
              ∃ e ∈ t.embers, e.strand.sid = i.frame.strand.sid ∧ e.strand.tag = i.frame.strand.tag ∧ e.reason = 0x1C ∧
                e.wait = .fault ∧ e.cont = i.after ∧ e.exit = ex.id ∧ e.live = i.header.live ∧
                (∀ r < 32, bitOf e.live r = true → e.regs[r]? = some (i.carry r)) ∧
                ∃ (c' : Context) (r : FaultRec), t.ctx? c.id = some c' ∧ c'.faults = c.faults ++ [r] ∧ r.code = .trap ∧
                  r.kind = 0 ∧ r.detail = code ∧ r.block = i.addr ∧ r.ember = some e.id) ∧
            (ex.op ≠ .finish → ∃ q' : Quad, t.quad? q.id = some q' ∧
              (i.swrs = [] → q'.fpctl = q.fpctl ||| i.flags ∧ q'.srseed = q.srseed ∧ q'.capfence = q.capfence ∧
                q'.replay = q.replay ∧ q'.mergedrop = q.mergedrop + BitVec.ofNat 64 i.drops) ∧
              ∀ (slot reg : Nat) (w : Word), i.swrs = [⟨slot, reg, w⟩] →
                (∀ b < 5, q'.fpctl.testBit b = (i.flags.testBit b || (q.fpctl.testBit b && !(reg == 8 && w.getLsbD b)))) ∧
                q'.srseed = (if reg = 9 then w else q.srseed) ∧ q'.replay = (if reg = 0x13 then w else q.replay) ∧
                q'.capfence = (if reg = 0x12 then w else q.capfence) ∧
                q'.mergedrop = (if reg = 0x11 then w else q.mergedrop) + BitVec.ofNat 64 i.drops))) ∧
    (∀ (n : Nat) (r : CommitRec) (c : Context), s.commits.find? (fun x => x.inst.id = n ∧ x.parked = true) = some r →
      s.ctx? r.inst.frame.strand.cx = some c → s.waitOver r = true → s.unitFree r.inst.frame.quad = true →
      (∃ q : Quad, s.quad? r.inst.frame.quad = some q ∧ q.snuff = .none) → s.pathsClear →
      (∀ x ∈ s.commits, x.parked = true → x.inst.frame.quad = r.inst.frame.quad → x.wait = r.wait → x.inst.id = n) →
      Completes (exec (.evParkedCommitResume n) s) fun t => t = (runStep3 c { r with parked := false } r.todo s).tick) ∧
    (∀ (n : Nat) (m : Msg) (cid : Nat) (q : QuadId) (p : Pending) (x : Quad), Arrives s n m (.register cid q) →
      s.cmd? cid = some p → s.quad? q = some x → (∀ st ∈ s.strands, st.resv = none) →
      Completes (exec (.evFootprintRegistration n) s) fun t => s.commits = [] → p.cmd.op ≠ 0x16C →
        ∃ (x' : Quad) (rd wr : Interval), t.quad? q = some x' ∧ x'.entries = x.entries.erase (.reserved p.cmd.sid) ++ [.pending cid x.vseq rd wr] ∧
          x'.vseq = x.vseq + 1 ∧ (∀ f : Footprint, p.cmd.foots.find? (·.quad = q) = some f → rd = f.rd ∧ wr = f.wr))

/-! ### Memory as commits and homes write it -/

/-- R37 (step 2), R208, R210, R217: a commit whose one effect is a near store or a near atomic, and a posted far store at its
home, write the bytes of the access, lowest byte lowest, and no other byte of memory; an atomic's are its new value of R210.
The near address is the vault's base plus the effect's near address, the far one the access's physical address. R37 (step 3),
R47, R180, R219, R269, R270, R274: a commit whose one effect is a SPAWN or SPAWNR deposits its ember with the tag, block and
registers of a seed or range, counts it in its space and holds its iterations; TSFREE frees its space; TAGREL frees its
iteration where nothing of it is left, and marks its own; XMIT takes a credit and sends its token; a .sys FENCE of a function
without the .sys scope counts in %capfence; a command enters its footprints' registration.

R57-R59, R265: of an iteration that is not the oldest of its ordered space, a far exit is refused with 0x85, a near store enters
the space's buffer, from which it reads it back, and memory is as it was; its END only marks it. When the oldest retires, the
next iteration's buffered bytes are written and it is the oldest. -/
def Obligations.StoreFrames : Prop :=
  ∀ (s : State), s.memOk = true →
    (∀ (i : Inst) (c : Context) (lsid slot ea n : Nat) (v : Word), s.nonOldest i.frame.strand = true →
      let st := i.frame.strand
      (i.exits.any (·.op.forbidden) = true → (reserve s c i).2 = .error (.refuse 0x85 .oldest)) ∧
      (i.nearSet = [⟨lsid, slot, .store ea n v⟩] → n ≤ 8 → (∀ p ∈ s.specs, p.lines = []) →
        (∃ p ∈ s.specs, p.isOf st.cx (tagSpace st.tag) (tagIter st.tag) = true ∧ p.quad = i.frame.quad) →
        let t := (nearEffects s i).1
        t.mem = s.mem ∧ ∀ k < n, t.specByte st i.frame.quad (ea + k) = v.extractLsb' (8 * k) 8) ∧
      (let t := s.leave st i.frame.quad
       t.mem = s.mem ∧ t.retiring = s.retiring ∧ t.contexts = s.contexts ∧
         ∀ p ∈ t.specs, p.isOf st.cx (tagSpace st.tag) (tagIter st.tag) = true → p.ended = true)) ∧
    (∀ (cx : CtxId) (sp : Nat) (p : Space) (x y : SpecIter) (w : Word), s.space? cx sp = some p →
      s.specs = [x, y] → x.isOf cx sp p.retiredBelow = true → x.regs[1]? = some w → w.toNat % 2 ^ 17 = p.retiredBelow + 1 →
      y.isOf cx sp (p.retiredBelow + 1) = true → y.ended = false → y.traces = [] → (y.bytes.map (·.1)).Nodup →
      let t := s.advance cx sp 1
      (∃ p' : Space, t.space? cx sp = some p' ∧ p'.retiredBelow = p.retiredBelow + 1) ∧
      (∀ b ∈ y.bytes, t.byteAt (vaultBase y.quad + b.1) = b.2) ∧
      (∀ a : Nat, (∀ b ∈ y.bytes, a ≠ vaultBase y.quad + b.1) → t.byteAt a = s.byteAt a) ∧
      ∃ y' : SpecIter, t.specs = [y'] ∧ y'.bytes = [] ∧ y'.lines = [] ∧ y'.iter = y.iter) ∧
    (∀ (i : Inst) (c : Context) (q : Quad) (ex : Exit) (lsid slot tgt kind el : Nat) (eff : Effect), MayCommit s i c q →
      Plain s i c ex → BranchesTo i c ex tgt kind q.id el → i.swrs = [] → i.effs = [⟨lsid, slot, eff⟩] →
      Completes (exec (.evCommit i.id) s) fun t =>
        (∀ (ea n : Nat) (v : Word), s.specs = [] → 1 ≤ n → n ≤ 8 → q.clearOfAccesses ea n →
          let a := vaultBase i.frame.quad + ea
          (eff = .store ea n v → (∀ b, b < a ∨ a + n ≤ b → t.byteAt b = s.byteAt b) ∧
            ∀ k < n, t.byteAt (a + k) = v.extractLsb' (8 * k) 8) ∧
          (∀ (op : Rmw) (old : BitVec (8 * n)), eff = .atomic op ea n v →
            (s.scrub a n).nearPoisoned i.frame.strand i.frame.quad ea n = false →
            (∀ k < n, s.byteAt (a + k) = old.extractLsb' (8 * k) 8) →
            (∀ b, b < a ∨ a + n ≤ b → t.byteAt b = s.byteAt b) ∧
            ∀ k < n, t.byteAt (a + k) = (atomicNew op (8 * n) old (v.setWidth _) 0).extractLsb' (8 * k) 8)) ∧
        ∀ v : Reserved, (reserve s c i).2 = .ok v →
          let cx := i.frame.strand.cx
          (∀ (tag b : Nat) (p : Space), eff = .spawn tag b → s.space? cx (tagSpace tag) = some p →
            (∃ e ∈ t.embers, e.reason = 0x89 ∧ e.strand.tag = tag ∧ e.cont = b ∧ e.live = 3 ∧ e.wait = .nothing ∧
              e.regs[0]? = some (BitVec.ofNat 64 (tagIter tag)) ∧ e.regs[1]? = some (BitVec.ofNat 64 (tagIter tag + 1)) ∧
              v.space.head? = some (e.pool, e.addr, e.size) ∧ ∃ q' : Quad, t.quad? q.id = some q' ∧ e.id ∈ q'.cleared) ∧
            ∃ p' : Space, t.space? cx (tagSpace tag) = some p' ∧ p'.live = p.live + 1 ∧ heldIn (tagIter tag) p'.held = true) ∧
          (∀ (tag b : Nat) (c1 : Word) (p : Space), eff = .spawnr tag b c1 → s.space? cx (tagSpace tag) = some p →
            (∃ e ∈ t.embers, e.reason = 0x8A ∧ e.strand.tag = tag ∧ e.cont = b ∧ e.live = 2 ∧ e.wait = .range ∧
              e.regs[1]? = some c1 ∧ v.space.head? = some (e.pool, e.addr, e.size)) ∧
            ∃ p' : Space, t.space? cx (tagSpace tag) = some p' ∧ p'.live = p.live + 1 ∧
              ∀ it, tagIter tag ≤ it → it < (c1.setWidth 17).toNat → heldIn it p'.held = true) ∧
          (∀ (n : Nat) (trig : Bool), eff = .tsfree n trig → ∃ p' : Space, t.space? cx n = some p' ∧ p'.allocated = false ∧
            p'.held = [] ∧ p'.live = 0) ∧
          (∀ (tag : Nat) (p : Space), eff = .tagrel tag → s.space? cx (tagSpace tag) = some p →
            heldIn (tagIter tag) p.held = true → tagSpace tag ≠ 0 → ∃ p' : Space, t.space? cx (tagSpace tag) = some p' ∧
              (s.aliveTag cx tag = false → s.pendingTag cx tag = false → heldIn (tagIter tag) p'.held = false) ∧
              (tag = i.frame.strand.tag → p'.held = p.held ∧ tagIter tag ∈ p'.freeing)) ∧
          (∀ (circ k : Nat) (w : Word) (kc : Circuit) (dst : QuadId) (e' : Nat), eff = .xmit circ w → s.commits = [] →
            (∀ x ∈ s.posted, x.sid ≠ i.frame.strand.sid) → c.credits[circ]? = some (k + 1) → c.circuits[circ]? = some kc →
            let tag := i.frame.strand.tag % 2 ^ 36 + kc.dstLdie * 2 ^ 36
            c.placeOf? kc.dstLdie (c.codeBase + kc.block) tag = some (dst, e') →
            (∃ c' : Context, t.ctx? c.id = some c' ∧ c'.credits[circ]? = some k) ∧
            ∃ m ∈ t.msgs, m.src = .quad q.id ∧ m.dst = .quad dst ∧ m.body = .token circ tag w false) ∧
          (∀ scope : Nat, eff = .fence scope → (∀ x ∈ s.posted, x.sid ≠ i.frame.strand.sid) →
            ∃ q' : Quad, t.quad? q.id = some q' ∧ q'.capfence =
              q.capfence + if scope = 6 ∧ (s.func cx.vf).sysScope = false then 1 else 0) ∧
          (∀ cmd : Command, eff = .command cmd → s.cmd? cmd.id = none → (∀ x ∈ s.posted, x.sid ≠ i.frame.strand.sid) →
            t.frames = s.frames ∧ (∃ p ∈ t.cmds, p.cmd = cmd ∧ p.phase = .registering (cmd.foots.map (·.quad))) ∧
            ∀ f ∈ cmd.foots, ∃ m ∈ t.msgs, m.dst = .quad f.quad ∧ m.body = .register cmd.id f.quad)) ∧
    (∀ (n : Nat) (m : Msg) (a : Access) (k : Nat), Arrives s n m (.posted a) → m.dst = .mdie k → a.op = none → 1 ≤ a.n →
      a.n ≤ 8 → s.sealed a.pa = false → s.serves (.mdie k) a.cx a.pa = true →
      let o := a.pa % 2 ^ 46
      Completes (exec (.evPostedEffectAtHome n) s) fun t =>
        (a.mark = .plain ∨ a.mark = .poison →
          (∀ b, b < o ∨ o + a.n ≤ b → t.byteAt b = s.byteAt b) ∧
          (∀ j < a.n, t.byteAt (o + j) = if a.mark = .poison then 0 else a.b.extractLsb' (8 * j) 8) ∧
          (a.mark = .poison → t.poisoned o a.n = true)) ∧
        Sent (s.msgs.filter (fun x => x.id ≠ n)) t.msgs (.mdie k) m.src (.ack m.id))

/-! ### Device steps: homes, the lamplighter (chapters 04, 10 and 13) -/

/-- R213, R214, R217, R192, R177, R295, R22, R293, R329: a far load answers the bytes at its home, a stack or a vault where
nothing earlier conflicts, a far atomic writes its new value of R213 and answers the old value, poison is answered with the
address and changes nothing; a waiting access performs once nothing earlier conflicts; an acknowledgement ends its posted effect; a reply makes its ember ready with the value, or
is held while the ready list is full and resent when it is not; banks and arbitration points serve one request; a walk
completes. -/
def Obligations.HomeSteps : Prop :=
  ∀ (s : State), s.memOk = true →
    (∀ (n e : Nat) (m : Msg) (a : Access), Arrives s n m (.far e a) → s.acquireBlocked m = false → s.specs = [] →
      (∃ k, m.dst = .mdie k) ∨ (∃ (q : QuadId) (x : Quad), m.dst = .quad q ∧ s.quad? q = some x ∧ x.farBlocked m a x.vseq = false) →
      s.sealed a.pa = false → s.serves m.dst a.cx a.pa = true → a.n ∈ [1, 2, 4, 8] →
      let o := a.pa % 2 ^ 46
      let old : BitVec (8 * a.n) :=
        BitVec.ofNat _ ((List.range a.n).foldr (fun j v => v * 256 + (s.byteAt (o + j)).toNat) 0)
      let met := match m.dst with | .quad _ => s.scrub o a.n | _ => s.checkLine o
      let answered := fun (t : State) (v : Word) (bad : Option (Nat × Nat)) =>
        Sent (s.msgs.filter (fun x => x.id ≠ n)) t.msgs m.dst m.src (.reply e v bad)
      Completes (exec (.evFarAccessAtHome n) s) fun t =>
        (met.poisoned o a.n = true → t.mem = s.mem ∧
          answered t 0 (some (a.va, if a.op.isSome then 2 else if a.write then 1 else 0))) ∧
        (met.poisoned o a.n = false → answered t (old.setWidth 64) none ∧ (a.op = none → t.mem = s.mem) ∧
          ∀ op : Rmw, a.op = some op → (∀ b, b < o ∨ o + a.n ≤ b → t.byteAt b = s.byteAt b) ∧
            ∀ j < a.n, t.byteAt (o + j) =
              (atomicNew op (8 * a.n) old (a.b.setWidth _) (a.x.setWidth _)).extractLsb' (8 * j) 8)) ∧
    (∀ (n : Nat) (m : Msg) (a : Access) (q : QuadId) (x : Quad), Arrives s n m (.posted a) → m.dst = .quad q →
      s.sealed a.pa = false → s.serves (.quad q) a.cx a.pa = true → s.quad? q = some x →
      Completes (exec (.evPostedEffectAtHome n) s) fun t =>
        x.farBlocked m a x.vseq = true → t.mem = s.mem ∧
          ∃ x' : Quad, t.quad? q = some x' ∧ x'.waitFar = x.waitFar ++ [⟨x.vseq, m, a, a.pa % 2 ^ 23⟩] ∧ x'.vseq = x.vseq + 1) ∧
    (∀ (die idx n : Nat) (q : Quad) (w : WaitFar), s.quad? ⟨die, idx⟩ = some q → q.waitFar.find? (·.msg.id = n) = some w →
      q.farBlocked w.msg w.a w.seq = false → (w.msg.src = .quad q.id → s.ownUnderway q.id w.msg.id = false) →
      Completes (exec (.evWaitingFarAccessPerform die idx n) s) fun t => ∀ a : Access, w.msg.body = .posted a → s.specs = [] →
        s.embers = [] → 1 ≤ a.n → (∀ hi, a.mark ≠ .nibble hi) → Sent s.msgs t.msgs (.quad q.id) w.msg.src (.ack w.msg.id) ∧
          let o := a.pa % 2 ^ 46
          (∀ b, b < o ∨ o + a.n ≤ b → t.byteAt b = s.byteAt b) ∧
          (a.op = none → a.mark = .plain → a.n ≤ 8 → ∀ j < a.n, t.byteAt (o + j) = a.b.extractLsb' (8 * j) 8)) ∧
    (∀ (n p : Nat) (m : Msg), Arrives s n m (.ack p) → Completes (exec (.evPostedAckArrival n) s) fun t =>
      s.commits = [] → t.posted = s.posted.filter (fun x => x.id ≠ p)) ∧
    (∀ (n en : Nat) (m : Msg) (v : Word) (poison : Option (Nat × Nat)) (e : Ember) (q : Quad),
      Arrives s n m (.reply en v poison) → s.ember? en = some e → s.quad? e.quad = some q → q.cleared = [] →
      Completes (exec (.evFarReplyArrival n) s) fun t =>
        (4096 ≤ q.ready.length → q.snuff ≠ .saved → t.embers = s.embers ∧ ∃ m' : Msg, t.msg? n = some m' ∧ m'.refused = true) ∧
        (q.ready.length < 4096 ∨ q.snuff = .saved → ∀ va d : Nat, poison = some (va, d) →
          ∃ e' : Ember, t.ember? en = some e' ∧ e'.reason = 0x14 ∧ e'.wait = .fault) ∧
        (q.ready.length < 4096 ∨ q.snuff = .saved → poison = none → ∀ p : Space, s.space? e.strand.cx (tagSpace e.strand.tag) = some p →
          p.allocated = true → p.gen = tagGen e.strand.tag →
          (∃ e' : Ember, t.ember? en = some e' ∧ e'.value = some v ∧ e'.wait = .nothing) ∧
          ∃ q' : Quad, t.quad? e.quad = some q' ∧ q'.ready = q.ready ++ [en])) ∧
    (∀ (n en : Nat) (m : Msg) (v : Word) (poison : Option (Nat × Nat)) (e : Ember) (q : Quad), s.msg? n = some m →
      m.body = .reply en v poison → m.refused = true → s.ember? en = some e → s.quad? e.quad = some q →
      q.ready.length < 4096 →
      Completes (exec (.evReplyHeldResend n) s) fun t => ∃ m' : Msg, t.msg? n = some m' ∧ m'.refused = false) ∧
    (∀ (die idx bank : Nat) (q : Quad) (r : BankReq), s.quad? ⟨die, idx⟩ = some q → r ∈ q.banks → r.bank = bank →
      (∀ x ∈ q.banks, x.bank = bank → x ≠ r → r.rank < x.rank) →
      Completes (exec (.evBankArbitration die idx bank) s) fun t => ∃ q' : Quad, t.quad? q.id = some q' ∧
        q'.banks.length + 1 = q.banks.length ∧ q'.banks.count r < q.banks.count r ∧
        ∀ x ∈ q.banks, x.bank = bank → x ≠ r → ({ x with refused := x.refused + 1 } : BankReq) ∈ q'.banks) ∧
    (∀ (die idx bank : Nat) (q : Quad) (r : BankReq), s.quad? ⟨die, idx⟩ = some q → r ∈ q.banks → r.bank = bank →
      64 ≤ r.refused → r.rank ≠ 0 →
      Completes (exec (.evBankStarvationPromote die idx bank) s) fun t => ∃ q' : Quad, t.quad? q.id = some q' ∧
        ∃ x ∈ q'.banks, x.bank = bank ∧ x.rank = 0 ∧ 64 ≤ x.refused) ∧
    (∀ (n va : Nat) (kind : Kind) (i : Inst) (q : Quad) (c : Context), s.inst? n = some i → s.quad? i.frame.quad = some q →
      s.ctx? i.frame.strand.cx = some c → s.mayCommit i = true → s.pathsClear →
      i.farNeeds.find? (fun (va, k) => (c.aperture? va).isNone && va < 2 ^ 57 && !(q.tlb.any fun t => t.hits c.id va k)) = some (va, kind) →
      Completes (exec (.evTlbWalk n) s) fun t => ∀ (s' : State) (pa : Nat), translateBy s (.quad q.id) c va 1 kind = (s', .ok pa) →
        ∃ (q' : Quad) (y : TlbEntry) (rest : List TlbEntry), t.quad? q.id = some q' ∧ q'.tlb = y :: rest ∧ y.cx = c.id ∧ y.va ≤ va ∧ va < y.va + y.size) ∧
    (∀ (p : Point) (m : Msg), s.queued p = [m] → s.msg? m.id = some m → (∀ x ∈ s.msgs, x.id = m.id → x = m) →
      (∀ k, p = .ether k → s.portUp k = true) →
      Completes (exec (.evArbitrationGrant p) s) fun t =>
      (∀ k, p ≠ .ether k) → (∀ w, m.body ≠ .line w) → m.body ≠ .lineBack → ∃ m' : Msg, t.msg? m.id = some m' ∧ m'.hops = m.hops.tail ∧ m'.at' = s.clk ∧
        m'.prio = s.prioOf m.cx)

/-- R43, R44, R52, R55, R295-R297, R302, R303: the lamplighter relights the head of the ready list as a frame with the live
registers and the reply, zero elsewhere, on its own quad or sent over the mesh to another; it takes a range by halving it down
to its grain, leaving the right halves pending, the first at the range's own record, and relights the first part with c0 and
c1 its ends, or raises EMBER_OVERFLOW where the pools cannot hold the parts; a frame-wait grant and a frame that arrives fill
a frame, and a branch that finds none becomes an ember with reason 0x88; an ember whose record fails its CHECK becomes no
frame in any of the three, counts as a parity failure and freezes its context; an ember whose cause has cleared enters the
ready list; the 64th counted abandonment and every later one gives the strand its reservation: it enters the pool's or the
space's queue, and at its head gets the free number or iteration at once, reserved for the slot that was refused; a reservation
of lines ends. A reservation due is given before the ember enters the ready list or is relit (the model's order,
notes/assumptions 81), and the generation advances with the number's reservation (36). -/
def Obligations.LamplighterSteps : Prop :=
  ∀ (s : State),
    (∀ (die idx : Nat) (q : Quad) (c : Context) (e : Ember), QuadAt s die idx q → s.ctx? q.cx = some c →
      c.toReplay q.id = [] → q.ready.head? = some e.id → s.ember? e.id = some e → e.strand.due = none →
      (s.recordGood e = true → s.pathsClear) →
      Completes (exec (.evLamplighterRelight die idx) s) fun t =>
        (s.recordGood e = false → e.strand.cx = q.cx → RecordLost s t die c e) ∧
        (s.recordGood e = true → e.isRangeSeed = false → c.params.logMode = 0 → c.params.traceMask = 0 →
          ∀ (p : QuadId) (el : Nat) (x : Quad), c.placeOf? (tagLdie e.strand.tag) e.cont e.strand.tag = some (p, el) →
            s.quad? p = some x → x.frameWait = [] → s.frameFree p = true →
            t.embers = s.embers.filter (fun y => y.id ≠ e.id) ∧
            ∃ f : Frame, FrameSent s t q.id p f ∧ f.quad = p ∧ f.elem = el ∧ f.block = e.cont ∧ f.strand.tag = e.strand.tag ∧
              f.strand.sid = e.strand.sid ∧ f.regs.length = 32 ∧ ∀ r < 32, f.regs[r]? = some (
                if e.value.isSome ∧ e.op ≠ 0x14C ∧ e.op ≠ 0x151 ∧ r = e.reply then e.value.getD 0
                else if bitOf e.live r then (e.regs[r]?).getD 0 else 0))) ∧
    (∀ (die idx : Nat) (q : Quad) (c : Context) (e : Ember), QuadAt s die idx q → s.ctx? q.cx = some c →
      s.rangeFor q c = some e → q.ready = [] ∨ c.toReplay q.id ≠ [] → s.idleElement q.id = true →
      (s.recordGood e = true → s.pathsClear) →
      Completes (exec (.evRangeSplit die idx) s) fun t =>
        (s.recordGood e = false → e.strand.cx = q.cx → RecordLost s t die c e) ∧
        let w := (e.regs[1]?).getD 0
        let lo := tagIter e.strand.tag
        let hi := (w.setWidth 17).toNat
        let g := (w.extractLsb' 32 16).toNat + 1
        let cut := fun (j : Nat) => lo + (hi - lo) / 2 ^ j
        ∀ k : Nat, s.recordGood e = true → e.value = none → hi ≤ 2 ^ 16 → (hi - lo) / 2 ^ k ≤ g →
          (∀ j < k, g < (hi - lo) / 2 ^ j) → lo ≤ hi →
          (splitSpaces (s.readRecord e).1 c.id e.poolQuad (k - 1) [] = none → t.frames = s.frames ∧
            (∃ e' ∈ t.embers, e'.id = e.id ∧ e'.wait = .fault ∧ e'.regs = e.regs ∧ e'.strand.tag = e.strand.tag) ∧
            ∃ (c' : Context) (r : FaultRec), t.ctx? c.id = some c' ∧ c'.faults = c.faults ++ [r] ∧ r.code = .emberOverflow ∧
              r.kind = 1 ∧ r.unit = 7 ∧ r.addr = s.poolAddr e ∧ c'.overflow = c.overflow + 1) ∧
          (∀ more : List (Pool × Nat × Nat), splitSpaces (s.readRecord e).1 c.id e.poolQuad (k - 1) [] = some more →
            (∀ j < k, ∃ x ∈ t.embers, x.reason = 0x8A ∧ x.wait = .range ∧ x.cont = e.cont ∧ x.live = 2 ∧
              tagIter x.strand.tag = cut (j + 1) ∧ ((x.regs[1]?).getD 0).setWidth 17 = BitVec.ofNat 17 (cut j) ∧
              (j = 0 → (x.pool, x.addr, x.size) = (e.pool, e.addr, e.size)) ∧
              (0 < j → more[j - 1]? = some (x.pool, x.addr, x.size))) ∧
            ∀ (p : QuadId) (el : Nat) (x : Quad), c.placeOf? (tagLdie e.strand.tag) e.cont e.strand.tag = some (p, el) →
              s.quad? p = some x → x.frameWait = [] → s.frameFree p = true → c.params.logMode = 0 → c.params.traceMask = 0 →
              ∃ f : Frame, FrameSent s t q.id p f ∧ f.quad = p ∧ f.block = e.cont ∧ f.strand.tag = e.strand.tag ∧
                f.regs[0]? = some (BitVec.ofNat 64 lo) ∧ f.regs[1]? = some (BitVec.ofNat 64 (cut k)))) ∧
    (∀ (die idx : Nat) (q : Quad) (c : Context) (e : Ember) (rest : List Nat), QuadAt s die idx q → s.ctx? q.cx = some c →
      q.frameWait = e.id :: rest → s.ember? e.id = some e → s.frameFree q.id = true →
      (s.recordGood e = true → s.pathsClear) →
      Completes (exec (.evFrameWaitGrant die idx) s) fun t =>
        (∃ q' : Quad, t.quad? q.id = some q' ∧ q'.frameWait = rest) ∧ t.embers = s.embers.filter (fun y => y.id ≠ e.id) ∧
        (s.recordGood e = false → e.strand.cx = q.cx → RecordLost s t die c e) ∧
        (s.recordGood e = true → ∃ f : Frame, FrameSent s t e.quad q.id f ∧ f.quad = q.id ∧ f.block = e.cont ∧
          f.strand.tag = e.strand.tag ∧ f.regs = e.relitRegs)) ∧
    (∀ (n : Nat) (e : Ember) (q : Quad) (rest : List Nat), s.ember? n = some e → s.quad? e.quad = some q →
      q.cleared = n :: rest → q.ready.length < 4096 → e.wait = .nothing → e.strand.due = none →
      Completes (exec (.evEmberReady n) s) fun t => ∃ q' : Quad, t.quad? e.quad = some q' ∧ q'.cleared = rest ∧
        q'.ready = q.ready ++ [n]) ∧
    (∀ (n : Nat) (m : Msg) (f : Frame) (held : Bool) (q : Quad), Arrives s n m (.frame f held) → s.quad? f.quad = some q →
      s.recorder m = none →
      Completes (exec (.evFrameMoveArrival n) s) fun t =>
        (held = true ∨ (s.frameFree q.id = true ∧ q.frameWait = []) → ∃ f' : Frame, t.frames = s.frames ++ [f'] ∧
          f'.strand = f.strand ∧ f'.regs = f.regs ∧ f'.block = f.block ∧ f'.quad = f.quad) ∧
        (held = false → s.frameFree q.id = false ∨ q.frameWait ≠ [] → ∀ c : Context, s.ctx? q.cx = some c →
          c.params.traceMask = 0 → f.strand.handler = none → (s.findSpace f.strand.cx f.quad 320 []).isSome →
          ∃ (e : Ember) (q' : Quad), t.embers = s.embers ++ [e] ∧ e.reason = 0x88 ∧ e.cont = f.block ∧ e.regs = f.regs ∧
            e.live = 0xFFFFFFFF ∧ e.wait = .frameOf f.quad ∧ t.frames = s.frames ∧
            t.quad? q.id = some q' ∧ q'.frameWait = q.frameWait ++ [e.id])) ∧
    (∀ (n : Nat) (e : Ember) (r : Resv), s.ember? n = some e → e.strand.due = some r →
      Completes (exec (.evRefusalCountLimit n) s) fun t => ∃ e' : Ember, t.ember? n = some e' ∧
        e'.strand.due = none ∧ e'.strand.sid = e.strand.sid ∧
        ((∃ q lo hi u, r = .lines q lo hi u) ∨ (∃ want, r = .entries want) → e'.strand.resv = some r) ∧
        (e.strand.resv = none → (∀ x ∈ s.embers, x.strand.sid = e.strand.sid → x = e) → ∀ c : Context,
          let cx := e.strand.cx
          let sid := e.strand.sid
          s.ctx? cx = some c →
          (∀ d b k : Nat, r = .pool d b k → ∃ c' : Context, t.ctx? cx = some c' ∧
            (s.freePool? cx d = none → e'.strand.resv = some r ∧ c'.poolQueue = c.poolQueue ++ [(d, sid)]) ∧
            ∀ (num : Nat) (p : Space), s.freePool? cx d = some num → num < 64 → s.space? cx num = some p →
              (∀ y ∈ c.poolQueue, y.1 ≠ d) → e'.strand.resv = none ∧ c'.poolQueue = c.poolQueue ∧
              (∃ x : TagResv, e'.strand.tagResv = e.strand.tagResv ++ [x] ∧ x.block = b ∧ x.slot = k ∧ x.fresh = true ∧
                tagSpace x.tag = num ∧ tagGen x.tag = (p.gen + 1) % 16) ∧
              ∃ p' : Space, t.space? cx num = some p' ∧ p'.reserved = true) ∧
          (∀ (space b k : Nat) (p : Space), r = .iter space b k → s.space? cx space = some p → ∃ c' : Context,
            t.ctx? cx = some c' ∧
            (p.freeIter? = none → e'.strand.resv = some r ∧ c'.iterQueue = c.iterQueue ++ [(space, sid)]) ∧
            ∀ it : Nat, p.freeIter? = some it → p.k ≤ 16 → (∀ y ∈ c.iterQueue, y.1 ≠ space) → e'.strand.resv = none ∧
              c'.iterQueue = c.iterQueue ∧
              (∃ x : TagResv, e'.strand.tagResv = e.strand.tagResv ++ [x] ∧ x.block = b ∧ x.slot = k ∧ x.fresh = false ∧
                tagIter x.tag = it) ∧
              ∃ p' : Space, t.space? cx space = some p' ∧ p'.resvIters = p.resvIters ++ [it]))) ∧
    (∀ (st : Strand) (reason : Nat) (w : Wait),
      let u := st.refuse reason w
      (reason ≤ 0x83 → u.refusals = st.refusals + 1 ∧ (u.refusals < 64 → u.due = none) ∧ (64 ≤ u.refusals → u.due = w.resv)) ∧
      (0x83 < reason → u.refusals = st.refusals ∧ u.due = st.due)) ∧
    (∀ (n : Nat) (f : Frame) (q : QuadId) (lo hi k : Nat), f ∈ s.frames → f.strand.sid = n →
      f.strand.resv = some (.lines q lo hi (some k)) → k ≤ s.clk →
      Completes (exec (.evReservationTimeout n) s) fun t =>
        ∀ g ∈ t.frames, g.strand.sid = n → g.strand.resv ≠ some (.lines q lo hi (some k)))

/-! ### Device steps: circuits, spaces, waiting and barriers (chapters 04, 12 and 13) -/

/-- R47, R219-R222, R321, R322: a credit returns to its circuit; a token passes a border of its context's circuit and is
else a violation; a token that arrives enters its FIFO under its tag, and a stale one is discarded, its credit sent back and
TAGSPACE_INVALID raised. R266, R278: an item is counted in an open space; a JOIN is answered once the space is empty, held
before, and faults when it has been freed. R230, R279: a WAIT takes the report, or zeros, or is held. That a tag of another
die's space or context is a violation at a border even on a circuit its context declares is the model's choice
(notes/assumptions 47). -/
def Obligations.CircuitAndSpaceSteps : Prop :=
  ∀ (s : State),
    (∀ (n circ k : Nat) (m : Msg) (cx : CtxId) (c : Context), Arrives s n m (.credit cx circ) → s.ctx? cx = some c →
      c.credits[circ]? = some k → Completes (exec (.evCreditReturn n) s) fun t => ∃ c' : Context, t.ctx? cx = some c' ∧
        c'.credits[circ]? = some (k + 1) ∧ ∀ j : Nat, j ≠ circ → c'.credits[j]? = c.credits[j]?) ∧
    (∀ (n circ tag : Nat) (v : Word) (m : Msg) (c : Context) (k : Circuit), Arrives s n m (.token circ tag v false) →
      s.ctx? m.cx = some c → c.circuits[circ]? = some k → k.srcLdie ≠ k.dstLdie →
      let good := tagCtx tag = c.id.num ∧ tagLdie tag = k.dstLdie ∧
        ∃ (q : QuadId) (x : Quad), m.dst = .quad q ∧ s.quad? q = some x ∧ x.cx = c.id
      Completes (exec (.evBorderCrossing n) s) fun t =>
        (good → ∃ m' : Msg, t.msg? n = some m' ∧ m'.body = .token circ tag v true ∧ m'.dst = m.dst) ∧
        (¬ good → t.msg? n = none ∧ (c.run = .running → ∃ c' : Context, t.ctx? c.id = some c' ∧ c'.run = .freezing))) ∧
    (∀ (n circ tag : Nat) (v : Word) (b : Bool) (m : Msg) (c : Context) (qi : QuadId) (q : Quad) (k : Circuit),
      Arrives s n m (.token circ tag v b) → m.dst = .quad qi → s.ctx? m.cx = some c → s.quad? qi = some q →
      c.circuits[circ]? = some k → (k.srcLdie ≠ k.dstLdie → b = true) → s.recorder m = none → s.toksFor q circ = none →
      let fresh := ∃ p : Space, s.space? c.id (tagSpace tag) = some p ∧ p.allocated = true ∧ p.closed = false ∧
        p.gen = tagGen tag
      Completes (exec (.evCircuitTokenArrival n) s) fun t =>
        (fresh → ∃ x : FifoTok, t.fifo = s.fifo ++ [x] ∧ x.val = v ∧ x.tag = tag ∧ x.circ = circ ∧ x.quad = qi ∧
          x.slot = k.slot ∧ x.block = c.codeBase + k.block) ∧
        (¬ fresh → t.fifo = s.fifo ∧
          (c.params.traceMask = 0 → Sent (s.msgs.filter (fun y => y.id ≠ n)) t.msgs (.quad q.id)
            (.quad ((c.circuitSource circ).getD q.id)) (.credit c.id circ)) ∧
          ((c.faults.filter (·.kind = 2)).length < 256 → ∃ (c' : Context) (r : FaultRec), t.ctx? c.id = some c' ∧
            c'.faults = c.faults ++ [r] ∧ r.code = .tagspaceInvalid ∧ r.kind = 2 ∧ r.tag = tag ∧ r.data = v))) ∧
    (∀ (n space gen d : Nat) (m : Msg) (cx : CtxId) (p : Space), Arrives s n m (.tableItem cx space gen d none) →
      s.space? cx space = some p → Completes (exec (.evSpaceTableItem n) s) fun t =>
        ∃ p' : Space, t.space? cx space = some p' ∧
          p'.live = if p.allocated = true ∧ p.closed = false ∧ p.gen = gen then p.live + d else p.live) ∧
    (∀ (n en tag : Nat) (m : Msg) (e : Ember) (p : Space), Arrives s n m (.join en tag) → s.ember? en = some e →
      s.space? e.strand.cx (tagSpace tag) = some p →
      let here := p.allocated = true ∧ p.gen = tagGen tag
      let zero := p.live ≤ if tagSpace e.strand.tag = p.num then 1 else 0
      Completes (exec (.evJoinRequest n) s) fun t =>
        (¬ here → ∃ e' : Ember, t.ember? en = some e' ∧ e'.reason = 0x16) ∧
        (here → zero → Sent (s.msgs.filter (fun y => y.id ≠ n)) t.msgs .k m.src (.reply en 0 none)) ∧
        (here → ¬ zero → ∃ m' : Msg, t.msg? n = some m' ∧ m'.body = .join en tag ∧ m'.refused = true)) ∧
    (∀ (vf ctx space en : Nat) (m : Msg), (m, en) ∈ s.joinsReady ⟨vf, ctx⟩ space →
      Completes (exec (.evLiveCountZero vf ctx space) s) fun t => s.joinsReady ⟨vf, ctx⟩ space = [(m, en)] →
        Sent (s.msgs.filter (fun y => y.id ≠ m.id)) t.msgs .k m.src (.reply en 0 none)) ∧
    (∀ (n en h : Nat) (m : Msg) (qi : QuadId) (q : Quad), Arrives s n m (.wait en h) → m.dst = .quad qi →
      s.quad? qi = some q →
      let pending := ∃ p ∈ s.cmds, p.cmd.cx = q.cx ∧ p.cmd.quad = qi ∧ sameHandle h p.cmd.tag p.cmd.lsid = true ∧ p.issued < en
      Completes (exec (.evWaitRequest n) s) fun t =>
        (pending → ∃ m' : Msg, t.msg? n = some m' ∧ m'.body = .wait en h ∧ m'.refused = true) ∧
        (¬ pending → Sent (s.msgs.filter (fun y => y.id ≠ n)) t.msgs m.dst m.src (.reply en ((q.report? h).getD 0) none)))

/-- R280-R284, R306: an arrival and a BARWAIT are counted into their barrier; a phase with its count of arrivals
completes: the next phase opens with the arrivals beyond the count, nobody waits, and the report goes to who did. -/
def Obligations.BarrierSteps : Prop :=
  ∀ (s : State),
    (∀ (n bar : Nat) (m : Msg) (site : BarrierAt) (a : Arrival) (b : Barrier), Arrives s n m (.arrive site bar a) →
      (∀ p : Nat, m.dst ≠ .pod p) → s.syncHeld site bar a = false → s.barrier? site bar = some b →
      Completes (exec (.evBarrierArrival n) s) fun t => ∃ b' : Barrier, t.barrier? site bar = some b' ∧
        b'.arrivals = b.arrivals ++ [a] ∧ b'.phase = b.phase ∧ b'.waiters = b.waiters) ∧
    (∀ (n bar en : Nat) (m : Msg) (site : BarrierAt) (b : Barrier), Arrives s n m (.barwait site bar en) →
      s.barrier? site bar = some b → b.arrivals.length < b.count →
      Completes (exec (.evBarwaitRequest n) s) fun t => ∃ b' : Barrier, t.barrier? site bar = some b' ∧
        b'.waiters = b.waiters ++ [en] ∧ b'.arrivals = b.arrivals) ∧
    (∀ (n : Nat) (b : Barrier), s.barriers[n]? = some b → b.count ≠ 0 → b.count ≤ b.arrivals.length →
      Completes (exec (.evBarrierPhaseComplete n) s) fun t =>
        (∃ b' : Barrier, t.barriers[n]? = some b' ∧ b'.phase = b.phase + 1 ∧ b'.waiters = [] ∧
          b'.arrivals = b.arrivals.drop b.count) ∧
        (∀ (en : Nat) (e : Ember) (c : Context), (b.arrivals.take b.count).filterMap (·.ember) ++ b.waiters = [en] →
          s.ember? en = some e → s.ctx? e.strand.cx = some c → c.run = .running →
          let eng := ((b.arrivals.take b.count).filter (·.engine)).length
          let err := ((b.arrivals.take b.count).filter (·.err)).length
          Sent s.msgs t.msgs (s.barrierNode b.site) (.quad e.quad)
            (.reply en (0#16 ++ BitVec.ofNat 16 b.phase ++ BitVec.ofNat 16 eng ++ BitVec.ofNat 16 err) none)))

/-! ### Device steps: the engines (chapters 09 to 13) -/

/-- R186-R188, R230-R232, R237-R241, R245, R250, R252, R254, R256, R258-R260. A completed command goes, its report kept under
its handle; a stream command goes to an idle engine or waits in the queue, a SPARAM to its command or to CODE 0x18; elements,
runs, rows, blocks and lines are performed in order; a line is read or written by one access, once its request is granted, and
what it gives stays with the command until the element that needs it is performed; a fill writes its value; a page
fault stops the engine, a permission fault ends the command; a round starts over; tokens of an engine cost a credit; MXCFG and
MXREL set the configuration; a decoded frame's status word is written, then the frame counts; a collective reads its
contribution, a group that agrees writes its results and a group that disagrees reports 0x20.

R159, R166, R170, R238, R241, R244, R246, R247, R250: and the values. A copy of equal types keeps the bits, an index out of
range writes FILL or nothing and counts; a run adds to each cell, in the order of its blocks, what row i of A and column j of B
give; a tile is loaded cell by cell with its conversion, and stored with CODE 0x20 when a row is marked; VMAP's ADD and VRED's
integer sum wrap at 64 bits; a window of one column copies its input element, or zero outside the input; an accumulator's NaN
stays, and SAT clamps what is infinite.

The model's own choices here are: the grain of a step, one element, run, row, block or frame (notes/assumptions 2); the faults
of decoder and collective accesses (21); completion after the last line's write (34); STOK's faults and markers (51); a group
is the oldest NRANKS commands of its key (56); the line requests (94); the cells of an MXRUN row that reads poison keep the sum
of their other terms, since a poisoned operand adds none (14); and beside an accumulator that is a NaN no term sets NV, not a
signalling NaN either (84). -/
def Obligations.EngineSteps : Prop :=
  ∀ (s : State),
    (∀ (n : Nat) (p : Pending) (c : Context), s.cmd? n = some p → s.ctx? p.cmd.cx = some c → c.run = .running →
      p.phase = .done → s.postsAway n = false → s.uncounted p = false → Completes (exec (.evCommandCompletion n) s) fun t =>
        (∀ x ∈ t.cmds, x.cmd.id ≠ n) ∧
        let r : Word := 0#10 ++ BitVec.ofNat 22 p.cond ++ BitVec.ofNat 16 (min p.count 0xFFFF) ++ 0#7 ++
          BitVec.ofBool (p.count ≠ 0 ∨ p.code ≠ 0 ∨ p.itemErr = true) ++ BitVec.ofNat 8 p.code
        ∀ (q : Quad) (k : Nat) (rd wr : Interval), s.quad? p.cmd.quad = some q → Entry.pending n k rd wr ∈ q.entries →
          (∀ (w : Word) (m : Nat), Entry.report p.cmd.tag p.cmd.lsid w m ∈ q.entries → m ≤ p.issued) →
          (∀ m ∈ s.msgs, m.cls ≠ 20) →
          (∀ (x : Space), s.space? p.cmd.cx (tagSpace p.cmd.tag) = some x → x.freeing = []) →
          ∃ (q' : Quad), t.quad? p.cmd.quad = some q' ∧ Entry.report p.cmd.tag p.cmd.lsid r p.issued ∈ q'.entries) ∧
    (∀ (n cid die : Nat) (m : Msg) (p : Pending), Arrives s n m (.command cid) → m.dst = .mdie die →
      s.cmd? cid = some p → p.cmd.op ≤ 0x163 →
      (s.idleEngine die).isSome ∨ (s.cmds.countP fun x => x.cmd.op ≤ 0x163 && s.delivered x && s.cmdDie x.cmd = die) < 64 →
      Completes (exec (.evStreamCommandArrival n) s) fun t =>
        (∀ (x : Msg), x ∈ t.msgs → x.id ≠ n) ∧ ∃ (p' : Pending), t.cmd? cid = some p' ∧
          p'.phase = ((s.idleEngine die).map CmdPhase.running).getD p.phase) ∧
    (∀ (n cid die : Nat) (m : Msg) (p : Pending), Arrives s n m (.command cid) → m.dst = .mdie die →
      s.cmd? cid = some p → p.cmd.op = 0x164 → Completes (exec (.evStreamCommandArrival n) s) fun t =>
        (s.sparamTarget p.cmd = none → ∃ (p' : Pending), t.cmd? cid = some p' ∧ p'.phase = .done ∧ p'.code = 0x18) ∧
        ∀ (x : Pending), s.sparamTarget p.cmd = some x → s.cmd? x.cmd.id = some x →
          (sparamGood p.cmd x = true → ∃ (x' : Pending), t.cmd? x.cmd.id = some x' ∧ x'.sparams = x.sparams ++ [cid]) ∧
          (sparamGood p.cmd x = false → ∃ (p' : Pending), t.cmd? cid = some p' ∧ p'.phase = .done ∧ p'.code = 0x18)) ∧
    (∀ (n e : Nat) (p p0 : Pending) (a : StreamArgs) (c : Context) (s0 : State), s.cmd? n = some p →
      p.phase = .running e → p.args? = some a → s.ctx? p.cmd.cx = some c → p.writes = [] → roundOver p a = false →
      s.engineRuns p = true → s.pathsClear → 0 < s.streamReady (s.engineUnit p) c p a →
      stepElem s (s.engineUnit p) c p a = (s0, .ok p0) →
      Completes (exec (.evStreamCommandPerform n) s) fun t => ∃ (p' : Pending), t.cmd? n = some p' ∧ p.n < p'.n ∧
        (∀ v : Nat, a.op = 0x160 → a.walk.count ≠ 0 → a.dst.marks = false → a.src.ty = a.dst.ty → a.dst.inLine p.n →
          (c.aperture? (a.dst.place (positionOf a.dst.dims p.n)).1).isSome → p.elem? a.src p.n = some (v, false) →
          p'.n = p.n + 1 ∧ p'.count = p.count ∧
            p'.writes = [⟨(a.dst.place (positionOf a.dst.dims p.n)).1, typeBits a.dst.ty / 8, v, none, false, false⟩]) ∧
        (∀ x : Int, a.walk.count ≠ 0 → a.dst.marks = false → p.n + 1 < a.walk.count → p.index? a p.n = some (x, false) →
          (a.op = 0x161 → x < 0 ∨ a.src.count ≤ x → a.dst.inLine p.n →
            (c.aperture? (a.dst.place (positionOf a.dst.dims p.n)).1).isSome → p'.count = p.count + 1 ∧
            p'.writes = [⟨(a.dst.place (positionOf a.dst.dims p.n)).1, typeBits a.dst.ty / 8, a.fill, none, false, false⟩]) ∧
          (a.op = 0x162 → x < 0 ∨ a.dst.count ≤ x → p'.count = p.count + 1 ∧ p'.writes = [])) ∧
        (a.op = 0x163 → a.walk.count ≠ 0 → a.dst.marks = false →
          (c.aperture? (a.dst.place (positionOf a.dst.dims p.n)).1).isSome →
          p'.n = p.n + 1 ∧ (a.dst.ty ≠ 0xD → (a.dst.place (positionOf a.dst.dims p.n)).1 % 64 + typeBits a.dst.ty / 8 ≤ 64 →
            8 ≤ typeBits a.dst.ty →
            p'.writes = [⟨(a.dst.place (positionOf a.dst.dims p.n)).1, typeBits a.dst.ty / 8, a.fill, none, false, false⟩]))) ∧
    (∀ (n e : Nat) (p : Pending) (a : StreamArgs) (c : Context) (va d : Nat), s.cmd? n = some p → p.phase = .running e →
      p.args? = some a → s.ctx? p.cmd.cx = some c → p.writes ≠ [] ∨ roundOver p a = false → s.engineRuns p = true →
      (s.nextStop (s.engineUnit p) c p a = some (.pageFault va d) → Completes (exec (.evStreamPageFaultStop n) s) fun t =>
        (∃ (p' : Pending), t.cmd? n = some p' ∧ p' = { p with phase := .stopped e, lines := [] }) ∧
        ∃ (c' : Context) (r : FaultRec), t.ctx? c.id = some c' ∧ c'.faults = c.faults ++ [r] ∧ r.code = .pageFault ∧
          r.kind = 1 ∧ r.addr = va ∧ r.detail = d ∧ r.tag = p.cmd.tag) ∧
      (s.nextStop (s.engineUnit p) c p a = some (.permission va d) → Completes (exec (.evStreamPageFaultStop n) s) fun t =>
        (∃ (p' : Pending), t.cmd? n = some p' ∧ p'.phase = .done ∧ p'.code = 0x13 ∧ p'.count = p.count) ∧
        ∃ (c' : Context) (r : FaultRec), t.ctx? c.id = some c' ∧ c'.faults = c.faults ++ [r] ∧ r.code = .permission ∧
          r.kind = 1 ∧ r.addr = va ∧ r.detail = d)) ∧
    (∀ (n e pa : Nat) (p : Pending) (w : EngWrite) (rest : List EngWrite) (c : Context) (s1 s2 : State), s.cmd? n = some p →
      p.phase = .running e → p.writes = w :: rest → s.ctx? p.cmd.cx = some c → s.engineRuns p = true → s.pathsClear →
      s.engineXlate (s.engineUnit p) c w.va w.n .write = (s1, .ok pa) → (pa / 2 ^ 46 = s1.pkgNo → s.linesGranted p [pa]) →
      ((s.landed p false).engineXlate (s.engineUnit p) c w.va w.n .write).1 = s2 →
      Completes (exec (.evEngineLineAccess n) s) fun t =>
        (∃ (p' : Pending), t.cmd? n = some p' ∧ (p'.writes.length < p.writes.length)) ∧
        (rest = [] → pa / 2 ^ 46 = s1.pkgNo → w.poison = false → w.nibble = none → s.specs = [] →
          let o := pa % 2 ^ 46 / 64 * 64 + w.va % 64
          (∀ j < w.n, t.byteAt (o + j) = BitVec.ofNat 8 (w.v / 256 ^ j)) ∧
          ∀ b : Nat, b < o ∨ o + w.n ≤ b → t.byteAt b = s2.byteAt b)) ∧
    (∀ (n e : Nat) (p : Pending) (a : StreamArgs) (c : Context), s.cmd? n = some p → p.phase = .running e →
      p.args? = some a → s.ctx? p.cmd.cx = some c → roundOver p a = true → p.writes = [] → p.round < p.rounds →
      s.engineRuns p = true → p.sparams = [] → Completes (exec (.evStreamRoundBoundary n) s) fun t =>
        t.cmd? n = some { p with round := p.round + 1, n := 0 }) ∧
    (∀ (n pa : Nat) (p : Pending) (c : Context) (x : Nat × Nat × Nat) (s2 : State), s.cmd? n = some p →
      s.ctx? p.cmd.cx = some c → p.writes = [] → s.engineRuns p = true → s.pathsClear →
      (∃ e a, p.phase = .running e ∧ p.args? = some a ∧ p.cmd.op ≤ 0x163 ∧ roundOver p a = false ∧
        firstLine (p.streamWants c a) = [x]) ∨ (p.cmd.op = 0x172 ∧ firstLine (s.stokWants p) = [x]) →
      s.pieceStop (s.engineUnit p) c x = none → s.linesGranted p (s.linesOf c [x]) →
      (s.landed p true).engineXlate (s.engineUnit p) c x.1 x.2.1 .read = (s2, .ok pa) → pa / 2 ^ 46 = s2.pkgNo →
      Completes (exec (.evEngineLineAccess n) s) fun t => t.mem = s2.mem ∧ ∃ bad : Bool,
        t.cmd? n = some { p with lines := p.lines ++ [(x.1, x.2.1, s2.readNat (pa % 2 ^ 46) x.2.1, bad)] }) ∧
    (∀ (n : Nat) (p : Pending) (c : Context) (s1 : State) (ls : List (Nat × Nat × Nat × Bool)), s.cmd? n = some p →
      s.ctx? p.cmd.cx = some c → s.collReady p = true → p.marks = 0 → p.collRead = false → p.writes = [] → s.pathsClear →
      p.collWants ≠ [] → p.collWants.head?.bind (s.pieceStop (s.engineUnit p) c) = none →
      s.linesGranted p (s.linesOf c ((firstLine p.collWants).take 1)) →
      (s.landed p true).readSpan (s.engineUnit p) c (firstLine p.collWants) = (s1, .ok ls) →
      Completes (exec (.evEngineLineAccess n) s) fun t => ∃ (p' : Pending), t.cmd? n = some p' ∧
        p'.vals.take p.vals.length = p.vals ∧
        ∀ (va z v : Nat) (bad : Bool) (more : List (Nat × Nat × Nat × Bool)), p.lines = [] →
          (collOf p.bytes).pieces p.vals.length = [(va, z, 0)] → ls = (va, z, v, bad) :: more →
          p'.vals[p.vals.length]? = some (if bad then none else some (BitVec.ofNat 64 v))) ∧
    (∀ (n : Nat) (p : Pending) (sh : Shape) (c : Context), s.cmd? n = some p → p.cmd.op = 0x172 →
      p.phase = .queued ∨ (∃ e, p.phase = .running e) →
      parseShape (recordAt p.bytes 0) false false = some sh → s.ctx? p.cmd.cx = some c → s.engineRuns p = true →
      p.pendingMarks = [] → p.n + 1 < sh.count →
      let iter := fieldAt p.bytes 64 % 65536 + p.n
      let circ := p.cmd.low % 1024
      (s.capacityOf p ≤ iter → Completes (exec (.evStokElementSend n) s) fun t => t.msgs = s.msgs ∧
        ∃ (p' : Pending), t.cmd? n = some p' ∧ p'.n = p.n + 1 ∧ p'.count = p.count + 1) ∧
      (∀ (v k : Nat), iter < s.capacityOf p → c.credits[circ]? = some (k + 1) → p.elem? sh p.n = some (v, false) →
        Completes (exec (.evStokElementSend n) s) fun t =>
          (∃ (p' : Pending), t.cmd? n = some p' ∧ p'.n = p.n + 1 ∧ p'.count = p.count) ∧
          (∃ (c' : Context), t.ctx? c.id = some c' ∧ c'.credits[circ]? = some k) ∧
          ∃ (tag : Nat) (r : Msg), tag / 65536 = p.cmd.tag / 65536 ∧ tag % 65536 = iter % 65536 ∧ r ∈ t.msgs ∧
            r.src = .quad p.cmd.quad ∧ r.dst = .k ∧ r.body = .tableItem p.cmd.cx (tagSpace tag) (tagGen tag) 1
              (some (circ, tag, n, BitVec.ofNat 64 (payloadOf sh.ty v))))) ∧
    (∀ (n circ tag : Nat) (v : Word) (border : Bool) (m : Msg) (c : Context) (qi : QuadId) (q : Quad) (p : Pending) (sh : Shape),
      Arrives s n m (.token circ tag v border) → m.dst = .quad qi → s.ctx? m.cx = some c → s.quad? qi = some q →
      s.toksFor q circ = some p → s.cmd? p.cmd.id = some p → parseShape (recordAt p.bytes 0) false false = some sh →
      (c.crosses circ = true → border = true) → s.recorder m = none → s.engineRuns p = true → s.unblocked p = true →
      s.stale c.id tag = false → Completes (exec (.evToksTokenCapture n) s) fun t =>
        let iter0 := fieldAt p.bytes 64 % 65536
        ∃ (p' : Pending), t.cmd? p.cmd.id = some p' ∧
          (tagIter tag < iter0 ∨ iter0 + sh.count ≤ tagIter tag → p'.count = p.count + 1 ∧ p'.n = p.n) ∧
          (iter0 ≤ tagIter tag → tagIter tag < iter0 + sh.count → p'.n = p.n + 1 ∧ p'.count = p.count)) ∧
    (∀ (n : Nat) (p : Pending) (q : Quad) (c : Context), s.cmd? n = some p → s.quad? p.cmd.quad = some q →
      s.ctx? p.cmd.cx = some c → unitOf p.cmd.op = 2 → s.unitMay p = true →
      Completes (exec (.evMeCommandPerform n) s) fun t => ∃ (p' : Pending) (q' : Quad), t.cmd? n = some p' ∧
        t.quad? p.cmd.quad = some q' ∧
        (p.cmd.op = 0x165 → p'.phase = .done ∧ p'.code = 0 ∧ q'.me = { q.me with config := some p.cmd.arg }) ∧
        (p.cmd.op = 0x166 → q.me.config = none → p'.phase = .done ∧ p'.code = 0x18 ∧ q'.me = q.me) ∧
        (∀ (r : MxRun) (w : Word), p.cmd.op = 0x166 → mxRunOf p.bytes = some r → q.me.config = some w → r.ok w = true →
          p.n < (r.k + (cfgMode w).1 - 1) / (cfgMode w).1 * r.steps → p'.n = p.n + 1 ∧
            (r.rows ≤ 128 →
              let blocks := (r.k + (cfgMode w).1 - 1) / (cfgMode w).1
              let ks := ((List.range (cfgMode w).1).map fun k => p.n % blocks * (cfgMode w).1 + k).filter (· < r.k)
              let col := fun j => p.n / blocks * 128 + j
              ∀ i j, i < r.rows → j < 128 → col j < r.cols →
                q'.me.cell (r.tile + p.n / blocks) i j = BitVec.ofNat 32 (accAll (w.bit 8)
                  (mxTerms w (s.mxLine c q.id r.a r.sa ks (p.n % blocks) i) (s.mxLine c q.id r.b r.sb ks (p.n % blocks) (col j)))
                  (q.me.cell (r.tile + p.n / blocks) i j).toNat).1)) ∧
        (∀ (sh : Shape) (cfg : Word), parseShape (recordAt p.bytes 0) false false = some sh → q.me.config = some cfg →
          let w := fieldAt p.bytes 64
          cfgTile cfg (w % 4) = true →
          (p.cmd.op = 0x167 → p'.phase = .done ∧ p'.code = 0 ∧ (∀ i j, i < 128 → j < 128 → q'.me.cell (w % 4) i j =
            BitVec.ofNat 32 (meConvert sh.ty 8 (bitsOf w 4 2) (bitOf w 5) (p.draw (128 * i + j))
              (s.homeElem c q.id sh (positionOf sh.dims (128 * i + j))).1).1) ∧
            (∀ k i j, k < 4 → k ≠ w % 4 → i < 128 → j < 128 → q'.me.cell k i j = q.me.cell k i j) ∧ w % 4 ∈ q'.me.live) ∧
          (p.cmd.op = 0x168 → p'.phase = .done ∧ q'.me.acc = q.me.acc ∧ w % 4 ∉ q'.me.live ∧
            p'.code = if (List.range 128).any fun i => q.me.marks.contains (w % 4 * 128 + i) then 0x20 else 0)) ∧
        (p.cmd.op = 0x169 → bitOf p.cmd.low 0 = true → p'.phase = .done ∧ p'.code = 0 ∧ q'.me.config = none ∧
          q'.me.live = [] ∧ q'.me.acc = [] ∧ q'.me.marks = []) ∧
        (p.cmd.op = 0x169 → bitOf p.cmd.low 0 = false → q.me.live = [] → p'.phase = .done ∧ p'.code = 0 ∧
          q'.me = { q.me with config := none }) ∧
        (p.cmd.op = 0x169 → bitOf p.cmd.low 0 = false → q.me.live ≠ [] → p'.phase = .done ∧ p'.code = 0x17 ∧ q'.me = q.me ∧
          ∃ (c' : Context) (r : FaultRec), t.ctx? c.id = some c' ∧ c'.faults = c.faults ++ [r] ∧ r.code = .accLive)) ∧
    (∀ (n : Nat) (p : Pending) (q : Quad) (c : Context) (out : Shape), s.cmd? n = some p → s.quad? p.cmd.quad = some q →
      s.ctx? p.cmd.cx = some c → unitOf p.cmd.op = 3 → s.unitMay p = true → shapeAt p.bytes 0 = some out →
      Completes (exec (.evVsuCommandPerform n) s) fun t => ∃ (p' : Pending), t.cmd? n = some p' ∧
        p'.n = (if p.n < out.count then p.n + 1 else p.n) ∧ (out.count ≤ p'.n → p'.phase = .done) ∧
        (p.n < out.count → s.specs = [] → 6 ≤ out.ty → out.ty ≤ 7 → out.atHome c p.n →
          (∀ (a b : Shape) (x y : Nat), p.cmd.op = 0x16A → shapeAt p.bytes 64 = some a → shapeAt p.bytes 128 = some b →
            shapeAt p.bytes 192 = none → fieldAt p.bytes 256 = 1 → 6 ≤ a.ty → a.ty ≤ 7 → 6 ≤ b.ty → b.ty ≤ 7 →
            s.homeElem c q.id a (positionOf a.dims (if a.count = 1 then 0 else p.n)) = (x, false) →
            s.homeElem c q.id b (positionOf b.dims (if b.count = 1 then 0 else p.n)) = (y, false) →
            t.readNat (out.homeAddr c q.id p.n) 8 = (x + y) % 2 ^ 64) ∧
          (∀ (inp : Shape), p.cmd.op = 0x16B → shapeAt p.bytes 64 = some inp → bitsOf (fieldAt p.bytes 128) 3 0 = 5 →
            6 ≤ inp.ty → inp.ty ≤ 7 →
            let dim := bitsOf (fieldAt p.bytes 128) 6 4
            let ctr := countersOf out.dims p.n
            let es := (List.range (inp.extent dim)).map fun k =>
              s.homeElem c q.id inp (positionAt inp.dims (ctr.take dim ++ k :: ctr.drop dim))
            (∀ e ∈ es, e.2 = false) →
            t.readNat (out.homeAddr c q.id p.n) 8 = (es.map (·.1)).foldl (· + ·) 0 % 2 ^ 64))) ∧
    (∀ (n : Nat) (p : Pending) (q : Quad) (c : Context) (w dst : Shape), s.cmd? n = some p → s.quad? p.cmd.quad = some q →
      s.ctx? p.cmd.cx = some c → parseShape (recordAt p.cmd.window 0) true true = some w → shapeAt p.bytes 0 = some dst →
      p.cmd.op = 0x16D → s.unitMay p = true →
      let rows := fieldAt p.bytes 72 / 2 ^ 32
      Completes (exec (.evWindowCommandPerform n) s) fun t => ∃ (p' : Pending), t.cmd? n = some p' ∧
        p'.n = (if p.n < rows then p.n + 1 else p.n) ∧ (rows ≤ p'.n → p'.phase = .done) ∧
        (p.n < rows → s.specs = [] → dst.extent 0 = 1 → dst.atHome c p.n →
          let inp := { w with base := fieldAt p.bytes 64 }
          let at' := fieldAt p.bytes 72 % 2 ^ 32 + p.n
          let ow := (windowGeometry inp).2
          (windowPos inp.w7 inp (at' / ow) (at' % ow) 0 0 = none →
            t.readNat (dst.homeAddr c q.id p.n) (typeBits dst.ty / 8) = 0) ∧
          ∀ x y v : Nat, windowPos inp.w7 inp (at' / ow) (at' % ow) 0 0 = some (x, y) →
            s.homeElem c q.id inp (positionAt inp.dims [0, x, y]) = (v, false) →
            t.readNat (dst.homeAddr c q.id p.n) (typeBits dst.ty / 8) = v % 2 ^ typeBits dst.ty)) ∧
    (∀ (n e : Nat) (p : Pending) (c : Context), s.cmd? n = some p → s.ctx? p.cmd.cx = some c → p.cmd.op = 0x16E →
      s.engineRuns p = true →
      let d := decodeOf p.bytes
      let f := s.nextFrame p d
      (∀ m : Msg, p.phase = .queued → s.commandMsg? n = some m → s.arrived m = true → s.decodeAhead m p.cmd.eng = false →
        s.decoderBusy p = false → Completes (exec (.evDecodeFrame n) s) fun t => ∃ (p' : Pending), t.cmd? n = some p' ∧
          p' = { p with phase := .running (p.cmd.eng % 2) } ∧ m ∉ t.msgs) ∧
      (p.phase = .running e → p.writes = [] → s.postsAway n = false → s.bitsWanted p = false →
        (d.frames = 0 → Completes (exec (.evDecodeFrame n) s) fun t => ∃ (p' : Pending), t.cmd? n = some p' ∧
          p'.phase = .done ∧ p'.code = 0 ∧ p'.count = 0) ∧
        (d.frames ≠ 0 → p.marks ≠ 1 → Completes (exec (.evDecodeFrame n) s) fun t =>
          let concealed := f.code == 4 && d.conceal
          let filled := f.code != 0 && !concealed
          ∃ (p' : Pending), t.cmd? n = some p' ∧ p'.n = p.n ∧ p'.marks = 1 ∧ p'.pos = f.next ∧
            p'.count = p.count + (if f.code = 0 then 0 else 1) ∧
            ∀ w ∈ wordWrites (d.stat + 8 * p.n) (statusWord d f.pic p.n f.code filled concealed f.grain.isSome),
              w ∈ p'.writes) ∧
        (d.frames ≠ 0 → p.marks = 1 → Completes (exec (.evDecodeFrame n) s) fun t => ∃ (p' : Pending), t.cmd? n = some p' ∧
          p'.n = p.n + 1 ∧ p'.marks = 0 ∧ p'.count = p.count ∧ (p.n + 1 < d.frames → p'.phase = p.phase ∧ p'.code = p.code) ∧
          (d.frames ≤ p.n + 1 → p'.phase = .done ∧ p'.code = if p.halted then 0x20 else p.code)))) ∧
    (∀ (n : Nat) (p : Pending), s.cmd? n = some p → s.collReady p = true → p.marks = 0 →
      let k := collOf p.bytes
      let group := (s.collGroup p).take k.nranks
      let ranks := group.map fun x => (collOf x.bytes).rank
      ((s.collGroup p).head?.map fun x => x.cmd.id) = some n → k.scope ≠ 5 → k.nranks ≠ 0 → k.nranks ≤ (s.collGroup p).length →
      ((∃ x ∈ group, (collOf x.bytes).fields ≠ k.fields) ∨ (∃ r < k.nranks, r ∉ ranks) →
        Completes (exec (.evCollGroupComplete n) s) fun t => ∀ x ∈ group, ∃ (x' : Pending),
          t.cmd? x.cmd.id = some x' ∧ x'.phase = .done ∧ x'.code = 0x20 ∧ x'.count = 0) ∧
      ((∀ x ∈ group, (collOf x.bytes).fields = k.fields) → (∀ r < k.nranks, r ∈ ranks) → (∀ x ∈ group, x.collRead = true) →
        let parts := (List.range k.nranks).map fun r => valueOf r [] (group.map fun x => ((collOf x.bytes).rank, x.vals))
        Completes (exec (.evCollGroupComplete n) s) fun t => ∀ x ∈ group,
          (∀ y ∈ group, y.cmd.id = x.cmd.id → y.bytes = x.bytes) → ∃ (x' : Pending), t.cmd? x.cmd.id = some x' ∧
            x'.phase = .running 0 ∧ x'.marks = 1 ∧ x'.code = (if parts.any (·.contains none) then 0x14 else 0) ∧
            x'.writes = collWrites (collOf x.bytes) (collResult (collOf x.bytes) parts))) ∧
    (∀ (n : Nat) (p : Pending), s.cmd? n = some p → p.cmd.op = 0x16F → p.marks = 1 → p.phase ≠ .done →
      (∀ x ∈ s.collWriting p, x.writes = [] ∧ s.postsAway x.cmd.id = false) →
      Completes (exec (.evCollGroupComplete n) s) fun t => ∀ x ∈ s.collWriting p, ∃ (x' : Pending),
        t.cmd? x.cmd.id = some x' ∧ x'.phase = .done ∧ x'.count = 0 ∧
          ((∀ y ∈ s.collWriting p, y.cmd.id = x.cmd.id → y.code = x.code) → x'.code = x.code)) ∧
    ∀ (sat : Bool) (cell : Nat) (x : Term),
      ((floatValue 8 cell).ex = .nan → (accRound sat cell x).1 = 0x7FC00000 ∧ (accRound sat cell x).2 / 2 ^ 16 % 2 = 0) ∧
      ((floatValue 8 cell).ex ≠ .nan → x.t = .nan → (accRound sat cell x).1 = 0x7FC00000 ∧
        (accRound sat cell x).2 / 2 ^ 16 % 2 = if x.nv then 1 else 0) ∧
      (((floatValue 8 cell).ex.add x.t).isNan = false →
        let r := (roundRne 8 ((floatValue 8 cell).ex.add x.t)).1
        (r % 2 ^ 31 ≠ 0x7F800000 ∨ sat = false → (accRound sat cell x).1 = r ∧ (accRound sat cell x).2 % 2 ^ 16 = 0) ∧
        (r % 2 ^ 31 = 0x7F800000 → sat = true → (accRound sat cell x).1 % 2 ^ 31 = 0x7F7FFFFF ∧
          (accRound sat cell x).1 / 2 ^ 31 = r / 2 ^ 31 ∧ (accRound sat cell x).2 % 2 ^ 16 = 1))

/-! ### Device steps: faults, stops and the snuff wave (chapters 14, 17 and 18) -/

/-- R353, R362, R367, R368: with a handler named and no mask selecting it, or after the restore of the stop it made, the head of
K's fault queue is delivered: its record is
written into the lowest free slot of the ring with ACTION all ones, %fault shows it, its strand's ember leaves, and the
handler's seed starts with c0 to c3; any waiting fault without a handler, or selected by the mask, stops the context with
everything as it stands. R370: ACTION of 0 resumes the ember with the slot's registers, 1 retires it, 2 and 3 stop the context. R323:
a context in violation freezes, no instance left in its quads. R374, R375: a parity check that fails discards what failed,
counts in its die's bad-node register, holds the first failure there until it is reported, and freezes the context. The model's
own choices: K writes a slot of this package in the step that delivers the fault (notes/assumptions 59), and which of several
records or words a failure meets, and in what area, is the input's (44). -/
def Obligations.FaultSteps : Prop :=
  ∀ (s : State),
    (∀ (vf ctx k pa : Nat) (c : Context) (r : FaultRec) (g : Region) (s1 : State),
      s.ctx? ⟨vf, ctx⟩ = some c → c.run = .running → (c.stopMsk ++ c.faults).head? = some r → c.freeSlot = some k →
      c.region? r.ldie = some g → c.params.handler ≠ 0 → (c.stopMsk = [] → bitOf c.params.stopMask r.code.num = false) →
      s.faultsHandler r = false → s.slotPage c k .write = .at' s1 pa → pa / 2 ^ 46 = s1.pkgNo → s.pathsClear →
      let o := pa % 2 ^ 46
      SlotApart (s1.faultEmber r).1 c k o →
      Completes (exec (.evFaultDelivery vf ctx) s) fun t =>
        t.readNat (o + 8) 8 = r.tag % 2 ^ 40 ∧ t.readNat (o + 16) 8 = r.block % 2 ^ 57 ∧
        t.readNat (o + 24) 8 = r.addr % 2 ^ 64 ∧ t.readNat (o + 0x1C0) 8 = 2 ^ 64 - 1 ∧
        t.readNat o 8 % 256 = r.code.num ∧ t.readNat o 8 / 256 % 4 = r.kind % 4 ∧
        t.readNat (o + 56) 8 = (c.delivered + 1) % 2 ^ 64 ∧
        (∃ (c' : Context) (x : RingSlot), t.ctx? c.id = some c' ∧
          c'.stopMsk ++ c'.faults = (c.stopMsk ++ c.faults).tail ∧ c'.run = .running ∧
          c'.faultReg.toNat % 256 = r.code.num ∧ c'.faultReg.toNat / 256 % 2 ^ 51 = r.block / 64 % 2 ^ 51 ∧
          c'.ringSlots = c.ringSlots ++ [x] ∧ x.slot = k ∧ x.rec' = r ∧ c'.delivered = c.delivered + 1) ∧
        ∃ (h : Ember), h ∈ t.embers ∧ h.reason = 0x89 ∧ h.cont = c.params.handler ∧ h.live = 0xF ∧
          h.quad = (g.quadAt 0 0) ∧ h.strand.handler = some k ∧ tagIter h.strand.tag = 0xFFC0 + k ∧
          h.regs[0]? = some (BitVec.ofNat 64 (0xFFC0 + k)) ∧ h.regs[1]? = some (BitVec.ofNat 64 (0xFFC1 + k)) ∧
          h.regs[2]? = some (BitVec.ofNat 64 (c.ring + 512 * k)) ∧ h.regs[3]? = some (BitVec.ofNat 64 r.code.num)) ∧
    (∀ (vf ctx : Nat) (c : Context) (r : FaultRec), s.ctx? ⟨vf, ctx⟩ = some c → c.run = .running →
      (c.stopMsk ++ c.faults).find? (fun x => decide (c.params.handler = 0) || s.faultsHandler x ||
        (bitOf c.params.stopMask x.code.num && !c.stopMsk.contains x)) = some r →
      Completes (exec (.evPreciseStop vf ctx) s) fun t => t.insts = s.insts ∧ t.frames = s.frames ∧ t.embers = s.embers ∧
        ∃ (c' : Context), t.ctx? c.id = some c' ∧ c'.run = .stopped ∧ c'.atStop = true ∧ r ∈ c'.stopMsk ∧
          (c.stopMsk = [] → c'.stopMsk = [r] ∧ c'.faults = c.faults.erase r)) ∧
    (∀ (vf ctx slot pa n : Nat) (c : Context) (x : RingSlot) (s1 : State), s.ctx? ⟨vf, ctx⟩ = some c → c.run = .running →
      c.ringSlots.find? (fun y => y.slot = slot) = some x → x.sid = some n → s.strandGone n = true →
      s.slotPage c slot .read = .at' s1 pa → pa / 2 ^ 46 = s1.pkgNo → s.pathsClear →
      (s1.readPhys .k c.id (c.ring + 512 * slot) pa 512).2.2 = false → x.rec'.code ≠ .emberOverflow →
      let o := pa % 2 ^ 46
      let act := s1.readNat (o + 0x1C0) 8
      Completes (exec (.evHandlerDone vf ctx slot) s) fun t =>
        (∃ (c' : Context), t.ctx? c.id = some c' ∧ c'.ringSlots = c.ringSlots.filter (fun y => y.slot ≠ slot) ∧
          (2 ≤ act → c'.run = .stopped ∧ c'.stopMsk = c.stopMsk ++ [x.rec'])) ∧
        ∀ (e : Ember), x.ember = some e → x.rec'.kind = 0 →
          (act = 0 → ∃ (y : Ember), t.ember? e.id = some y ∧ y.strand.sid = e.strand.sid ∧ y.strand.tag = e.strand.tag ∧
            y.reason = e.reason ∧ y.live = s1.readNat (o + 0x80) 8 / 2 ^ 32 ∧
            y.cont = s1.readNat (o + 0x90) 8 ∧ y.regs.length = 32 ∧
            ∀ j < 32, y.regs[j]? = some (if bitOf y.live j then BitVec.ofNat 64 (s1.readNat (o + 0xC0 + 8 * j) 8) else 0)) ∧
          (act = 1 → s.specs = [] → ∀ y ∈ t.embers, y.id ≠ e.id) ∧
          (2 ≤ act → ∃ (y : Ember), y ∈ t.embers ∧ y.id = e.id ∧ y.strand.sid = e.strand.sid)) ∧
    (∀ (vf ctx : Nat) (c : Context), s.ctx? ⟨vf, ctx⟩ = some c → c.run = .freezing → ctx < 1024 →
      Completes (exec (.evMasterFreeze (1024 * vf + ctx)) s) fun t => (∃ (c' : Context), t.ctx? c.id = some c' ∧ c'.run = .frozen) ∧
        ∀ i ∈ t.insts, ∀ q ∈ s.quads, q.cx = c.id → q.zeroing = false → i.frame.quad ≠ q.id) ∧
    (∀ (vf ctx die idx hop dir elem reg : Nat) (q : Quad) (c : Context) (s0 : State), s.quad? ⟨die, idx⟩ = some q →
      q.cx = ⟨vf, ctx⟩ → q.zeroing = false → s.ctx? ⟨vf, ctx⟩ = some c → s.badNode[die]? = some reg →
      s.discardAt ⟨vf, ctx⟩ q hop dir elem = some s0 → Completes (exec (.evParityFreezeReport vf ctx die idx hop dir elem) s) fun t =>
        (∃ (c' : Context), t.ctx? c.id = some c' ∧ c'.damaged = true ∧ (c.run = .running → c'.run = .freezing)) ∧
        die ∈ t.badHeld ∧ (∃ reg' : Nat, t.badNode[die]? = some reg' ∧ reg' / 2 ^ 32 = min (2 ^ 32 - 1) (reg / 2 ^ 32 + 1) ∧
          (die ∈ s.badHeld → reg' % 2 ^ 16 = reg % 2 ^ 16) ∧
          (die ∉ s.badHeld → idx < 100 → hop ≤ 6 → dir < 4 → elem < 4 → reg' % 2 ^ 32 = idx / 10 * 2 ^ 12 + idx % 10 * 2 ^ 8 +
            hop * 2 ^ 4 + (if hop = 1 then dir * 2 ^ 2 else 0) + if hop = 0 ∨ hop = 4 then elem else 0)) ∧
        (∀ n : Nat, hop = 5 → q.ready.head? = some n → ∀ e ∈ t.embers, e.id ≠ n) ∧
        (∀ f : Flying, hop = 0 → s.flying = [f] → t.flying = []))

/-- R320, R376-R380, R432: the marker is broadcast, or the cut ends where its destination fails; a quad's first marker
empties it of instances, and it saves once its commits are over; a channel closes; an engine stops between elements; a
complete cut leaves a saved context, or none for a destroy, with nothing of it outside its quads, and its quads to be
zeroed; zeroing leaves 6 MiB of zeros and nothing else changed, and the quad is free. -/
def Obligations.SnuffSteps : Prop :=
  ∀ (s : State),
    (∀ (vf ctx : Nat) (c : Context) (keep d : Bool), s.ctx? ⟨vf, ctx⟩ = some c → c.run = .cutting keep d → c.cutClk = 0 →
      s.pathsClear → Completes (exec (.evSnuffMarkerBroadcast vf ctx) s) fun t => ∃ (c' : Context), t.ctx? c.id = some c' ∧
        (keep = false ∨ c.cutCmd.isSome ∨ s.destGood c c.cutDest = true → c'.cutClk ≠ 0 ∧ c'.run = c.run) ∧
        (keep = true → c.cutCmd = none → s.destGood c c.cutDest = false →
          c'.cutClk = 0 ∧ c'.run = if (s.func vf).cut then .freezing else .running)) ∧
    (∀ (die idx : Nat) (q : Quad) (c : Context), s.quad? ⟨die, idx⟩ = some q → s.ctx? q.cx = some c → q.zeroing = false →
      s.cutting c.id = true →
      (q.snuff = .none → Completes (exec (.evQuadMarkerArrival die idx) s) fun t =>
        (∃ (q' : Quad), t.quad? q.id = some q' ∧ q'.snuff = .marked) ∧ ∀ i ∈ t.insts, i.frame.quad ≠ q.id) ∧
      (q.snuff = .marked → (∀ r ∈ s.commits, r.inst.frame.quad = q.id → r.parked = true) → s.pathsClear →
        Completes (exec (.evQuadMarkerArrival die idx) s) fun t =>
          ∃ (q' : Quad), t.quad? q.id = some q' ∧ q'.snuff = .saved)) ∧
    (∀ (n : Nat) (m : Msg) (a b : QuadId) (qa qb : Quad) (c : Context), s.msg? n = some m → m.body = .marker →
      m.src = .quad a → m.dst = .quad b → s.quad? a = some qa → s.quad? b = some qb → s.ctx? m.cx = some c →
      s.cutting c.id = true → s.channelBusy c qa qb = false →
      Completes (exec (.evChannelMarkerArrival n) s) fun t => ∃ (q' : Quad), t.quad? b = some q' ∧
        q'.closed = qb.closed ++ c.channels qa qb ∧ q'.snuff ≠ .none) ∧
    (∀ (n : Nat) (p : Pending), s.cmd? n = some p → p.phase ≠ .done → (∀ l, p.phase ≠ .registering l) → p.cutOff = false →
      s.cutting p.cmd.cx = true → (∃ e, p.phase = .stopped e) ∨
        (p.writes = [] ∧ ¬ ((p.cmd.op = 0x16E ∨ p.cmd.op = 0x16F) ∧ p.marks = 1)) →
      Completes (exec (.evEngineSnuffStop n) s) fun t => t.cmd? n = some { p with cutOff := true, lines := [] } ∧ t.mem = s.mem) ∧
    (∀ (vf ctx : Nat) (c : Context) (keep d : Bool), s.ctx? ⟨vf, ctx⟩ = some c → s.cutComplete c = true →
      c.run = .cutting keep d → (keep = true → d = false → s.pathsClear) → Completes (exec (.evQuadStateReadout vf ctx) s) fun t =>
        (keep = true → d = false → ∃ (c' : Context), t.ctx? c.id = some c' ∧ c'.run = .saved ∧ c'.root = c.root ∧
          c'.regions = []) ∧
        (keep = false ∨ d = true → t.ctx? c.id = none) ∧
        (∀ e ∈ t.embers, e.strand.cx ≠ c.id) ∧ (∀ f ∈ t.frames, f.strand.cx ≠ c.id) ∧
        (∀ p ∈ t.cmds, p.cmd.cx ≠ c.id) ∧ ∀ q ∈ t.quads, q.cx = c.id → q.zeroing = true) ∧
    (∀ (die idx : Nat) (q : Quad), s.quad? ⟨die, idx⟩ = some q → q.zeroing = true →
      (q.snuff ≠ .none → Completes (exec (.evQuadZeroing die idx) s) fun t =>
        (∀ k < 6 * 2 ^ 20, t.byteAt (vaultBase q.id + k) = 0) ∧
        (∀ a : Nat, a < vaultBase q.id ∨ vaultBase q.id + 6 * 2 ^ 20 ≤ a → t.byteAt a = s.byteAt a) ∧
        ∃ (q' : Quad), t.quad? q.id = some q' ∧ q'.zeroing = true ∧ q'.snuff = .none ∧ q'.entries = [] ∧ q'.me.acc = []) ∧
      (q.snuff = .none → Completes (exec (.evQuadZeroComplete die idx) s) fun t => t.quad? q.id = none ∧ t.mem = s.mem))

/-! ### Device steps: energy, power, the host and the pod (chapters 15, 16 and 19) -/

/-- R289, R336-R341, R344, R400: reports reach their contexts and the quads' copies; a die's factor is the clamped quotient
to the nearest 2^-12; a millisecond ends when its checks are done; a period carries over what exceeds the quota; a spent
candle cuts its function; classes follow the budget; the clock follows the power averages and the temperature, and above
115 °C the part is off. The model's own choices: a factor is rounded to the nearest, ties up, an average is over the
milliseconds there have been, and the factor of a die that charged nothing is free within the clamp (notes/assumptions 63); a
budget in whole nJ falls by what the total's whole nJ rise by (97); and after the shutdown no quad is enabled, while K's
windows and commands stand as they were (70): R400 says only that the dies other than K lose power and every context is
lost. -/
def Obligations.EnergySteps : Prop :=
  ∀ (s : State),
    (s.clk % 2048 = 0 → Completes (exec .evLanternReport s) fun t => t.lanterns = [] ∧
      (∀ c ∈ t.contexts, c.energySeen = c.energy / 65536 % 2 ^ 64 ∧ c.budgetSeen = c.budget ∧ c.clsSeen = c.cls ∧
        c.faultSeen = c.faultReg) ∧
      ∀ (l : Lantern) (cx : CtxId) (e : Nat) (c : Context), s.lanterns = [(l, .ctx cx, e)] → s.ctx? cx = some c →
        ∃ (c' : Context), t.ctx? cx = some c' ∧ c'.energy = c.energy + e ∧
          (c.params.budget ≠ 0xFFFFFFFFFFFFFFFF → c'.budget = c.budget - ((c.energy + e) / 65536 - c.energy / 65536)) ∧
          (c.params.budget = 0xFFFFFFFFFFFFFFFF → c'.budget = c.budget)) ∧
    (∀ (die : Nat), s.msOver = true → die ∉ s.msFactors → die ≤ 16 → die < s.factors.length →
      Completes (exec (.evFactorUpdate die) s) fun t =>
        let charged := (s.dieCharged[die]?).getD 0 + Config.sensor 1 die s.msNo
        (∃ f : Nat, t.factors[die]? = some f ∧ 3072 ≤ f ∧ f ≤ 5120 ∧
          (charged ≠ 0 → f = min 5120 (max 3072 ((8192 * Config.sensor 0 die s.msNo + charged) / (2 * charged))))) ∧
        ∀ d : Nat, d ≠ die → t.factors[d]? = s.factors[d]?) ∧
    (s.msOver = true → s.msPower = true → (∀ d < 17, d ∈ s.msFactors) → Completes (exec .evSharedCostSplit s) fun t =>
      t.msNo = s.msNo + 1 ∧ t.msAt = s.msAt + 100 * s.fclk ∧ t.msFactors = [] ∧ t.calibRec = s.nextCalib.getD s.calibRec ∧ t.nextCalib = none) ∧
    (∀ (vf : Nat) (f : Function), vf < 64 → s.functions[vf]? = some f → f.started + f.period ≤ s.msNo →
      Completes (exec (.evCandlePeriodStart vf) s) fun t =>
        (∃ (f' : Function), t.functions[vf]? = some f' ∧ f'.started = f.started + f.period ∧ f'.nextPeriod = none ∧
          (∀ q : Nat, f.quota = some q → f'.spent = f.spent - q * 65536) ∧ (f.quota = none → f'.spent = 0) ∧
          (∀ (x : Option Nat) (y : Nat), f.nextPeriod = some (x, y) → f'.quota = x ∧ f'.period = y) ∧
          (f.nextPeriod = none → f'.quota = f.quota ∧ f'.period = f.period)) ∧
        ∀ (cx : CtxId) (c : Context), s.ctx? cx = some c → cx.vf = vf → c.params.refill = true →
          ∃ (c' : Context), t.ctx? cx = some c' ∧ c'.budget = c.params.budget) ∧
    (∀ (vf q : Nat) (f : Function), 0 < vf → vf < 64 → s.functions[vf]? = some f → f.cut = false → f.quota = some q →
      q * 65536 ≤ f.spent → Completes (exec (.evCandleCut vf) s) fun t =>
        (t.functions[vf]?).map (fun x => x.cut) = some true ∧
        ∀ (cx : CtxId) (c : Context), s.ctx? cx = some c → cx.vf = vf → c.run = .running →
          ∃ (c' : Context), t.ctx? cx = some c' ∧ (c'.run = .cutting true false ∨ c'.run = .freezing)) ∧
    (∀ (vf ctx : Nat) (c : Context), s.ctx? ⟨vf, ctx⟩ = some c → c.run ≠ .created → c.run ≠ .loaded →
      let due := if (c.params.cls = 0 ∨ c.params.cls = 1) ∧ c.budget = 0 ∧ c.params.budget ≠ 0xFFFFFFFFFFFFFFFF then 2
        else c.params.cls
      c.cls ≠ due → Completes (exec (.evClassChange vf ctx) s) fun t =>
        ∃ (c' : Context), t.ctx? ⟨vf, ctx⟩ = some c' ∧ c'.cls = due) ∧
    (∀ (mw : Nat), s.msOver = true → s.msPower = false → Completes (exec (.evPowerCheck mw) s) fun t =>
      let log := (mw :: s.powerLog).take 1000
      let avg := fun (xs : List Nat) => xs.foldl (· + ·) 0 / max 1 xs.length
      let above := s.peak < avg (log.take 10) ∨ s.sustained < avg log
      let under := avg (log.take 10) * 100 ≤ s.peak * 95 ∧ avg log * 100 ≤ s.sustained * 95
      t.powerLog = log ∧ t.msPower = true ∧
      (above → s.msLowered = false → t.fclk = max 9000 (s.fclk - 1125)) ∧
      (¬ above → under → s.msHot = false → s.msLowered = false → t.fclk = min 18000 (s.fclk + 1125)) ∧
      (¬ above → ¬ under → t.fclk = s.fclk)) ∧
    (∀ (die deg : Nat), die ≤ 16 →
      (95 < deg → deg ≤ 105 → Completes (exec (.evThermalLimit die deg) s) fun t => t.msHot = true ∧
        (s.msLowered = false → t.fclk = max 9000 (s.fclk - 1125))) ∧
      (105 < deg → deg ≤ 115 → Completes (exec (.evThermalLimit die deg) s) fun t => t.msHot = true ∧ t.fclk = 9000) ∧
      (115 < deg → Completes (exec (.evThermalShutdown die deg) s) fun t => t.powerOff = true ∧ t.contexts = [] ∧
        t.quads = [] ∧ t.insts = [] ∧ (∀ m ∈ t.enabled, m = 0) ∧ t.windows = s.windows ∧ t.kcmds = s.kcmds))

/-- R9, R18, R25, R372, R386, R387, R395, R398, R399: the host reads and writes HBM through HDMBASE with its poison, and its
windows' registers, whose reserved bits read zero and whose read-only fields no write changes; a reset is State.reset but
for the host's memory, its images there, its inputs and the model's own counters (notes/assumptions 2, 14, 58); a module's
failure halves the rate; a packet in sequence is delivered once and its request goes to its stack, which performs and answers
it; one that came before is not delivered, either is acknowledged, a frame of another type or address changes nothing; a packet
goes out in a frame of the pod's type to its package's address; overdue ones go again on another port, a failed port leaves
service and a package without one is lost. The model's own choices are: what memory and the device's registers hold after a
reset, State.reset's values (1, 7); a write of another package is answered by a reply when it is performed (66); the host's
request passes every point of its way in the step that performs it, where each would grant it next (95). -/
def Obligations.HostAndPodSteps : Prop :=
  ∀ (s : State),
    (∀ (hpa n : Nat), s.hdmBase ≤ hpa → hpa < s.hdmBase + 2 ^ 40 → 0 < n → hpa % 64 + n ≤ 64 → s.powerOff = false →
      let o := hpa - s.hdmBase
      s.kAhead (8 + bitsOf o 39 37) = false → (∀ p ∈ hostWay o, s.hostGranted p = true) →
      (Completes (exec (.evCxlMemRead hpa n) s) fun t => t.mem = s.mem ∧ ∃ (bs : List Byte), bs.length = n ∧
        t.cxlReply = some (bs, (s.checkLine o).poisoned o n) ∧ ∀ k < n, bs[k]? = some (s.byteAt (o + k))) ∧
      ∀ (bs : List Byte) (poison : Bool), bs.length = n → Completes (exec (.evCxlMemWrite hpa bs poison) s) fun t =>
        (∀ k < n, bs[k]? = some (t.byteAt (o + k))) ∧ (∀ b : Nat, b < o ∨ o + n ≤ b → t.byteAt b = s.byteAt b) ∧
        (poison = true → t.poisoned o n = true)) ∧
    (∀ (vf v : Nat) (w : Window), vf < 64 → s.windows[vf]? = some w →
      (v < 64 → Completes (exec (.evCommandDoorbell vf v) s) fun t => ∃ (w' : Window), t.windows[vf]? = some w' ∧ w'.sqTail = v) ∧
      (v < 256 → Completes (exec (.evEventHeadWrite vf v) s) fun t => ∃ (w' : Window), t.windows[vf]? = some w' ∧
        w' = { w with eqHead := v })) ∧
    (∀ (vf : Nat) (val : Word) (w : Window), vf < 64 → s.windows[vf]? = some w →
      (Completes (exec (.evRegisterWrite vf 0x000 val) s) fun t =>
        t.windows[vf]? = some { w with sqBase := val.toNat / 4096 } ∧ t.readRegister vf 0x000 = val >>> 12 <<< 12) ∧
      (Completes (exec (.evRegisterWrite vf 0x018 val) s) fun t =>
        t.windows[vf]? = some { w with eqBase := val.toNat / 8192 } ∧ t.readRegister vf 0x018 = val >>> 13 <<< 13) ∧
      (Completes (exec (.evRegisterWrite vf 0x020 val) s) fun t =>
        t.windows[vf]? = some { w with eqHead := val.toNat % 256 } ∧ t.readRegister vf 0x020 = val &&& 0xFF) ∧
      ∀ off ∈ [0x010, 0x028, 0x030], Completes (exec (.evRegisterWrite vf off val) s) fun t =>
        t.windows = s.windows ∧ t.readRegister vf off = s.readRegister vf off) ∧
    (exec .evDeviceReset s = .next { State.reset with
      hostMem := s.hostMem, hostPoison := s.hostPoison, saved := s.saved, agenda := s.agenda, nextId := s.nextId,
      fresh := s.fresh }) ∧
    (s.halfRate = false → Completes (exec .evHostLinkDegrade s) fun t => t.halfRate = true) ∧
    (∀ (src seqno port vf ctx req pa n : Nat) (v : Word), s.isPeer src = true → seqno < 2 ^ 32 →
      valueOf port false s.ports = true → (s.flow src 0).early = [] →
      let pkt : PodBody := .write vf ctx req pa n v none false false
      Completes (exec (.evPodPacketReceive src 0 seqno port pkt) s) fun t => t.mem = s.mem ∧
        (seqno = (s.flow src 0).nextRecv → pa < 2 ^ 40 → (t.flow src 0).nextRecv = (seqno + 1) % 2 ^ 32 ∧
          (∃ m ∈ t.msgs, m.src = .pod src ∧ m.dst = .mdie (bitsOf pa 39 37) ∧ m.body = .served pkt) ∧
          ∃ m ∈ t.msgs, m.dst = .pod src ∧ m.body = .podAck 0 ((seqno + 1) % 2 ^ 32)) ∧
        (seqno ≠ (s.flow src 0).nextRecv → (t.flow src 0).nextRecv = (s.flow src 0).nextRecv ∧
          ∃ m ∈ t.msgs, m.dst = .pod src ∧ m.body = .podAck 0 (s.flow src 0).nextRecv)) ∧
    (∀ (src vf ctx req pa k n : Nat) (v : Word) (m : Msg), m.src = .pod src → pa < 2 ^ 40 → 1 ≤ k → k ≤ 8 →
      vf = 0 ∨ s.ownerOf ((s.pkgNo * 2 ^ 46 + pa) / 65536) = vf → s.sealed (s.pkgNo * 2 ^ 46 + pa) = false →
      (Arrives s n m (.served (.write vf ctx req pa k v none false false)) → Completes (exec (.evPostedEffectAtHome n) s) fun t =>
        (∀ j < k, t.byteAt (pa + j) = v.extractLsb' (8 * j) 8) ∧
        (∀ b : Nat, b < pa ∨ pa + k ≤ b → t.byteAt b = s.byteAt b) ∧
        Sent (s.msgs.filter (fun x => x.id ≠ n)) t.msgs (.mdie (bitsOf pa 39 37)) (.pod src) (.reply req 0 none)) ∧
      (Arrives s n m (.served (.read vf ctx req pa k)) → Completes (exec (.evFarAccessAtHome n) s) fun t => t.mem = s.mem ∧
        Sent (s.msgs.filter (fun x => x.id ≠ n)) t.msgs (.mdie (bitsOf pa 39 37)) (.pod src)
          (if (s.checkLine pa).poisoned pa k then .reply req 0 (some (0, 0))
            else .reply req (BitVec.ofNat 64 (s.readNat pa k)) none))) ∧
    (∀ (port peer : Nat) (m : Msg), s.queued (.ether port) = [m] → s.msg? m.id = some m → s.barrierNext (.ether port) = none →
      valueOf port false s.ports = true → m.dst = .pod peer → peer ∉ s.lostPkgs ∨ m.access? = none →
      Completes (exec (.evArbitrationGrant (.ether port)) s) fun t => ∃ f : PodFrame, t.sentFrame = some f ∧
        f.etherType = 0x88B5 ∧ f.addr = (s.podAddrs[peer]?).getD 0 ∧ f.port = port ∧ f.body = m.podBody) ∧
    (∀ (src cls seqno port ty addr : Nat), valueOf port false s.ports = true →
      ty ≠ 0x88B5 ∨ addr ≠ (s.podAddrs[s.pkgNo]?).getD 0 →
      exec (.evPodPacketReceive src cls seqno port (.foreign ty addr)) s = .next { s with clk := s.clk + 1 }) ∧
    (∀ (peer cls port : Nat) (p : PodFrame), cls < 4 → p ∈ (s.flow peer cls).unacked →
      p.at' + 2 * s.fclk < s.clk → p.port ≠ port → valueOf port false s.ports = true →
      Completes (exec (.evPodRetransmitTimeout (4 * peer + cls) port) s) fun t =>
        (t.flow peer cls).unacked.map (fun x => (x.number, x.etherType, x.addr, x.body)) =
          (s.flow peer cls).unacked.map (fun x => (x.number, x.etherType, x.addr, x.body)) ∧
        { p with at' := s.clk, port := port } ∈ (t.flow peer cls).unacked ∧ t.mem = s.mem) ∧
    (∀ (port : Nat), valueOf port false s.ports = true → Completes (exec (.evPodPortFailure port) s) fun t =>
      valueOf port false t.ports = false) ∧
    (∀ (pkg : Nat), s.isPeer pkg = true → pkg ∉ s.lostPkgs → s.unreached pkg = true → Completes (exec (.evPodLost pkg) s) fun t =>
      t.lostPkgs = s.lostPkgs ++ [pkg] ∧ ∀ m ∈ t.msgs, m.dst = .pod pkg → m.access? = none)

/-! ### Device steps: Endom's commands (chapter 19) -/

/-- R266, R287, R308, R324, R326, R330-R333, R353, R361, R376, R377, R384, R389-R393: the commands that make, map, load,
start, save, restore and end a context have their effects and their status, or the status of the check that fails; the status
waits while K's writes to another package are on their way. The model's own choices: context and command numbers
(notes/assumptions 2); an FWCALL of an unknown code is accepted and answered 0x03 (31); what the bytes of a section without a
layout stand for, of an image this device did not save (58); an image of another context is answered 0x0A (97); what the codes
say that the spec does not assign to a failed check (64); a stopped context is not saved with a release (91); and the bytes of
the sections the spec gives no layout, of which SIZE counts (9). -/
def Obligations.ContextCommandSteps : Prop :=
  ∀ (s : State) (n : Nat) (k : KCmd), LastRead s k →
    (s.kcmds.find? (fun x => x.id = n) = some k → k.from'.isSome → k.dispatched = false → s.firstOf k = true →
      s.verdict k = .perform → Completes (exec (.evFwcallDispatch n) s) fun t =>
        t.kcmds.find? (fun x => x.id = n) = some { k with dispatched := true } ∧ t.mem = s.mem) ∧
    (∀ (cx : CtxId) (b tag el pa : Nat) (q : QuadId) (c : Context) (s1 : State), s.kcmds.find? (fun x => x.id = n) = some k →
      k.from' = some (cx, b, tag, q, el) → k.dispatched = false → s.firstOf k = true → k.code = 0 ∨ 0x12 < k.code →
      s.ctx? cx = some c → translate s c (k.w 1) 1 .write = (s1, .ok pa) → pa / 2 ^ 46 = s1.pkgNo → k.w 1 % 65536 + 16 ≤ 65536 →
      s1.poisoned (pa % 2 ^ 46) 16 = false → s.badLines = [] → s.kWriting k = false → s.pathsClear →
      Completes (exec (.evFwcallDispatch n) s) fun t => Ended t k 0x03 0 ∧ t.readNat (pa % 2 ^ 46) 8 = 0x03 ∧
        t.readNat (pa % 2 ^ 46 + 8) 8 = 0) ∧
    (∀ status result : Nat, s.kcmds.find? (fun x => x.id = n) = some k → k.dispatched = true → s.firstOf k = true →
      k.phase = .settling status [result] → s.kWriting k = false → s.pathsClear →
      (k.code = 0x03 → Completes (exec (.evMap n) s) fun t => Ended t k status result ∧
        (k.from' = none → t.contexts = s.contexts)) ∧
      (k.code = 0x05 → Completes (exec (.evLoadImage n) s) fun t => Ended t k status result ∧
        (k.from' = none → t.contexts = s.contexts))) ∧
    (Performs s n 0x01 k → Completes (exec (.evCreateContext n) s) fun t =>
      (k.w 3 % 2 ^ 33 ≠ 0 ∨ 2 ^ 57 < k.w 3 + 2 ^ 33 ∨ k.w 4 % 65536 ≠ 0 ∨ 2 ^ 57 < k.w 4 + 65536 → Answered t k 0x01 0) ∧
      (k.w 3 % 2 ^ 33 = 0 → k.w 3 + 2 ^ 33 ≤ 2 ^ 57 → k.w 4 % 65536 = 0 → k.w 4 + 65536 ≤ 2 ^ 57 → ∀ (m : Nat),
        s.freeCtx k.vf = some m → s.tableNext + 16384 ≤ tableEnd → Answered t k 0 m ∧ ∃ (c : Context),
          t.ctx? ⟨k.vf, m⟩ = some c ∧ c.run = .created ∧ c.aperture = k.w 3 ∧ c.ring = k.w 4 ∧ c.poolBase = k.w 5 ∧
          c.poolSize = k.w 6 % 2 ^ 32 * 65536 ∧ c.imageMiB = k.w 6 / 2 ^ 32 ∧ c.imageArea = k.w 7)) ∧
    (∀ (c : Context), Performs s n 0x02 k → k.phase = .ready → k.w 3 / 2 ^ 16 = 0 → k.target.bind s.ctx? = some c →
      k.barred c = false → c.cutByOther = false → Completes (exec (.evDestroyContext n) s) fun t => Waits t k .cutting ∧
        (c.resting = true → t.ctx? c.id = none) ∧
        (c.run = .running → ∃ (c' : Context), t.ctx? c.id = some c' ∧ c'.run = .cutting false true)) ∧
    (∀ (cx : CtxId), Performs s n 0x02 k → k.phase = .cutting → k.target = some cx → s.gone cx = true →
      Completes (exec (.evDestroyContext n) s) fun t => Answered t k 0 0) ∧
    (∀ (c : Context), Performs s n 0x03 k → k.badFlags = false → k.target.bind s.ctx? = some c →
      let size := pageSize k.psize
      (bitOf (k.w 6) 14 = false → bitOf (k.w 6) 15 = false → Completes (exec (.evMap n) s) fun t =>
        (s.mapChecks k c size = false ∨ s.pages c (k.w 3) (k.w 4) ≠ [] → Answered t k 0x08 0) ∧
        ∀ (s1 : State), s.mapChecks k c size = true → s.pages c (k.w 3) (k.w 4) = [] →
          putLeaves c size k.leafFlags (k.w 4 / size) (k.w 3) (k.w 5) s = some s1 →
          Answered t k 0 0 ∧ (k.from' = none → (∀ j < 16, s.hdm? (k.w 1 + j) = none) → t.mem = s1.mem)) ∧
      (∀ (ps : List Page), bitOf (k.w 6) 14 = true → bitOf (k.w 6) 15 = false → k.phase = .ready →
        s.mapChecks k c size = true → s.pagesToMove k c size = some ps → (∀ p ∈ ps, s.hostHas p = false) →
        Completes (exec (.evMapMove n) s) fun t => Waits t k (.sealed' (ps.map fun p => (p.pa, p.size))) ∧
          t.mem = s.mem ∧ ∀ p ∈ ps, (p.pa, p.size) ∈ t.seals)) ∧
    (∀ (c : Context) (ranges : List (Nat × Nat)), Performs s n 0x03 k → k.target.bind s.ctx? = some c →
      k.phase = .sealed' ranges →
      (∀ p ∈ s.pages c (k.w 3) (k.w 4), s.remoteUnderway p.pa (pageSize k.psize) = false) →
      Completes (exec (.evMigrationDrainComplete n) s) fun t => ∃ (moved : List (Nat × Nat × Nat)), Waits t k (.copied moved) ∧
        moved.length = (s.pages c (k.w 3) (k.w 4)).length) ∧
    (∀ (ranges : List (Nat × Nat)), Performs s n 0x03 k → k.target.bind s.ctx? = none → k.phase = .sealed' ranges →
      Completes (exec (.evMigrationDrainComplete n) s) fun t => Answered t k 0x05 0 ∧ ∀ x ∈ t.seals, x ∈ s.seals ∧ x ∉ ranges) ∧
    (∀ (moved : List (Nat × Nat × Nat)), Performs s n 0x03 k → k.phase = .copied moved →
      (∀ m ∈ s.msgs, m.refused = true ∨ m.access? = none) →
      Completes (exec (.evMigrationReissue n) s) fun t => Answered t k 0 0 ∧
        ∀ m ∈ moved, (m.1, m.2.2) ∉ t.seals ∧ (m.2.1, m.2.2) ∉ t.seals) ∧
    (Performs s n 0x03 k → k.grants = true → k.badFlags = false →
      (s.heldByOld k.named (k.w 5) (k.w 4) = false ∧ s.unmapOpen (k.w 5) (k.w 4) = false) ∨
        grantable k.named (k.w 5) (k.w 4) = false →
      Completes (exec (.evMapGrant n) s) fun t =>
        (grantable k.named (k.w 5) (k.w 4) = false → Answered t k 0x08 0) ∧
        (grantable k.named (k.w 5) (k.w 4) = true → Answered t k 0 0 ∧
          ∀ i < k.w 4 / 65536, t.ownerOf (k.w 5 / 65536 + i) = k.named)) ∧
    (∀ (c : Context), Performs s n 0x04 k → k.phase = .ready → k.w 6 / 2 ^ 16 = 0 → k.target.bind s.ctx? = some c →
      let ps := s.pages c (k.w 3) (k.w 4)
      let bad := (∃ p ∈ ps, splitsPage (k.w 3) (k.w 4) p = true) ∨ c.keepsMapped (k.w 3) (k.w 4) = true
      bad ∨ s.commitTouches c.id (k.w 3) (k.w 4) = false → Completes (exec (.evUnmap n) s) fun t =>
        (bad → Answered t k 0x08 0) ∧
        (¬ bad → Waits t k (.unmapping (ps.map fun p => (p.pa, p.size))) ∧ ∀ p ∈ ps, t.readNat p.ea 8 = 0)) ∧
    (∀ (ranges : List (Nat × Nat)), Performs s n 0x04 k → k.phase = .unmapping ranges → (∀ m ∈ s.msgs, m.access? = none) →
      Completes (exec (.evUnmapComplete n) s) fun t => Answered t k 0 0) ∧
    (∀ (c : Context) (zero : Bool) (counts : List (LinkEnd × Nat × Nat)), Performs s n 0x07 k →
      k.phase = .round zero counts → k.target.bind s.ctx? = some c → Completes (exec (.evQueryQuiescent n) s) fun t =>
        Answered t k 0 (if zero && s.quiescent c && s.linkCounts c == counts then 1 else 0)) ∧
    (∀ (c : Context), k.phase = .ready → k.w 3 / 2 ^ 16 = 0 → k.target.bind s.ctx? = some c → k.from' = none →
      (Performs s n 0x05 k → Completes (exec (.evLoadImage n) s) fun t =>
        (c.run ≠ .created → Answered t k 0x0A 0) ∧
        (c.run = .created → (s.hostBytes (k.w 4) (k.w 5)).2 = none → Answered t k 0x04 0) ∧
        ∀ (s1 : State) (bs : List Byte), c.run = .created → s.hostBytes (k.w 4) (k.w 5) = (s1, some bs) →
          (Config.parseLmi bs = none → Answered t k 0x07 0) ∧
          ∀ (im : Image), Config.parseLmi bs = some im →
            (imageGood im (k.w 6) = false → Answered t k 0x07 0) ∧
            (imageGood im (k.w 6) = true → s1.pagesAdmit c .fetch (k.w 6) im.code.length = true →
              (∀ d ∈ im.hbm, s1.writable c d.addr d.bytes.length = true) → Answered t k 0 0 ∧ ∃ (c' : Context),
                t.ctx? c.id = some c' ∧ c'.run = .loaded ∧ c'.image = some im ∧ c'.codeBase = k.w 6)) ∧
      (Performs s n 0x06 k → Completes (exec (.evLaunch n) s) fun t =>
        (c.run ≠ .loaded → Answered t k 0x0A 0) ∧
        ∀ (s1 : State) (im : Image) (bs : List Byte) (rs : List Region), c.run = .loaded → c.image = some im →
          s.candleSpent c.id.vf = false → s.hostBytes (k.w 4) 256 = (s1, some bs) →
          let l := fun i => leNat ((bs.drop (8 * i)).take 8)
          launchReserved l = false → bitOf (l 2) 6 = false → l 2 % 4 ≠ 0 ∨ k.vf = 0 → bitsOf (l 2) 5 4 ≠ 2 →
          handlerGood im c.codeBase (l 4) = true →
          (placeRegions s1 c.id.vf [] 0 (im.regions.map fun d => (d.w, d.h)) [] = none → Answered t k 0x06 0) ∧
          (placeRegions s1 c.id.vf [] 0 (im.regions.map fun d => (d.w, d.h)) [] = some rs →
            s1.podDiffers (c.launched im (launchParams l) rs) = false → Answered t k 0 0 ∧
            ∃ (c' : Context), t.ctx? c.id = some c' ∧ c'.run = .running ∧ c'.regions = rs ∧ c'.budget = l 1 ∧
              c'.cls = l 2 % 4 ∧ c'.params.handler = l 4 ∧ c'.params.stopMask = l 3 ∧ c'.energy = 0 ∧
              c'.credits = List.replicate im.circuits.length 32)) ∧
      (Performs s n 0x07 k → Completes (exec (.evQueryQuiescent n) s) fun t => t.mem = s.mem ∧
        Waits t k (.round (s.quiescent c && (s.linkCounts c).all fun x => x.2.1 == x.2.2) (s.linkCounts c))) ∧
      (Performs s n 0x08 k → k.w 4 = 1 → k.barred c = false → c.cutByOther = false → savesFrom c.run = true →
        Completes (exec (.evSaveImage n) s) fun t =>
          (s.destGood c (k.saveTo c) = false → Answered t k 0x08 0) ∧
          (s.destGood c (k.saveTo c) = true → Waits t k .cutting ∧ ∃ (c' : Context), t.ctx? c.id = some c' ∧
            c'.run = .cutting true false ∧ c'.cutDest = k.saveTo c)) ∧
      (Performs s n 0x08 k → k.w 4 = 0 → s.settled c = true → Completes (exec (.evSaveImageNonreleasing n) s) fun t =>
        (c.run ≠ .stopped → Answered t k 0x0A 0) ∧
        (c.run = .stopped → s.destGood c (k.saveTo c) = true →
          let s0 := (s.destRead c (k.saveTo c)).readOut c
          Answered t k 0 (imageOf s0 c s.clk true).length ∧ ∃ (c' : Context), t.ctx? c.id = some c' ∧ c'.run = .stopped)) ∧
      (Performs s n 0x09 k → Completes (exec (.evRestoreImage n) s) fun t =>
        (c.resting = false → Answered t k 0x0A 0) ∧
        ∀ (s1 : State) (bs : List Byte) (v : SavedImage) (rs : List Region), c.resting = true →
          s.candleSpent c.id.vf = false → s.readImage k = (s1, .ok bs) →
          leNat ((bs.drop 8).take 8) = c.id.vf % 64 * 1024 + c.id.num % 1024 →
          s1.imageHeld bs = some v → takes c v = true → k.w 5 = 0 →
          placeRegions s1.takeMarks c.id.vf [] 0 v.shapes [] = some rs →
          Answered t k 0 0 ∧ ∃ (c' : Context), t.ctx? c.id = some c' ∧ c'.run = .running ∧ c'.regions = rs) ∧
      (Performs s n 0x0A k → c.run = .running ∨ c.run = .stopped → s.destGood c c.imageArea = true →
        Completes (exec (.evSnuffCommand n) s) fun t => Waits t k .cutting ∧ ∃ (c' : Context), t.ctx? c.id = some c' ∧
          c'.run = .cutting true false ∧ c'.cutDest = c.imageArea))

/-- R20, R316, R317, R325, R336, R339, R348, R375, R395-R397: the commands that set a function's policy and read or write
the device's own records, with their status. The model's own choices: a function's first SET_CANDLE takes effect at once
(notes/assumptions 24), and ATTEST names a context for the physical function too (37). -/
def Obligations.AdminCommandSteps : Prop :=
  ∀ (s : State) (n : Nat) (k : KCmd), LastRead s k →
    (∀ (f : Function), Performs s n 0x0B k → Completes (exec (.evSetCandle n) s) fun t =>
      (k.w 3 = 0 ∨ 63 < k.w 3 → Answered t k 0x05 0) ∧
      (0 < k.w 3 → k.w 3 ≤ 63 → k.w 5 = 0 ∨ 2 ^ 32 ≤ k.w 5 → Answered t k 0x01 0) ∧
      (0 < k.w 3 → k.w 3 ≤ 63 → 0 < k.w 5 → k.w 5 < 2 ^ 32 → s.functions[k.w 3]? = some f → Answered t k 0 0 ∧
        let q := if k.w 4 = 2 ^ 64 - 1 then none else some (k.w 4)
        ∃ (f' : Function), t.functions[k.w 3]? = some f' ∧
          (f.candled = true → f'.nextPeriod = some (q, k.w 5) ∧ f'.quota = f.quota) ∧
          (f.candled = false → f'.quota = q ∧ f'.period = k.w 5))) ∧
    (∀ (c : Context), Performs s n 0x0C k → k.w 3 / 2 ^ 16 = 0 → k.target.bind s.ctx? = some c → k.from' = none →
      Completes (exec (.evReadLanterns n) s) fun t => Answered t k 0 1 ∧
        (k.w 4 + 16 ≤ k.w 1 ∨ k.w 1 + 16 ≤ k.w 4 →
          t.hostRead (k.w 4) 16 = leBytes 8 (c.id.vf % 64 * 1024 + c.id.num % 1024) ++ leBytes 8 (c.energy / 65536))) ∧
    (∀ (f : Function), Performs s n 0x0D k → Completes (exec (.evSetDieTable n) s) fun t =>
      (k.w 3 = 0 ∨ 63 < k.w 3 → Answered t k 0x05 0) ∧
      (0 < k.w 3 → k.w 3 ≤ 63 → 2 ^ 32 ≤ k.w 4 → Answered t k 0x01 0) ∧
      (0 < k.w 3 → k.w 3 ≤ 63 → k.w 4 < 2 ^ 32 → (tableDies (k.w 4)).eraseDups.length = (tableDies (k.w 4)).length →
        s.functions[k.w 3]? = some f → Answered t k 0 0 ∧
        t.functions[k.w 3]? = some { f with dieTable := k.w 4 })) ∧
    (Performs s n 0x0E k → Completes (exec (.evMarkBadNodes n) s) fun t =>
      (7 < k.w 3 → Answered t k 0x05 0) ∧
      (k.w 3 ≤ 7 → k.w 4 = 1 → k.w 3 ∉ s.badHeld → Answered t k 0x01 0) ∧
      (k.w 3 ≤ 7 → k.w 4 < 2 ^ 12 → k.w 4 % 16 = 0 → k.w 4 / 16 % 16 ≤ 9 → k.w 4 / 256 ≤ 9 → Answered t k 0 0 ∧
        (⟨k.w 3, k.w 4 / 256 * 10 + k.w 4 / 16 % 16⟩ : QuadId) ∈ t.marked ∧ ∀ q ∈ s.marked, q ∈ t.marked)) ∧
    (Performs s n 0x0F k → k.from' = none → k.w 5 < 2 ^ 17 →
      (k.target.bind s.ctx? = none → Completes (exec (.evAttest n) s) fun t => Answered t k 0x05 0) ∧
      (∀ (c : Context) (nonce : List Byte), k.target.bind s.ctx? = some c → (s.hostBytes (k.w 3) 32).2 = some nonce →
        Completes (exec (.evAttest n) s) fun t => Answered t k 0 5565)) ∧
    (∀ (bs : List Byte), Performs s n 0x10 k → k.from' = none → (s.hostBytes (k.w 3) (k.w 4)).2 = some bs →
      Completes (exec (.evLoadCalibration n) s) fun t =>
        (recordForm bs = false → Answered t k 0x01 0) ∧
        (recordForm bs = true → recordSigned bs = false → Answered t k 0x09 0 ∧ t.ready = s.ready) ∧
        (recordForm bs = true → recordSigned bs = true →
          (leNat (bs.take 1) = 2 → Answered t k 0 2 ∧ t.nextCalib = some bs ∧ t.calibRec = s.calibRec) ∧
          (leNat (bs.take 1) ≠ 2 → s.ready = true → Answered t k 0x0A 0) ∧
          ∀ (pkg pod sus peak : Nat) (masks addrs : List Nat), leNat (bs.take 1) ≠ 2 → s.ready = false →
            Config.parseConfig ((bs.take (bs.length - 3309)).drop 80) = some (pkg, pod, masks, sus, peak, addrs) →
            masks.length = 8 → (∀ m ∈ masks, maskGood m = true) → 0 < pod → pod ≤ 64 → pkg < pod →
            Answered t k 0 1 ∧ t.ready = true ∧ t.pkgNo = pkg ∧ t.podSize = pod ∧ t.enabled = masks)) ∧
    (∀ (f : Function) (w : Window), Performs s n 0x11 k → 0 < k.w 3 → k.w 3 ≤ 63 → k.w 4 < 4 → k.w 5 < 2 ^ 40 →
      limitsGood (k.w 5) = true → (∀ c ∈ s.contexts, c.id.vf ≠ k.w 3) → (∀ q ∈ s.quads, q.cx.vf ≠ k.w 3) →
      s.functions[k.w 3]? = some f → s.windows[k.w 3]? = some w → w.sqHead = w.sqTail → k.vf = 0 →
      Completes (exec (.evResetVf n) s) fun t => Answered t k 0 0 ∧
        t.functions[k.w 3]? = some { f with sysScope := (k.w 4) % 2 = 1, priv := 2 ≤ k.w 4, limits := limitsOf (k.w 5) } ∧
        ∃ (w' : Window), t.windows[k.w 3]? = some w' ∧ w'.frozen = false) ∧
    (Performs s n 0x12 k → Completes (exec (.evSetCounting n) s) fun t =>
      (63 < k.w 3 → Answered t k 0x05 0) ∧
      (k.w 3 ≤ 63 → Answered t k 0 0 ∧ t.counting = k.w 3 ∧
        (k.w 3 ≠ s.counting → ∀ i < 8, t.shared[i]? = some 0)))

/-! ### Frames, encodings, the step, reset -/

/-- R33, R37, R316, R324, R391: no instruction that fires, whatever its form and whatever comes of it, changes a function's
policy, the owner of a frame of memory, which quads are enabled or listed, a seal, K's commands, or a commit under way: only
device steps do. R32, R33, R80, R112: what a value instruction leaves unchanged when it runs, with a null or without and absorbed or not:
everything outside the lanes, the instances and the tokens in flight (memory, contexts, quads, special registers, strands
among them), every other instance, and of its own instance the frame's registers, the body, the effects, the exits and the
register writes buffered at their slots; its exception flags too, but for the float forms, which only set bits. RETAG where
it sends a token: its fault is another statement's. -/
def Obligations.ValueFrame : Prop :=
  ∀ (s t : State) (l : Lane) (i : Inst), s.lanes.head? = some l → s.inst? l.inst = some i →
    let keeps := fun (ins : Instr) (float : Bool) => exec ins s = .next t → t.lanes = s.lanes.tail ∧ s.sameOutside t ∧
      s.sameInsts t l.inst ∧ ∃ (j : Inst), t.inst? l.inst = some j ∧ j.frame = i.frame ∧ j.body = i.body ∧ j.effs = i.effs ∧
        j.exits = i.exits ∧ j.resolved = i.resolved ∧ j.swrs = i.swrs ∧ j.held = i.held ∧
        (float = false → j.flags = i.flags) ∧ (∀ b : Nat, i.flags.testBit b = true → j.flags.testBit b = true)
    (∀ (f : FmtG), (∀ ins ∈ [Instr.add f, .sub f, .mul f, .mulhs f, .mulhu f, .divs f, .divu f, .rems f, .remu f, .andOp f,
        .orOp f, .xorOp f, .andn f, .orn f, .shl f, .shr f, .sar f, .rol f, .ror f, .mins f, .minu f, .maxs f, .maxu f,
        .absd f, .teq f, .tne f, .tlts f, .tles f, .tltu f, .tleu f, .tgts f, .tges f, .tgtu f, .tgeu f, .neg f, .abs f,
        .notOp f, .clz f, .ctz f, .popc f, .brev f, .bswap f, .sext f, .zext f, .mov f, .bfx f, .bfxs f, .bfi f, .sel f,
        .madd f, .fsh f, .pand f, .por f, .pxor f, .pnot f, .steer f, .nullOp f, .tagof f, .merge f], keeps ins false) ∧
      (∀ ins ∈ [Instr.fadd f, .fsub f, .fmul f, .fdiv f, .fmin f, .fmax f, .fminm f, .fmaxm f, .fcpys f, .fscale f, .fabs f,
        .fneg f, .fclass f, .ffrac f, .fsqrt f, .frcp f, .frsq f, .ex2 f, .lg2 f, .sinp f, .cosp f, .tanh f, .ffma f, .ffms f,
        .fnfma f, .fnfms f, .fteq f, .ftne f, .ftlt f, .ftle f, .ftun f, .ftord f], keeps ins true) ∧
      ((∃ v, exec (.retag f) s = sends s l [f.t0, f.t1] v) → keeps (.retag f) false)) ∧
    (∀ (f : FmtI), (∀ ins ∈ [Instr.addi f, .muli f, .andi f, .ori f, .xori f, .shli f, .shri f, .sari f, .roli f, .minsi f,
        .maxsi f, .teqi f, .tnei f, .tltsi f, .tlesi f, .tltui f, .tleui f, .tgtsi f, .tgesi f, .movi f], keeps ins false) ∧
      ∀ ins ∈ [Instr.frnd f, .fcvt f, .fcvts f, .fcvtu f, .scvtf f, .ucvtf f, .mxscl f, .mxq f], keeps ins true) ∧
    (∀ (f : FmtC), keeps (.genc f) false ∧ keeps (.appc f) false) ∧
    (∀ (f : FmtR), keeps (.rdc f) false ∧ keeps (.inlet f) false) ∧
    (∀ (f : FmtF), keeps (.fan f) false) ∧
    ∀ ins : Instr, ins.form.isSome → exec ins s = .next t → t.functions = s.functions ∧ t.owners = s.owners ∧
      t.enabled = s.enabled ∧ t.marked = s.marked ∧ t.badQuads = s.badQuads ∧ t.seals = s.seals ∧ t.kcmds = s.kcmds ∧
      t.commits = s.commits

/-- R32, R66, R69: the words at a fired slot of an instance's body that decode to an instruction are run as it; a slot that
holds none is refused by name. The agenda of device steps comes before the model's own order of them (notes/assumptions
2). -/
def Obligations.StepRunsDecoded : Prop :=
  ∀ (s : State),
    (∀ (l : Lane) (ls : List Lane) (i : Inst) (ins : Instr) (rest : List Byte), s.lanes = l :: ls →
      s.inst? l.inst = some i → decode ((i.body.drop l.slot).flatMap bytesOfSlot) = .ok (ins, rest) →
      step s = exec ins s) ∧
    (∀ (l : Lane) (ls : List Lane) (i : Inst) (e : Reject), s.lanes = l :: ls → s.inst? l.inst = some i →
      decode ((i.body.drop l.slot).flatMap bytesOfSlot) = .error e → step s = .refused .notAnInstruction) ∧
    (∀ (ins : Instr) (more : List Instr), s.lanes = [] → s.agenda = ins :: more →
      step s = exec ins { s with agenda := more }) ∧
    (∀ (l : Lane) (ls : List Lane), s.lanes = l :: ls → s.inst? l.inst = none → step s = .refused .notAnInstruction)

/-- R7, R69 to R71, R93: words written out from the formats' fields, in memory order, decode to their instructions, one of
each format: sub.h.sat to i9.r, minsi.w of -5 to c12, rdc of c31 to i4.l, ldd of LSID 3 one access below its base, std of
LSID 31, br by exit 7 to the block before, genc, fld.d to c4 by exit 1, scopy of LSID 2 on the nearest engine, fan to four
targets. A slot of zeros and one of ones do not decode (R95). -/
def Obligations.DecodeWords : Prop :=
  decode [0x09, 0x01, 0x18, 0x01] = .ok (.sub ⟨0, 6, 0, 0x109⟩, []) ∧
  decode [0x0C, 0xF6, 0x87, 0x24] = .ok (.minsi ⟨0, 1, 0x1FB, 0x00C⟩, []) ∧
  decode [0x84, 0x00, 0xFC, 0x43] = .ok (.rdc ⟨31, 0, 0x084⟩, []) ∧
  decode [0x82, 0xFE, 0x03, 0x80] = .ok (.ldd ⟨0, 3, 0x7F, 0x082⟩, []) ∧
  decode [0x10, 0x00, 0x1F, 0x84] = .ok (.std ⟨0, 31, 0x0010⟩, []) ∧
  decode [0xFF, 0xFF, 0x1F, 0xA0] = .ok (.br ⟨0, 7, 0x3FFFF⟩, []) ∧
  decode [0x81, 0x6E, 0x3C, 0xF1] = .ok (.genc ⟨0, 0x9E37, 0x081⟩, []) ∧
  decode [0x00, 0x90, 0x00, 0x90, 0x00, 0x40, 0x00, 0x00] = .ok (.fld ⟨0, 0, 1, 4, 0, 1, 0⟩, []) ∧
  decode [0x83, 0x00, 0x00, 0xB0, 0x00, 0x00, 0x0F, 0x10] = .ok (.scopy ⟨0, 0, 0, 0x083, 2, 0xF0000⟩, []) ∧
  decode [0x83, 0x08, 0x02, 0x43, 0x85, 0x0D, 0x00, 0x00] = .ok (.fan ⟨0, 0, 0x104, 0x083, 0, 0x006, 0x185⟩, []) ∧
  decode [0, 0, 0, 0] = .error (.illegalWord 1) ∧ decode [0xFF, 0xFF, 0xFF, 0xFF] = .error (.illegalWord 1)

/-- R69 to R73, R93, R95: decoding the words of any well-formed instruction gives it back with every operand, and the bytes
after them; and what decodes is well formed. -/
def Obligations.DecodeEncode : Prop :=
  (∀ (i : Instr) (rest : List Byte), i.WellFormed → i.form.isSome → decode (encodeBytes i ++ rest) = .ok (i, rest)) ∧
  (∀ (bs rest : List Byte) (i : Instr), decode bs = .ok (i, rest) → i.WellFormed ∧ i.form.isSome)

/-- The memories keep their canonical form in every step, whatever the state. The form is the model's (notes/assumptions
1). -/
def Obligations.StepKeepsMemory : Prop :=
  ∀ (s t : State), s.memOk = true → step s = .next t → t.memOk = true

/-- R289, R316, R319, R337, R387, R395: what reset leaves. READY is 0, no quad is enabled, no context, instance or command
exists, every correction factor is 1, the windows' heads and tails are 0, the physical function alone may place System
contexts and use privileged instructions. The memories are canonical; a byte nothing has written reads as zero (the model's
choice, notes/assumptions 1), and the registers the spec gives no value for reset hold the model's (notes/assumptions 7). -/
def Obligations.ResetState : Prop :=
  State.reset.memOk = true ∧ (∀ a : Nat, State.reset.byteAt a = 0) ∧ State.reset.ready = false ∧ State.reset.powerOff = false ∧
  State.reset.contexts = [] ∧ State.reset.quads = [] ∧ State.reset.insts = [] ∧ State.reset.kcmds = [] ∧
  (∀ d < 8, State.reset.enabled[d]? = some 0) ∧ (∀ d < 17, State.reset.factors[d]? = some 4096) ∧
  State.reset.fclk = 18000 ∧
  (∀ n < 64, ∃ (w : Window) (f : Function), State.reset.windows[n]? = some w ∧ State.reset.functions[n]? = some f ∧
    w.sqTail = 0 ∧ w.sqHead = 0 ∧ w.eqHead = 0 ∧ w.eqTail = 0 ∧ w.eqLost = 0 ∧ w.frozen = false ∧
    (f.sysScope = true ↔ n = 0) ∧ (f.priv = true ↔ n = 0) ∧ f.dieTable = 0 ∧ f.spent = 0)
end

