-- ==== Sys2Proof/Laws/State.lean ====
section
/-!
SUPPORT. The fields of a state after each named update: one lemma per field, so that no proof unfolds an update.
-/

namespace Sys2Proof.Machine

/-! ### tick -/

@[simp] theorem State.tick_clk (s : State) : s.tick.clk = s.clk + 1 := rfl
@[simp] theorem State.tick_fclk (s : State) : s.tick.fclk = s.fclk := rfl
@[simp] theorem State.tick_powerOff (s : State) : s.tick.powerOff = s.powerOff := rfl
@[simp] theorem State.tick_ready (s : State) : s.tick.ready = s.ready := rfl
@[simp] theorem State.tick_halfRate (s : State) : s.tick.halfRate = s.halfRate := rfl
@[simp] theorem State.tick_hdmBase (s : State) : s.tick.hdmBase = s.hdmBase := rfl
@[simp] theorem State.tick_pkgNo (s : State) : s.tick.pkgNo = s.pkgNo := rfl
@[simp] theorem State.tick_podSize (s : State) : s.tick.podSize = s.podSize := rfl
@[simp] theorem State.tick_podAddrs (s : State) : s.tick.podAddrs = s.podAddrs := rfl
@[simp] theorem State.tick_sustained (s : State) : s.tick.sustained = s.sustained := rfl
@[simp] theorem State.tick_peak (s : State) : s.tick.peak = s.peak := rfl
@[simp] theorem State.tick_powerLog (s : State) : s.tick.powerLog = s.powerLog := rfl
@[simp] theorem State.tick_msNo (s : State) : s.tick.msNo = s.msNo := rfl
@[simp] theorem State.tick_msAt (s : State) : s.tick.msAt = s.msAt := rfl
@[simp] theorem State.tick_msFactors (s : State) : s.tick.msFactors = s.msFactors := rfl
@[simp] theorem State.tick_msPower (s : State) : s.tick.msPower = s.msPower := rfl
@[simp] theorem State.tick_msLowered (s : State) : s.tick.msLowered = s.msLowered := rfl
@[simp] theorem State.tick_msHot (s : State) : s.tick.msHot = s.msHot := rfl
@[simp] theorem State.tick_dieCharged (s : State) : s.tick.dieCharged = s.dieCharged := rfl
@[simp] theorem State.tick_msMapped (s : State) : s.tick.msMapped = s.msMapped := rfl
@[simp] theorem State.tick_enabled (s : State) : s.tick.enabled = s.enabled := rfl
@[simp] theorem State.tick_marked (s : State) : s.tick.marked = s.marked := rfl
@[simp] theorem State.tick_badQuads (s : State) : s.tick.badQuads = s.badQuads := rfl
@[simp] theorem State.tick_badNode (s : State) : s.tick.badNode = s.badNode := rfl
@[simp] theorem State.tick_badHeld (s : State) : s.tick.badHeld = s.badHeld := rfl
@[simp] theorem State.tick_corrected (s : State) : s.tick.corrected = s.corrected := rfl
@[simp] theorem State.tick_configRec (s : State) : s.tick.configRec = s.configRec := rfl
@[simp] theorem State.tick_calibRec (s : State) : s.tick.calibRec = s.calibRec := rfl
@[simp] theorem State.tick_nextCalib (s : State) : s.tick.nextCalib = s.nextCalib := rfl
@[simp] theorem State.tick_factors (s : State) : s.tick.factors = s.factors := rfl
@[simp] theorem State.tick_counting (s : State) : s.tick.counting = s.counting := rfl
@[simp] theorem State.tick_shared (s : State) : s.tick.shared = s.shared := rfl
@[simp] theorem State.tick_mem (s : State) : s.tick.mem = s.mem := rfl
@[simp] theorem State.tick_poison (s : State) : s.tick.poison = s.poison := rfl
@[simp] theorem State.tick_weak (s : State) : s.tick.weak = s.weak := rfl
@[simp] theorem State.tick_badLines (s : State) : s.tick.badLines = s.badLines := rfl
@[simp] theorem State.tick_broken (s : State) : s.tick.broken = s.broken := rfl
@[simp] theorem State.tick_cached (s : State) : s.tick.cached = s.cached := rfl
@[simp] theorem State.tick_hostMem (s : State) : s.tick.hostMem = s.hostMem := rfl
@[simp] theorem State.tick_hostPoison (s : State) : s.tick.hostPoison = s.hostPoison := rfl
@[simp] theorem State.tick_owners (s : State) : s.tick.owners = s.owners := rfl
@[simp] theorem State.tick_hostMapped (s : State) : s.tick.hostMapped = s.hostMapped := rfl
@[simp] theorem State.tick_cxlReply (s : State) : s.tick.cxlReply = s.cxlReply := rfl
@[simp] theorem State.tick_seals (s : State) : s.tick.seals = s.seals := rfl
@[simp] theorem State.tick_tableNext (s : State) : s.tick.tableNext = s.tableNext := rfl
@[simp] theorem State.tick_quads (s : State) : s.tick.quads = s.quads := rfl
@[simp] theorem State.tick_tlbs (s : State) : s.tick.tlbs = s.tlbs := rfl
@[simp] theorem State.tick_links (s : State) : s.tick.links = s.links := rfl
@[simp] theorem State.tick_insts (s : State) : s.tick.insts = s.insts := rfl
@[simp] theorem State.tick_commits (s : State) : s.tick.commits = s.commits := rfl
@[simp] theorem State.tick_frames (s : State) : s.tick.frames = s.frames := rfl
@[simp] theorem State.tick_embers (s : State) : s.tick.embers = s.embers := rfl
@[simp] theorem State.tick_retiring (s : State) : s.tick.retiring = s.retiring := rfl
@[simp] theorem State.tick_flying (s : State) : s.tick.flying = s.flying := rfl
@[simp] theorem State.tick_msgs (s : State) : s.tick.msgs = s.msgs := rfl
@[simp] theorem State.tick_posted (s : State) : s.tick.posted = s.posted := rfl
@[simp] theorem State.tick_fifo (s : State) : s.tick.fifo = s.fifo := rfl
@[simp] theorem State.tick_specs (s : State) : s.tick.specs = s.specs := rfl
@[simp] theorem State.tick_cmds (s : State) : s.tick.cmds = s.cmds := rfl
@[simp] theorem State.tick_barriers (s : State) : s.tick.barriers = s.barriers := rfl
@[simp] theorem State.tick_contexts (s : State) : s.tick.contexts = s.contexts := rfl
@[simp] theorem State.tick_decoders (s : State) : s.tick.decoders = s.decoders := rfl
@[simp] theorem State.tick_windows (s : State) : s.tick.windows = s.windows := rfl
@[simp] theorem State.tick_functions (s : State) : s.tick.functions = s.functions := rfl
@[simp] theorem State.tick_kcmds (s : State) : s.tick.kcmds = s.kcmds := rfl
@[simp] theorem State.tick_grants (s : State) : s.tick.grants = s.grants := rfl
@[simp] theorem State.tick_lanterns (s : State) : s.tick.lanterns = s.lanterns := rfl
@[simp] theorem State.tick_saved (s : State) : s.tick.saved = s.saved := rfl
@[simp] theorem State.tick_flows (s : State) : s.tick.flows = s.flows := rfl
@[simp] theorem State.tick_ports (s : State) : s.tick.ports = s.ports := rfl
@[simp] theorem State.tick_lostPkgs (s : State) : s.tick.lostPkgs = s.lostPkgs := rfl
@[simp] theorem State.tick_sentFrame (s : State) : s.tick.sentFrame = s.sentFrame := rfl
@[simp] theorem State.tick_lanes (s : State) : s.tick.lanes = s.lanes := rfl
@[simp] theorem State.tick_agenda (s : State) : s.tick.agenda = s.agenda := rfl
@[simp] theorem State.tick_nextId (s : State) : s.tick.nextId = s.nextId := rfl
@[simp] theorem State.tick_fresh (s : State) : s.tick.fresh = s.fresh := rfl

/-! ### modQuad -/

@[simp] theorem State.modQuad_clk (s : State) (q : QuadId) (f : Quad → Quad) : (s.modQuad q f).clk = s.clk := rfl
@[simp] theorem State.modQuad_fclk (s : State) (q : QuadId) (f : Quad → Quad) : (s.modQuad q f).fclk = s.fclk := rfl
@[simp] theorem State.modQuad_powerOff (s : State) (q : QuadId) (f : Quad → Quad) : (s.modQuad q f).powerOff = s.powerOff := rfl
@[simp] theorem State.modQuad_ready (s : State) (q : QuadId) (f : Quad → Quad) : (s.modQuad q f).ready = s.ready := rfl
@[simp] theorem State.modQuad_halfRate (s : State) (q : QuadId) (f : Quad → Quad) : (s.modQuad q f).halfRate = s.halfRate := rfl
@[simp] theorem State.modQuad_hdmBase (s : State) (q : QuadId) (f : Quad → Quad) : (s.modQuad q f).hdmBase = s.hdmBase := rfl
@[simp] theorem State.modQuad_pkgNo (s : State) (q : QuadId) (f : Quad → Quad) : (s.modQuad q f).pkgNo = s.pkgNo := rfl
@[simp] theorem State.modQuad_podSize (s : State) (q : QuadId) (f : Quad → Quad) : (s.modQuad q f).podSize = s.podSize := rfl
@[simp] theorem State.modQuad_podAddrs (s : State) (q : QuadId) (f : Quad → Quad) : (s.modQuad q f).podAddrs = s.podAddrs := rfl
@[simp] theorem State.modQuad_sustained (s : State) (q : QuadId) (f : Quad → Quad) : (s.modQuad q f).sustained = s.sustained := rfl
@[simp] theorem State.modQuad_peak (s : State) (q : QuadId) (f : Quad → Quad) : (s.modQuad q f).peak = s.peak := rfl
@[simp] theorem State.modQuad_powerLog (s : State) (q : QuadId) (f : Quad → Quad) : (s.modQuad q f).powerLog = s.powerLog := rfl
@[simp] theorem State.modQuad_msNo (s : State) (q : QuadId) (f : Quad → Quad) : (s.modQuad q f).msNo = s.msNo := rfl
@[simp] theorem State.modQuad_msAt (s : State) (q : QuadId) (f : Quad → Quad) : (s.modQuad q f).msAt = s.msAt := rfl
@[simp] theorem State.modQuad_msFactors (s : State) (q : QuadId) (f : Quad → Quad) : (s.modQuad q f).msFactors = s.msFactors := rfl
@[simp] theorem State.modQuad_msPower (s : State) (q : QuadId) (f : Quad → Quad) : (s.modQuad q f).msPower = s.msPower := rfl
@[simp] theorem State.modQuad_msLowered (s : State) (q : QuadId) (f : Quad → Quad) : (s.modQuad q f).msLowered = s.msLowered := rfl
@[simp] theorem State.modQuad_msHot (s : State) (q : QuadId) (f : Quad → Quad) : (s.modQuad q f).msHot = s.msHot := rfl
@[simp] theorem State.modQuad_dieCharged (s : State) (q : QuadId) (f : Quad → Quad) : (s.modQuad q f).dieCharged = s.dieCharged := rfl
@[simp] theorem State.modQuad_msMapped (s : State) (q : QuadId) (f : Quad → Quad) : (s.modQuad q f).msMapped = s.msMapped := rfl
@[simp] theorem State.modQuad_enabled (s : State) (q : QuadId) (f : Quad → Quad) : (s.modQuad q f).enabled = s.enabled := rfl
@[simp] theorem State.modQuad_marked (s : State) (q : QuadId) (f : Quad → Quad) : (s.modQuad q f).marked = s.marked := rfl
@[simp] theorem State.modQuad_badQuads (s : State) (q : QuadId) (f : Quad → Quad) : (s.modQuad q f).badQuads = s.badQuads := rfl
@[simp] theorem State.modQuad_badNode (s : State) (q : QuadId) (f : Quad → Quad) : (s.modQuad q f).badNode = s.badNode := rfl
@[simp] theorem State.modQuad_badHeld (s : State) (q : QuadId) (f : Quad → Quad) : (s.modQuad q f).badHeld = s.badHeld := rfl
@[simp] theorem State.modQuad_corrected (s : State) (q : QuadId) (f : Quad → Quad) : (s.modQuad q f).corrected = s.corrected := rfl
@[simp] theorem State.modQuad_configRec (s : State) (q : QuadId) (f : Quad → Quad) : (s.modQuad q f).configRec = s.configRec := rfl
@[simp] theorem State.modQuad_calibRec (s : State) (q : QuadId) (f : Quad → Quad) : (s.modQuad q f).calibRec = s.calibRec := rfl
@[simp] theorem State.modQuad_nextCalib (s : State) (q : QuadId) (f : Quad → Quad) : (s.modQuad q f).nextCalib = s.nextCalib := rfl
@[simp] theorem State.modQuad_factors (s : State) (q : QuadId) (f : Quad → Quad) : (s.modQuad q f).factors = s.factors := rfl
@[simp] theorem State.modQuad_counting (s : State) (q : QuadId) (f : Quad → Quad) : (s.modQuad q f).counting = s.counting := rfl
@[simp] theorem State.modQuad_shared (s : State) (q : QuadId) (f : Quad → Quad) : (s.modQuad q f).shared = s.shared := rfl
@[simp] theorem State.modQuad_mem (s : State) (q : QuadId) (f : Quad → Quad) : (s.modQuad q f).mem = s.mem := rfl
@[simp] theorem State.modQuad_poison (s : State) (q : QuadId) (f : Quad → Quad) : (s.modQuad q f).poison = s.poison := rfl
@[simp] theorem State.modQuad_weak (s : State) (q : QuadId) (f : Quad → Quad) : (s.modQuad q f).weak = s.weak := rfl
@[simp] theorem State.modQuad_badLines (s : State) (q : QuadId) (f : Quad → Quad) : (s.modQuad q f).badLines = s.badLines := rfl
@[simp] theorem State.modQuad_broken (s : State) (q : QuadId) (f : Quad → Quad) : (s.modQuad q f).broken = s.broken := rfl
@[simp] theorem State.modQuad_cached (s : State) (q : QuadId) (f : Quad → Quad) : (s.modQuad q f).cached = s.cached := rfl
@[simp] theorem State.modQuad_hostMem (s : State) (q : QuadId) (f : Quad → Quad) : (s.modQuad q f).hostMem = s.hostMem := rfl
@[simp] theorem State.modQuad_hostPoison (s : State) (q : QuadId) (f : Quad → Quad) : (s.modQuad q f).hostPoison = s.hostPoison := rfl
@[simp] theorem State.modQuad_owners (s : State) (q : QuadId) (f : Quad → Quad) : (s.modQuad q f).owners = s.owners := rfl
@[simp] theorem State.modQuad_hostMapped (s : State) (q : QuadId) (f : Quad → Quad) : (s.modQuad q f).hostMapped = s.hostMapped := rfl
@[simp] theorem State.modQuad_cxlReply (s : State) (q : QuadId) (f : Quad → Quad) : (s.modQuad q f).cxlReply = s.cxlReply := rfl
@[simp] theorem State.modQuad_seals (s : State) (q : QuadId) (f : Quad → Quad) : (s.modQuad q f).seals = s.seals := rfl
@[simp] theorem State.modQuad_tableNext (s : State) (q : QuadId) (f : Quad → Quad) : (s.modQuad q f).tableNext = s.tableNext := rfl
@[simp] theorem State.modQuad_quads (s : State) (q : QuadId) (f : Quad → Quad) : (s.modQuad q f).quads = modWhere (fun x => x.id = q) f s.quads := rfl
@[simp] theorem State.modQuad_tlbs (s : State) (q : QuadId) (f : Quad → Quad) : (s.modQuad q f).tlbs = s.tlbs := rfl
@[simp] theorem State.modQuad_links (s : State) (q : QuadId) (f : Quad → Quad) : (s.modQuad q f).links = s.links := rfl
@[simp] theorem State.modQuad_insts (s : State) (q : QuadId) (f : Quad → Quad) : (s.modQuad q f).insts = s.insts := rfl
@[simp] theorem State.modQuad_commits (s : State) (q : QuadId) (f : Quad → Quad) : (s.modQuad q f).commits = s.commits := rfl
@[simp] theorem State.modQuad_frames (s : State) (q : QuadId) (f : Quad → Quad) : (s.modQuad q f).frames = s.frames := rfl
@[simp] theorem State.modQuad_embers (s : State) (q : QuadId) (f : Quad → Quad) : (s.modQuad q f).embers = s.embers := rfl
@[simp] theorem State.modQuad_retiring (s : State) (q : QuadId) (f : Quad → Quad) : (s.modQuad q f).retiring = s.retiring := rfl
@[simp] theorem State.modQuad_flying (s : State) (q : QuadId) (f : Quad → Quad) : (s.modQuad q f).flying = s.flying := rfl
@[simp] theorem State.modQuad_msgs (s : State) (q : QuadId) (f : Quad → Quad) : (s.modQuad q f).msgs = s.msgs := rfl
@[simp] theorem State.modQuad_posted (s : State) (q : QuadId) (f : Quad → Quad) : (s.modQuad q f).posted = s.posted := rfl
@[simp] theorem State.modQuad_fifo (s : State) (q : QuadId) (f : Quad → Quad) : (s.modQuad q f).fifo = s.fifo := rfl
@[simp] theorem State.modQuad_specs (s : State) (q : QuadId) (f : Quad → Quad) : (s.modQuad q f).specs = s.specs := rfl
@[simp] theorem State.modQuad_cmds (s : State) (q : QuadId) (f : Quad → Quad) : (s.modQuad q f).cmds = s.cmds := rfl
@[simp] theorem State.modQuad_barriers (s : State) (q : QuadId) (f : Quad → Quad) : (s.modQuad q f).barriers = s.barriers := rfl
@[simp] theorem State.modQuad_contexts (s : State) (q : QuadId) (f : Quad → Quad) : (s.modQuad q f).contexts = s.contexts := rfl
@[simp] theorem State.modQuad_decoders (s : State) (q : QuadId) (f : Quad → Quad) : (s.modQuad q f).decoders = s.decoders := rfl
@[simp] theorem State.modQuad_windows (s : State) (q : QuadId) (f : Quad → Quad) : (s.modQuad q f).windows = s.windows := rfl
@[simp] theorem State.modQuad_functions (s : State) (q : QuadId) (f : Quad → Quad) : (s.modQuad q f).functions = s.functions := rfl
@[simp] theorem State.modQuad_kcmds (s : State) (q : QuadId) (f : Quad → Quad) : (s.modQuad q f).kcmds = s.kcmds := rfl
@[simp] theorem State.modQuad_grants (s : State) (q : QuadId) (f : Quad → Quad) : (s.modQuad q f).grants = s.grants := rfl
@[simp] theorem State.modQuad_lanterns (s : State) (q : QuadId) (f : Quad → Quad) : (s.modQuad q f).lanterns = s.lanterns := rfl
@[simp] theorem State.modQuad_saved (s : State) (q : QuadId) (f : Quad → Quad) : (s.modQuad q f).saved = s.saved := rfl
@[simp] theorem State.modQuad_flows (s : State) (q : QuadId) (f : Quad → Quad) : (s.modQuad q f).flows = s.flows := rfl
@[simp] theorem State.modQuad_ports (s : State) (q : QuadId) (f : Quad → Quad) : (s.modQuad q f).ports = s.ports := rfl
@[simp] theorem State.modQuad_lostPkgs (s : State) (q : QuadId) (f : Quad → Quad) : (s.modQuad q f).lostPkgs = s.lostPkgs := rfl
@[simp] theorem State.modQuad_sentFrame (s : State) (q : QuadId) (f : Quad → Quad) : (s.modQuad q f).sentFrame = s.sentFrame := rfl
@[simp] theorem State.modQuad_lanes (s : State) (q : QuadId) (f : Quad → Quad) : (s.modQuad q f).lanes = s.lanes := rfl
@[simp] theorem State.modQuad_agenda (s : State) (q : QuadId) (f : Quad → Quad) : (s.modQuad q f).agenda = s.agenda := rfl
@[simp] theorem State.modQuad_nextId (s : State) (q : QuadId) (f : Quad → Quad) : (s.modQuad q f).nextId = s.nextId := rfl
@[simp] theorem State.modQuad_fresh (s : State) (q : QuadId) (f : Quad → Quad) : (s.modQuad q f).fresh = s.fresh := rfl

/-! ### modCtx -/

@[simp] theorem State.modCtx_clk (s : State) (c : CtxId) (f : Context → Context) : (s.modCtx c f).clk = s.clk := rfl
@[simp] theorem State.modCtx_fclk (s : State) (c : CtxId) (f : Context → Context) : (s.modCtx c f).fclk = s.fclk := rfl
@[simp] theorem State.modCtx_powerOff (s : State) (c : CtxId) (f : Context → Context) : (s.modCtx c f).powerOff = s.powerOff := rfl
@[simp] theorem State.modCtx_ready (s : State) (c : CtxId) (f : Context → Context) : (s.modCtx c f).ready = s.ready := rfl
@[simp] theorem State.modCtx_halfRate (s : State) (c : CtxId) (f : Context → Context) : (s.modCtx c f).halfRate = s.halfRate := rfl
@[simp] theorem State.modCtx_hdmBase (s : State) (c : CtxId) (f : Context → Context) : (s.modCtx c f).hdmBase = s.hdmBase := rfl
@[simp] theorem State.modCtx_pkgNo (s : State) (c : CtxId) (f : Context → Context) : (s.modCtx c f).pkgNo = s.pkgNo := rfl
@[simp] theorem State.modCtx_podSize (s : State) (c : CtxId) (f : Context → Context) : (s.modCtx c f).podSize = s.podSize := rfl
@[simp] theorem State.modCtx_podAddrs (s : State) (c : CtxId) (f : Context → Context) : (s.modCtx c f).podAddrs = s.podAddrs := rfl
@[simp] theorem State.modCtx_sustained (s : State) (c : CtxId) (f : Context → Context) : (s.modCtx c f).sustained = s.sustained := rfl
@[simp] theorem State.modCtx_peak (s : State) (c : CtxId) (f : Context → Context) : (s.modCtx c f).peak = s.peak := rfl
@[simp] theorem State.modCtx_powerLog (s : State) (c : CtxId) (f : Context → Context) : (s.modCtx c f).powerLog = s.powerLog := rfl
@[simp] theorem State.modCtx_msNo (s : State) (c : CtxId) (f : Context → Context) : (s.modCtx c f).msNo = s.msNo := rfl
@[simp] theorem State.modCtx_msAt (s : State) (c : CtxId) (f : Context → Context) : (s.modCtx c f).msAt = s.msAt := rfl
@[simp] theorem State.modCtx_msFactors (s : State) (c : CtxId) (f : Context → Context) : (s.modCtx c f).msFactors = s.msFactors := rfl
@[simp] theorem State.modCtx_msPower (s : State) (c : CtxId) (f : Context → Context) : (s.modCtx c f).msPower = s.msPower := rfl
@[simp] theorem State.modCtx_msLowered (s : State) (c : CtxId) (f : Context → Context) : (s.modCtx c f).msLowered = s.msLowered := rfl
@[simp] theorem State.modCtx_msHot (s : State) (c : CtxId) (f : Context → Context) : (s.modCtx c f).msHot = s.msHot := rfl
@[simp] theorem State.modCtx_dieCharged (s : State) (c : CtxId) (f : Context → Context) : (s.modCtx c f).dieCharged = s.dieCharged := rfl
@[simp] theorem State.modCtx_msMapped (s : State) (c : CtxId) (f : Context → Context) : (s.modCtx c f).msMapped = s.msMapped := rfl
@[simp] theorem State.modCtx_enabled (s : State) (c : CtxId) (f : Context → Context) : (s.modCtx c f).enabled = s.enabled := rfl
@[simp] theorem State.modCtx_marked (s : State) (c : CtxId) (f : Context → Context) : (s.modCtx c f).marked = s.marked := rfl
@[simp] theorem State.modCtx_badQuads (s : State) (c : CtxId) (f : Context → Context) : (s.modCtx c f).badQuads = s.badQuads := rfl
@[simp] theorem State.modCtx_badNode (s : State) (c : CtxId) (f : Context → Context) : (s.modCtx c f).badNode = s.badNode := rfl
@[simp] theorem State.modCtx_badHeld (s : State) (c : CtxId) (f : Context → Context) : (s.modCtx c f).badHeld = s.badHeld := rfl
@[simp] theorem State.modCtx_corrected (s : State) (c : CtxId) (f : Context → Context) : (s.modCtx c f).corrected = s.corrected := rfl
@[simp] theorem State.modCtx_configRec (s : State) (c : CtxId) (f : Context → Context) : (s.modCtx c f).configRec = s.configRec := rfl
@[simp] theorem State.modCtx_calibRec (s : State) (c : CtxId) (f : Context → Context) : (s.modCtx c f).calibRec = s.calibRec := rfl
@[simp] theorem State.modCtx_nextCalib (s : State) (c : CtxId) (f : Context → Context) : (s.modCtx c f).nextCalib = s.nextCalib := rfl
@[simp] theorem State.modCtx_factors (s : State) (c : CtxId) (f : Context → Context) : (s.modCtx c f).factors = s.factors := rfl
@[simp] theorem State.modCtx_counting (s : State) (c : CtxId) (f : Context → Context) : (s.modCtx c f).counting = s.counting := rfl
@[simp] theorem State.modCtx_shared (s : State) (c : CtxId) (f : Context → Context) : (s.modCtx c f).shared = s.shared := rfl
@[simp] theorem State.modCtx_mem (s : State) (c : CtxId) (f : Context → Context) : (s.modCtx c f).mem = s.mem := rfl
@[simp] theorem State.modCtx_poison (s : State) (c : CtxId) (f : Context → Context) : (s.modCtx c f).poison = s.poison := rfl
@[simp] theorem State.modCtx_weak (s : State) (c : CtxId) (f : Context → Context) : (s.modCtx c f).weak = s.weak := rfl
@[simp] theorem State.modCtx_badLines (s : State) (c : CtxId) (f : Context → Context) : (s.modCtx c f).badLines = s.badLines := rfl
@[simp] theorem State.modCtx_broken (s : State) (c : CtxId) (f : Context → Context) : (s.modCtx c f).broken = s.broken := rfl
@[simp] theorem State.modCtx_cached (s : State) (c : CtxId) (f : Context → Context) : (s.modCtx c f).cached = s.cached := rfl
@[simp] theorem State.modCtx_hostMem (s : State) (c : CtxId) (f : Context → Context) : (s.modCtx c f).hostMem = s.hostMem := rfl
@[simp] theorem State.modCtx_hostPoison (s : State) (c : CtxId) (f : Context → Context) : (s.modCtx c f).hostPoison = s.hostPoison := rfl
@[simp] theorem State.modCtx_owners (s : State) (c : CtxId) (f : Context → Context) : (s.modCtx c f).owners = s.owners := rfl
@[simp] theorem State.modCtx_hostMapped (s : State) (c : CtxId) (f : Context → Context) : (s.modCtx c f).hostMapped = s.hostMapped := rfl
@[simp] theorem State.modCtx_cxlReply (s : State) (c : CtxId) (f : Context → Context) : (s.modCtx c f).cxlReply = s.cxlReply := rfl
@[simp] theorem State.modCtx_seals (s : State) (c : CtxId) (f : Context → Context) : (s.modCtx c f).seals = s.seals := rfl
@[simp] theorem State.modCtx_tableNext (s : State) (c : CtxId) (f : Context → Context) : (s.modCtx c f).tableNext = s.tableNext := rfl
@[simp] theorem State.modCtx_quads (s : State) (c : CtxId) (f : Context → Context) : (s.modCtx c f).quads = s.quads := rfl
@[simp] theorem State.modCtx_tlbs (s : State) (c : CtxId) (f : Context → Context) : (s.modCtx c f).tlbs = s.tlbs := rfl
@[simp] theorem State.modCtx_links (s : State) (c : CtxId) (f : Context → Context) : (s.modCtx c f).links = s.links := rfl
@[simp] theorem State.modCtx_insts (s : State) (c : CtxId) (f : Context → Context) : (s.modCtx c f).insts = s.insts := rfl
@[simp] theorem State.modCtx_commits (s : State) (c : CtxId) (f : Context → Context) : (s.modCtx c f).commits = s.commits := rfl
@[simp] theorem State.modCtx_frames (s : State) (c : CtxId) (f : Context → Context) : (s.modCtx c f).frames = s.frames := rfl
@[simp] theorem State.modCtx_embers (s : State) (c : CtxId) (f : Context → Context) : (s.modCtx c f).embers = s.embers := rfl
@[simp] theorem State.modCtx_retiring (s : State) (c : CtxId) (f : Context → Context) : (s.modCtx c f).retiring = s.retiring := rfl
@[simp] theorem State.modCtx_flying (s : State) (c : CtxId) (f : Context → Context) : (s.modCtx c f).flying = s.flying := rfl
@[simp] theorem State.modCtx_msgs (s : State) (c : CtxId) (f : Context → Context) : (s.modCtx c f).msgs = s.msgs := rfl
@[simp] theorem State.modCtx_posted (s : State) (c : CtxId) (f : Context → Context) : (s.modCtx c f).posted = s.posted := rfl
@[simp] theorem State.modCtx_fifo (s : State) (c : CtxId) (f : Context → Context) : (s.modCtx c f).fifo = s.fifo := rfl
@[simp] theorem State.modCtx_specs (s : State) (c : CtxId) (f : Context → Context) : (s.modCtx c f).specs = s.specs := rfl
@[simp] theorem State.modCtx_cmds (s : State) (c : CtxId) (f : Context → Context) : (s.modCtx c f).cmds = s.cmds := rfl
@[simp] theorem State.modCtx_barriers (s : State) (c : CtxId) (f : Context → Context) : (s.modCtx c f).barriers = s.barriers := rfl
@[simp] theorem State.modCtx_contexts (s : State) (c : CtxId) (f : Context → Context) : (s.modCtx c f).contexts = modWhere (fun x => x.id = c) f s.contexts := rfl
@[simp] theorem State.modCtx_decoders (s : State) (c : CtxId) (f : Context → Context) : (s.modCtx c f).decoders = s.decoders := rfl
@[simp] theorem State.modCtx_windows (s : State) (c : CtxId) (f : Context → Context) : (s.modCtx c f).windows = s.windows := rfl
@[simp] theorem State.modCtx_functions (s : State) (c : CtxId) (f : Context → Context) : (s.modCtx c f).functions = s.functions := rfl
@[simp] theorem State.modCtx_kcmds (s : State) (c : CtxId) (f : Context → Context) : (s.modCtx c f).kcmds = s.kcmds := rfl
@[simp] theorem State.modCtx_grants (s : State) (c : CtxId) (f : Context → Context) : (s.modCtx c f).grants = s.grants := rfl
@[simp] theorem State.modCtx_lanterns (s : State) (c : CtxId) (f : Context → Context) : (s.modCtx c f).lanterns = s.lanterns := rfl
@[simp] theorem State.modCtx_saved (s : State) (c : CtxId) (f : Context → Context) : (s.modCtx c f).saved = s.saved := rfl
@[simp] theorem State.modCtx_flows (s : State) (c : CtxId) (f : Context → Context) : (s.modCtx c f).flows = s.flows := rfl
@[simp] theorem State.modCtx_ports (s : State) (c : CtxId) (f : Context → Context) : (s.modCtx c f).ports = s.ports := rfl
@[simp] theorem State.modCtx_lostPkgs (s : State) (c : CtxId) (f : Context → Context) : (s.modCtx c f).lostPkgs = s.lostPkgs := rfl
@[simp] theorem State.modCtx_sentFrame (s : State) (c : CtxId) (f : Context → Context) : (s.modCtx c f).sentFrame = s.sentFrame := rfl
@[simp] theorem State.modCtx_lanes (s : State) (c : CtxId) (f : Context → Context) : (s.modCtx c f).lanes = s.lanes := rfl
@[simp] theorem State.modCtx_agenda (s : State) (c : CtxId) (f : Context → Context) : (s.modCtx c f).agenda = s.agenda := rfl
@[simp] theorem State.modCtx_nextId (s : State) (c : CtxId) (f : Context → Context) : (s.modCtx c f).nextId = s.nextId := rfl
@[simp] theorem State.modCtx_fresh (s : State) (c : CtxId) (f : Context → Context) : (s.modCtx c f).fresh = s.fresh := rfl

/-! ### modInst -/

@[simp] theorem State.modInst_clk (s : State) (n : Nat) (f : Inst → Inst) : (s.modInst n f).clk = s.clk := rfl
@[simp] theorem State.modInst_fclk (s : State) (n : Nat) (f : Inst → Inst) : (s.modInst n f).fclk = s.fclk := rfl
@[simp] theorem State.modInst_powerOff (s : State) (n : Nat) (f : Inst → Inst) : (s.modInst n f).powerOff = s.powerOff := rfl
@[simp] theorem State.modInst_ready (s : State) (n : Nat) (f : Inst → Inst) : (s.modInst n f).ready = s.ready := rfl
@[simp] theorem State.modInst_halfRate (s : State) (n : Nat) (f : Inst → Inst) : (s.modInst n f).halfRate = s.halfRate := rfl
@[simp] theorem State.modInst_hdmBase (s : State) (n : Nat) (f : Inst → Inst) : (s.modInst n f).hdmBase = s.hdmBase := rfl
@[simp] theorem State.modInst_pkgNo (s : State) (n : Nat) (f : Inst → Inst) : (s.modInst n f).pkgNo = s.pkgNo := rfl
@[simp] theorem State.modInst_podSize (s : State) (n : Nat) (f : Inst → Inst) : (s.modInst n f).podSize = s.podSize := rfl
@[simp] theorem State.modInst_podAddrs (s : State) (n : Nat) (f : Inst → Inst) : (s.modInst n f).podAddrs = s.podAddrs := rfl
@[simp] theorem State.modInst_sustained (s : State) (n : Nat) (f : Inst → Inst) : (s.modInst n f).sustained = s.sustained := rfl
@[simp] theorem State.modInst_peak (s : State) (n : Nat) (f : Inst → Inst) : (s.modInst n f).peak = s.peak := rfl
@[simp] theorem State.modInst_powerLog (s : State) (n : Nat) (f : Inst → Inst) : (s.modInst n f).powerLog = s.powerLog := rfl
@[simp] theorem State.modInst_msNo (s : State) (n : Nat) (f : Inst → Inst) : (s.modInst n f).msNo = s.msNo := rfl
@[simp] theorem State.modInst_msAt (s : State) (n : Nat) (f : Inst → Inst) : (s.modInst n f).msAt = s.msAt := rfl
@[simp] theorem State.modInst_msFactors (s : State) (n : Nat) (f : Inst → Inst) : (s.modInst n f).msFactors = s.msFactors := rfl
@[simp] theorem State.modInst_msPower (s : State) (n : Nat) (f : Inst → Inst) : (s.modInst n f).msPower = s.msPower := rfl
@[simp] theorem State.modInst_msLowered (s : State) (n : Nat) (f : Inst → Inst) : (s.modInst n f).msLowered = s.msLowered := rfl
@[simp] theorem State.modInst_msHot (s : State) (n : Nat) (f : Inst → Inst) : (s.modInst n f).msHot = s.msHot := rfl
@[simp] theorem State.modInst_dieCharged (s : State) (n : Nat) (f : Inst → Inst) : (s.modInst n f).dieCharged = s.dieCharged := rfl
@[simp] theorem State.modInst_msMapped (s : State) (n : Nat) (f : Inst → Inst) : (s.modInst n f).msMapped = s.msMapped := rfl
@[simp] theorem State.modInst_enabled (s : State) (n : Nat) (f : Inst → Inst) : (s.modInst n f).enabled = s.enabled := rfl
@[simp] theorem State.modInst_marked (s : State) (n : Nat) (f : Inst → Inst) : (s.modInst n f).marked = s.marked := rfl
@[simp] theorem State.modInst_badQuads (s : State) (n : Nat) (f : Inst → Inst) : (s.modInst n f).badQuads = s.badQuads := rfl
@[simp] theorem State.modInst_badNode (s : State) (n : Nat) (f : Inst → Inst) : (s.modInst n f).badNode = s.badNode := rfl
@[simp] theorem State.modInst_badHeld (s : State) (n : Nat) (f : Inst → Inst) : (s.modInst n f).badHeld = s.badHeld := rfl
@[simp] theorem State.modInst_corrected (s : State) (n : Nat) (f : Inst → Inst) : (s.modInst n f).corrected = s.corrected := rfl
@[simp] theorem State.modInst_configRec (s : State) (n : Nat) (f : Inst → Inst) : (s.modInst n f).configRec = s.configRec := rfl
@[simp] theorem State.modInst_calibRec (s : State) (n : Nat) (f : Inst → Inst) : (s.modInst n f).calibRec = s.calibRec := rfl
@[simp] theorem State.modInst_nextCalib (s : State) (n : Nat) (f : Inst → Inst) : (s.modInst n f).nextCalib = s.nextCalib := rfl
@[simp] theorem State.modInst_factors (s : State) (n : Nat) (f : Inst → Inst) : (s.modInst n f).factors = s.factors := rfl
@[simp] theorem State.modInst_counting (s : State) (n : Nat) (f : Inst → Inst) : (s.modInst n f).counting = s.counting := rfl
@[simp] theorem State.modInst_shared (s : State) (n : Nat) (f : Inst → Inst) : (s.modInst n f).shared = s.shared := rfl
@[simp] theorem State.modInst_mem (s : State) (n : Nat) (f : Inst → Inst) : (s.modInst n f).mem = s.mem := rfl
@[simp] theorem State.modInst_poison (s : State) (n : Nat) (f : Inst → Inst) : (s.modInst n f).poison = s.poison := rfl
@[simp] theorem State.modInst_weak (s : State) (n : Nat) (f : Inst → Inst) : (s.modInst n f).weak = s.weak := rfl
@[simp] theorem State.modInst_badLines (s : State) (n : Nat) (f : Inst → Inst) : (s.modInst n f).badLines = s.badLines := rfl
@[simp] theorem State.modInst_broken (s : State) (n : Nat) (f : Inst → Inst) : (s.modInst n f).broken = s.broken := rfl
@[simp] theorem State.modInst_cached (s : State) (n : Nat) (f : Inst → Inst) : (s.modInst n f).cached = s.cached := rfl
@[simp] theorem State.modInst_hostMem (s : State) (n : Nat) (f : Inst → Inst) : (s.modInst n f).hostMem = s.hostMem := rfl
@[simp] theorem State.modInst_hostPoison (s : State) (n : Nat) (f : Inst → Inst) : (s.modInst n f).hostPoison = s.hostPoison := rfl
@[simp] theorem State.modInst_owners (s : State) (n : Nat) (f : Inst → Inst) : (s.modInst n f).owners = s.owners := rfl
@[simp] theorem State.modInst_hostMapped (s : State) (n : Nat) (f : Inst → Inst) : (s.modInst n f).hostMapped = s.hostMapped := rfl
@[simp] theorem State.modInst_cxlReply (s : State) (n : Nat) (f : Inst → Inst) : (s.modInst n f).cxlReply = s.cxlReply := rfl
@[simp] theorem State.modInst_seals (s : State) (n : Nat) (f : Inst → Inst) : (s.modInst n f).seals = s.seals := rfl
@[simp] theorem State.modInst_tableNext (s : State) (n : Nat) (f : Inst → Inst) : (s.modInst n f).tableNext = s.tableNext := rfl
@[simp] theorem State.modInst_quads (s : State) (n : Nat) (f : Inst → Inst) : (s.modInst n f).quads = s.quads := rfl
@[simp] theorem State.modInst_tlbs (s : State) (n : Nat) (f : Inst → Inst) : (s.modInst n f).tlbs = s.tlbs := rfl
@[simp] theorem State.modInst_links (s : State) (n : Nat) (f : Inst → Inst) : (s.modInst n f).links = s.links := rfl
@[simp] theorem State.modInst_insts (s : State) (n : Nat) (f : Inst → Inst) : (s.modInst n f).insts = modWhere (fun x => x.id = n) f s.insts := rfl
@[simp] theorem State.modInst_commits (s : State) (n : Nat) (f : Inst → Inst) : (s.modInst n f).commits = s.commits := rfl
@[simp] theorem State.modInst_frames (s : State) (n : Nat) (f : Inst → Inst) : (s.modInst n f).frames = s.frames := rfl
@[simp] theorem State.modInst_embers (s : State) (n : Nat) (f : Inst → Inst) : (s.modInst n f).embers = s.embers := rfl
@[simp] theorem State.modInst_retiring (s : State) (n : Nat) (f : Inst → Inst) : (s.modInst n f).retiring = s.retiring := rfl
@[simp] theorem State.modInst_flying (s : State) (n : Nat) (f : Inst → Inst) : (s.modInst n f).flying = s.flying := rfl
@[simp] theorem State.modInst_msgs (s : State) (n : Nat) (f : Inst → Inst) : (s.modInst n f).msgs = s.msgs := rfl
@[simp] theorem State.modInst_posted (s : State) (n : Nat) (f : Inst → Inst) : (s.modInst n f).posted = s.posted := rfl
@[simp] theorem State.modInst_fifo (s : State) (n : Nat) (f : Inst → Inst) : (s.modInst n f).fifo = s.fifo := rfl
@[simp] theorem State.modInst_specs (s : State) (n : Nat) (f : Inst → Inst) : (s.modInst n f).specs = s.specs := rfl
@[simp] theorem State.modInst_cmds (s : State) (n : Nat) (f : Inst → Inst) : (s.modInst n f).cmds = s.cmds := rfl
@[simp] theorem State.modInst_barriers (s : State) (n : Nat) (f : Inst → Inst) : (s.modInst n f).barriers = s.barriers := rfl
@[simp] theorem State.modInst_contexts (s : State) (n : Nat) (f : Inst → Inst) : (s.modInst n f).contexts = s.contexts := rfl
@[simp] theorem State.modInst_decoders (s : State) (n : Nat) (f : Inst → Inst) : (s.modInst n f).decoders = s.decoders := rfl
@[simp] theorem State.modInst_windows (s : State) (n : Nat) (f : Inst → Inst) : (s.modInst n f).windows = s.windows := rfl
@[simp] theorem State.modInst_functions (s : State) (n : Nat) (f : Inst → Inst) : (s.modInst n f).functions = s.functions := rfl
@[simp] theorem State.modInst_kcmds (s : State) (n : Nat) (f : Inst → Inst) : (s.modInst n f).kcmds = s.kcmds := rfl
@[simp] theorem State.modInst_grants (s : State) (n : Nat) (f : Inst → Inst) : (s.modInst n f).grants = s.grants := rfl
@[simp] theorem State.modInst_lanterns (s : State) (n : Nat) (f : Inst → Inst) : (s.modInst n f).lanterns = s.lanterns := rfl
@[simp] theorem State.modInst_saved (s : State) (n : Nat) (f : Inst → Inst) : (s.modInst n f).saved = s.saved := rfl
@[simp] theorem State.modInst_flows (s : State) (n : Nat) (f : Inst → Inst) : (s.modInst n f).flows = s.flows := rfl
@[simp] theorem State.modInst_ports (s : State) (n : Nat) (f : Inst → Inst) : (s.modInst n f).ports = s.ports := rfl
@[simp] theorem State.modInst_lostPkgs (s : State) (n : Nat) (f : Inst → Inst) : (s.modInst n f).lostPkgs = s.lostPkgs := rfl
@[simp] theorem State.modInst_sentFrame (s : State) (n : Nat) (f : Inst → Inst) : (s.modInst n f).sentFrame = s.sentFrame := rfl
@[simp] theorem State.modInst_lanes (s : State) (n : Nat) (f : Inst → Inst) : (s.modInst n f).lanes = s.lanes := rfl
@[simp] theorem State.modInst_agenda (s : State) (n : Nat) (f : Inst → Inst) : (s.modInst n f).agenda = s.agenda := rfl
@[simp] theorem State.modInst_nextId (s : State) (n : Nat) (f : Inst → Inst) : (s.modInst n f).nextId = s.nextId := rfl
@[simp] theorem State.modInst_fresh (s : State) (n : Nat) (f : Inst → Inst) : (s.modInst n f).fresh = s.fresh := rfl

/-! ### dropInst -/

@[simp] theorem State.dropInst_clk (s : State) (n : Nat) : (s.dropInst n).clk = s.clk := rfl
@[simp] theorem State.dropInst_fclk (s : State) (n : Nat) : (s.dropInst n).fclk = s.fclk := rfl
@[simp] theorem State.dropInst_powerOff (s : State) (n : Nat) : (s.dropInst n).powerOff = s.powerOff := rfl
@[simp] theorem State.dropInst_ready (s : State) (n : Nat) : (s.dropInst n).ready = s.ready := rfl
@[simp] theorem State.dropInst_halfRate (s : State) (n : Nat) : (s.dropInst n).halfRate = s.halfRate := rfl
@[simp] theorem State.dropInst_hdmBase (s : State) (n : Nat) : (s.dropInst n).hdmBase = s.hdmBase := rfl
@[simp] theorem State.dropInst_pkgNo (s : State) (n : Nat) : (s.dropInst n).pkgNo = s.pkgNo := rfl
@[simp] theorem State.dropInst_podSize (s : State) (n : Nat) : (s.dropInst n).podSize = s.podSize := rfl
@[simp] theorem State.dropInst_podAddrs (s : State) (n : Nat) : (s.dropInst n).podAddrs = s.podAddrs := rfl
@[simp] theorem State.dropInst_sustained (s : State) (n : Nat) : (s.dropInst n).sustained = s.sustained := rfl
@[simp] theorem State.dropInst_peak (s : State) (n : Nat) : (s.dropInst n).peak = s.peak := rfl
@[simp] theorem State.dropInst_powerLog (s : State) (n : Nat) : (s.dropInst n).powerLog = s.powerLog := rfl
@[simp] theorem State.dropInst_msNo (s : State) (n : Nat) : (s.dropInst n).msNo = s.msNo := rfl
@[simp] theorem State.dropInst_msAt (s : State) (n : Nat) : (s.dropInst n).msAt = s.msAt := rfl
@[simp] theorem State.dropInst_msFactors (s : State) (n : Nat) : (s.dropInst n).msFactors = s.msFactors := rfl
@[simp] theorem State.dropInst_msPower (s : State) (n : Nat) : (s.dropInst n).msPower = s.msPower := rfl
@[simp] theorem State.dropInst_msLowered (s : State) (n : Nat) : (s.dropInst n).msLowered = s.msLowered := rfl
@[simp] theorem State.dropInst_msHot (s : State) (n : Nat) : (s.dropInst n).msHot = s.msHot := rfl
@[simp] theorem State.dropInst_dieCharged (s : State) (n : Nat) : (s.dropInst n).dieCharged = s.dieCharged := rfl
@[simp] theorem State.dropInst_msMapped (s : State) (n : Nat) : (s.dropInst n).msMapped = s.msMapped := rfl
@[simp] theorem State.dropInst_enabled (s : State) (n : Nat) : (s.dropInst n).enabled = s.enabled := rfl
@[simp] theorem State.dropInst_marked (s : State) (n : Nat) : (s.dropInst n).marked = s.marked := rfl
@[simp] theorem State.dropInst_badQuads (s : State) (n : Nat) : (s.dropInst n).badQuads = s.badQuads := rfl
@[simp] theorem State.dropInst_badNode (s : State) (n : Nat) : (s.dropInst n).badNode = s.badNode := rfl
@[simp] theorem State.dropInst_badHeld (s : State) (n : Nat) : (s.dropInst n).badHeld = s.badHeld := rfl
@[simp] theorem State.dropInst_corrected (s : State) (n : Nat) : (s.dropInst n).corrected = s.corrected := rfl
@[simp] theorem State.dropInst_configRec (s : State) (n : Nat) : (s.dropInst n).configRec = s.configRec := rfl
@[simp] theorem State.dropInst_calibRec (s : State) (n : Nat) : (s.dropInst n).calibRec = s.calibRec := rfl
@[simp] theorem State.dropInst_nextCalib (s : State) (n : Nat) : (s.dropInst n).nextCalib = s.nextCalib := rfl
@[simp] theorem State.dropInst_factors (s : State) (n : Nat) : (s.dropInst n).factors = s.factors := rfl
@[simp] theorem State.dropInst_counting (s : State) (n : Nat) : (s.dropInst n).counting = s.counting := rfl
@[simp] theorem State.dropInst_shared (s : State) (n : Nat) : (s.dropInst n).shared = s.shared := rfl
@[simp] theorem State.dropInst_mem (s : State) (n : Nat) : (s.dropInst n).mem = s.mem := rfl
@[simp] theorem State.dropInst_poison (s : State) (n : Nat) : (s.dropInst n).poison = s.poison := rfl
@[simp] theorem State.dropInst_weak (s : State) (n : Nat) : (s.dropInst n).weak = s.weak := rfl
@[simp] theorem State.dropInst_badLines (s : State) (n : Nat) : (s.dropInst n).badLines = s.badLines := rfl
@[simp] theorem State.dropInst_broken (s : State) (n : Nat) : (s.dropInst n).broken = s.broken := rfl
@[simp] theorem State.dropInst_cached (s : State) (n : Nat) : (s.dropInst n).cached = s.cached := rfl
@[simp] theorem State.dropInst_hostMem (s : State) (n : Nat) : (s.dropInst n).hostMem = s.hostMem := rfl
@[simp] theorem State.dropInst_hostPoison (s : State) (n : Nat) : (s.dropInst n).hostPoison = s.hostPoison := rfl
@[simp] theorem State.dropInst_owners (s : State) (n : Nat) : (s.dropInst n).owners = s.owners := rfl
@[simp] theorem State.dropInst_hostMapped (s : State) (n : Nat) : (s.dropInst n).hostMapped = s.hostMapped := rfl
@[simp] theorem State.dropInst_cxlReply (s : State) (n : Nat) : (s.dropInst n).cxlReply = s.cxlReply := rfl
@[simp] theorem State.dropInst_seals (s : State) (n : Nat) : (s.dropInst n).seals = s.seals := rfl
@[simp] theorem State.dropInst_tableNext (s : State) (n : Nat) : (s.dropInst n).tableNext = s.tableNext := rfl
@[simp] theorem State.dropInst_quads (s : State) (n : Nat) : (s.dropInst n).quads = s.quads := rfl
@[simp] theorem State.dropInst_tlbs (s : State) (n : Nat) : (s.dropInst n).tlbs = s.tlbs := rfl
@[simp] theorem State.dropInst_links (s : State) (n : Nat) : (s.dropInst n).links = s.links := rfl
@[simp] theorem State.dropInst_insts (s : State) (n : Nat) : (s.dropInst n).insts = s.insts.filter (fun x => x.id ≠ n) := rfl
@[simp] theorem State.dropInst_commits (s : State) (n : Nat) : (s.dropInst n).commits = s.commits := rfl
@[simp] theorem State.dropInst_frames (s : State) (n : Nat) : (s.dropInst n).frames = s.frames := rfl
@[simp] theorem State.dropInst_embers (s : State) (n : Nat) : (s.dropInst n).embers = s.embers := rfl
@[simp] theorem State.dropInst_retiring (s : State) (n : Nat) : (s.dropInst n).retiring = s.retiring := rfl
@[simp] theorem State.dropInst_flying (s : State) (n : Nat) : (s.dropInst n).flying = s.flying.filter (fun x => x.inst ≠ n) := rfl
@[simp] theorem State.dropInst_msgs (s : State) (n : Nat) : (s.dropInst n).msgs = s.msgs := rfl
@[simp] theorem State.dropInst_posted (s : State) (n : Nat) : (s.dropInst n).posted = s.posted := rfl
@[simp] theorem State.dropInst_fifo (s : State) (n : Nat) : (s.dropInst n).fifo = s.fifo := rfl
@[simp] theorem State.dropInst_specs (s : State) (n : Nat) : (s.dropInst n).specs = s.specs := rfl
@[simp] theorem State.dropInst_cmds (s : State) (n : Nat) : (s.dropInst n).cmds = s.cmds := rfl
@[simp] theorem State.dropInst_barriers (s : State) (n : Nat) : (s.dropInst n).barriers = s.barriers := rfl
@[simp] theorem State.dropInst_contexts (s : State) (n : Nat) : (s.dropInst n).contexts = s.contexts := rfl
@[simp] theorem State.dropInst_decoders (s : State) (n : Nat) : (s.dropInst n).decoders = s.decoders := rfl
@[simp] theorem State.dropInst_windows (s : State) (n : Nat) : (s.dropInst n).windows = s.windows := rfl
@[simp] theorem State.dropInst_functions (s : State) (n : Nat) : (s.dropInst n).functions = s.functions := rfl
@[simp] theorem State.dropInst_kcmds (s : State) (n : Nat) : (s.dropInst n).kcmds = s.kcmds := rfl
@[simp] theorem State.dropInst_grants (s : State) (n : Nat) : (s.dropInst n).grants = s.grants := rfl
@[simp] theorem State.dropInst_lanterns (s : State) (n : Nat) : (s.dropInst n).lanterns = s.lanterns := rfl
@[simp] theorem State.dropInst_saved (s : State) (n : Nat) : (s.dropInst n).saved = s.saved := rfl
@[simp] theorem State.dropInst_flows (s : State) (n : Nat) : (s.dropInst n).flows = s.flows := rfl
@[simp] theorem State.dropInst_ports (s : State) (n : Nat) : (s.dropInst n).ports = s.ports := rfl
@[simp] theorem State.dropInst_lostPkgs (s : State) (n : Nat) : (s.dropInst n).lostPkgs = s.lostPkgs := rfl
@[simp] theorem State.dropInst_sentFrame (s : State) (n : Nat) : (s.dropInst n).sentFrame = s.sentFrame := rfl
@[simp] theorem State.dropInst_lanes (s : State) (n : Nat) : (s.dropInst n).lanes = s.lanes.filter (fun x => x.inst ≠ n) := rfl
@[simp] theorem State.dropInst_agenda (s : State) (n : Nat) : (s.dropInst n).agenda = s.agenda := rfl
@[simp] theorem State.dropInst_nextId (s : State) (n : Nat) : (s.dropInst n).nextId = s.nextId := rfl
@[simp] theorem State.dropInst_fresh (s : State) (n : Nat) : (s.dropInst n).fresh = s.fresh := rfl

/-! ### modEmber -/

@[simp] theorem State.modEmber_clk (s : State) (n : Nat) (f : Ember → Ember) : (s.modEmber n f).clk = s.clk := rfl
@[simp] theorem State.modEmber_fclk (s : State) (n : Nat) (f : Ember → Ember) : (s.modEmber n f).fclk = s.fclk := rfl
@[simp] theorem State.modEmber_powerOff (s : State) (n : Nat) (f : Ember → Ember) : (s.modEmber n f).powerOff = s.powerOff := rfl
@[simp] theorem State.modEmber_ready (s : State) (n : Nat) (f : Ember → Ember) : (s.modEmber n f).ready = s.ready := rfl
@[simp] theorem State.modEmber_halfRate (s : State) (n : Nat) (f : Ember → Ember) : (s.modEmber n f).halfRate = s.halfRate := rfl
@[simp] theorem State.modEmber_hdmBase (s : State) (n : Nat) (f : Ember → Ember) : (s.modEmber n f).hdmBase = s.hdmBase := rfl
@[simp] theorem State.modEmber_pkgNo (s : State) (n : Nat) (f : Ember → Ember) : (s.modEmber n f).pkgNo = s.pkgNo := rfl
@[simp] theorem State.modEmber_podSize (s : State) (n : Nat) (f : Ember → Ember) : (s.modEmber n f).podSize = s.podSize := rfl
@[simp] theorem State.modEmber_podAddrs (s : State) (n : Nat) (f : Ember → Ember) : (s.modEmber n f).podAddrs = s.podAddrs := rfl
@[simp] theorem State.modEmber_sustained (s : State) (n : Nat) (f : Ember → Ember) : (s.modEmber n f).sustained = s.sustained := rfl
@[simp] theorem State.modEmber_peak (s : State) (n : Nat) (f : Ember → Ember) : (s.modEmber n f).peak = s.peak := rfl
@[simp] theorem State.modEmber_powerLog (s : State) (n : Nat) (f : Ember → Ember) : (s.modEmber n f).powerLog = s.powerLog := rfl
@[simp] theorem State.modEmber_msNo (s : State) (n : Nat) (f : Ember → Ember) : (s.modEmber n f).msNo = s.msNo := rfl
@[simp] theorem State.modEmber_msAt (s : State) (n : Nat) (f : Ember → Ember) : (s.modEmber n f).msAt = s.msAt := rfl
@[simp] theorem State.modEmber_msFactors (s : State) (n : Nat) (f : Ember → Ember) : (s.modEmber n f).msFactors = s.msFactors := rfl
@[simp] theorem State.modEmber_msPower (s : State) (n : Nat) (f : Ember → Ember) : (s.modEmber n f).msPower = s.msPower := rfl
@[simp] theorem State.modEmber_msLowered (s : State) (n : Nat) (f : Ember → Ember) : (s.modEmber n f).msLowered = s.msLowered := rfl
@[simp] theorem State.modEmber_msHot (s : State) (n : Nat) (f : Ember → Ember) : (s.modEmber n f).msHot = s.msHot := rfl
@[simp] theorem State.modEmber_dieCharged (s : State) (n : Nat) (f : Ember → Ember) : (s.modEmber n f).dieCharged = s.dieCharged := rfl
@[simp] theorem State.modEmber_msMapped (s : State) (n : Nat) (f : Ember → Ember) : (s.modEmber n f).msMapped = s.msMapped := rfl
@[simp] theorem State.modEmber_enabled (s : State) (n : Nat) (f : Ember → Ember) : (s.modEmber n f).enabled = s.enabled := rfl
@[simp] theorem State.modEmber_marked (s : State) (n : Nat) (f : Ember → Ember) : (s.modEmber n f).marked = s.marked := rfl
@[simp] theorem State.modEmber_badQuads (s : State) (n : Nat) (f : Ember → Ember) : (s.modEmber n f).badQuads = s.badQuads := rfl
@[simp] theorem State.modEmber_badNode (s : State) (n : Nat) (f : Ember → Ember) : (s.modEmber n f).badNode = s.badNode := rfl
@[simp] theorem State.modEmber_badHeld (s : State) (n : Nat) (f : Ember → Ember) : (s.modEmber n f).badHeld = s.badHeld := rfl
@[simp] theorem State.modEmber_corrected (s : State) (n : Nat) (f : Ember → Ember) : (s.modEmber n f).corrected = s.corrected := rfl
@[simp] theorem State.modEmber_configRec (s : State) (n : Nat) (f : Ember → Ember) : (s.modEmber n f).configRec = s.configRec := rfl
@[simp] theorem State.modEmber_calibRec (s : State) (n : Nat) (f : Ember → Ember) : (s.modEmber n f).calibRec = s.calibRec := rfl
@[simp] theorem State.modEmber_nextCalib (s : State) (n : Nat) (f : Ember → Ember) : (s.modEmber n f).nextCalib = s.nextCalib := rfl
@[simp] theorem State.modEmber_factors (s : State) (n : Nat) (f : Ember → Ember) : (s.modEmber n f).factors = s.factors := rfl
@[simp] theorem State.modEmber_counting (s : State) (n : Nat) (f : Ember → Ember) : (s.modEmber n f).counting = s.counting := rfl
@[simp] theorem State.modEmber_shared (s : State) (n : Nat) (f : Ember → Ember) : (s.modEmber n f).shared = s.shared := rfl
@[simp] theorem State.modEmber_mem (s : State) (n : Nat) (f : Ember → Ember) : (s.modEmber n f).mem = s.mem := rfl
@[simp] theorem State.modEmber_poison (s : State) (n : Nat) (f : Ember → Ember) : (s.modEmber n f).poison = s.poison := rfl
@[simp] theorem State.modEmber_weak (s : State) (n : Nat) (f : Ember → Ember) : (s.modEmber n f).weak = s.weak := rfl
@[simp] theorem State.modEmber_badLines (s : State) (n : Nat) (f : Ember → Ember) : (s.modEmber n f).badLines = s.badLines := rfl
@[simp] theorem State.modEmber_broken (s : State) (n : Nat) (f : Ember → Ember) : (s.modEmber n f).broken = s.broken := rfl
@[simp] theorem State.modEmber_cached (s : State) (n : Nat) (f : Ember → Ember) : (s.modEmber n f).cached = s.cached := rfl
@[simp] theorem State.modEmber_hostMem (s : State) (n : Nat) (f : Ember → Ember) : (s.modEmber n f).hostMem = s.hostMem := rfl
@[simp] theorem State.modEmber_hostPoison (s : State) (n : Nat) (f : Ember → Ember) : (s.modEmber n f).hostPoison = s.hostPoison := rfl
@[simp] theorem State.modEmber_owners (s : State) (n : Nat) (f : Ember → Ember) : (s.modEmber n f).owners = s.owners := rfl
@[simp] theorem State.modEmber_hostMapped (s : State) (n : Nat) (f : Ember → Ember) : (s.modEmber n f).hostMapped = s.hostMapped := rfl
@[simp] theorem State.modEmber_cxlReply (s : State) (n : Nat) (f : Ember → Ember) : (s.modEmber n f).cxlReply = s.cxlReply := rfl
@[simp] theorem State.modEmber_seals (s : State) (n : Nat) (f : Ember → Ember) : (s.modEmber n f).seals = s.seals := rfl
@[simp] theorem State.modEmber_tableNext (s : State) (n : Nat) (f : Ember → Ember) : (s.modEmber n f).tableNext = s.tableNext := rfl
@[simp] theorem State.modEmber_quads (s : State) (n : Nat) (f : Ember → Ember) : (s.modEmber n f).quads = s.quads := rfl
@[simp] theorem State.modEmber_tlbs (s : State) (n : Nat) (f : Ember → Ember) : (s.modEmber n f).tlbs = s.tlbs := rfl
@[simp] theorem State.modEmber_links (s : State) (n : Nat) (f : Ember → Ember) : (s.modEmber n f).links = s.links := rfl
@[simp] theorem State.modEmber_insts (s : State) (n : Nat) (f : Ember → Ember) : (s.modEmber n f).insts = s.insts := rfl
@[simp] theorem State.modEmber_commits (s : State) (n : Nat) (f : Ember → Ember) : (s.modEmber n f).commits = s.commits := rfl
@[simp] theorem State.modEmber_frames (s : State) (n : Nat) (f : Ember → Ember) : (s.modEmber n f).frames = s.frames := rfl
@[simp] theorem State.modEmber_embers (s : State) (n : Nat) (f : Ember → Ember) : (s.modEmber n f).embers = modWhere (fun x => x.id = n) f s.embers := rfl
@[simp] theorem State.modEmber_retiring (s : State) (n : Nat) (f : Ember → Ember) : (s.modEmber n f).retiring = s.retiring := rfl
@[simp] theorem State.modEmber_flying (s : State) (n : Nat) (f : Ember → Ember) : (s.modEmber n f).flying = s.flying := rfl
@[simp] theorem State.modEmber_msgs (s : State) (n : Nat) (f : Ember → Ember) : (s.modEmber n f).msgs = s.msgs := rfl
@[simp] theorem State.modEmber_posted (s : State) (n : Nat) (f : Ember → Ember) : (s.modEmber n f).posted = s.posted := rfl
@[simp] theorem State.modEmber_fifo (s : State) (n : Nat) (f : Ember → Ember) : (s.modEmber n f).fifo = s.fifo := rfl
@[simp] theorem State.modEmber_specs (s : State) (n : Nat) (f : Ember → Ember) : (s.modEmber n f).specs = s.specs := rfl
@[simp] theorem State.modEmber_cmds (s : State) (n : Nat) (f : Ember → Ember) : (s.modEmber n f).cmds = s.cmds := rfl
@[simp] theorem State.modEmber_barriers (s : State) (n : Nat) (f : Ember → Ember) : (s.modEmber n f).barriers = s.barriers := rfl
@[simp] theorem State.modEmber_contexts (s : State) (n : Nat) (f : Ember → Ember) : (s.modEmber n f).contexts = s.contexts := rfl
@[simp] theorem State.modEmber_decoders (s : State) (n : Nat) (f : Ember → Ember) : (s.modEmber n f).decoders = s.decoders := rfl
@[simp] theorem State.modEmber_windows (s : State) (n : Nat) (f : Ember → Ember) : (s.modEmber n f).windows = s.windows := rfl
@[simp] theorem State.modEmber_functions (s : State) (n : Nat) (f : Ember → Ember) : (s.modEmber n f).functions = s.functions := rfl
@[simp] theorem State.modEmber_kcmds (s : State) (n : Nat) (f : Ember → Ember) : (s.modEmber n f).kcmds = s.kcmds := rfl
@[simp] theorem State.modEmber_grants (s : State) (n : Nat) (f : Ember → Ember) : (s.modEmber n f).grants = s.grants := rfl
@[simp] theorem State.modEmber_lanterns (s : State) (n : Nat) (f : Ember → Ember) : (s.modEmber n f).lanterns = s.lanterns := rfl
@[simp] theorem State.modEmber_saved (s : State) (n : Nat) (f : Ember → Ember) : (s.modEmber n f).saved = s.saved := rfl
@[simp] theorem State.modEmber_flows (s : State) (n : Nat) (f : Ember → Ember) : (s.modEmber n f).flows = s.flows := rfl
@[simp] theorem State.modEmber_ports (s : State) (n : Nat) (f : Ember → Ember) : (s.modEmber n f).ports = s.ports := rfl
@[simp] theorem State.modEmber_lostPkgs (s : State) (n : Nat) (f : Ember → Ember) : (s.modEmber n f).lostPkgs = s.lostPkgs := rfl
@[simp] theorem State.modEmber_sentFrame (s : State) (n : Nat) (f : Ember → Ember) : (s.modEmber n f).sentFrame = s.sentFrame := rfl
@[simp] theorem State.modEmber_lanes (s : State) (n : Nat) (f : Ember → Ember) : (s.modEmber n f).lanes = s.lanes := rfl
@[simp] theorem State.modEmber_agenda (s : State) (n : Nat) (f : Ember → Ember) : (s.modEmber n f).agenda = s.agenda := rfl
@[simp] theorem State.modEmber_nextId (s : State) (n : Nat) (f : Ember → Ember) : (s.modEmber n f).nextId = s.nextId := rfl
@[simp] theorem State.modEmber_fresh (s : State) (n : Nat) (f : Ember → Ember) : (s.modEmber n f).fresh = s.fresh := rfl

/-! ### modCmd -/

@[simp] theorem State.modCmd_clk (s : State) (n : Nat) (f : Pending → Pending) : (s.modCmd n f).clk = s.clk := rfl
@[simp] theorem State.modCmd_fclk (s : State) (n : Nat) (f : Pending → Pending) : (s.modCmd n f).fclk = s.fclk := rfl
@[simp] theorem State.modCmd_powerOff (s : State) (n : Nat) (f : Pending → Pending) : (s.modCmd n f).powerOff = s.powerOff := rfl
@[simp] theorem State.modCmd_ready (s : State) (n : Nat) (f : Pending → Pending) : (s.modCmd n f).ready = s.ready := rfl
@[simp] theorem State.modCmd_halfRate (s : State) (n : Nat) (f : Pending → Pending) : (s.modCmd n f).halfRate = s.halfRate := rfl
@[simp] theorem State.modCmd_hdmBase (s : State) (n : Nat) (f : Pending → Pending) : (s.modCmd n f).hdmBase = s.hdmBase := rfl
@[simp] theorem State.modCmd_pkgNo (s : State) (n : Nat) (f : Pending → Pending) : (s.modCmd n f).pkgNo = s.pkgNo := rfl
@[simp] theorem State.modCmd_podSize (s : State) (n : Nat) (f : Pending → Pending) : (s.modCmd n f).podSize = s.podSize := rfl
@[simp] theorem State.modCmd_podAddrs (s : State) (n : Nat) (f : Pending → Pending) : (s.modCmd n f).podAddrs = s.podAddrs := rfl
@[simp] theorem State.modCmd_sustained (s : State) (n : Nat) (f : Pending → Pending) : (s.modCmd n f).sustained = s.sustained := rfl
@[simp] theorem State.modCmd_peak (s : State) (n : Nat) (f : Pending → Pending) : (s.modCmd n f).peak = s.peak := rfl
@[simp] theorem State.modCmd_powerLog (s : State) (n : Nat) (f : Pending → Pending) : (s.modCmd n f).powerLog = s.powerLog := rfl
@[simp] theorem State.modCmd_msNo (s : State) (n : Nat) (f : Pending → Pending) : (s.modCmd n f).msNo = s.msNo := rfl
@[simp] theorem State.modCmd_msAt (s : State) (n : Nat) (f : Pending → Pending) : (s.modCmd n f).msAt = s.msAt := rfl
@[simp] theorem State.modCmd_msFactors (s : State) (n : Nat) (f : Pending → Pending) : (s.modCmd n f).msFactors = s.msFactors := rfl
@[simp] theorem State.modCmd_msPower (s : State) (n : Nat) (f : Pending → Pending) : (s.modCmd n f).msPower = s.msPower := rfl
@[simp] theorem State.modCmd_msLowered (s : State) (n : Nat) (f : Pending → Pending) : (s.modCmd n f).msLowered = s.msLowered := rfl
@[simp] theorem State.modCmd_msHot (s : State) (n : Nat) (f : Pending → Pending) : (s.modCmd n f).msHot = s.msHot := rfl
@[simp] theorem State.modCmd_dieCharged (s : State) (n : Nat) (f : Pending → Pending) : (s.modCmd n f).dieCharged = s.dieCharged := rfl
@[simp] theorem State.modCmd_msMapped (s : State) (n : Nat) (f : Pending → Pending) : (s.modCmd n f).msMapped = s.msMapped := rfl
@[simp] theorem State.modCmd_enabled (s : State) (n : Nat) (f : Pending → Pending) : (s.modCmd n f).enabled = s.enabled := rfl
@[simp] theorem State.modCmd_marked (s : State) (n : Nat) (f : Pending → Pending) : (s.modCmd n f).marked = s.marked := rfl
@[simp] theorem State.modCmd_badQuads (s : State) (n : Nat) (f : Pending → Pending) : (s.modCmd n f).badQuads = s.badQuads := rfl
@[simp] theorem State.modCmd_badNode (s : State) (n : Nat) (f : Pending → Pending) : (s.modCmd n f).badNode = s.badNode := rfl
@[simp] theorem State.modCmd_badHeld (s : State) (n : Nat) (f : Pending → Pending) : (s.modCmd n f).badHeld = s.badHeld := rfl
@[simp] theorem State.modCmd_corrected (s : State) (n : Nat) (f : Pending → Pending) : (s.modCmd n f).corrected = s.corrected := rfl
@[simp] theorem State.modCmd_configRec (s : State) (n : Nat) (f : Pending → Pending) : (s.modCmd n f).configRec = s.configRec := rfl
@[simp] theorem State.modCmd_calibRec (s : State) (n : Nat) (f : Pending → Pending) : (s.modCmd n f).calibRec = s.calibRec := rfl
@[simp] theorem State.modCmd_nextCalib (s : State) (n : Nat) (f : Pending → Pending) : (s.modCmd n f).nextCalib = s.nextCalib := rfl
@[simp] theorem State.modCmd_factors (s : State) (n : Nat) (f : Pending → Pending) : (s.modCmd n f).factors = s.factors := rfl
@[simp] theorem State.modCmd_counting (s : State) (n : Nat) (f : Pending → Pending) : (s.modCmd n f).counting = s.counting := rfl
@[simp] theorem State.modCmd_shared (s : State) (n : Nat) (f : Pending → Pending) : (s.modCmd n f).shared = s.shared := rfl
@[simp] theorem State.modCmd_mem (s : State) (n : Nat) (f : Pending → Pending) : (s.modCmd n f).mem = s.mem := rfl
@[simp] theorem State.modCmd_poison (s : State) (n : Nat) (f : Pending → Pending) : (s.modCmd n f).poison = s.poison := rfl
@[simp] theorem State.modCmd_weak (s : State) (n : Nat) (f : Pending → Pending) : (s.modCmd n f).weak = s.weak := rfl
@[simp] theorem State.modCmd_badLines (s : State) (n : Nat) (f : Pending → Pending) : (s.modCmd n f).badLines = s.badLines := rfl
@[simp] theorem State.modCmd_broken (s : State) (n : Nat) (f : Pending → Pending) : (s.modCmd n f).broken = s.broken := rfl
@[simp] theorem State.modCmd_cached (s : State) (n : Nat) (f : Pending → Pending) : (s.modCmd n f).cached = s.cached := rfl
@[simp] theorem State.modCmd_hostMem (s : State) (n : Nat) (f : Pending → Pending) : (s.modCmd n f).hostMem = s.hostMem := rfl
@[simp] theorem State.modCmd_hostPoison (s : State) (n : Nat) (f : Pending → Pending) : (s.modCmd n f).hostPoison = s.hostPoison := rfl
@[simp] theorem State.modCmd_owners (s : State) (n : Nat) (f : Pending → Pending) : (s.modCmd n f).owners = s.owners := rfl
@[simp] theorem State.modCmd_hostMapped (s : State) (n : Nat) (f : Pending → Pending) : (s.modCmd n f).hostMapped = s.hostMapped := rfl
@[simp] theorem State.modCmd_cxlReply (s : State) (n : Nat) (f : Pending → Pending) : (s.modCmd n f).cxlReply = s.cxlReply := rfl
@[simp] theorem State.modCmd_seals (s : State) (n : Nat) (f : Pending → Pending) : (s.modCmd n f).seals = s.seals := rfl
@[simp] theorem State.modCmd_tableNext (s : State) (n : Nat) (f : Pending → Pending) : (s.modCmd n f).tableNext = s.tableNext := rfl
@[simp] theorem State.modCmd_quads (s : State) (n : Nat) (f : Pending → Pending) : (s.modCmd n f).quads = s.quads := rfl
@[simp] theorem State.modCmd_tlbs (s : State) (n : Nat) (f : Pending → Pending) : (s.modCmd n f).tlbs = s.tlbs := rfl
@[simp] theorem State.modCmd_links (s : State) (n : Nat) (f : Pending → Pending) : (s.modCmd n f).links = s.links := rfl
@[simp] theorem State.modCmd_insts (s : State) (n : Nat) (f : Pending → Pending) : (s.modCmd n f).insts = s.insts := rfl
@[simp] theorem State.modCmd_commits (s : State) (n : Nat) (f : Pending → Pending) : (s.modCmd n f).commits = s.commits := rfl
@[simp] theorem State.modCmd_frames (s : State) (n : Nat) (f : Pending → Pending) : (s.modCmd n f).frames = s.frames := rfl
@[simp] theorem State.modCmd_embers (s : State) (n : Nat) (f : Pending → Pending) : (s.modCmd n f).embers = s.embers := rfl
@[simp] theorem State.modCmd_retiring (s : State) (n : Nat) (f : Pending → Pending) : (s.modCmd n f).retiring = s.retiring := rfl
@[simp] theorem State.modCmd_flying (s : State) (n : Nat) (f : Pending → Pending) : (s.modCmd n f).flying = s.flying := rfl
@[simp] theorem State.modCmd_msgs (s : State) (n : Nat) (f : Pending → Pending) : (s.modCmd n f).msgs = s.msgs := rfl
@[simp] theorem State.modCmd_posted (s : State) (n : Nat) (f : Pending → Pending) : (s.modCmd n f).posted = s.posted := rfl
@[simp] theorem State.modCmd_fifo (s : State) (n : Nat) (f : Pending → Pending) : (s.modCmd n f).fifo = s.fifo := rfl
@[simp] theorem State.modCmd_specs (s : State) (n : Nat) (f : Pending → Pending) : (s.modCmd n f).specs = s.specs := rfl
@[simp] theorem State.modCmd_cmds (s : State) (n : Nat) (f : Pending → Pending) : (s.modCmd n f).cmds = modWhere (fun x => x.cmd.id = n) f s.cmds := rfl
@[simp] theorem State.modCmd_barriers (s : State) (n : Nat) (f : Pending → Pending) : (s.modCmd n f).barriers = s.barriers := rfl
@[simp] theorem State.modCmd_contexts (s : State) (n : Nat) (f : Pending → Pending) : (s.modCmd n f).contexts = s.contexts := rfl
@[simp] theorem State.modCmd_decoders (s : State) (n : Nat) (f : Pending → Pending) : (s.modCmd n f).decoders = s.decoders := rfl
@[simp] theorem State.modCmd_windows (s : State) (n : Nat) (f : Pending → Pending) : (s.modCmd n f).windows = s.windows := rfl
@[simp] theorem State.modCmd_functions (s : State) (n : Nat) (f : Pending → Pending) : (s.modCmd n f).functions = s.functions := rfl
@[simp] theorem State.modCmd_kcmds (s : State) (n : Nat) (f : Pending → Pending) : (s.modCmd n f).kcmds = s.kcmds := rfl
@[simp] theorem State.modCmd_grants (s : State) (n : Nat) (f : Pending → Pending) : (s.modCmd n f).grants = s.grants := rfl
@[simp] theorem State.modCmd_lanterns (s : State) (n : Nat) (f : Pending → Pending) : (s.modCmd n f).lanterns = s.lanterns := rfl
@[simp] theorem State.modCmd_saved (s : State) (n : Nat) (f : Pending → Pending) : (s.modCmd n f).saved = s.saved := rfl
@[simp] theorem State.modCmd_flows (s : State) (n : Nat) (f : Pending → Pending) : (s.modCmd n f).flows = s.flows := rfl
@[simp] theorem State.modCmd_ports (s : State) (n : Nat) (f : Pending → Pending) : (s.modCmd n f).ports = s.ports := rfl
@[simp] theorem State.modCmd_lostPkgs (s : State) (n : Nat) (f : Pending → Pending) : (s.modCmd n f).lostPkgs = s.lostPkgs := rfl
@[simp] theorem State.modCmd_sentFrame (s : State) (n : Nat) (f : Pending → Pending) : (s.modCmd n f).sentFrame = s.sentFrame := rfl
@[simp] theorem State.modCmd_lanes (s : State) (n : Nat) (f : Pending → Pending) : (s.modCmd n f).lanes = s.lanes := rfl
@[simp] theorem State.modCmd_agenda (s : State) (n : Nat) (f : Pending → Pending) : (s.modCmd n f).agenda = s.agenda := rfl
@[simp] theorem State.modCmd_nextId (s : State) (n : Nat) (f : Pending → Pending) : (s.modCmd n f).nextId = s.nextId := rfl
@[simp] theorem State.modCmd_fresh (s : State) (n : Nat) (f : Pending → Pending) : (s.modCmd n f).fresh = s.fresh := rfl

/-! ### dropMsg -/

@[simp] theorem State.dropMsg_clk (s : State) (n : Nat) : (s.dropMsg n).clk = s.clk := rfl
@[simp] theorem State.dropMsg_fclk (s : State) (n : Nat) : (s.dropMsg n).fclk = s.fclk := rfl
@[simp] theorem State.dropMsg_powerOff (s : State) (n : Nat) : (s.dropMsg n).powerOff = s.powerOff := rfl
@[simp] theorem State.dropMsg_ready (s : State) (n : Nat) : (s.dropMsg n).ready = s.ready := rfl
@[simp] theorem State.dropMsg_halfRate (s : State) (n : Nat) : (s.dropMsg n).halfRate = s.halfRate := rfl
@[simp] theorem State.dropMsg_hdmBase (s : State) (n : Nat) : (s.dropMsg n).hdmBase = s.hdmBase := rfl
@[simp] theorem State.dropMsg_pkgNo (s : State) (n : Nat) : (s.dropMsg n).pkgNo = s.pkgNo := rfl
@[simp] theorem State.dropMsg_podSize (s : State) (n : Nat) : (s.dropMsg n).podSize = s.podSize := rfl
@[simp] theorem State.dropMsg_podAddrs (s : State) (n : Nat) : (s.dropMsg n).podAddrs = s.podAddrs := rfl
@[simp] theorem State.dropMsg_sustained (s : State) (n : Nat) : (s.dropMsg n).sustained = s.sustained := rfl
@[simp] theorem State.dropMsg_peak (s : State) (n : Nat) : (s.dropMsg n).peak = s.peak := rfl
@[simp] theorem State.dropMsg_powerLog (s : State) (n : Nat) : (s.dropMsg n).powerLog = s.powerLog := rfl
@[simp] theorem State.dropMsg_msNo (s : State) (n : Nat) : (s.dropMsg n).msNo = s.msNo := rfl
@[simp] theorem State.dropMsg_msAt (s : State) (n : Nat) : (s.dropMsg n).msAt = s.msAt := rfl
@[simp] theorem State.dropMsg_msFactors (s : State) (n : Nat) : (s.dropMsg n).msFactors = s.msFactors := rfl
@[simp] theorem State.dropMsg_msPower (s : State) (n : Nat) : (s.dropMsg n).msPower = s.msPower := rfl
@[simp] theorem State.dropMsg_msLowered (s : State) (n : Nat) : (s.dropMsg n).msLowered = s.msLowered := rfl
@[simp] theorem State.dropMsg_msHot (s : State) (n : Nat) : (s.dropMsg n).msHot = s.msHot := rfl
@[simp] theorem State.dropMsg_dieCharged (s : State) (n : Nat) : (s.dropMsg n).dieCharged = s.dieCharged := rfl
@[simp] theorem State.dropMsg_msMapped (s : State) (n : Nat) : (s.dropMsg n).msMapped = s.msMapped := rfl
@[simp] theorem State.dropMsg_enabled (s : State) (n : Nat) : (s.dropMsg n).enabled = s.enabled := rfl
@[simp] theorem State.dropMsg_marked (s : State) (n : Nat) : (s.dropMsg n).marked = s.marked := rfl
@[simp] theorem State.dropMsg_badQuads (s : State) (n : Nat) : (s.dropMsg n).badQuads = s.badQuads := rfl
@[simp] theorem State.dropMsg_badNode (s : State) (n : Nat) : (s.dropMsg n).badNode = s.badNode := rfl
@[simp] theorem State.dropMsg_badHeld (s : State) (n : Nat) : (s.dropMsg n).badHeld = s.badHeld := rfl
@[simp] theorem State.dropMsg_corrected (s : State) (n : Nat) : (s.dropMsg n).corrected = s.corrected := rfl
@[simp] theorem State.dropMsg_configRec (s : State) (n : Nat) : (s.dropMsg n).configRec = s.configRec := rfl
@[simp] theorem State.dropMsg_calibRec (s : State) (n : Nat) : (s.dropMsg n).calibRec = s.calibRec := rfl
@[simp] theorem State.dropMsg_nextCalib (s : State) (n : Nat) : (s.dropMsg n).nextCalib = s.nextCalib := rfl
@[simp] theorem State.dropMsg_factors (s : State) (n : Nat) : (s.dropMsg n).factors = s.factors := rfl
@[simp] theorem State.dropMsg_counting (s : State) (n : Nat) : (s.dropMsg n).counting = s.counting := rfl
@[simp] theorem State.dropMsg_shared (s : State) (n : Nat) : (s.dropMsg n).shared = s.shared := rfl
@[simp] theorem State.dropMsg_mem (s : State) (n : Nat) : (s.dropMsg n).mem = s.mem := rfl
@[simp] theorem State.dropMsg_poison (s : State) (n : Nat) : (s.dropMsg n).poison = s.poison := rfl
@[simp] theorem State.dropMsg_weak (s : State) (n : Nat) : (s.dropMsg n).weak = s.weak := rfl
@[simp] theorem State.dropMsg_badLines (s : State) (n : Nat) : (s.dropMsg n).badLines = s.badLines := rfl
@[simp] theorem State.dropMsg_broken (s : State) (n : Nat) : (s.dropMsg n).broken = s.broken := rfl
@[simp] theorem State.dropMsg_cached (s : State) (n : Nat) : (s.dropMsg n).cached = s.cached := rfl
@[simp] theorem State.dropMsg_hostMem (s : State) (n : Nat) : (s.dropMsg n).hostMem = s.hostMem := rfl
@[simp] theorem State.dropMsg_hostPoison (s : State) (n : Nat) : (s.dropMsg n).hostPoison = s.hostPoison := rfl
@[simp] theorem State.dropMsg_owners (s : State) (n : Nat) : (s.dropMsg n).owners = s.owners := rfl
@[simp] theorem State.dropMsg_hostMapped (s : State) (n : Nat) : (s.dropMsg n).hostMapped = s.hostMapped := rfl
@[simp] theorem State.dropMsg_cxlReply (s : State) (n : Nat) : (s.dropMsg n).cxlReply = s.cxlReply := rfl
@[simp] theorem State.dropMsg_seals (s : State) (n : Nat) : (s.dropMsg n).seals = s.seals := rfl
@[simp] theorem State.dropMsg_tableNext (s : State) (n : Nat) : (s.dropMsg n).tableNext = s.tableNext := rfl
@[simp] theorem State.dropMsg_quads (s : State) (n : Nat) : (s.dropMsg n).quads = s.quads := rfl
@[simp] theorem State.dropMsg_tlbs (s : State) (n : Nat) : (s.dropMsg n).tlbs = s.tlbs := rfl
@[simp] theorem State.dropMsg_links (s : State) (n : Nat) : (s.dropMsg n).links = s.links := rfl
@[simp] theorem State.dropMsg_insts (s : State) (n : Nat) : (s.dropMsg n).insts = s.insts := rfl
@[simp] theorem State.dropMsg_commits (s : State) (n : Nat) : (s.dropMsg n).commits = s.commits := rfl
@[simp] theorem State.dropMsg_frames (s : State) (n : Nat) : (s.dropMsg n).frames = s.frames := rfl
@[simp] theorem State.dropMsg_embers (s : State) (n : Nat) : (s.dropMsg n).embers = s.embers := rfl
@[simp] theorem State.dropMsg_retiring (s : State) (n : Nat) : (s.dropMsg n).retiring = s.retiring := rfl
@[simp] theorem State.dropMsg_flying (s : State) (n : Nat) : (s.dropMsg n).flying = s.flying := rfl
@[simp] theorem State.dropMsg_msgs (s : State) (n : Nat) : (s.dropMsg n).msgs = s.msgs.filter (fun m => m.id ≠ n) := rfl
@[simp] theorem State.dropMsg_posted (s : State) (n : Nat) : (s.dropMsg n).posted = s.posted := rfl
@[simp] theorem State.dropMsg_fifo (s : State) (n : Nat) : (s.dropMsg n).fifo = s.fifo := rfl
@[simp] theorem State.dropMsg_specs (s : State) (n : Nat) : (s.dropMsg n).specs = s.specs := rfl
@[simp] theorem State.dropMsg_cmds (s : State) (n : Nat) : (s.dropMsg n).cmds = s.cmds := rfl
@[simp] theorem State.dropMsg_barriers (s : State) (n : Nat) : (s.dropMsg n).barriers = s.barriers := rfl
@[simp] theorem State.dropMsg_contexts (s : State) (n : Nat) : (s.dropMsg n).contexts = s.contexts := rfl
@[simp] theorem State.dropMsg_decoders (s : State) (n : Nat) : (s.dropMsg n).decoders = s.decoders := rfl
@[simp] theorem State.dropMsg_windows (s : State) (n : Nat) : (s.dropMsg n).windows = s.windows := rfl
@[simp] theorem State.dropMsg_functions (s : State) (n : Nat) : (s.dropMsg n).functions = s.functions := rfl
@[simp] theorem State.dropMsg_kcmds (s : State) (n : Nat) : (s.dropMsg n).kcmds = s.kcmds := rfl
@[simp] theorem State.dropMsg_grants (s : State) (n : Nat) : (s.dropMsg n).grants = s.grants := rfl
@[simp] theorem State.dropMsg_lanterns (s : State) (n : Nat) : (s.dropMsg n).lanterns = s.lanterns := rfl
@[simp] theorem State.dropMsg_saved (s : State) (n : Nat) : (s.dropMsg n).saved = s.saved := rfl
@[simp] theorem State.dropMsg_flows (s : State) (n : Nat) : (s.dropMsg n).flows = s.flows := rfl
@[simp] theorem State.dropMsg_ports (s : State) (n : Nat) : (s.dropMsg n).ports = s.ports := rfl
@[simp] theorem State.dropMsg_lostPkgs (s : State) (n : Nat) : (s.dropMsg n).lostPkgs = s.lostPkgs := rfl
@[simp] theorem State.dropMsg_sentFrame (s : State) (n : Nat) : (s.dropMsg n).sentFrame = s.sentFrame := rfl
@[simp] theorem State.dropMsg_lanes (s : State) (n : Nat) : (s.dropMsg n).lanes = s.lanes := rfl
@[simp] theorem State.dropMsg_agenda (s : State) (n : Nat) : (s.dropMsg n).agenda = s.agenda := rfl
@[simp] theorem State.dropMsg_nextId (s : State) (n : Nat) : (s.dropMsg n).nextId = s.nextId := rfl
@[simp] theorem State.dropMsg_fresh (s : State) (n : Nat) : (s.dropMsg n).fresh = s.fresh := rfl

/-! ### modFunc -/

@[simp] theorem State.modFunc_clk (s : State) (n : Nat) (f : Function → Function) : (s.modFunc n f).clk = s.clk := rfl
@[simp] theorem State.modFunc_fclk (s : State) (n : Nat) (f : Function → Function) : (s.modFunc n f).fclk = s.fclk := rfl
@[simp] theorem State.modFunc_powerOff (s : State) (n : Nat) (f : Function → Function) : (s.modFunc n f).powerOff = s.powerOff := rfl
@[simp] theorem State.modFunc_ready (s : State) (n : Nat) (f : Function → Function) : (s.modFunc n f).ready = s.ready := rfl
@[simp] theorem State.modFunc_halfRate (s : State) (n : Nat) (f : Function → Function) : (s.modFunc n f).halfRate = s.halfRate := rfl
@[simp] theorem State.modFunc_hdmBase (s : State) (n : Nat) (f : Function → Function) : (s.modFunc n f).hdmBase = s.hdmBase := rfl
@[simp] theorem State.modFunc_pkgNo (s : State) (n : Nat) (f : Function → Function) : (s.modFunc n f).pkgNo = s.pkgNo := rfl
@[simp] theorem State.modFunc_podSize (s : State) (n : Nat) (f : Function → Function) : (s.modFunc n f).podSize = s.podSize := rfl
@[simp] theorem State.modFunc_podAddrs (s : State) (n : Nat) (f : Function → Function) : (s.modFunc n f).podAddrs = s.podAddrs := rfl
@[simp] theorem State.modFunc_sustained (s : State) (n : Nat) (f : Function → Function) : (s.modFunc n f).sustained = s.sustained := rfl
@[simp] theorem State.modFunc_peak (s : State) (n : Nat) (f : Function → Function) : (s.modFunc n f).peak = s.peak := rfl
@[simp] theorem State.modFunc_powerLog (s : State) (n : Nat) (f : Function → Function) : (s.modFunc n f).powerLog = s.powerLog := rfl
@[simp] theorem State.modFunc_msNo (s : State) (n : Nat) (f : Function → Function) : (s.modFunc n f).msNo = s.msNo := rfl
@[simp] theorem State.modFunc_msAt (s : State) (n : Nat) (f : Function → Function) : (s.modFunc n f).msAt = s.msAt := rfl
@[simp] theorem State.modFunc_msFactors (s : State) (n : Nat) (f : Function → Function) : (s.modFunc n f).msFactors = s.msFactors := rfl
@[simp] theorem State.modFunc_msPower (s : State) (n : Nat) (f : Function → Function) : (s.modFunc n f).msPower = s.msPower := rfl
@[simp] theorem State.modFunc_msLowered (s : State) (n : Nat) (f : Function → Function) : (s.modFunc n f).msLowered = s.msLowered := rfl
@[simp] theorem State.modFunc_msHot (s : State) (n : Nat) (f : Function → Function) : (s.modFunc n f).msHot = s.msHot := rfl
@[simp] theorem State.modFunc_dieCharged (s : State) (n : Nat) (f : Function → Function) : (s.modFunc n f).dieCharged = s.dieCharged := rfl
@[simp] theorem State.modFunc_msMapped (s : State) (n : Nat) (f : Function → Function) : (s.modFunc n f).msMapped = s.msMapped := rfl
@[simp] theorem State.modFunc_enabled (s : State) (n : Nat) (f : Function → Function) : (s.modFunc n f).enabled = s.enabled := rfl
@[simp] theorem State.modFunc_marked (s : State) (n : Nat) (f : Function → Function) : (s.modFunc n f).marked = s.marked := rfl
@[simp] theorem State.modFunc_badQuads (s : State) (n : Nat) (f : Function → Function) : (s.modFunc n f).badQuads = s.badQuads := rfl
@[simp] theorem State.modFunc_badNode (s : State) (n : Nat) (f : Function → Function) : (s.modFunc n f).badNode = s.badNode := rfl
@[simp] theorem State.modFunc_badHeld (s : State) (n : Nat) (f : Function → Function) : (s.modFunc n f).badHeld = s.badHeld := rfl
@[simp] theorem State.modFunc_corrected (s : State) (n : Nat) (f : Function → Function) : (s.modFunc n f).corrected = s.corrected := rfl
@[simp] theorem State.modFunc_configRec (s : State) (n : Nat) (f : Function → Function) : (s.modFunc n f).configRec = s.configRec := rfl
@[simp] theorem State.modFunc_calibRec (s : State) (n : Nat) (f : Function → Function) : (s.modFunc n f).calibRec = s.calibRec := rfl
@[simp] theorem State.modFunc_nextCalib (s : State) (n : Nat) (f : Function → Function) : (s.modFunc n f).nextCalib = s.nextCalib := rfl
@[simp] theorem State.modFunc_factors (s : State) (n : Nat) (f : Function → Function) : (s.modFunc n f).factors = s.factors := rfl
@[simp] theorem State.modFunc_counting (s : State) (n : Nat) (f : Function → Function) : (s.modFunc n f).counting = s.counting := rfl
@[simp] theorem State.modFunc_shared (s : State) (n : Nat) (f : Function → Function) : (s.modFunc n f).shared = s.shared := rfl
@[simp] theorem State.modFunc_mem (s : State) (n : Nat) (f : Function → Function) : (s.modFunc n f).mem = s.mem := rfl
@[simp] theorem State.modFunc_poison (s : State) (n : Nat) (f : Function → Function) : (s.modFunc n f).poison = s.poison := rfl
@[simp] theorem State.modFunc_weak (s : State) (n : Nat) (f : Function → Function) : (s.modFunc n f).weak = s.weak := rfl
@[simp] theorem State.modFunc_badLines (s : State) (n : Nat) (f : Function → Function) : (s.modFunc n f).badLines = s.badLines := rfl
@[simp] theorem State.modFunc_broken (s : State) (n : Nat) (f : Function → Function) : (s.modFunc n f).broken = s.broken := rfl
@[simp] theorem State.modFunc_cached (s : State) (n : Nat) (f : Function → Function) : (s.modFunc n f).cached = s.cached := rfl
@[simp] theorem State.modFunc_hostMem (s : State) (n : Nat) (f : Function → Function) : (s.modFunc n f).hostMem = s.hostMem := rfl
@[simp] theorem State.modFunc_hostPoison (s : State) (n : Nat) (f : Function → Function) : (s.modFunc n f).hostPoison = s.hostPoison := rfl
@[simp] theorem State.modFunc_owners (s : State) (n : Nat) (f : Function → Function) : (s.modFunc n f).owners = s.owners := rfl
@[simp] theorem State.modFunc_hostMapped (s : State) (n : Nat) (f : Function → Function) : (s.modFunc n f).hostMapped = s.hostMapped := rfl
@[simp] theorem State.modFunc_cxlReply (s : State) (n : Nat) (f : Function → Function) : (s.modFunc n f).cxlReply = s.cxlReply := rfl
@[simp] theorem State.modFunc_seals (s : State) (n : Nat) (f : Function → Function) : (s.modFunc n f).seals = s.seals := rfl
@[simp] theorem State.modFunc_tableNext (s : State) (n : Nat) (f : Function → Function) : (s.modFunc n f).tableNext = s.tableNext := rfl
@[simp] theorem State.modFunc_quads (s : State) (n : Nat) (f : Function → Function) : (s.modFunc n f).quads = s.quads := rfl
@[simp] theorem State.modFunc_tlbs (s : State) (n : Nat) (f : Function → Function) : (s.modFunc n f).tlbs = s.tlbs := rfl
@[simp] theorem State.modFunc_links (s : State) (n : Nat) (f : Function → Function) : (s.modFunc n f).links = s.links := rfl
@[simp] theorem State.modFunc_insts (s : State) (n : Nat) (f : Function → Function) : (s.modFunc n f).insts = s.insts := rfl
@[simp] theorem State.modFunc_commits (s : State) (n : Nat) (f : Function → Function) : (s.modFunc n f).commits = s.commits := rfl
@[simp] theorem State.modFunc_frames (s : State) (n : Nat) (f : Function → Function) : (s.modFunc n f).frames = s.frames := rfl
@[simp] theorem State.modFunc_embers (s : State) (n : Nat) (f : Function → Function) : (s.modFunc n f).embers = s.embers := rfl
@[simp] theorem State.modFunc_retiring (s : State) (n : Nat) (f : Function → Function) : (s.modFunc n f).retiring = s.retiring := rfl
@[simp] theorem State.modFunc_flying (s : State) (n : Nat) (f : Function → Function) : (s.modFunc n f).flying = s.flying := rfl
@[simp] theorem State.modFunc_msgs (s : State) (n : Nat) (f : Function → Function) : (s.modFunc n f).msgs = s.msgs := rfl
@[simp] theorem State.modFunc_posted (s : State) (n : Nat) (f : Function → Function) : (s.modFunc n f).posted = s.posted := rfl
@[simp] theorem State.modFunc_fifo (s : State) (n : Nat) (f : Function → Function) : (s.modFunc n f).fifo = s.fifo := rfl
@[simp] theorem State.modFunc_specs (s : State) (n : Nat) (f : Function → Function) : (s.modFunc n f).specs = s.specs := rfl
@[simp] theorem State.modFunc_cmds (s : State) (n : Nat) (f : Function → Function) : (s.modFunc n f).cmds = s.cmds := rfl
@[simp] theorem State.modFunc_barriers (s : State) (n : Nat) (f : Function → Function) : (s.modFunc n f).barriers = s.barriers := rfl
@[simp] theorem State.modFunc_contexts (s : State) (n : Nat) (f : Function → Function) : (s.modFunc n f).contexts = s.contexts := rfl
@[simp] theorem State.modFunc_decoders (s : State) (n : Nat) (f : Function → Function) : (s.modFunc n f).decoders = s.decoders := rfl
@[simp] theorem State.modFunc_windows (s : State) (n : Nat) (f : Function → Function) : (s.modFunc n f).windows = s.windows := rfl
@[simp] theorem State.modFunc_functions (s : State) (n : Nat) (f : Function → Function) : (s.modFunc n f).functions = modAt n f s.functions := rfl
@[simp] theorem State.modFunc_kcmds (s : State) (n : Nat) (f : Function → Function) : (s.modFunc n f).kcmds = s.kcmds := rfl
@[simp] theorem State.modFunc_grants (s : State) (n : Nat) (f : Function → Function) : (s.modFunc n f).grants = s.grants := rfl
@[simp] theorem State.modFunc_lanterns (s : State) (n : Nat) (f : Function → Function) : (s.modFunc n f).lanterns = s.lanterns := rfl
@[simp] theorem State.modFunc_saved (s : State) (n : Nat) (f : Function → Function) : (s.modFunc n f).saved = s.saved := rfl
@[simp] theorem State.modFunc_flows (s : State) (n : Nat) (f : Function → Function) : (s.modFunc n f).flows = s.flows := rfl
@[simp] theorem State.modFunc_ports (s : State) (n : Nat) (f : Function → Function) : (s.modFunc n f).ports = s.ports := rfl
@[simp] theorem State.modFunc_lostPkgs (s : State) (n : Nat) (f : Function → Function) : (s.modFunc n f).lostPkgs = s.lostPkgs := rfl
@[simp] theorem State.modFunc_sentFrame (s : State) (n : Nat) (f : Function → Function) : (s.modFunc n f).sentFrame = s.sentFrame := rfl
@[simp] theorem State.modFunc_lanes (s : State) (n : Nat) (f : Function → Function) : (s.modFunc n f).lanes = s.lanes := rfl
@[simp] theorem State.modFunc_agenda (s : State) (n : Nat) (f : Function → Function) : (s.modFunc n f).agenda = s.agenda := rfl
@[simp] theorem State.modFunc_nextId (s : State) (n : Nat) (f : Function → Function) : (s.modFunc n f).nextId = s.nextId := rfl
@[simp] theorem State.modFunc_fresh (s : State) (n : Nat) (f : Function → Function) : (s.modFunc n f).fresh = s.fresh := rfl

end Sys2Proof.Machine
end

