-- ==== Sys2Proof/Laws/Memory.lean ====
section
/-!
SUPPORT. Laws of memory: every operation keeps the canonical form; a read after a write gives the bytes written, and a
write leaves every other byte alone.
-/

namespace Sys2Proof.Machine

/-! ### The canonical form -/

theorem memWfFrom_cons {lo k : Nat} {b : Byte} {r : List Host.Cell} :
    memWfFrom lo ((k, b) :: r) = true ↔ lo ≤ k ∧ b ≠ 0 ∧ memWfFrom (k + 1) r = true := by
  rw [memWfFrom, Bool.and_eq_true, Bool.and_eq_true, decide_eq_true_eq, bne_iff_ne, and_assoc]

theorem memWfFrom_mono {lo hi : Nat} (h : lo ≤ hi) : ∀ {m : List Host.Cell}, memWfFrom hi m = true → memWfFrom lo m = true
  | [], _ => rfl
  | (k, b) :: r, hm => by
    rw [memWfFrom_cons] at hm ⊢
    exact ⟨by omega, hm.2⟩

theorem memSet_wfFrom (a : Nat) (v : Byte) :
    ∀ {m : List Host.Cell} {lo : Nat}, lo ≤ a → memWfFrom lo m = true → memWfFrom lo (memSet a v m) = true
  | [], lo, ha, _ => by
    unfold memSet; split
    · rfl
    · rename_i hv; exact memWfFrom_cons.2 ⟨ha, hv, rfl⟩
  | (k, b) :: r, lo, ha, hm => by
    obtain ⟨hk, hb, hr⟩ := memWfFrom_cons.1 hm
    unfold memSet; split
    · rename_i hka
      split
      · exact memWfFrom_mono (by omega) hr
      · rename_i hv; exact memWfFrom_cons.2 ⟨ha, hv, hka ▸ hr⟩
    · split
      · rename_i hlt
        split
        · exact hm
        · rename_i hv; exact memWfFrom_cons.2 ⟨ha, hv, memWfFrom_cons.2 ⟨hlt, hb, hr⟩⟩
      · exact memWfFrom_cons.2 ⟨hk, hb, memSet_wfFrom a v (by omega) hr⟩

theorem memSet_wf (a : Nat) (v : Byte) {m : List Host.Cell} (h : Memory.wf m = true) : Memory.wf (memSet a v m) = true :=
  memSet_wfFrom a v (Nat.zero_le a) h

theorem memPut_wf : ∀ (bs : List Byte) (a : Nat) {m : List Host.Cell}, Memory.wf m = true → Memory.wf (memPut a bs m) = true
  | [], _, _, h => h
  | b :: r, a, _, h => memPut_wf r (a + 1) (memSet_wf a b h)

theorem filter_wfFrom (p : Host.Cell → Bool) : ∀ {m : List Host.Cell} {lo : Nat}, memWfFrom lo m = true →
    memWfFrom lo (m.filter p) = true
  | [], _, _ => rfl
  | (k, b) :: r, lo, hm => by
    obtain ⟨hk, hb, hr⟩ := memWfFrom_cons.1 hm
    simp only [List.filter_cons]
    split
    · exact memWfFrom_cons.2 ⟨hk, hb, filter_wfFrom p hr⟩
    · exact memWfFrom_mono (by omega) (filter_wfFrom p hr)

theorem filter_wf (p : Host.Cell → Bool) {m : List Host.Cell} (h : Memory.wf m = true) : Memory.wf (m.filter p) = true :=
  filter_wfFrom p h

theorem memZero_wf (a n : Nat) {m : List Host.Cell} (h : Memory.wf m = true) : Memory.wf (memZero a n m) = true :=
  filter_wf _ h

/-! ### Reads after writes -/

theorem memGet_below {a : Nat} : ∀ {m : List Host.Cell} {lo : Nat}, a < lo → memWfFrom lo m = true → memGet a m = 0
  | [], _, _, _ => rfl
  | (k, b) :: r, lo, ha, hm => by
    rw [memWfFrom_cons] at hm
    have : a < k := by omega
    simp [memGet, this, Nat.ne_of_gt this]

theorem memGet_memSet_same (a : Nat) (v : Byte) : ∀ {m : List Host.Cell} {lo : Nat}, memWfFrom lo m = true →
    memGet a (memSet a v m) = v
  | [], _, _ => by unfold memSet; split <;> simp_all [memGet]
  | (k, b) :: r, lo, hm => by
    rw [memWfFrom_cons] at hm
    unfold memSet; split
    · rename_i hka
      split
      · rename_i hv; rw [hv]; exact memGet_below (by omega) hm.2.2
      · simp [memGet]
    · rename_i hne
      split
      · rename_i hlt
        split
        · rename_i hv; simp [memGet, hne, hlt, hv]
        · simp [memGet]
      · rename_i hge
        simp only [memGet, if_neg hne, if_neg hge]
        exact memGet_memSet_same a v hm.2.2

theorem memGet_memSet_ne {a c : Nat} (v : Byte) (h : c ≠ a) : ∀ {m : List Host.Cell} {lo : Nat}, memWfFrom lo m = true →
    memGet c (memSet a v m) = memGet c m
  | [], _, _ => by unfold memSet; split <;> simp_all [memGet]; omega
  | (k, b) :: r, lo, hm => by
    rw [memWfFrom_cons] at hm
    unfold memSet; split
    · rename_i hka
      split
      · rename_i hv
        simp only [memGet]
        split
        · omega
        · split
          · exact memGet_below (by omega) hm.2.2
          · rfl
      · simp only [memGet, hka, if_neg (Ne.symm h)]
    · rename_i hne
      split
      · rename_i hlt
        split
        · rfl
        · simp only [memGet]
          split
          · omega
          · split
            · split
              · omega
              · split
                · rfl
                · omega
            · rfl
      · simp only [memGet]
        split
        · rfl
        · split
          · rfl
          · exact memGet_memSet_ne v h hm.2.2

theorem memGet_memPut_outside {c : Nat} : ∀ (bs : List Byte) (a : Nat) {m : List Host.Cell}, Memory.wf m = true →
    (c < a ∨ a + bs.length ≤ c) → memGet c (memPut a bs m) = memGet c m
  | [], _, _, _, _ => rfl
  | b :: r, a, m, hm, h => by
    have hc : c ≠ a := by simp only [List.length_cons] at h; omega
    have hr : c < a + 1 ∨ a + 1 + r.length ≤ c := by simp only [List.length_cons] at h; omega
    rw [memPut, memGet_memPut_outside r (a + 1) (memSet_wf a b hm) hr, memGet_memSet_ne b hc hm]

theorem memGet_memPut_inside : ∀ (bs : List Byte) (a i : Nat) {m : List Host.Cell}, Memory.wf m = true →
    (h : i < bs.length) → memGet (a + i) (memPut a bs m) = bs[i]
  | b :: r, a, 0, m, hm, _ => by
    rw [memPut, memGet_memPut_outside r (a + 1) (memSet_wf a b hm) (by omega)]
    exact memGet_memSet_same a b hm
  | b :: r, a, i + 1, m, hm, h => by
    have hi : i < r.length := by simp only [List.length_cons] at h; omega
    have e : a + (i + 1) = a + 1 + i := by omega
    rw [memPut, e, memGet_memPut_inside r (a + 1) i (memSet_wf a b hm) hi]
    rfl

@[simp] theorem memBytes_length (m : List Host.Cell) (a n : Nat) : (memBytes m a n).length = n := by simp [memBytes]

theorem memBytes_memPut (bs : List Byte) (a : Nat) {m : List Host.Cell} (hm : Memory.wf m = true) :
    memBytes (memPut a bs m) a bs.length = bs := by
  apply List.ext_getElem
  · simp
  · intro i h1 h2
    simp only [memBytes, List.getElem_map, List.getElem_range]
    exact memGet_memPut_inside bs a i hm h2

@[simp] theorem leBytes_length : ∀ (n v : Nat), (leBytes n v).length = n
  | 0, _ => rfl
  | n + 1, v => by simp [leBytes, leBytes_length n]

theorem leNat_leBytes : ∀ (n v : Nat), leNat (leBytes n v) = v % 256 ^ n
  | 0, v => by simp [leBytes, leNat, Nat.mod_one]
  | n + 1, v => by
    rw [leBytes, leNat, leNat_leBytes n, BitVec.toNat_ofNat, Nat.pow_succ 256 n, Nat.mul_comm (256 ^ n), Nat.mod_mul]

theorem memNat_memPut (n v a : Nat) {m : List Host.Cell} (hm : Memory.wf m = true) :
    memNat (memPut a (leBytes n v) m) a n = v % 256 ^ n := by
  have h := memBytes_memPut (leBytes n v) a hm
  rw [leBytes_length] at h
  rw [memNat, h, leNat_leBytes]

/-! ### The memories of a state -/

theorem State.memOk_iff {s : State} : s.memOk = true ↔ Memory.wf s.mem = true ∧ Memory.wf s.hostMem = true := by
  simp [State.memOk]

theorem State.memOk_of_eq {s t : State} (hm : t.mem = s.mem) (hh : t.hostMem = s.hostMem) (h : s.memOk = true) :
    t.memOk = true := by
  simpa [State.memOk, hm, hh] using h

@[simp] theorem State.tick_memOk (s : State) : s.tick.memOk = s.memOk := rfl
@[simp] theorem State.modQuad_memOk (s : State) (q : QuadId) (f : Quad → Quad) : (s.modQuad q f).memOk = s.memOk := rfl
@[simp] theorem State.modCtx_memOk (s : State) (c : CtxId) (f : Context → Context) : (s.modCtx c f).memOk = s.memOk := rfl
@[simp] theorem State.modSpace_memOk (s : State) (c : CtxId) (n : Nat) (f : Space → Space) :
    (s.modSpace c n f).memOk = s.memOk := rfl
@[simp] theorem State.modInst_memOk (s : State) (n : Nat) (f : Inst → Inst) : (s.modInst n f).memOk = s.memOk := rfl
@[simp] theorem State.dropInst_memOk (s : State) (n : Nat) : (s.dropInst n).memOk = s.memOk := rfl
@[simp] theorem State.modEmber_memOk (s : State) (n : Nat) (f : Ember → Ember) : (s.modEmber n f).memOk = s.memOk := rfl
@[simp] theorem State.modCmd_memOk (s : State) (n : Nat) (f : Pending → Pending) : (s.modCmd n f).memOk = s.memOk := rfl
@[simp] theorem State.dropMsg_memOk (s : State) (n : Nat) : (s.dropMsg n).memOk = s.memOk := rfl
@[simp] theorem State.modFunc_memOk (s : State) (n : Nat) (f : Function → Function) : (s.modFunc n f).memOk = s.memOk := rfl
@[simp] theorem State.countLink_memOk (s : State) (l : LinkEnd) (a b : Nat) : (s.countLink l a b).memOk = s.memOk := rfl
@[simp] theorem State.count_memOk (s : State) (q : QuadId) (i n : Nat) : (s.count q i n).memOk = s.memOk := rfl
@[simp] theorem State.addCharge_memOk (s : State) (l : Lantern) (p : Payer) (e : Nat) : (s.addCharge l p e).memOk = s.memOk := rfl
@[simp] theorem State.onDie_memOk (s : State) (d e : Nat) : (s.onDie d e).memOk = s.memOk := rfl
@[simp] theorem State.charge_memOk (s : State) (l : Lantern) (p : Payer) (c n d : Nat) : (s.charge l p c n d).memOk = s.memOk := rfl
@[simp] theorem State.markPoison_memOk (s : State) (a n : Nat) : (s.markPoison a n).memOk = s.memOk := rfl
@[simp] theorem State.clearPoison_memOk (s : State) (a n : Nat) : (s.clearPoison a n).memOk = s.memOk := rfl
@[simp] theorem State.settleEnergy_memOk (s : State) (i : Inst) : (s.settleEnergy i).memOk = s.memOk := rfl
@[simp] theorem State.untake_memOk (s : State) (i : Inst) : (s.untake i).memOk = s.memOk := rfl
@[simp] theorem State.countReplay_memOk (s : State) (q : QuadId) (r : Nat) : (s.countReplay q r).memOk = s.memOk := rfl

theorem foldl_memOk_eq {α : Type} (f : State → α → State) (hf : ∀ s a, (f s a).memOk = s.memOk) :
    ∀ (xs : List α) (s : State), (xs.foldl f s).memOk = s.memOk
  | [], _ => rfl
  | x :: r, s => (foldl_memOk_eq f hf r (f s x)).trans (hf s x)

@[simp] theorem State.send_memOk (s : State) (cx : CtxId) (a b : Node) (n : Nat) (m : MsgBody) (l : List Point) :
    (s.send cx a b n m l).memOk = s.memOk :=
  foldl_memOk_eq _ (fun s l => State.countLink_memOk s l 1 0) ((s.linkEnds a b).take 1) s

@[simp] theorem State.countShared_memOk (s : State) (vf i n : Nat) : (s.countShared vf i n).memOk = s.memOk := by
  unfold State.countShared; split <;> rfl

@[simp] theorem State.bankReq_memOk (s : State) (q : QuadId) (r o n : Nat) : (s.bankReq q r o n).memOk = s.memOk := rfl

@[simp] theorem State.cacheAccess_memOk (s : State) (cx : CtxId) (o : Nat) (w : Bool) : (s.cacheAccess cx o w).memOk = s.memOk := by
  have h : ∀ i n, (s.countShared cx.vf i n).memOk = s.memOk := s.countShared_memOk cx.vf
  unfold State.cacheAccess
  extract_lets l s1 out
  have h1 : s1.memOk = s.memOk := h 0 1
  split
  · exact h1
  · exact (s1.countShared_memOk cx.vf 1 1).trans h1

@[simp] theorem State.checkLine_memOk (s : State) (o : Nat) : (s.checkLine o).memOk = s.memOk := by
  unfold State.checkLine; split <;> rfl

@[simp] theorem State.scrub_memOk (s : State) (o n : Nat) : (s.scrub o n).memOk = s.memOk := by
  unfold State.scrub
  extract_lets hit lost s1
  have h1 : s1.memOk = s.memOk := by unfold s1; split <;> rfl
  split
  · exact (foldl_memOk_eq _ (fun s k => s.markPoison_memOk k 8) _ _).trans h1
  · exact h1

@[simp] theorem State.chargeHome_memOk (s : State) (home : Node) (cx : CtxId) (pa k n : Nat) :
    (s.chargeHome home cx pa k n).memOk = s.memOk := by
  unfold State.chargeHome; dsimp only; split <;> simp

@[simp] theorem State.lineAccess_memOk (s : State) (u : Node) (cx : CtxId) (o : Nat) (w : Bool) :
    (s.lineAccess u cx o w).memOk = s.memOk := by
  unfold State.lineAccess; rw [State.send_memOk, State.checkLine_memOk, State.cacheAccess_memOk]

@[simp] theorem State.rangeAccess_memOk (s : State) (u : Node) (cx : CtxId) (r o n : Nat) (w : Bool) :
    (s.rangeAccess u cx r o n w).memOk = s.memOk := by
  unfold State.rangeAccess
  split
  · rw [State.bankReq_memOk, State.scrub_memOk]
  · exact foldl_memOk_eq _ (fun s l => s.lineAccess_memOk u cx l w) _ _

@[simp] theorem State.fillOwn_memOk (s : State) (u : XUnit) (t : TlbEntry) : (s.fillOwn u t).memOk = s.memOk := by
  unfold State.fillOwn; split <;> rfl

@[simp] theorem State.fillDie_memOk (s : State) (u : XUnit) (t : TlbEntry) : (s.fillDie u t).memOk = s.memOk := rfl

@[simp] theorem State.walkAccess_memOk (s : State) (u : XUnit) (cx : CtxId) (ea : Nat) (w : Bool) :
    (s.walkAccess u cx ea w).memOk = s.memOk := by
  unfold State.walkAccess; rw [State.lineAccess_memOk, State.charge_memOk]

/-- A walk changes no byte where its accesses change none. -/
theorem State.walkTouch_memOk (s : State) (touch : Nat → Bool → State → State) (c : Context) (va : Nat) (k : Kind)
    (ht : ∀ ea w s, (touch ea w s).memOk = s.memOk) : (s.walkTouch touch c va k).1.memOk = s.memOk := by
  unfold State.walkTouch
  extract_lets s1
  have h1 : s1.memOk = s.memOk := foldl_memOk_eq _ (fun s ea => ht ea false s) _ _
  clear_value s1
  split
  · exact h1
  · dsimp only
    split
    · rw [ht]; exact h1
    · exact h1

/-- A translation's traffic changes no byte: its walks' reads and writes are packets and charges. -/
@[simp] theorem State.touchTlb_memOk (s : State) (u : XUnit) (c : Context) (va : Nat) (k : Kind) :
    (s.touchTlb u c va k).memOk = s.memOk := by
  unfold State.touchTlb
  split
  · rfl
  · split
    · exact s.walkTouch_memOk _ c va k fun ea w s => s.lineAccess_memOk .k c.id ea w
    · split
      · simp
      · have h1 := ((s.countShared c.id.vf 6 1).walkTouch_memOk (fun ea w s => s.walkAccess u c.id ea w) c va k
          fun ea w s => s.walkAccess_memOk u c.id ea w).trans (s.countShared_memOk _ _ _)
        split
        · rename_i e; rw [e] at h1; exact h1
        · rename_i e; rw [e] at h1; simp [h1]

@[simp] theorem State.tracePost_memOk (s : State) (c : Context) (q : QuadId) (va pa : Nat) (bs : List Byte) :
    (s.tracePost c q va pa bs).memOk = s.memOk :=
  foldl_memOk_eq _ (fun s p => by dsimp only; rw [State.send_memOk]; rfl) _ _

/-- A write of package memory keeps the canonical form. -/
theorem State.write_memOk (s : State) (a : Nat) (bs : List Byte) (h : s.memOk = true) : (s.write a bs).memOk = true := by
  rw [State.memOk_iff] at h ⊢
  exact ⟨memPut_wf bs a h.1, h.2⟩

/-- A write by the host port, to its own memory or through HDMBASE, keeps it. -/
theorem State.hostWrite_memOk (s : State) (a : Nat) (bs : List Byte) (h : s.memOk = true) : (s.hostWrite a bs).memOk = true := by
  unfold State.hostWrite State.hostTouch
  generalize s.hdmPart a bs.length = p
  obtain ⟨i, j⟩ := p
  dsimp only
  generalize hs1 : (if i < j then _ else s) = s1
  have h1 : s1.memOk = true := by
    rw [← hs1]
    split
    · exact State.write_memOk _ _ _ (by rw [State.rangeAccess_memOk]; exact h)
    · exact h
  rw [State.memOk_iff] at h1 ⊢
  exact ⟨h1.1, memPut_wf _ _ (memPut_wf _ _ h1.2)⟩

theorem foldl_memOk {α : Type} (f : State → α → State) (hf : ∀ s a, s.memOk = true → (f s a).memOk = true) :
    ∀ (xs : List α) (s : State), s.memOk = true → (xs.foldl f s).memOk = true
  | [], _, h => h
  | x :: r, s, h => foldl_memOk f hf r (f s x) (hf s x h)

theorem setAD_memOk (w : Bool) (l : Leaf) (s : State) (h : s.memOk = true) : (setAD w l s).memOk = true := by
  rw [State.memOk_iff] at h ⊢
  exact ⟨memPut_wf _ _ h.1, h.2⟩

theorem walkVa_memOk (s : State) (c : Context) (va : Nat) (k : Kind) (h : s.memOk = true) : (walkVa s c va k).1.memOk = true := by
  unfold walkVa
  split
  · exact h
  · dsimp only
    repeat' split
    all_goals first | exact h | exact setAD_memOk _ _ _ h

/-- A translation sets A and D of an entry and changes no other byte's form. -/
theorem translate_memOk (s : State) (c : Context) (va n : Nat) (k : Kind) (h : s.memOk = true) :
    (translate s c va n k).1.memOk = true := by
  unfold translate
  split
  · exact h
  · split
    · exact h
    · split <;> exact h
    · exact walkVa_memOk s c va k h

theorem translateBy_memOk (s : State) (u : XUnit) (c : Context) (va n : Nat) (k : Kind) (h : s.memOk = true) :
    (translateBy s u c va n k).1.memOk = true := by
  unfold translateBy
  split
  · exact h
  · exact translate_memOk _ c va n k (by rw [State.touchTlb_memOk]; exact h)

theorem State.putPhys_memOk (s : State) (u : Node) (c : CtxId) (va pa : Nat) (bs : List Byte) (h : s.memOk = true) :
    (s.putPhys u c va pa bs).memOk = true := by
  unfold State.putPhys; split
  · exact State.write_memOk _ _ _ (by rw [State.rangeAccess_memOk]; exact h)
  · exact foldl_memOk _ (fun s p hs => by simpa using hs) _ _ h

theorem writeVaAs_memOk {s t : State} (k : Kind) (u : XUnit) (c : Context) (va : Nat) (bs : List Byte) (h : s.memOk = true)
    (ht : writeVaAs k s u c va bs = some t) : t.memOk = true := by
  unfold writeVaAs at ht
  have h1 := translateBy_memOk s u c va 1 k h
  split at ht
  · rename_i s1 pa e1
    rw [e1] at h1
    dsimp only at ht
    split at ht
    · split at ht
      · contradiction
      · cases ht; exact State.putPhys_memOk _ _ _ _ _ _ h1
    · have h2 := translateBy_memOk s1 u c (va + (65536 - va % 65536)) 1 k h1
      split at ht
      · rename_i s2 pa2 e2
        rw [e2] at h2
        split at ht
        · contradiction
        · cases ht; exact State.putPhys_memOk _ _ _ _ _ _ (State.putPhys_memOk _ _ _ _ _ _ h2)
      · contradiction
  · contradiction

/-- Everything an event changes: nothing, the function's window, or that and the record K writes in host memory. -/
theorem State.event_cases (s : State) (vf m o c k t a d : Nat) :
    s.event vf m o c k t a d = s ∨ (∃ ws, s.event vf m o c k t a d = { s with windows := ws }) ∨
    ∃ hpa bs ws, s.event vf m o c k t a d = { s.hostWrite hpa bs with windows := ws } := by
  unfold State.event
  split
  · exact .inl rfl
  · extract_lets n w0 s1
    split
    · exact .inr (.inl ⟨_, rfl⟩)
    · exact .inr (.inr ⟨_, _, _, rfl⟩)

theorem State.event_memOk (s : State) (vf m o c k t a d : Nat) (h : s.memOk = true) : (s.event vf m o c k t a d).memOk = true := by
  obtain e | ⟨ws, e⟩ | ⟨hpa, bs, ws, e⟩ := s.event_cases vf m o c k t a d <;> rw [e]
  · exact h
  · exact h
  · exact s.hostWrite_memOk hpa bs h

theorem State.breach_memOk (s : State) (cx : CtxId) (m a d : Nat) (h : s.memOk = true) : (s.breach cx m a d).memOk = true :=
  s.event_memOk 0 m cx.vf cx.num 0x1A 1 a d h

theorem State.storeBy_memOk (s : State) (u : XUnit) (e : Ember) (h : s.memOk = true) : (s.storeBy u e).memOk = true := by
  unfold State.storeBy
  split
  · exact h
  · rename_i c _
    split
    · exact h
    · rename_i va _
      generalize (if e.pool = .hbm then Kind.record else Kind.write) = k
      cases e1 : writeVaAs k s u c va ((emberWords s e).flatMap (leBytes 8)) with
      | none => exact h
      | some t => exact writeVaAs_memOk k _ c va _ h e1

@[simp] theorem State.emberBanks_memOk (s : State) (e : Ember) : (s.emberBanks e).memOk = s.memOk := by
  unfold State.emberBanks; split <;> rfl

/-- An ember changed where it lies keeps it. -/
theorem State.reEmber_memOk (s : State) (n : Nat) (f : Ember → Ember) (h : s.memOk = true) : (s.reEmber n f).memOk = true := by
  unfold State.reEmber
  dsimp only
  split
  · exact State.storeBy_memOk _ _ _ (by rw [State.emberBanks_memOk]; exact h)
  · exact h

theorem State.depositBy_memOk (s : State) (u : XUnit) (e : Ember) (h : s.memOk = true) : (s.depositBy u e).memOk = true := by
  unfold State.depositBy State.nextSeq
  exact State.storeBy_memOk _ _ _ (by rw [State.emberBanks_memOk]; exact h)

theorem State.deposit_memOk (s : State) (e : Ember) (h : s.memOk = true) : (s.deposit e).memOk = true :=
  s.depositBy_memOk _ e h

theorem State.fullEmber_memOk (s : State) (st : Strand) (q : QuadId) (el b : Nat) (rs : List Word) (r : Nat) (w : Wait)
    (h : s.memOk = true) : (s.fullEmber st q el b rs r w).2.2.memOk = true := by
  unfold State.fullEmber
  dsimp only
  split
  · exact State.deposit_memOk _ _ h
  · exact State.deposit_memOk _ _ h

theorem xlatePieces_memOk (u : XUnit) (c : Context) : ∀ (ps : List (Nat × List Byte)) (s : State), s.memOk = true →
    (xlatePieces u c ps s).1.memOk = true
  | [], _, h => h
  | (va, bs) :: r, s, h => by
    have h1 := translateBy_memOk s u c va 1 .write h
    unfold xlatePieces
    split
    · rename_i s1 pa e1
      rw [e1] at h1
      have h2 := xlatePieces_memOk u c r s1 h1
      split
      · rename_i e2; rw [e2] at h2; exact h2
      · rename_i e2; rw [e2] at h2; exact h2
    · rename_i e1; rw [e1] at h1; exact h1

theorem State.traceWrite_memOk (s : State) (c : Context) (q : QuadId) (va : Nat) (bs : List Byte) (h : s.memOk = true) :
    (s.traceWrite c q va bs).1.memOk = true := by
  have h1 := xlatePieces_memOk (.quad q) c (pageCut va bs) s h
  unfold State.traceWrite
  split
  · rename_i e1; rw [e1] at h1
    exact foldl_memOk _ (fun s p hs => by simpa using hs) _ _ h1
  · rename_i e1; rw [e1] at h1; exact h1

theorem State.traceCounts_memOk (s : State) (c : Context) (base : Nat) (q : QuadId) (h : s.memOk = true) :
    (s.traceCounts c base q).memOk = true := by
  unfold State.traceCounts
  split
  · exact s.traceWrite_memOk _ _ _ _ h
  · exact h

/-- A trace record keeps the canonical form. -/
theorem State.traceRec_memOk (s : State) (cx : CtxId) (q : QuadId) (el k u i sl t b : Nat) (p : Word) (h : s.memOk = true) :
    (s.traceRec cx q el k u i sl t b p).memOk = true := by
  unfold State.traceRec
  split
  · rename_i c x _ _
    split
    · exact h
    · extract_lets base w0 bytes at' drop
      have hd : ∀ t : State, t.memOk = true → (drop t).memOk = true := fun t ht =>
        State.traceCounts_memOk _ _ _ _ (by rw [State.modQuad_memOk]; exact ht)
      split
      · exact hd s h
      · have h1 := s.traceWrite_memOk c q at' bytes h
        split
        · rename_i e1; rw [e1] at h1
          exact State.traceCounts_memOk _ _ _ _ (by rw [State.modQuad_memOk]; exact h1)
        · rename_i e1; rw [e1] at h1; exact hd _ h1
  · exact h

/-- A fault queued, and traced, keeps it. -/
theorem State.queueFault_memOk (s : State) (c : CtxId) (f : FaultRec) (h : s.memOk = true) : (s.queueFault c f).memOk = true := by
  unfold State.queueFault State.traceFault
  rw [State.modCtx_memOk]
  split
  · exact s.traceRec_memOk _ _ _ _ _ _ _ _ _ _ h
  · exact h

/-- Taking a fault keeps the canonical form. -/
theorem State.takeFault_memOk (s : State) (i : Inst) (c : FaultCode) (sl : Option Nat) (d a : Nat) (h : s.memOk = true) :
    (s.takeFault i c sl d a).memOk = true := by
  unfold State.takeFault
  extract_lets cx r s1 s2
  have h1 : s1.memOk = true := by
    unfold s1
    split
    · rw [State.modCtx_memOk]; exact h
    · exact h
  clear_value s1
  split
  · exact State.queueFault_memOk _ _ _ (by rw [State.modInst_memOk]; exact h1)
  · have h2 : s2.memOk = true := by
      unfold s2; rw [State.dropInst_memOk, State.untake_memOk, State.settleEnergy_memOk]; exact h1
    clear_value s2
    have h3 := s2.fullEmber_memOk (i.strandAfter s) i.frame.quad i.frame.elem i.addr i.frame.regs c.num .fault h2
    generalize s2.fullEmber (i.strandAfter s) i.frame.quad i.frame.elem i.addr i.frame.regs c.num .fault = x at h3 ⊢
    obtain ⟨e, placed, t⟩ := x
    exact State.queueFault_memOk _ _ _ h3

theorem State.emberFault_memOk (s : State) (e : Ember) (c : FaultCode) (d b a : Nat) (h : s.memOk = true) :
    (s.emberFault e c d b a).memOk = true :=
  State.queueFault_memOk _ _ _ (State.reEmber_memOk _ _ _ h)

theorem State.overflowed_memOk (s : State) (n : Nat) (h : s.memOk = true) : (s.overflowed n).memOk = true := by
  unfold State.overflowed
  split
  · exact State.emberFault_memOk _ _ _ _ _ _ h
  · exact h

/-- Abandoning an instance keeps it. -/
theorem State.abandon_memOk (s : State) (i : Inst) (r : Nat) (w : Wait) (h : s.memOk = true) : (s.abandon i r w).memOk = true := by
  unfold State.abandon
  extract_lets cx q s0 s1 st
  have h0 : s1.memOk = true := by
    unfold s1
    rw [State.dropInst_memOk, State.untake_memOk, State.settleEnergy_memOk, State.countReplay_memOk]
    exact s.traceRec_memOk cx q i.frame.elem 5 r 0 0 i.frame.strand.tag i.addr 0 h
  clear_value s1
  split
  rename_i b rs _
  have h3 := s1.fullEmber_memOk st q i.frame.elem b rs r w h0
  generalize s1.fullEmber st q i.frame.elem b rs r w = y at h3 ⊢
  obtain ⟨e, placed, t⟩ := y
  dsimp only at h3 ⊢
  split
  · exact h3
  · exact State.overflowed_memOk _ _ h3

theorem State.deliver1_memOk (s : State) (n sl : Nat) (v : Tok) (t : BitVec 9) : (s.deliver1 n sl v t).memOk = s.memOk := by
  unfold State.deliver1
  split
  · rfl
  · split <;> rfl

/-- A result sent to its targets leaves memory alone. -/
@[simp] theorem State.deliver_memOk (n sl : Nat) (v : Tok) : ∀ (ts : List (BitVec 9)) (s : State), (s.deliver n sl v ts).memOk = s.memOk
  | [], _ => rfl
  | t :: r, s => (State.deliver_memOk n sl v r (s.deliver1 n sl v t)).trans (s.deliver1_memOk n sl v t)

theorem reset_memOk : State.reset.memOk = true := rfl

end Sys2Proof.Machine
end

