-- ==== Sys2Proof/Laws/Operands.lean ====
section
/-!
SUPPORT. The operand forms: what each answers when a lane fires on the operands it needs, what it answers at all, and
what a result's delivery changes.
-/

namespace Sys2Proof.Machine

/-! ### Instances -/

theorem modWhere_filter_ne {α : Type} (p q : α → Bool) (f : α → α) (hq : ∀ x, p x = true → q x = false)
    (hf : ∀ x, p x = true → q (f x) = false) : ∀ xs : List α, (modWhere p f xs).filter q = xs.filter q
  | [] => rfl
  | x :: r => by
    have ih := modWhere_filter_ne p q f hq hf r
    unfold modWhere at ih ⊢
    rw [List.map_cons]
    by_cases hp : p x = true
    · rw [if_pos hp, List.filter_cons_of_neg (by rw [hf x hp]; decide), List.filter_cons_of_neg (by rw [hq x hp]; decide), ih]
    · rw [if_neg hp]; simp only [List.filter_cons]; rw [ih]

/-- An update that keeps the identity, seen by its reader. -/
theorem State.inst?_modInst {s : State} {n : Nat} {i : Inst} (f : Inst → Inst) (h : s.inst? n = some i) (hf : ∀ x : Inst, (f x).id = x.id) :
    (s.modInst n f).inst? n = some (f i) := by
  unfold State.inst? State.modInst at *
  exact go h
where
  go : ∀ {xs : List Inst}, xs.find? (fun x => decide (x.id = n)) = some i →
      (modWhere (fun x => decide (x.id = n)) f xs).find? (fun x => decide (x.id = n)) = some (f i)
    | [], h => nomatch h
    | x :: r, h => by
      unfold modWhere
      simp only [List.map_cons, List.find?_cons] at h ⊢
      by_cases hx : x.id = n
      · simp only [hx, decide_true, Option.some.injEq, if_true] at h ⊢
        rw [hf, hx, h]; simp
      · simp only [hx, decide_false] at h ⊢
        simpa [modWhere, hx] using go h

theorem State.modInst_modInst (s : State) (n : Nat) (f g : Inst → Inst) (hf : ∀ x : Inst, (f x).id = x.id) :
    (s.modInst n f).modInst n g = s.modInst n fun i => g (f i) := by
  unfold State.modInst modWhere
  simp only [List.map_map]
  congr 1
  refine List.map_congr_left fun x _ => ?_
  simp only [Function.comp]
  by_cases hx : x.id = n <;> simp [hx, hf]

theorem State.modInst_id (s : State) (n : Nat) (f : Inst → Inst) (hf : ∀ x, f x = x) : s.modInst n f = s := by
  unfold State.modInst modWhere
  have : (fun x : Inst => if (decide (x.id = n)) = true then f x else x) = id := by funext x; simp [hf]
  rw [this, List.map_id]

theorem State.sameInsts_modInst (s : State) (n : Nat) (f : Inst → Inst) (hf : ∀ x : Inst, (f x).id = x.id) :
    s.sameInsts (s.modInst n f) n :=
  modWhere_filter_ne _ _ _ (fun x h => by simpa using h) (fun x h => by rw [hf]; simpa using h) _

/-- No flags leave the state as it is. -/
theorem State.orFlags_zero (s : State) (n : Nat) : s.orFlags n 0 = s :=
  s.modInst_id n _ fun x => by rw [Nat.or_zero]

theorem State.orFlags_memOk (s : State) (n fl : Nat) : (s.orFlags n fl).memOk = s.memOk := rfl
theorem State.resolveLsid_memOk (s : State) (n k : Nat) : (s.resolveLsid n k).memOk = s.memOk := rfl
theorem State.buffer_memOk (s : State) (n k l : Nat) (e : Effect) : (s.buffer n k l e).memOk = s.memOk := rfl

/-! ### Delivery -/

/-- Everything a result changes at one target: the write buffer, or the tokens in flight and the counter. -/
theorem State.deliver1_cases (s : State) (n slot : Nat) (v : Tok) (t : BitVec 9) :
    s.deliver1 n slot v t = s ∨ (∃ w : List (Nat × Nat × Option Word) → List (Nat × Nat × Option Word), s.deliver1 n slot v t = s.modInst n fun i => { i with wbuf := w i.wbuf }) ∨
    ∃ k : Flying, s.deliver1 n slot v t = { s.modInst n (fun i => { i with flying := i.flying ++ [s.nextId] }) with
      nextId := s.nextId + 1, flying := s.flying ++ [k] } := by
  unfold State.deliver1
  split
  · exact .inl rfl
  · split
    · exact .inr (.inl ⟨_, rfl⟩)
    · exact .inr (.inr ⟨_, rfl⟩)

theorem State.deliver_nil (s : State) (n slot : Nat) (v : Tok) : s.deliver n slot v [] = s := rfl
theorem State.deliver_cons (s : State) (n slot : Nat) (v : Tok) (t : BitVec 9) (ts : List (BitVec 9)) :
    s.deliver n slot v (t :: ts) = (s.deliver1 n slot v t).deliver n slot v ts := rfl

/-- What a delivery keeps: everything outside the instances and the tokens in flight, every other instance, and of the
instance everything but its write buffer and its tokens. -/
structure State.Delivered (s t : State) (n : Nat) : Prop where
  lanes : t.lanes = s.lanes
  outside : s.sameOutside t
  others : s.sameInsts t n
  own : ∀ i, s.inst? n = some i → ∃ j, t.inst? n = some j ∧ j = { i with wbuf := j.wbuf, flying := j.flying }

theorem State.Delivered.refl (s : State) (n : Nat) : s.Delivered s n := ⟨rfl, rfl, rfl, fun i h => ⟨i, h, rfl⟩⟩

theorem State.Delivered.trans {s t u : State} {n : Nat} (h : s.Delivered t n) (k : t.Delivered u n) : s.Delivered u n where
  lanes := k.lanes.trans h.lanes
  outside := by
    have h1 := h.outside; have h2 := k.outside
    unfold State.sameOutside at *; rw [h2, h1]
  others := k.others.trans h.others
  own i hi := by
    obtain ⟨j, hj, ej⟩ := h.own i hi
    obtain ⟨m, hm, em⟩ := k.own j hj
    exact ⟨m, hm, by rw [em, ej]⟩

theorem State.deliver1_delivered (s : State) (n slot : Nat) (v : Tok) (t : BitVec 9) : s.Delivered (s.deliver1 n slot v t) n := by
  obtain h | ⟨w, h⟩ | ⟨k, h⟩ := s.deliver1_cases n slot v t <;> rw [h]
  · exact .refl s n
  · exact ⟨rfl, rfl, s.sameInsts_modInst n _ fun _ => rfl, fun i hi => ⟨_, State.inst?_modInst _ hi fun _ => rfl, rfl⟩⟩
  · exact ⟨rfl, rfl, s.sameInsts_modInst n _ fun _ => rfl,
      fun i hi => ⟨_, State.inst?_modInst (s := s) _ hi fun _ => rfl, rfl⟩⟩

theorem State.deliver_delivered (n slot : Nat) (v : Tok) : ∀ (ts : List (BitVec 9)) (s : State), s.Delivered (s.deliver n slot v ts) n
  | [], s => .refl s n
  | t :: ts, s => (s.deliver1_delivered n slot v t).trans (State.deliver_delivered n slot v ts _)

/-! ### A lane fires -/

/-- Everything `firing` can do when it answers a next state: the operands are absorbed, or the form goes on. -/
theorem firing_next {s t : State} {pr : BitVec 2} {k : Lane → Inst → State → Out} (h : firing s pr k = .next t) :
    ∃ l i, s.lanes.head? = some l ∧ s.inst? l.inst = some i ∧
      ((predicate pr l.ops.third = some false ∧ t = s.issued.modInst l.inst fun i =>
          i.setStatus l.slot (.absorbed l.ops.left.isSome l.ops.right.isSome true)) ∨
        (Fires s pr l i ∧ k l i s.issued = .next t)) := by
  unfold firing at h
  split at h
  · cases h
  · rename_i l rest hl
    split at h
    · cases h
    · rename_i i hi
      have hs : { s with lanes := rest } = s.issued := by unfold State.issued; rw [hl]; rfl
      refine ⟨l, i, by rw [hl]; rfl, hi, ?_⟩
      split at h
      · cases h
      · rename_i hp; injection h with h; exact .inl ⟨hp, by rw [← h, hs]⟩
      · rename_i hp; exact .inr ⟨⟨by rw [hl]; rfl, hi, hp⟩, by rw [← hs]; exact h⟩

theorem firing_fires {s : State} {pr : BitVec 2} {l : Lane} {i : Inst} (h : Fires s pr l i) (k : Lane → Inst → State → Out) :
    firing s pr k = k l i s.issued := by
  obtain ⟨hl, hi, hp⟩ := h
  unfold firing State.issued
  cases hs : s.lanes with
  | nil => rw [hs] at hl; cases hl
  | cons x r => rw [hs] at hl; cases hl; simp only [hi, hp]; rfl

theorem firing_absorbs {s : State} {pr : BitVec 2} {l : Lane} {i : Inst} (hl : s.lanes.head? = some l) (hi : s.inst? l.inst = some i)
    (hp : predicate pr l.ops.third = some false) (k : Lane → Inst → State → Out) :
    firing s pr k = .next (s.issued.modInst l.inst fun i =>
      i.setStatus l.slot (.absorbed l.ops.left.isSome l.ops.right.isSome true)) := by
  unfold firing State.issued
  cases hs : s.lanes with
  | nil => rw [hs] at hl; cases hl
  | cons x r => rw [hs] at hl; cases hl; simp only [hi, hp]; rfl

/-! ### Value instructions -/

section
variable {s : State} {pr : BitVec 2} {l : Lane} {i : Inst} {ts : List (BitVec 9)}

theorem value0_fires (h : Fires s pr l i) (f : Lane → Inst → Tok) : value0 s pr ts f = sends s l ts (f l i) :=
  firing_fires h _

theorem value1_fires {a : Word} (h : Fires s pr l i) (ha : One l a) (f : Lane → Inst → Word → Word × Nat) :
    value1 s pr ts f = sendsFlags s l ts (f l i a) := by
  unfold value1; rw [firing_fires h]; unfold Operands.one?; rw [ha]; rfl

theorem value2_fires {a b : Word} (h : Fires s pr l i) (hab : Two l a b) (f : Lane → Inst → Word → Word → Word × Nat) :
    value2 s pr ts f = sendsFlags s l ts (f l i a b) := by
  unfold value2; rw [firing_fires h]; unfold Operands.two?; rw [hab.1, hab.2]; rfl

theorem value3_fires {a b x : Word} (h : Fires s 0 l i) (hx : Three l a b x) (f : Lane → Inst → Word → Word → Word → Word × Nat) :
    value3 s ts f = sendsFlags s l ts (f l i a b x) := by
  unfold value3; rw [firing_fires h]; unfold Operands.three?; rw [hx.1, hx.2.1, hx.2.2]; rfl

/-- A result without flags is sent and nothing else. -/
theorem sendsFlags_zero (s : State) (l : Lane) (ts : List (BitVec 9)) (v : Word) : sendsFlags s l ts (v, 0) = sends s l ts (.val v) := by
  unfold sendsFlags sends; rw [State.orFlags_zero]

theorem value1_null (h : Fires s pr l i) (hn : l.ops.left = some .null) (f : Lane → Inst → Word → Word × Nat) :
    value1 s pr ts f = sends s l ts .null := by
  unfold value1; rw [firing_fires h]; unfold Operands.one?; rw [hn]; rfl

/-- Two tokens of which one is null (R81). -/
theorem Operands.two?_null {o : Operands} (h : (o.left = some .null ∧ o.right.isSome) ∨ (o.left.isSome ∧ o.right = some .null)) :
    o.two? = some none := by
  obtain ⟨a, b, c⟩ := o
  unfold Operands.two?
  rcases h with ⟨h1, h2⟩ | ⟨h1, h2⟩ <;> simp only at h1 h2
  · subst h1; cases b with
    | none => cases h2
    | some b => cases b <;> rfl
  · subst h2; cases a with
    | none => cases h1
    | some a => cases a <;> rfl

theorem value2_null (h : Fires s pr l i) (hn : l.ops.two? = some none) (f : Lane → Inst → Word → Word → Word × Nat) :
    value2 s pr ts f = sends s l ts .null := by
  unfold value2; rw [firing_fires h]; simp only [hn]; rfl

/-! ### Effects and exits -/

variable {lsid : Nat}

theorem effect1_fires {a : Word} (h : Fires s pr l i) (ha : One l a) (k : Lane → Inst → Word → State → Out) :
    effect1 s pr lsid k = k l i a s.issued := by
  unfold effect1; rw [firing_fires h]; unfold Operands.one?; rw [ha]

theorem effect2_fires {a b : Word} (h : Fires s pr l i) (hab : Two l a b) (k : Lane → Inst → Word → Word → State → Out) :
    effect2 s pr lsid k = k l i a b s.issued := by
  unfold effect2; rw [firing_fires h]; unfold Operands.two?; rw [hab.1, hab.2]

theorem effect1_null (h : Fires s pr l i) (hn : l.ops.left = some .null) (k : Lane → Inst → Word → State → Out) :
    effect1 s pr lsid k = .next (s.issued.resolveLsid l.inst lsid) := by
  unfold effect1; rw [firing_fires h]; unfold Operands.one?; rw [hn]

theorem effect2_null (h : Fires s pr l i) (hn : l.ops.two? = some none) (k : Lane → Inst → Word → Word → State → Out) :
    effect2 s pr lsid k = .next (s.issued.resolveLsid l.inst lsid) := by
  unfold effect2; rw [firing_fires h]; simp only [hn]

/-- An instance without a fired exit goes on with the exit (R35); with one, the second raises MULTI_EXIT (R36). -/
theorem onceExit_first (h : i.exits = []) (k : State → Out) : onceExit s l i k = k s := by
  unfold onceExit; rw [h]; rfl

theorem onceExit_second (h : i.exits ≠ []) (k : State → Out) :
    onceExit s l i k = .next (s.takeFault i .multiExit (some l.slot) 0 0) := by
  unfold onceExit; rw [if_neg (by simpa using h)]

theorem exit0_fires (h : Fires s pr l i) (k : Lane → Inst → State → Out) : exit0 s pr k = onceExit s.issued l i (k l i) := by
  unfold exit0; rw [firing_fires h]

theorem exit1_fires {a : Word} (h : Fires s pr l i) (ha : One l a) (k : Lane → Inst → Word → State → Out) :
    exit1 s pr k = onceExit s.issued l i (k l i a) := by
  unfold exit1; rw [firing_fires h]; unfold Operands.one?; rw [ha]

theorem exit2_fires {a b : Word} (h : Fires s pr l i) (hab : Two l a b) (k : Lane → Inst → Word → Word → State → Out) :
    exit2 s pr k = onceExit s.issued l i (k l i a b) := by
  unfold exit2; rw [firing_fires h]; unfold Operands.two?; rw [hab.1, hab.2]

theorem exit3_fires {a b x : Word} (h : Fires s 0 l i) (hx : Three l a b x) (k : Lane → Inst → Word → Word → Word → State → Out) :
    exit3 s k = onceExit s.issued l i (k l i a b x) := by
  unfold exit3; rw [firing_fires h]; unfold Operands.three?; rw [hx.1, hx.2.1, hx.2.2]

theorem exit1_null (h : Fires s pr l i) (hn : l.ops.left = some .null) (k : Lane → Inst → Word → State → Out) :
    exit1 s pr k = .next s.issued := by
  unfold exit1; rw [firing_fires h]; unfold Operands.one?; rw [hn]

theorem exit2_null (h : Fires s pr l i) (hn : l.ops.two? = some none) (k : Lane → Inst → Word → Word → State → Out) :
    exit2 s pr k = .next s.issued := by
  unfold exit2; rw [firing_fires h]; simp only [hn]

theorem fireExit_exits (id : Nat) (op : ExitOp) : fireExit s.issued l id op = exits s l id op := rfl

/-! ### The memories -/

theorem State.issued_memOk (s : State) : s.issued.memOk = s.memOk := rfl

/-- A form keeps the memories canonical when what it goes on with does. -/
theorem firing_memOk {t : State} {k : Lane → Inst → State → Out} (h : firing s pr k = .next t) (hs : s.memOk = true)
    (hk : ∀ l i u, k l i s.issued = .next u → u.memOk = true) : t.memOk = true := by
  obtain ⟨l, i, -, -, ⟨-, rfl⟩ | ⟨-, h⟩⟩ := firing_next h
  · exact hs
  · exact hk l i t h

theorem sends_memOk {t : State} {v : Tok} (h : sends s l ts v = .next t) (hs : s.memOk = true) : t.memOk = true := by
  unfold sends at h; injection h with h; rw [← h, State.deliver_memOk]; exact hs
end

end Sys2Proof.Machine
end

