-- ==== Sys2Proof/Laws/Order.lean ====
section
/-!
SUPPORT. What the gates around a step do: a unit's requests pass no earlier packet, and room made in a queue is taken; and the
fields of a state after the latter, and after a change of every strand.
-/

namespace Sys2Proof.Machine

/-- A step that goes on behind the packets before it is the step itself. -/
theorem State.inOrder_next {s t : State} {name : String} {o : Out} :
    s.inOrder name o = .next t ↔ o = .next t ∧ s.overtakes t = false := by
  unfold State.inOrder
  cases o with
  | next u =>
    by_cases h : s.overtakes u = true
    · simp only [h, if_true, notEnabled, reduceCtorEq, false_iff, not_and]
      rintro ⟨⟩; simp [h]
    · simp only [h, Bool.false_eq_true, if_false, Host.Outcome.next.injEq]
      exact ⟨fun e => ⟨e, by simpa [← e] using h⟩, (·.1)⟩
  | fault f => simp
  | refused r => simp

/-- With no packet between two dies but lines, no step passes one. -/
theorem State.overtakes_of_clear {s : State} (h : s.pathsClear) (t : State) : s.overtakes t = false := by
  unfold State.overtakes
  simp only [List.any_eq_false, Bool.and_eq_true, not_and]
  intro m _ _ hx
  obtain ⟨x, hm, hp⟩ := List.any_eq_true.mp hx
  simp only [Bool.and_eq_true] at hp
  rcases h x hm hp.1.1.2 with hl | ⟨w, hw⟩
  · simp [hl] at hp
  · simp [hw] at hp

theorem State.inOrder_of_clear {s : State} (h : s.pathsClear) (name : String) (o : Out) : s.inOrder name o = o := by
  cases o <;> simp [State.inOrder, s.overtakes_of_clear h]

/-- A step that makes room answers as the step does, but for the requests that have entered their queues. -/
theorem State.makesRoom_next {s t : State} {o : Out} : s.makesRoom o = .next t ↔ ∃ u, o = .next u ∧ t = s.entering u := by
  cases o <;> simp [State.makesRoom, eq_comm]

/-- Entering a queue changes no message but its clock of entry. -/
theorem State.entering_msgs (s u : State) :
    (s.entering u).msgs.map (fun m => { m with entered := none }) = u.msgs.map fun m => { m with entered := none } := by
  simp only [State.entering, List.map_map]
  refine List.map_congr_left fun m _ => ?_
  dsimp only [Function.comp]
  split <;> rfl

@[simp] theorem State.entering_clk (s u : State) : (s.entering u).clk = u.clk := rfl
@[simp] theorem State.entering_fclk (s u : State) : (s.entering u).fclk = u.fclk := rfl
@[simp] theorem State.entering_powerOff (s u : State) : (s.entering u).powerOff = u.powerOff := rfl
@[simp] theorem State.entering_ready (s u : State) : (s.entering u).ready = u.ready := rfl
@[simp] theorem State.entering_halfRate (s u : State) : (s.entering u).halfRate = u.halfRate := rfl
@[simp] theorem State.entering_hdmBase (s u : State) : (s.entering u).hdmBase = u.hdmBase := rfl
@[simp] theorem State.entering_pkgNo (s u : State) : (s.entering u).pkgNo = u.pkgNo := rfl
@[simp] theorem State.entering_podSize (s u : State) : (s.entering u).podSize = u.podSize := rfl
@[simp] theorem State.entering_podAddrs (s u : State) : (s.entering u).podAddrs = u.podAddrs := rfl
@[simp] theorem State.entering_sustained (s u : State) : (s.entering u).sustained = u.sustained := rfl
@[simp] theorem State.entering_peak (s u : State) : (s.entering u).peak = u.peak := rfl
@[simp] theorem State.entering_powerLog (s u : State) : (s.entering u).powerLog = u.powerLog := rfl
@[simp] theorem State.entering_msNo (s u : State) : (s.entering u).msNo = u.msNo := rfl
@[simp] theorem State.entering_msAt (s u : State) : (s.entering u).msAt = u.msAt := rfl
@[simp] theorem State.entering_msFactors (s u : State) : (s.entering u).msFactors = u.msFactors := rfl
@[simp] theorem State.entering_msPower (s u : State) : (s.entering u).msPower = u.msPower := rfl
@[simp] theorem State.entering_msLowered (s u : State) : (s.entering u).msLowered = u.msLowered := rfl
@[simp] theorem State.entering_msHot (s u : State) : (s.entering u).msHot = u.msHot := rfl
@[simp] theorem State.entering_dieCharged (s u : State) : (s.entering u).dieCharged = u.dieCharged := rfl
@[simp] theorem State.entering_msMapped (s u : State) : (s.entering u).msMapped = u.msMapped := rfl
@[simp] theorem State.entering_enabled (s u : State) : (s.entering u).enabled = u.enabled := rfl
@[simp] theorem State.entering_marked (s u : State) : (s.entering u).marked = u.marked := rfl
@[simp] theorem State.entering_badQuads (s u : State) : (s.entering u).badQuads = u.badQuads := rfl
@[simp] theorem State.entering_badNode (s u : State) : (s.entering u).badNode = u.badNode := rfl
@[simp] theorem State.entering_badHeld (s u : State) : (s.entering u).badHeld = u.badHeld := rfl
@[simp] theorem State.entering_corrected (s u : State) : (s.entering u).corrected = u.corrected := rfl
@[simp] theorem State.entering_configRec (s u : State) : (s.entering u).configRec = u.configRec := rfl
@[simp] theorem State.entering_calibRec (s u : State) : (s.entering u).calibRec = u.calibRec := rfl
@[simp] theorem State.entering_nextCalib (s u : State) : (s.entering u).nextCalib = u.nextCalib := rfl
@[simp] theorem State.entering_factors (s u : State) : (s.entering u).factors = u.factors := rfl
@[simp] theorem State.entering_counting (s u : State) : (s.entering u).counting = u.counting := rfl
@[simp] theorem State.entering_shared (s u : State) : (s.entering u).shared = u.shared := rfl
@[simp] theorem State.entering_mem (s u : State) : (s.entering u).mem = u.mem := rfl
@[simp] theorem State.entering_poison (s u : State) : (s.entering u).poison = u.poison := rfl
@[simp] theorem State.entering_weak (s u : State) : (s.entering u).weak = u.weak := rfl
@[simp] theorem State.entering_badLines (s u : State) : (s.entering u).badLines = u.badLines := rfl
@[simp] theorem State.entering_broken (s u : State) : (s.entering u).broken = u.broken := rfl
@[simp] theorem State.entering_cached (s u : State) : (s.entering u).cached = u.cached := rfl
@[simp] theorem State.entering_hostMem (s u : State) : (s.entering u).hostMem = u.hostMem := rfl
@[simp] theorem State.entering_hostPoison (s u : State) : (s.entering u).hostPoison = u.hostPoison := rfl
@[simp] theorem State.entering_owners (s u : State) : (s.entering u).owners = u.owners := rfl
@[simp] theorem State.entering_hostMapped (s u : State) : (s.entering u).hostMapped = u.hostMapped := rfl
@[simp] theorem State.entering_cxlReply (s u : State) : (s.entering u).cxlReply = u.cxlReply := rfl
@[simp] theorem State.entering_seals (s u : State) : (s.entering u).seals = u.seals := rfl
@[simp] theorem State.entering_tableNext (s u : State) : (s.entering u).tableNext = u.tableNext := rfl
@[simp] theorem State.entering_quads (s u : State) : (s.entering u).quads = u.quads := rfl
@[simp] theorem State.entering_tlbs (s u : State) : (s.entering u).tlbs = u.tlbs := rfl
@[simp] theorem State.entering_links (s u : State) : (s.entering u).links = u.links := rfl
@[simp] theorem State.entering_insts (s u : State) : (s.entering u).insts = u.insts := rfl
@[simp] theorem State.entering_commits (s u : State) : (s.entering u).commits = u.commits := rfl
@[simp] theorem State.entering_frames (s u : State) : (s.entering u).frames = u.frames := rfl
@[simp] theorem State.entering_embers (s u : State) : (s.entering u).embers = u.embers := rfl
@[simp] theorem State.entering_retiring (s u : State) : (s.entering u).retiring = u.retiring := rfl
@[simp] theorem State.entering_flying (s u : State) : (s.entering u).flying = u.flying := rfl
@[simp] theorem State.entering_posted (s u : State) : (s.entering u).posted = u.posted := rfl
@[simp] theorem State.entering_fifo (s u : State) : (s.entering u).fifo = u.fifo := rfl
@[simp] theorem State.entering_specs (s u : State) : (s.entering u).specs = u.specs := rfl
@[simp] theorem State.entering_cmds (s u : State) : (s.entering u).cmds = u.cmds := rfl
@[simp] theorem State.entering_barriers (s u : State) : (s.entering u).barriers = u.barriers := rfl
@[simp] theorem State.entering_contexts (s u : State) : (s.entering u).contexts = u.contexts := rfl
@[simp] theorem State.entering_decoders (s u : State) : (s.entering u).decoders = u.decoders := rfl
@[simp] theorem State.entering_windows (s u : State) : (s.entering u).windows = u.windows := rfl
@[simp] theorem State.entering_functions (s u : State) : (s.entering u).functions = u.functions := rfl
@[simp] theorem State.entering_kcmds (s u : State) : (s.entering u).kcmds = u.kcmds := rfl
@[simp] theorem State.entering_grants (s u : State) : (s.entering u).grants = u.grants := rfl
@[simp] theorem State.entering_lanterns (s u : State) : (s.entering u).lanterns = u.lanterns := rfl
@[simp] theorem State.entering_saved (s u : State) : (s.entering u).saved = u.saved := rfl
@[simp] theorem State.entering_flows (s u : State) : (s.entering u).flows = u.flows := rfl
@[simp] theorem State.entering_ports (s u : State) : (s.entering u).ports = u.ports := rfl
@[simp] theorem State.entering_lostPkgs (s u : State) : (s.entering u).lostPkgs = u.lostPkgs := rfl
@[simp] theorem State.entering_sentFrame (s u : State) : (s.entering u).sentFrame = u.sentFrame := rfl
@[simp] theorem State.entering_lanes (s u : State) : (s.entering u).lanes = u.lanes := rfl
@[simp] theorem State.entering_agenda (s u : State) : (s.entering u).agenda = u.agenda := rfl
@[simp] theorem State.entering_nextId (s u : State) : (s.entering u).nextId = u.nextId := rfl
@[simp] theorem State.entering_fresh (s u : State) : (s.entering u).fresh = u.fresh := rfl

@[simp] theorem State.mapStrands_clk (s : State) (g : Strand → Strand) : (s.mapStrands g).clk = s.clk := rfl
@[simp] theorem State.mapStrands_fclk (s : State) (g : Strand → Strand) : (s.mapStrands g).fclk = s.fclk := rfl
@[simp] theorem State.mapStrands_powerOff (s : State) (g : Strand → Strand) : (s.mapStrands g).powerOff = s.powerOff := rfl
@[simp] theorem State.mapStrands_ready (s : State) (g : Strand → Strand) : (s.mapStrands g).ready = s.ready := rfl
@[simp] theorem State.mapStrands_halfRate (s : State) (g : Strand → Strand) : (s.mapStrands g).halfRate = s.halfRate := rfl
@[simp] theorem State.mapStrands_hdmBase (s : State) (g : Strand → Strand) : (s.mapStrands g).hdmBase = s.hdmBase := rfl
@[simp] theorem State.mapStrands_pkgNo (s : State) (g : Strand → Strand) : (s.mapStrands g).pkgNo = s.pkgNo := rfl
@[simp] theorem State.mapStrands_podSize (s : State) (g : Strand → Strand) : (s.mapStrands g).podSize = s.podSize := rfl
@[simp] theorem State.mapStrands_podAddrs (s : State) (g : Strand → Strand) : (s.mapStrands g).podAddrs = s.podAddrs := rfl
@[simp] theorem State.mapStrands_sustained (s : State) (g : Strand → Strand) : (s.mapStrands g).sustained = s.sustained := rfl
@[simp] theorem State.mapStrands_peak (s : State) (g : Strand → Strand) : (s.mapStrands g).peak = s.peak := rfl
@[simp] theorem State.mapStrands_powerLog (s : State) (g : Strand → Strand) : (s.mapStrands g).powerLog = s.powerLog := rfl
@[simp] theorem State.mapStrands_msNo (s : State) (g : Strand → Strand) : (s.mapStrands g).msNo = s.msNo := rfl
@[simp] theorem State.mapStrands_msAt (s : State) (g : Strand → Strand) : (s.mapStrands g).msAt = s.msAt := rfl
@[simp] theorem State.mapStrands_msFactors (s : State) (g : Strand → Strand) : (s.mapStrands g).msFactors = s.msFactors := rfl
@[simp] theorem State.mapStrands_msPower (s : State) (g : Strand → Strand) : (s.mapStrands g).msPower = s.msPower := rfl
@[simp] theorem State.mapStrands_msLowered (s : State) (g : Strand → Strand) : (s.mapStrands g).msLowered = s.msLowered := rfl
@[simp] theorem State.mapStrands_msHot (s : State) (g : Strand → Strand) : (s.mapStrands g).msHot = s.msHot := rfl
@[simp] theorem State.mapStrands_dieCharged (s : State) (g : Strand → Strand) : (s.mapStrands g).dieCharged = s.dieCharged := rfl
@[simp] theorem State.mapStrands_msMapped (s : State) (g : Strand → Strand) : (s.mapStrands g).msMapped = s.msMapped := rfl
@[simp] theorem State.mapStrands_enabled (s : State) (g : Strand → Strand) : (s.mapStrands g).enabled = s.enabled := rfl
@[simp] theorem State.mapStrands_marked (s : State) (g : Strand → Strand) : (s.mapStrands g).marked = s.marked := rfl
@[simp] theorem State.mapStrands_badQuads (s : State) (g : Strand → Strand) : (s.mapStrands g).badQuads = s.badQuads := rfl
@[simp] theorem State.mapStrands_badNode (s : State) (g : Strand → Strand) : (s.mapStrands g).badNode = s.badNode := rfl
@[simp] theorem State.mapStrands_badHeld (s : State) (g : Strand → Strand) : (s.mapStrands g).badHeld = s.badHeld := rfl
@[simp] theorem State.mapStrands_corrected (s : State) (g : Strand → Strand) : (s.mapStrands g).corrected = s.corrected := rfl
@[simp] theorem State.mapStrands_configRec (s : State) (g : Strand → Strand) : (s.mapStrands g).configRec = s.configRec := rfl
@[simp] theorem State.mapStrands_calibRec (s : State) (g : Strand → Strand) : (s.mapStrands g).calibRec = s.calibRec := rfl
@[simp] theorem State.mapStrands_nextCalib (s : State) (g : Strand → Strand) : (s.mapStrands g).nextCalib = s.nextCalib := rfl
@[simp] theorem State.mapStrands_factors (s : State) (g : Strand → Strand) : (s.mapStrands g).factors = s.factors := rfl
@[simp] theorem State.mapStrands_counting (s : State) (g : Strand → Strand) : (s.mapStrands g).counting = s.counting := rfl
@[simp] theorem State.mapStrands_shared (s : State) (g : Strand → Strand) : (s.mapStrands g).shared = s.shared := rfl
@[simp] theorem State.mapStrands_mem (s : State) (g : Strand → Strand) : (s.mapStrands g).mem = s.mem := rfl
@[simp] theorem State.mapStrands_poison (s : State) (g : Strand → Strand) : (s.mapStrands g).poison = s.poison := rfl
@[simp] theorem State.mapStrands_weak (s : State) (g : Strand → Strand) : (s.mapStrands g).weak = s.weak := rfl
@[simp] theorem State.mapStrands_badLines (s : State) (g : Strand → Strand) : (s.mapStrands g).badLines = s.badLines := rfl
@[simp] theorem State.mapStrands_broken (s : State) (g : Strand → Strand) : (s.mapStrands g).broken = s.broken := rfl
@[simp] theorem State.mapStrands_cached (s : State) (g : Strand → Strand) : (s.mapStrands g).cached = s.cached := rfl
@[simp] theorem State.mapStrands_hostMem (s : State) (g : Strand → Strand) : (s.mapStrands g).hostMem = s.hostMem := rfl
@[simp] theorem State.mapStrands_hostPoison (s : State) (g : Strand → Strand) : (s.mapStrands g).hostPoison = s.hostPoison := rfl
@[simp] theorem State.mapStrands_owners (s : State) (g : Strand → Strand) : (s.mapStrands g).owners = s.owners := rfl
@[simp] theorem State.mapStrands_hostMapped (s : State) (g : Strand → Strand) : (s.mapStrands g).hostMapped = s.hostMapped := rfl
@[simp] theorem State.mapStrands_cxlReply (s : State) (g : Strand → Strand) : (s.mapStrands g).cxlReply = s.cxlReply := rfl
@[simp] theorem State.mapStrands_seals (s : State) (g : Strand → Strand) : (s.mapStrands g).seals = s.seals := rfl
@[simp] theorem State.mapStrands_tableNext (s : State) (g : Strand → Strand) : (s.mapStrands g).tableNext = s.tableNext := rfl
@[simp] theorem State.mapStrands_quads (s : State) (g : Strand → Strand) : (s.mapStrands g).quads = s.quads := rfl
@[simp] theorem State.mapStrands_tlbs (s : State) (g : Strand → Strand) : (s.mapStrands g).tlbs = s.tlbs := rfl
@[simp] theorem State.mapStrands_links (s : State) (g : Strand → Strand) : (s.mapStrands g).links = s.links := rfl
@[simp] theorem State.mapStrands_commits (s : State) (g : Strand → Strand) : (s.mapStrands g).commits = s.commits := rfl
@[simp] theorem State.mapStrands_retiring (s : State) (g : Strand → Strand) : (s.mapStrands g).retiring = s.retiring := rfl
@[simp] theorem State.mapStrands_flying (s : State) (g : Strand → Strand) : (s.mapStrands g).flying = s.flying := rfl
@[simp] theorem State.mapStrands_posted (s : State) (g : Strand → Strand) : (s.mapStrands g).posted = s.posted := rfl
@[simp] theorem State.mapStrands_fifo (s : State) (g : Strand → Strand) : (s.mapStrands g).fifo = s.fifo := rfl
@[simp] theorem State.mapStrands_specs (s : State) (g : Strand → Strand) : (s.mapStrands g).specs = s.specs := rfl
@[simp] theorem State.mapStrands_cmds (s : State) (g : Strand → Strand) : (s.mapStrands g).cmds = s.cmds := rfl
@[simp] theorem State.mapStrands_barriers (s : State) (g : Strand → Strand) : (s.mapStrands g).barriers = s.barriers := rfl
@[simp] theorem State.mapStrands_decoders (s : State) (g : Strand → Strand) : (s.mapStrands g).decoders = s.decoders := rfl
@[simp] theorem State.mapStrands_windows (s : State) (g : Strand → Strand) : (s.mapStrands g).windows = s.windows := rfl
@[simp] theorem State.mapStrands_functions (s : State) (g : Strand → Strand) : (s.mapStrands g).functions = s.functions := rfl
@[simp] theorem State.mapStrands_kcmds (s : State) (g : Strand → Strand) : (s.mapStrands g).kcmds = s.kcmds := rfl
@[simp] theorem State.mapStrands_grants (s : State) (g : Strand → Strand) : (s.mapStrands g).grants = s.grants := rfl
@[simp] theorem State.mapStrands_lanterns (s : State) (g : Strand → Strand) : (s.mapStrands g).lanterns = s.lanterns := rfl
@[simp] theorem State.mapStrands_saved (s : State) (g : Strand → Strand) : (s.mapStrands g).saved = s.saved := rfl
@[simp] theorem State.mapStrands_flows (s : State) (g : Strand → Strand) : (s.mapStrands g).flows = s.flows := rfl
@[simp] theorem State.mapStrands_ports (s : State) (g : Strand → Strand) : (s.mapStrands g).ports = s.ports := rfl
@[simp] theorem State.mapStrands_lostPkgs (s : State) (g : Strand → Strand) : (s.mapStrands g).lostPkgs = s.lostPkgs := rfl
@[simp] theorem State.mapStrands_sentFrame (s : State) (g : Strand → Strand) : (s.mapStrands g).sentFrame = s.sentFrame := rfl
@[simp] theorem State.mapStrands_lanes (s : State) (g : Strand → Strand) : (s.mapStrands g).lanes = s.lanes := rfl
@[simp] theorem State.mapStrands_agenda (s : State) (g : Strand → Strand) : (s.mapStrands g).agenda = s.agenda := rfl
@[simp] theorem State.mapStrands_nextId (s : State) (g : Strand → Strand) : (s.mapStrands g).nextId = s.nextId := rfl
@[simp] theorem State.mapStrands_fresh (s : State) (g : Strand → Strand) : (s.mapStrands g).fresh = s.fresh := rfl

end Sys2Proof.Machine
end

