-- ==== Sys2Proof/Laws/PerInstr.lean ====
section
/-!
SUPPORT. Two laws of every instruction's syntax, one lemma per constructor (a device step has no words). Coded: the opcode and
fields of a form have that form's format, and are built into it again. Admits: what the decoder checks of a form's fields, in
the order of R95 (checks 3, 4, 6, 7), is what makes the form well formed.
-/

namespace Sys2Proof

/-- The format fields are of. -/
def Fields.fmt : Fields → Fmt
  | .g _ => .g
  | .i _ => .i
  | .r _ => .r
  | .l _ => .l
  | .s _ => .s
  | .b _ => .b
  | .c _ => .c
  | .x _ => .x
  | .e _ => .e
  | .f _ => .f

def Laws.Coded.Statement (i : Instr) : Prop :=
  ∀ (op : Nat) (fl : Fields), i.form = some (op, fl) → opFormat op = some fl.fmt ∧ build op fl = some i

def Laws.Admits.Statement (i : Instr) : Prop :=
  ∀ (op : Nat) (fl : Fields), i.form = some (op, fl) → (i.WellFormed ↔
    fl.pr ≠ 1 ∧ (fl.pr = 0 ∨ neverPredicated op = false) ∧ i.reservedBad = false ∧ i.valueBad = false)

end Sys2Proof

namespace Sys2Proof.Laws.Coded

theorem add (f : FmtG) : Statement (.add f) := fun _ _ h => by cases h; exact ⟨rfl, rfl⟩
theorem sub (f : FmtG) : Statement (.sub f) := fun _ _ h => by cases h; exact ⟨rfl, rfl⟩
theorem mul (f : FmtG) : Statement (.mul f) := fun _ _ h => by cases h; exact ⟨rfl, rfl⟩
theorem mulhs (f : FmtG) : Statement (.mulhs f) := fun _ _ h => by cases h; exact ⟨rfl, rfl⟩
theorem mulhu (f : FmtG) : Statement (.mulhu f) := fun _ _ h => by cases h; exact ⟨rfl, rfl⟩
theorem divs (f : FmtG) : Statement (.divs f) := fun _ _ h => by cases h; exact ⟨rfl, rfl⟩
theorem divu (f : FmtG) : Statement (.divu f) := fun _ _ h => by cases h; exact ⟨rfl, rfl⟩
theorem rems (f : FmtG) : Statement (.rems f) := fun _ _ h => by cases h; exact ⟨rfl, rfl⟩
theorem remu (f : FmtG) : Statement (.remu f) := fun _ _ h => by cases h; exact ⟨rfl, rfl⟩
theorem andOp (f : FmtG) : Statement (.andOp f) := fun _ _ h => by cases h; exact ⟨rfl, rfl⟩
theorem orOp (f : FmtG) : Statement (.orOp f) := fun _ _ h => by cases h; exact ⟨rfl, rfl⟩
theorem xorOp (f : FmtG) : Statement (.xorOp f) := fun _ _ h => by cases h; exact ⟨rfl, rfl⟩
theorem andn (f : FmtG) : Statement (.andn f) := fun _ _ h => by cases h; exact ⟨rfl, rfl⟩
theorem orn (f : FmtG) : Statement (.orn f) := fun _ _ h => by cases h; exact ⟨rfl, rfl⟩
theorem shl (f : FmtG) : Statement (.shl f) := fun _ _ h => by cases h; exact ⟨rfl, rfl⟩
theorem shr (f : FmtG) : Statement (.shr f) := fun _ _ h => by cases h; exact ⟨rfl, rfl⟩
theorem sar (f : FmtG) : Statement (.sar f) := fun _ _ h => by cases h; exact ⟨rfl, rfl⟩
theorem rol (f : FmtG) : Statement (.rol f) := fun _ _ h => by cases h; exact ⟨rfl, rfl⟩
theorem ror (f : FmtG) : Statement (.ror f) := fun _ _ h => by cases h; exact ⟨rfl, rfl⟩
theorem mins (f : FmtG) : Statement (.mins f) := fun _ _ h => by cases h; exact ⟨rfl, rfl⟩
theorem minu (f : FmtG) : Statement (.minu f) := fun _ _ h => by cases h; exact ⟨rfl, rfl⟩
theorem maxs (f : FmtG) : Statement (.maxs f) := fun _ _ h => by cases h; exact ⟨rfl, rfl⟩
theorem maxu (f : FmtG) : Statement (.maxu f) := fun _ _ h => by cases h; exact ⟨rfl, rfl⟩
theorem absd (f : FmtG) : Statement (.absd f) := fun _ _ h => by cases h; exact ⟨rfl, rfl⟩
theorem neg (f : FmtG) : Statement (.neg f) := fun _ _ h => by cases h; exact ⟨rfl, rfl⟩
theorem abs (f : FmtG) : Statement (.abs f) := fun _ _ h => by cases h; exact ⟨rfl, rfl⟩
theorem notOp (f : FmtG) : Statement (.notOp f) := fun _ _ h => by cases h; exact ⟨rfl, rfl⟩
theorem clz (f : FmtG) : Statement (.clz f) := fun _ _ h => by cases h; exact ⟨rfl, rfl⟩
theorem ctz (f : FmtG) : Statement (.ctz f) := fun _ _ h => by cases h; exact ⟨rfl, rfl⟩
theorem popc (f : FmtG) : Statement (.popc f) := fun _ _ h => by cases h; exact ⟨rfl, rfl⟩
theorem brev (f : FmtG) : Statement (.brev f) := fun _ _ h => by cases h; exact ⟨rfl, rfl⟩
theorem bswap (f : FmtG) : Statement (.bswap f) := fun _ _ h => by cases h; exact ⟨rfl, rfl⟩
theorem sext (f : FmtG) : Statement (.sext f) := fun _ _ h => by cases h; exact ⟨rfl, rfl⟩
theorem zext (f : FmtG) : Statement (.zext f) := fun _ _ h => by cases h; exact ⟨rfl, rfl⟩
theorem mov (f : FmtG) : Statement (.mov f) := fun _ _ h => by cases h; exact ⟨rfl, rfl⟩
theorem nullOp (f : FmtG) : Statement (.nullOp f) := fun _ _ h => by cases h; exact ⟨rfl, rfl⟩
theorem bfx (f : FmtG) : Statement (.bfx f) := fun _ _ h => by cases h; exact ⟨rfl, rfl⟩
theorem bfxs (f : FmtG) : Statement (.bfxs f) := fun _ _ h => by cases h; exact ⟨rfl, rfl⟩
theorem bfi (f : FmtG) : Statement (.bfi f) := fun _ _ h => by cases h; exact ⟨rfl, rfl⟩
theorem sel (f : FmtG) : Statement (.sel f) := fun _ _ h => by cases h; exact ⟨rfl, rfl⟩
theorem madd (f : FmtG) : Statement (.madd f) := fun _ _ h => by cases h; exact ⟨rfl, rfl⟩
theorem fsh (f : FmtG) : Statement (.fsh f) := fun _ _ h => by cases h; exact ⟨rfl, rfl⟩
theorem addi (f : FmtI) : Statement (.addi f) := fun _ _ h => by cases h; exact ⟨rfl, rfl⟩
theorem muli (f : FmtI) : Statement (.muli f) := fun _ _ h => by cases h; exact ⟨rfl, rfl⟩
theorem andi (f : FmtI) : Statement (.andi f) := fun _ _ h => by cases h; exact ⟨rfl, rfl⟩
theorem ori (f : FmtI) : Statement (.ori f) := fun _ _ h => by cases h; exact ⟨rfl, rfl⟩
theorem xori (f : FmtI) : Statement (.xori f) := fun _ _ h => by cases h; exact ⟨rfl, rfl⟩
theorem shli (f : FmtI) : Statement (.shli f) := fun _ _ h => by cases h; exact ⟨rfl, rfl⟩
theorem shri (f : FmtI) : Statement (.shri f) := fun _ _ h => by cases h; exact ⟨rfl, rfl⟩
theorem sari (f : FmtI) : Statement (.sari f) := fun _ _ h => by cases h; exact ⟨rfl, rfl⟩
theorem roli (f : FmtI) : Statement (.roli f) := fun _ _ h => by cases h; exact ⟨rfl, rfl⟩
theorem minsi (f : FmtI) : Statement (.minsi f) := fun _ _ h => by cases h; exact ⟨rfl, rfl⟩
theorem maxsi (f : FmtI) : Statement (.maxsi f) := fun _ _ h => by cases h; exact ⟨rfl, rfl⟩
theorem movi (f : FmtI) : Statement (.movi f) := fun _ _ h => by cases h; exact ⟨rfl, rfl⟩
theorem teq (f : FmtG) : Statement (.teq f) := fun _ _ h => by cases h; exact ⟨rfl, rfl⟩
theorem tne (f : FmtG) : Statement (.tne f) := fun _ _ h => by cases h; exact ⟨rfl, rfl⟩
theorem tlts (f : FmtG) : Statement (.tlts f) := fun _ _ h => by cases h; exact ⟨rfl, rfl⟩
theorem tles (f : FmtG) : Statement (.tles f) := fun _ _ h => by cases h; exact ⟨rfl, rfl⟩
theorem tltu (f : FmtG) : Statement (.tltu f) := fun _ _ h => by cases h; exact ⟨rfl, rfl⟩
theorem tleu (f : FmtG) : Statement (.tleu f) := fun _ _ h => by cases h; exact ⟨rfl, rfl⟩
theorem tgts (f : FmtG) : Statement (.tgts f) := fun _ _ h => by cases h; exact ⟨rfl, rfl⟩
theorem tges (f : FmtG) : Statement (.tges f) := fun _ _ h => by cases h; exact ⟨rfl, rfl⟩
theorem tgtu (f : FmtG) : Statement (.tgtu f) := fun _ _ h => by cases h; exact ⟨rfl, rfl⟩
theorem tgeu (f : FmtG) : Statement (.tgeu f) := fun _ _ h => by cases h; exact ⟨rfl, rfl⟩
theorem teqi (f : FmtI) : Statement (.teqi f) := fun _ _ h => by cases h; exact ⟨rfl, rfl⟩
theorem tnei (f : FmtI) : Statement (.tnei f) := fun _ _ h => by cases h; exact ⟨rfl, rfl⟩
theorem tltsi (f : FmtI) : Statement (.tltsi f) := fun _ _ h => by cases h; exact ⟨rfl, rfl⟩
theorem tlesi (f : FmtI) : Statement (.tlesi f) := fun _ _ h => by cases h; exact ⟨rfl, rfl⟩
theorem tltui (f : FmtI) : Statement (.tltui f) := fun _ _ h => by cases h; exact ⟨rfl, rfl⟩
theorem tleui (f : FmtI) : Statement (.tleui f) := fun _ _ h => by cases h; exact ⟨rfl, rfl⟩
theorem tgtsi (f : FmtI) : Statement (.tgtsi f) := fun _ _ h => by cases h; exact ⟨rfl, rfl⟩
theorem tgesi (f : FmtI) : Statement (.tgesi f) := fun _ _ h => by cases h; exact ⟨rfl, rfl⟩
theorem pand (f : FmtG) : Statement (.pand f) := fun _ _ h => by cases h; exact ⟨rfl, rfl⟩
theorem por (f : FmtG) : Statement (.por f) := fun _ _ h => by cases h; exact ⟨rfl, rfl⟩
theorem pxor (f : FmtG) : Statement (.pxor f) := fun _ _ h => by cases h; exact ⟨rfl, rfl⟩
theorem pnot (f : FmtG) : Statement (.pnot f) := fun _ _ h => by cases h; exact ⟨rfl, rfl⟩
theorem steer (f : FmtG) : Statement (.steer f) := fun _ _ h => by cases h; exact ⟨rfl, rfl⟩
theorem merge (f : FmtG) : Statement (.merge f) := fun _ _ h => by cases h; exact ⟨rfl, rfl⟩
theorem fan (f : FmtF) : Statement (.fan f) := fun _ _ h => by cases h; exact ⟨rfl, rfl⟩
theorem rdc (f : FmtR) : Statement (.rdc f) := fun _ _ h => by cases h; exact ⟨rfl, rfl⟩
theorem tagof (f : FmtG) : Statement (.tagof f) := fun _ _ h => by cases h; exact ⟨rfl, rfl⟩
theorem retag (f : FmtG) : Statement (.retag f) := fun _ _ h => by cases h; exact ⟨rfl, rfl⟩
theorem fadd (f : FmtG) : Statement (.fadd f) := fun _ _ h => by cases h; exact ⟨rfl, rfl⟩
theorem fsub (f : FmtG) : Statement (.fsub f) := fun _ _ h => by cases h; exact ⟨rfl, rfl⟩
theorem fmul (f : FmtG) : Statement (.fmul f) := fun _ _ h => by cases h; exact ⟨rfl, rfl⟩
theorem fdiv (f : FmtG) : Statement (.fdiv f) := fun _ _ h => by cases h; exact ⟨rfl, rfl⟩
theorem fmin (f : FmtG) : Statement (.fmin f) := fun _ _ h => by cases h; exact ⟨rfl, rfl⟩
theorem fmax (f : FmtG) : Statement (.fmax f) := fun _ _ h => by cases h; exact ⟨rfl, rfl⟩
theorem fminm (f : FmtG) : Statement (.fminm f) := fun _ _ h => by cases h; exact ⟨rfl, rfl⟩
theorem fmaxm (f : FmtG) : Statement (.fmaxm f) := fun _ _ h => by cases h; exact ⟨rfl, rfl⟩
theorem fcpys (f : FmtG) : Statement (.fcpys f) := fun _ _ h => by cases h; exact ⟨rfl, rfl⟩
theorem fscale (f : FmtG) : Statement (.fscale f) := fun _ _ h => by cases h; exact ⟨rfl, rfl⟩
theorem fabs (f : FmtG) : Statement (.fabs f) := fun _ _ h => by cases h; exact ⟨rfl, rfl⟩
theorem fneg (f : FmtG) : Statement (.fneg f) := fun _ _ h => by cases h; exact ⟨rfl, rfl⟩
theorem fsqrt (f : FmtG) : Statement (.fsqrt f) := fun _ _ h => by cases h; exact ⟨rfl, rfl⟩
theorem frcp (f : FmtG) : Statement (.frcp f) := fun _ _ h => by cases h; exact ⟨rfl, rfl⟩
theorem frsq (f : FmtG) : Statement (.frsq f) := fun _ _ h => by cases h; exact ⟨rfl, rfl⟩
theorem ex2 (f : FmtG) : Statement (.ex2 f) := fun _ _ h => by cases h; exact ⟨rfl, rfl⟩
theorem lg2 (f : FmtG) : Statement (.lg2 f) := fun _ _ h => by cases h; exact ⟨rfl, rfl⟩
theorem sinp (f : FmtG) : Statement (.sinp f) := fun _ _ h => by cases h; exact ⟨rfl, rfl⟩
theorem cosp (f : FmtG) : Statement (.cosp f) := fun _ _ h => by cases h; exact ⟨rfl, rfl⟩
theorem tanh (f : FmtG) : Statement (.tanh f) := fun _ _ h => by cases h; exact ⟨rfl, rfl⟩
theorem frnd (f : FmtI) : Statement (.frnd f) := fun _ _ h => by cases h; exact ⟨rfl, rfl⟩
theorem fclass (f : FmtG) : Statement (.fclass f) := fun _ _ h => by cases h; exact ⟨rfl, rfl⟩
theorem ffrac (f : FmtG) : Statement (.ffrac f) := fun _ _ h => by cases h; exact ⟨rfl, rfl⟩
theorem ffma (f : FmtG) : Statement (.ffma f) := fun _ _ h => by cases h; exact ⟨rfl, rfl⟩
theorem ffms (f : FmtG) : Statement (.ffms f) := fun _ _ h => by cases h; exact ⟨rfl, rfl⟩
theorem fnfma (f : FmtG) : Statement (.fnfma f) := fun _ _ h => by cases h; exact ⟨rfl, rfl⟩
theorem fnfms (f : FmtG) : Statement (.fnfms f) := fun _ _ h => by cases h; exact ⟨rfl, rfl⟩
theorem fteq (f : FmtG) : Statement (.fteq f) := fun _ _ h => by cases h; exact ⟨rfl, rfl⟩
theorem ftne (f : FmtG) : Statement (.ftne f) := fun _ _ h => by cases h; exact ⟨rfl, rfl⟩
theorem ftlt (f : FmtG) : Statement (.ftlt f) := fun _ _ h => by cases h; exact ⟨rfl, rfl⟩
theorem ftle (f : FmtG) : Statement (.ftle f) := fun _ _ h => by cases h; exact ⟨rfl, rfl⟩
theorem ftun (f : FmtG) : Statement (.ftun f) := fun _ _ h => by cases h; exact ⟨rfl, rfl⟩
theorem ftord (f : FmtG) : Statement (.ftord f) := fun _ _ h => by cases h; exact ⟨rfl, rfl⟩
theorem fcvt (f : FmtI) : Statement (.fcvt f) := fun _ _ h => by cases h; exact ⟨rfl, rfl⟩
theorem fcvts (f : FmtI) : Statement (.fcvts f) := fun _ _ h => by cases h; exact ⟨rfl, rfl⟩
theorem fcvtu (f : FmtI) : Statement (.fcvtu f) := fun _ _ h => by cases h; exact ⟨rfl, rfl⟩
theorem scvtf (f : FmtI) : Statement (.scvtf f) := fun _ _ h => by cases h; exact ⟨rfl, rfl⟩
theorem ucvtf (f : FmtI) : Statement (.ucvtf f) := fun _ _ h => by cases h; exact ⟨rfl, rfl⟩
theorem mxscl (f : FmtI) : Statement (.mxscl f) := fun _ _ h => by cases h; exact ⟨rfl, rfl⟩
theorem mxq (f : FmtI) : Statement (.mxq f) := fun _ _ h => by cases h; exact ⟨rfl, rfl⟩
theorem ldd (f : FmtL) : Statement (.ldd f) := fun _ _ h => by cases h; exact ⟨rfl, rfl⟩
theorem ldw (f : FmtL) : Statement (.ldw f) := fun _ _ h => by cases h; exact ⟨rfl, rfl⟩
theorem ldws (f : FmtL) : Statement (.ldws f) := fun _ _ h => by cases h; exact ⟨rfl, rfl⟩
theorem ldh (f : FmtL) : Statement (.ldh f) := fun _ _ h => by cases h; exact ⟨rfl, rfl⟩
theorem ldhs (f : FmtL) : Statement (.ldhs f) := fun _ _ h => by cases h; exact ⟨rfl, rfl⟩
theorem ldb (f : FmtL) : Statement (.ldb f) := fun _ _ h => by cases h; exact ⟨rfl, rfl⟩
theorem ldbs (f : FmtL) : Statement (.ldbs f) := fun _ _ h => by cases h; exact ⟨rfl, rfl⟩
theorem std (f : FmtS) : Statement (.std f) := fun _ _ h => by cases h; exact ⟨rfl, rfl⟩
theorem stw (f : FmtS) : Statement (.stw f) := fun _ _ h => by cases h; exact ⟨rfl, rfl⟩
theorem sth (f : FmtS) : Statement (.sth f) := fun _ _ h => by cases h; exact ⟨rfl, rfl⟩
theorem stb (f : FmtS) : Statement (.stb f) := fun _ _ h => by cases h; exact ⟨rfl, rfl⟩
theorem nstore (f : FmtS) : Statement (.nstore f) := fun _ _ h => by cases h; exact ⟨rfl, rfl⟩
theorem aadd (f : FmtS) : Statement (.aadd f) := fun _ _ h => by cases h; exact ⟨rfl, rfl⟩
theorem amins (f : FmtS) : Statement (.amins f) := fun _ _ h => by cases h; exact ⟨rfl, rfl⟩
theorem aminu (f : FmtS) : Statement (.aminu f) := fun _ _ h => by cases h; exact ⟨rfl, rfl⟩
theorem amaxs (f : FmtS) : Statement (.amaxs f) := fun _ _ h => by cases h; exact ⟨rfl, rfl⟩
theorem amaxu (f : FmtS) : Statement (.amaxu f) := fun _ _ h => by cases h; exact ⟨rfl, rfl⟩
theorem aand (f : FmtS) : Statement (.aand f) := fun _ _ h => by cases h; exact ⟨rfl, rfl⟩
theorem aor (f : FmtS) : Statement (.aor f) := fun _ _ h => by cases h; exact ⟨rfl, rfl⟩
theorem axor (f : FmtS) : Statement (.axor f) := fun _ _ h => by cases h; exact ⟨rfl, rfl⟩
theorem afadd (f : FmtS) : Statement (.afadd f) := fun _ _ h => by cases h; exact ⟨rfl, rfl⟩
theorem fld (f : FmtX) : Statement (.fld f) := fun _ _ h => by cases h; exact ⟨rfl, rfl⟩
theorem flda (f : FmtX) : Statement (.flda f) := fun _ _ h => by cases h; exact ⟨rfl, rfl⟩
theorem fst (f : FmtE) : Statement (.fst f) := fun _ _ h => by cases h; exact ⟨rfl, rfl⟩
theorem fstr (f : FmtE) : Statement (.fstr f) := fun _ _ h => by cases h; exact ⟨rfl, rfl⟩
theorem faadd (f : FmtX) : Statement (.faadd f) := fun _ _ h => by cases h; exact ⟨rfl, rfl⟩
theorem famins (f : FmtX) : Statement (.famins f) := fun _ _ h => by cases h; exact ⟨rfl, rfl⟩
theorem faminu (f : FmtX) : Statement (.faminu f) := fun _ _ h => by cases h; exact ⟨rfl, rfl⟩
theorem famaxs (f : FmtX) : Statement (.famaxs f) := fun _ _ h => by cases h; exact ⟨rfl, rfl⟩
theorem famaxu (f : FmtX) : Statement (.famaxu f) := fun _ _ h => by cases h; exact ⟨rfl, rfl⟩
theorem faand (f : FmtX) : Statement (.faand f) := fun _ _ h => by cases h; exact ⟨rfl, rfl⟩
theorem faor (f : FmtX) : Statement (.faor f) := fun _ _ h => by cases h; exact ⟨rfl, rfl⟩
theorem faxor (f : FmtX) : Statement (.faxor f) := fun _ _ h => by cases h; exact ⟨rfl, rfl⟩
theorem faxchg (f : FmtX) : Statement (.faxchg f) := fun _ _ h => by cases h; exact ⟨rfl, rfl⟩
theorem facas (f : FmtX) : Statement (.facas f) := fun _ _ h => by cases h; exact ⟨rfl, rfl⟩
theorem fafadd (f : FmtX) : Statement (.fafadd f) := fun _ _ h => by cases h; exact ⟨rfl, rfl⟩
theorem fence (f : FmtS) : Statement (.fence f) := fun _ _ h => by cases h; exact ⟨rfl, rfl⟩
theorem xmit (f : FmtE) : Statement (.xmit f) := fun _ _ h => by cases h; exact ⟨rfl, rfl⟩
theorem inlet (f : FmtR) : Statement (.inlet f) := fun _ _ h => by cases h; exact ⟨rfl, rfl⟩
theorem fradd (f : FmtE) : Statement (.fradd f) := fun _ _ h => by cases h; exact ⟨rfl, rfl⟩
theorem frfadd (f : FmtE) : Statement (.frfadd f) := fun _ _ h => by cases h; exact ⟨rfl, rfl⟩
theorem br (f : FmtB) : Statement (.br f) := fun _ _ h => by cases h; exact ⟨rfl, rfl⟩
theorem bri (f : FmtG) : Statement (.bri f) := fun _ _ h => by cases h; exact ⟨rfl, rfl⟩
theorem call (f : FmtB) : Statement (.call f) := fun _ _ h => by cases h; exact ⟨rfl, rfl⟩
theorem calli (f : FmtG) : Statement (.calli f) := fun _ _ h => by cases h; exact ⟨rfl, rfl⟩
theorem ret (f : FmtG) : Statement (.ret f) := fun _ _ h => by cases h; exact ⟨rfl, rfl⟩
theorem endStrand (f : FmtB) : Statement (.endStrand f) := fun _ _ h => by cases h; exact ⟨rfl, rfl⟩
theorem tsalloc (f : FmtI) : Statement (.tsalloc f) := fun _ _ h => by cases h; exact ⟨rfl, rfl⟩
theorem tsfree (f : FmtS) : Statement (.tsfree f) := fun _ _ h => by cases h; exact ⟨rfl, rfl⟩
theorem tagnew (f : FmtI) : Statement (.tagnew f) := fun _ _ h => by cases h; exact ⟨rfl, rfl⟩
theorem tagrel (f : FmtS) : Statement (.tagrel f) := fun _ _ h => by cases h; exact ⟨rfl, rfl⟩
theorem spawn (f : FmtE) : Statement (.spawn f) := fun _ _ h => by cases h; exact ⟨rfl, rfl⟩
theorem spawnr (f : FmtE) : Statement (.spawnr f) := fun _ _ h => by cases h; exact ⟨rfl, rfl⟩
theorem joinOp (f : FmtX) : Statement (.joinOp f) := fun _ _ h => by cases h; exact ⟨rfl, rfl⟩
theorem bararr (f : FmtS) : Statement (.bararr f) := fun _ _ h => by cases h; exact ⟨rfl, rfl⟩
theorem barwait (f : FmtX) : Statement (.barwait f) := fun _ _ h => by cases h; exact ⟨rfl, rfl⟩
theorem barsync (f : FmtX) : Statement (.barsync f) := fun _ _ h => by cases h; exact ⟨rfl, rfl⟩
theorem waitOp (f : FmtX) : Statement (.waitOp f) := fun _ _ h => by cases h; exact ⟨rfl, rfl⟩
theorem yieldOp (f : FmtX) : Statement (.yieldOp f) := fun _ _ h => by cases h; exact ⟨rfl, rfl⟩
theorem scopy (f : FmtE) : Statement (.scopy f) := fun _ _ h => by cases h; exact ⟨rfl, rfl⟩
theorem sgather (f : FmtE) : Statement (.sgather f) := fun _ _ h => by cases h; exact ⟨rfl, rfl⟩
theorem sscatter (f : FmtE) : Statement (.sscatter f) := fun _ _ h => by cases h; exact ⟨rfl, rfl⟩
theorem sfill (f : FmtE) : Statement (.sfill f) := fun _ _ h => by cases h; exact ⟨rfl, rfl⟩
theorem sparam (f : FmtE) : Statement (.sparam f) := fun _ _ h => by cases h; exact ⟨rfl, rfl⟩
theorem mxcfg (f : FmtE) : Statement (.mxcfg f) := fun _ _ h => by cases h; exact ⟨rfl, rfl⟩
theorem mxrun (f : FmtE) : Statement (.mxrun f) := fun _ _ h => by cases h; exact ⟨rfl, rfl⟩
theorem mxldacc (f : FmtE) : Statement (.mxldacc f) := fun _ _ h => by cases h; exact ⟨rfl, rfl⟩
theorem mxstacc (f : FmtE) : Statement (.mxstacc f) := fun _ _ h => by cases h; exact ⟨rfl, rfl⟩
theorem mxrel (f : FmtE) : Statement (.mxrel f) := fun _ _ h => by cases h; exact ⟨rfl, rfl⟩
theorem vmap (f : FmtE) : Statement (.vmap f) := fun _ _ h => by cases h; exact ⟨rfl, rfl⟩
theorem vred (f : FmtE) : Statement (.vred f) := fun _ _ h => by cases h; exact ⟨rfl, rfl⟩
theorem wincfg (f : FmtE) : Statement (.wincfg f) := fun _ _ h => by cases h; exact ⟨rfl, rfl⟩
theorem winrun (f : FmtE) : Statement (.winrun f) := fun _ _ h => by cases h; exact ⟨rfl, rfl⟩
theorem decode (f : FmtE) : Statement (.decode f) := fun _ _ h => by cases h; exact ⟨rfl, rfl⟩
theorem coll (f : FmtE) : Statement (.coll f) := fun _ _ h => by cases h; exact ⟨rfl, rfl⟩
theorem hquery (f : FmtE) : Statement (.hquery f) := fun _ _ h => by cases h; exact ⟨rfl, rfl⟩
theorem rsquery (f : FmtE) : Statement (.rsquery f) := fun _ _ h => by cases h; exact ⟨rfl, rfl⟩
theorem stok (f : FmtE) : Statement (.stok f) := fun _ _ h => by cases h; exact ⟨rfl, rfl⟩
theorem toks (f : FmtE) : Statement (.toks f) := fun _ _ h => by cases h; exact ⟨rfl, rfl⟩
theorem srd (f : FmtI) : Statement (.srd f) := fun _ _ h => by cases h; exact ⟨rfl, rfl⟩
theorem swr (f : FmtI) : Statement (.swr f) := fun _ _ h => by cases h; exact ⟨rfl, rfl⟩
theorem trap (f : FmtI) : Statement (.trap f) := fun _ _ h => by cases h; exact ⟨rfl, rfl⟩
theorem bkpt (f : FmtG) : Statement (.bkpt f) := fun _ _ h => by cases h; exact ⟨rfl, rfl⟩
theorem enrd (f : FmtG) : Statement (.enrd f) := fun _ _ h => by cases h; exact ⟨rfl, rfl⟩
theorem perfrd (f : FmtI) : Statement (.perfrd f) := fun _ _ h => by cases h; exact ⟨rfl, rfl⟩
theorem trace (f : FmtS) : Statement (.trace f) := fun _ _ h => by cases h; exact ⟨rfl, rfl⟩
theorem clk (f : FmtG) : Statement (.clk f) := fun _ _ h => by cases h; exact ⟨rfl, rfl⟩
theorem snuff (f : FmtG) : Statement (.snuff f) := fun _ _ h => by cases h; exact ⟨rfl, rfl⟩
theorem fwcall (f : FmtG) : Statement (.fwcall f) := fun _ _ h => by cases h; exact ⟨rfl, rfl⟩
theorem assert (f : FmtG) : Statement (.assert f) := fun _ _ h => by cases h; exact ⟨rfl, rfl⟩
theorem genc (f : FmtC) : Statement (.genc f) := fun _ _ h => by cases h; exact ⟨rfl, rfl⟩
theorem appc (f : FmtC) : Statement (.appc f) := fun _ _ h => by cases h; exact ⟨rfl, rfl⟩
theorem evElementIssue (die : Nat) (idx : Nat) (elem : Nat) : Statement (.evElementIssue die idx elem) := nofun
theorem evTokenArrival (n : Nat) : Statement (.evTokenArrival n) := nofun
theorem evBlockFetch (die : Nat) (idx : Nat) (elem : Nat) : Statement (.evBlockFetch die idx elem) := nofun
theorem evBlockInstanceStart (die : Nat) (idx : Nat) (elem : Nat) : Statement (.evBlockInstanceStart die idx elem) := nofun
theorem evBlockStarved (inst : Nat) : Statement (.evBlockStarved inst) := nofun
theorem evCommit (inst : Nat) : Statement (.evCommit inst) := nofun
theorem evFootprintRegistration (n : Nat) : Statement (.evFootprintRegistration n) := nofun
theorem evParkedCommitResume (n : Nat) : Statement (.evParkedCommitResume n) := nofun
theorem evFrameMoveArrival (n : Nat) : Statement (.evFrameMoveArrival n) := nofun
theorem evFarAccessAtHome (n : Nat) : Statement (.evFarAccessAtHome n) := nofun
theorem evPostedEffectAtHome (n : Nat) : Statement (.evPostedEffectAtHome n) := nofun
theorem evPostedAckArrival (n : Nat) : Statement (.evPostedAckArrival n) := nofun
theorem evWaitingFarAccessPerform (die : Nat) (idx : Nat) (n : Nat) : Statement (.evWaitingFarAccessPerform die idx n) := nofun
theorem evBankArbitration (die : Nat) (idx : Nat) (bank : Nat) : Statement (.evBankArbitration die idx bank) := nofun
theorem evBankStarvationPromote (die : Nat) (idx : Nat) (bank : Nat) : Statement (.evBankStarvationPromote die idx bank) := nofun
theorem evFarReplyArrival (n : Nat) : Statement (.evFarReplyArrival n) := nofun
theorem evReplyHeldResend (n : Nat) : Statement (.evReplyHeldResend n) := nofun
theorem evLamplighterRelight (die : Nat) (idx : Nat) : Statement (.evLamplighterRelight die idx) := nofun
theorem evRangeSplit (die : Nat) (idx : Nat) : Statement (.evRangeSplit die idx) := nofun
theorem evFrameWaitGrant (die : Nat) (idx : Nat) : Statement (.evFrameWaitGrant die idx) := nofun
theorem evEmberReady (n : Nat) : Statement (.evEmberReady n) := nofun
theorem evRefusalCountLimit (n : Nat) : Statement (.evRefusalCountLimit n) := nofun
theorem evReservationTimeout (n : Nat) : Statement (.evReservationTimeout n) := nofun
theorem evArbitrationGrant (point : Point) : Statement (.evArbitrationGrant point) := nofun
theorem evCircuitTokenArrival (n : Nat) : Statement (.evCircuitTokenArrival n) := nofun
theorem evCreditReturn (n : Nat) : Statement (.evCreditReturn n) := nofun
theorem evBorderCrossing (n : Nat) : Statement (.evBorderCrossing n) := nofun
theorem evMasterFreeze (n : Nat) : Statement (.evMasterFreeze n) := nofun
theorem evSpaceTableItem (n : Nat) : Statement (.evSpaceTableItem n) := nofun
theorem evJoinRequest (n : Nat) : Statement (.evJoinRequest n) := nofun
theorem evLiveCountZero (vf : Nat) (ctx : Nat) (space : Nat) : Statement (.evLiveCountZero vf ctx space) := nofun
theorem evWaitRequest (n : Nat) : Statement (.evWaitRequest n) := nofun
theorem evBarrierArrival (n : Nat) : Statement (.evBarrierArrival n) := nofun
theorem evBarrierPhaseComplete (n : Nat) : Statement (.evBarrierPhaseComplete n) := nofun
theorem evBarwaitRequest (n : Nat) : Statement (.evBarwaitRequest n) := nofun
theorem evTlbWalk (n : Nat) : Statement (.evTlbWalk n) := nofun
theorem evStreamCommandArrival (n : Nat) : Statement (.evStreamCommandArrival n) := nofun
theorem evStreamCommandPerform (n : Nat) : Statement (.evStreamCommandPerform n) := nofun
theorem evStreamRoundBoundary (n : Nat) : Statement (.evStreamRoundBoundary n) := nofun
theorem evStreamPageFaultStop (n : Nat) : Statement (.evStreamPageFaultStop n) := nofun
theorem evEngineLineAccess (n : Nat) : Statement (.evEngineLineAccess n) := nofun
theorem evMeCommandPerform (n : Nat) : Statement (.evMeCommandPerform n) := nofun
theorem evVsuCommandPerform (n : Nat) : Statement (.evVsuCommandPerform n) := nofun
theorem evWindowCommandPerform (n : Nat) : Statement (.evWindowCommandPerform n) := nofun
theorem evDecodeFrame (n : Nat) : Statement (.evDecodeFrame n) := nofun
theorem evCollGroupComplete (n : Nat) : Statement (.evCollGroupComplete n) := nofun
theorem evStokElementSend (n : Nat) : Statement (.evStokElementSend n) := nofun
theorem evToksTokenCapture (n : Nat) : Statement (.evToksTokenCapture n) := nofun
theorem evCommandCompletion (n : Nat) : Statement (.evCommandCompletion n) := nofun
theorem evFaultDelivery (vf : Nat) (ctx : Nat) : Statement (.evFaultDelivery vf ctx) := nofun
theorem evHandlerDone (vf : Nat) (ctx : Nat) (slot : Nat) : Statement (.evHandlerDone vf ctx slot) := nofun
theorem evPreciseStop (vf : Nat) (ctx : Nat) : Statement (.evPreciseStop vf ctx) := nofun
theorem evParityFreezeReport (vf : Nat) (ctx : Nat) (die : Nat) (idx : Nat) (hop : Nat) (dir : Nat) (elem : Nat) : Statement (.evParityFreezeReport vf ctx die idx hop dir elem) := nofun
theorem evSnuffMarkerBroadcast (vf : Nat) (ctx : Nat) : Statement (.evSnuffMarkerBroadcast vf ctx) := nofun
theorem evQuadMarkerArrival (die : Nat) (idx : Nat) : Statement (.evQuadMarkerArrival die idx) := nofun
theorem evChannelMarkerArrival (n : Nat) : Statement (.evChannelMarkerArrival n) := nofun
theorem evQuadStateReadout (vf : Nat) (ctx : Nat) : Statement (.evQuadStateReadout vf ctx) := nofun
theorem evEngineSnuffStop (n : Nat) : Statement (.evEngineSnuffStop n) := nofun
theorem evQuadZeroing (die : Nat) (idx : Nat) : Statement (.evQuadZeroing die idx) := nofun
theorem evQuadZeroComplete (die : Nat) (idx : Nat) : Statement (.evQuadZeroComplete die idx) := nofun
theorem evLanternReport : Statement (.evLanternReport) := nofun
theorem evFactorUpdate (die : Nat) : Statement (.evFactorUpdate die) := nofun
theorem evSharedCostSplit : Statement (.evSharedCostSplit) := nofun
theorem evCandlePeriodStart (vf : Nat) : Statement (.evCandlePeriodStart vf) := nofun
theorem evCandleCut (vf : Nat) : Statement (.evCandleCut vf) := nofun
theorem evClassChange (vf : Nat) (ctx : Nat) : Statement (.evClassChange vf ctx) := nofun
theorem evPowerCheck (mw : Nat) : Statement (.evPowerCheck mw) := nofun
theorem evThermalLimit (die : Nat) (deg : Nat) : Statement (.evThermalLimit die deg) := nofun
theorem evThermalShutdown (die : Nat) (deg : Nat) : Statement (.evThermalShutdown die deg) := nofun
theorem evDeviceReset : Statement (.evDeviceReset) := nofun
theorem evHostLinkDegrade : Statement (.evHostLinkDegrade) := nofun
theorem evCxlMemRead (hpa : Nat) (len : Nat) : Statement (.evCxlMemRead hpa len) := nofun
theorem evCxlMemWrite (hpa : Nat) (bytes : List Byte) (poison : Bool) : Statement (.evCxlMemWrite hpa bytes poison) := nofun
theorem evCommandDoorbell (vf : Nat) (tail : Nat) : Statement (.evCommandDoorbell vf tail) := nofun
theorem evEventHeadWrite (vf : Nat) (head : Nat) : Statement (.evEventHeadWrite vf head) := nofun
theorem evRegisterWrite (vf : Nat) (off : Nat) (val : Word) : Statement (.evRegisterWrite vf off val) := nofun
theorem evFwcallDispatch (n : Nat) : Statement (.evFwcallDispatch n) := nofun
theorem evCreateContext (n : Nat) : Statement (.evCreateContext n) := nofun
theorem evDestroyContext (n : Nat) : Statement (.evDestroyContext n) := nofun
theorem evMap (n : Nat) : Statement (.evMap n) := nofun
theorem evMapGrant (n : Nat) : Statement (.evMapGrant n) := nofun
theorem evMapMove (n : Nat) : Statement (.evMapMove n) := nofun
theorem evMigrationDrainComplete (n : Nat) : Statement (.evMigrationDrainComplete n) := nofun
theorem evMigrationReissue (n : Nat) : Statement (.evMigrationReissue n) := nofun
theorem evUnmap (n : Nat) : Statement (.evUnmap n) := nofun
theorem evUnmapComplete (n : Nat) : Statement (.evUnmapComplete n) := nofun
theorem evLoadImage (n : Nat) : Statement (.evLoadImage n) := nofun
theorem evLaunch (n : Nat) : Statement (.evLaunch n) := nofun
theorem evQueryQuiescent (n : Nat) : Statement (.evQueryQuiescent n) := nofun
theorem evSaveImage (n : Nat) : Statement (.evSaveImage n) := nofun
theorem evSaveImageNonreleasing (n : Nat) : Statement (.evSaveImageNonreleasing n) := nofun
theorem evRestoreImage (n : Nat) : Statement (.evRestoreImage n) := nofun
theorem evSnuffCommand (n : Nat) : Statement (.evSnuffCommand n) := nofun
theorem evSetCandle (n : Nat) : Statement (.evSetCandle n) := nofun
theorem evReadLanterns (n : Nat) : Statement (.evReadLanterns n) := nofun
theorem evSetDieTable (n : Nat) : Statement (.evSetDieTable n) := nofun
theorem evMarkBadNodes (n : Nat) : Statement (.evMarkBadNodes n) := nofun
theorem evAttest (n : Nat) : Statement (.evAttest n) := nofun
theorem evLoadCalibration (n : Nat) : Statement (.evLoadCalibration n) := nofun
theorem evResetVf (n : Nat) : Statement (.evResetVf n) := nofun
theorem evSetCounting (n : Nat) : Statement (.evSetCounting n) := nofun
theorem evPodPacketReceive (src : Nat) (cls : Nat) (seqno : Nat) (port : Nat) (pkt : PodBody) : Statement (.evPodPacketReceive src cls seqno port pkt) := nofun
theorem evPodRetransmitTimeout (n : Nat) (port : Nat) : Statement (.evPodRetransmitTimeout n port) := nofun
theorem evPodPortFailure (port : Nat) : Statement (.evPodPortFailure port) := nofun
theorem evPodLost (pkg : Nat) : Statement (.evPodLost pkg) := nofun

end Sys2Proof.Laws.Coded

namespace Sys2Proof.Laws.Admits

set_option linter.unusedSimpArgs false
set_option linter.unusedTactic false
set_option linter.unreachableTactic false

theorem add (f : FmtG) : Statement (.add f) := by
  rintro _ _ ⟨⟩
  show (prOk f.pr) = true ↔ _ ∧ _ ∧ (false) = false ∧ (false) = false
  simp [neverPredicated, Fields.pr, prOk, cmdPlain, cmdQuad, cmdMem, gExitOk, cmdFields, and_assoc] <;> grind
theorem sub (f : FmtG) : Statement (.sub f) := by
  rintro _ _ ⟨⟩
  show (prOk f.pr) = true ↔ _ ∧ _ ∧ (false) = false ∧ (false) = false
  simp [neverPredicated, Fields.pr, prOk, cmdPlain, cmdQuad, cmdMem, gExitOk, cmdFields, and_assoc] <;> grind
theorem mul (f : FmtG) : Statement (.mul f) := by
  rintro _ _ ⟨⟩
  show (prOk f.pr && widthOk f.xop) = true ↔ _ ∧ _ ∧ (false) = false ∧ (!widthOk f.xop) = false
  simp [neverPredicated, Fields.pr, prOk, cmdPlain, cmdQuad, cmdMem, gExitOk, cmdFields, and_assoc] <;> grind
theorem mulhs (f : FmtG) : Statement (.mulhs f) := by
  rintro _ _ ⟨⟩
  show (prOk f.pr && widthOk f.xop) = true ↔ _ ∧ _ ∧ (false) = false ∧ (!widthOk f.xop) = false
  simp [neverPredicated, Fields.pr, prOk, cmdPlain, cmdQuad, cmdMem, gExitOk, cmdFields, and_assoc] <;> grind
theorem mulhu (f : FmtG) : Statement (.mulhu f) := by
  rintro _ _ ⟨⟩
  show (prOk f.pr && widthOk f.xop) = true ↔ _ ∧ _ ∧ (false) = false ∧ (!widthOk f.xop) = false
  simp [neverPredicated, Fields.pr, prOk, cmdPlain, cmdQuad, cmdMem, gExitOk, cmdFields, and_assoc] <;> grind
theorem divs (f : FmtG) : Statement (.divs f) := by
  rintro _ _ ⟨⟩
  show (prOk f.pr && widthOk f.xop) = true ↔ _ ∧ _ ∧ (false) = false ∧ (!widthOk f.xop) = false
  simp [neverPredicated, Fields.pr, prOk, cmdPlain, cmdQuad, cmdMem, gExitOk, cmdFields, and_assoc] <;> grind
theorem divu (f : FmtG) : Statement (.divu f) := by
  rintro _ _ ⟨⟩
  show (prOk f.pr && widthOk f.xop) = true ↔ _ ∧ _ ∧ (false) = false ∧ (!widthOk f.xop) = false
  simp [neverPredicated, Fields.pr, prOk, cmdPlain, cmdQuad, cmdMem, gExitOk, cmdFields, and_assoc] <;> grind
theorem rems (f : FmtG) : Statement (.rems f) := by
  rintro _ _ ⟨⟩
  show (prOk f.pr && widthOk f.xop) = true ↔ _ ∧ _ ∧ (false) = false ∧ (!widthOk f.xop) = false
  simp [neverPredicated, Fields.pr, prOk, cmdPlain, cmdQuad, cmdMem, gExitOk, cmdFields, and_assoc] <;> grind
theorem remu (f : FmtG) : Statement (.remu f) := by
  rintro _ _ ⟨⟩
  show (prOk f.pr && widthOk f.xop) = true ↔ _ ∧ _ ∧ (false) = false ∧ (!widthOk f.xop) = false
  simp [neverPredicated, Fields.pr, prOk, cmdPlain, cmdQuad, cmdMem, gExitOk, cmdFields, and_assoc] <;> grind
theorem andOp (f : FmtG) : Statement (.andOp f) := by
  rintro _ _ ⟨⟩
  show (prOk f.pr && widthOk f.xop) = true ↔ _ ∧ _ ∧ (false) = false ∧ (!widthOk f.xop) = false
  simp [neverPredicated, Fields.pr, prOk, cmdPlain, cmdQuad, cmdMem, gExitOk, cmdFields, and_assoc] <;> grind
theorem orOp (f : FmtG) : Statement (.orOp f) := by
  rintro _ _ ⟨⟩
  show (prOk f.pr && widthOk f.xop) = true ↔ _ ∧ _ ∧ (false) = false ∧ (!widthOk f.xop) = false
  simp [neverPredicated, Fields.pr, prOk, cmdPlain, cmdQuad, cmdMem, gExitOk, cmdFields, and_assoc] <;> grind
theorem xorOp (f : FmtG) : Statement (.xorOp f) := by
  rintro _ _ ⟨⟩
  show (prOk f.pr && widthOk f.xop) = true ↔ _ ∧ _ ∧ (false) = false ∧ (!widthOk f.xop) = false
  simp [neverPredicated, Fields.pr, prOk, cmdPlain, cmdQuad, cmdMem, gExitOk, cmdFields, and_assoc] <;> grind
theorem andn (f : FmtG) : Statement (.andn f) := by
  rintro _ _ ⟨⟩
  show (prOk f.pr && widthOk f.xop) = true ↔ _ ∧ _ ∧ (false) = false ∧ (!widthOk f.xop) = false
  simp [neverPredicated, Fields.pr, prOk, cmdPlain, cmdQuad, cmdMem, gExitOk, cmdFields, and_assoc] <;> grind
theorem orn (f : FmtG) : Statement (.orn f) := by
  rintro _ _ ⟨⟩
  show (prOk f.pr && widthOk f.xop) = true ↔ _ ∧ _ ∧ (false) = false ∧ (!widthOk f.xop) = false
  simp [neverPredicated, Fields.pr, prOk, cmdPlain, cmdQuad, cmdMem, gExitOk, cmdFields, and_assoc] <;> grind
theorem shl (f : FmtG) : Statement (.shl f) := by
  rintro _ _ ⟨⟩
  show (prOk f.pr && widthOk f.xop) = true ↔ _ ∧ _ ∧ (false) = false ∧ (!widthOk f.xop) = false
  simp [neverPredicated, Fields.pr, prOk, cmdPlain, cmdQuad, cmdMem, gExitOk, cmdFields, and_assoc] <;> grind
theorem shr (f : FmtG) : Statement (.shr f) := by
  rintro _ _ ⟨⟩
  show (prOk f.pr && widthOk f.xop) = true ↔ _ ∧ _ ∧ (false) = false ∧ (!widthOk f.xop) = false
  simp [neverPredicated, Fields.pr, prOk, cmdPlain, cmdQuad, cmdMem, gExitOk, cmdFields, and_assoc] <;> grind
theorem sar (f : FmtG) : Statement (.sar f) := by
  rintro _ _ ⟨⟩
  show (prOk f.pr && widthOk f.xop) = true ↔ _ ∧ _ ∧ (false) = false ∧ (!widthOk f.xop) = false
  simp [neverPredicated, Fields.pr, prOk, cmdPlain, cmdQuad, cmdMem, gExitOk, cmdFields, and_assoc] <;> grind
theorem rol (f : FmtG) : Statement (.rol f) := by
  rintro _ _ ⟨⟩
  show (prOk f.pr && widthOk f.xop) = true ↔ _ ∧ _ ∧ (false) = false ∧ (!widthOk f.xop) = false
  simp [neverPredicated, Fields.pr, prOk, cmdPlain, cmdQuad, cmdMem, gExitOk, cmdFields, and_assoc] <;> grind
theorem ror (f : FmtG) : Statement (.ror f) := by
  rintro _ _ ⟨⟩
  show (prOk f.pr && widthOk f.xop) = true ↔ _ ∧ _ ∧ (false) = false ∧ (!widthOk f.xop) = false
  simp [neverPredicated, Fields.pr, prOk, cmdPlain, cmdQuad, cmdMem, gExitOk, cmdFields, and_assoc] <;> grind
theorem mins (f : FmtG) : Statement (.mins f) := by
  rintro _ _ ⟨⟩
  show (prOk f.pr && widthOk f.xop) = true ↔ _ ∧ _ ∧ (false) = false ∧ (!widthOk f.xop) = false
  simp [neverPredicated, Fields.pr, prOk, cmdPlain, cmdQuad, cmdMem, gExitOk, cmdFields, and_assoc] <;> grind
theorem minu (f : FmtG) : Statement (.minu f) := by
  rintro _ _ ⟨⟩
  show (prOk f.pr && widthOk f.xop) = true ↔ _ ∧ _ ∧ (false) = false ∧ (!widthOk f.xop) = false
  simp [neverPredicated, Fields.pr, prOk, cmdPlain, cmdQuad, cmdMem, gExitOk, cmdFields, and_assoc] <;> grind
theorem maxs (f : FmtG) : Statement (.maxs f) := by
  rintro _ _ ⟨⟩
  show (prOk f.pr && widthOk f.xop) = true ↔ _ ∧ _ ∧ (false) = false ∧ (!widthOk f.xop) = false
  simp [neverPredicated, Fields.pr, prOk, cmdPlain, cmdQuad, cmdMem, gExitOk, cmdFields, and_assoc] <;> grind
theorem maxu (f : FmtG) : Statement (.maxu f) := by
  rintro _ _ ⟨⟩
  show (prOk f.pr && widthOk f.xop) = true ↔ _ ∧ _ ∧ (false) = false ∧ (!widthOk f.xop) = false
  simp [neverPredicated, Fields.pr, prOk, cmdPlain, cmdQuad, cmdMem, gExitOk, cmdFields, and_assoc] <;> grind
theorem absd (f : FmtG) : Statement (.absd f) := by
  rintro _ _ ⟨⟩
  show (prOk f.pr && widthOk f.xop) = true ↔ _ ∧ _ ∧ (false) = false ∧ (!widthOk f.xop) = false
  simp [neverPredicated, Fields.pr, prOk, cmdPlain, cmdQuad, cmdMem, gExitOk, cmdFields, and_assoc] <;> grind
theorem neg (f : FmtG) : Statement (.neg f) := by
  rintro _ _ ⟨⟩
  show (prOk f.pr && widthOk f.xop) = true ↔ _ ∧ _ ∧ (false) = false ∧ (!widthOk f.xop) = false
  simp [neverPredicated, Fields.pr, prOk, cmdPlain, cmdQuad, cmdMem, gExitOk, cmdFields, and_assoc] <;> grind
theorem abs (f : FmtG) : Statement (.abs f) := by
  rintro _ _ ⟨⟩
  show (prOk f.pr && widthOk f.xop) = true ↔ _ ∧ _ ∧ (false) = false ∧ (!widthOk f.xop) = false
  simp [neverPredicated, Fields.pr, prOk, cmdPlain, cmdQuad, cmdMem, gExitOk, cmdFields, and_assoc] <;> grind
theorem notOp (f : FmtG) : Statement (.notOp f) := by
  rintro _ _ ⟨⟩
  show (prOk f.pr && widthOk f.xop) = true ↔ _ ∧ _ ∧ (false) = false ∧ (!widthOk f.xop) = false
  simp [neverPredicated, Fields.pr, prOk, cmdPlain, cmdQuad, cmdMem, gExitOk, cmdFields, and_assoc] <;> grind
theorem clz (f : FmtG) : Statement (.clz f) := by
  rintro _ _ ⟨⟩
  show (prOk f.pr && widthOk f.xop) = true ↔ _ ∧ _ ∧ (false) = false ∧ (!widthOk f.xop) = false
  simp [neverPredicated, Fields.pr, prOk, cmdPlain, cmdQuad, cmdMem, gExitOk, cmdFields, and_assoc] <;> grind
theorem ctz (f : FmtG) : Statement (.ctz f) := by
  rintro _ _ ⟨⟩
  show (prOk f.pr && widthOk f.xop) = true ↔ _ ∧ _ ∧ (false) = false ∧ (!widthOk f.xop) = false
  simp [neverPredicated, Fields.pr, prOk, cmdPlain, cmdQuad, cmdMem, gExitOk, cmdFields, and_assoc] <;> grind
theorem popc (f : FmtG) : Statement (.popc f) := by
  rintro _ _ ⟨⟩
  show (prOk f.pr && widthOk f.xop) = true ↔ _ ∧ _ ∧ (false) = false ∧ (!widthOk f.xop) = false
  simp [neverPredicated, Fields.pr, prOk, cmdPlain, cmdQuad, cmdMem, gExitOk, cmdFields, and_assoc] <;> grind
theorem brev (f : FmtG) : Statement (.brev f) := by
  rintro _ _ ⟨⟩
  show (prOk f.pr && widthOk f.xop) = true ↔ _ ∧ _ ∧ (false) = false ∧ (!widthOk f.xop) = false
  simp [neverPredicated, Fields.pr, prOk, cmdPlain, cmdQuad, cmdMem, gExitOk, cmdFields, and_assoc] <;> grind
theorem bswap (f : FmtG) : Statement (.bswap f) := by
  rintro _ _ ⟨⟩
  show (prOk f.pr && widthOk f.xop) = true ↔ _ ∧ _ ∧ (false) = false ∧ (!widthOk f.xop) = false
  simp [neverPredicated, Fields.pr, prOk, cmdPlain, cmdQuad, cmdMem, gExitOk, cmdFields, and_assoc] <;> grind
theorem sext (f : FmtG) : Statement (.sext f) := by
  rintro _ _ ⟨⟩
  show (prOk f.pr && widthOk f.xop) = true ↔ _ ∧ _ ∧ (false) = false ∧ (!widthOk f.xop) = false
  simp [neverPredicated, Fields.pr, prOk, cmdPlain, cmdQuad, cmdMem, gExitOk, cmdFields, and_assoc] <;> grind
theorem zext (f : FmtG) : Statement (.zext f) := by
  rintro _ _ ⟨⟩
  show (prOk f.pr && widthOk f.xop) = true ↔ _ ∧ _ ∧ (false) = false ∧ (!widthOk f.xop) = false
  simp [neverPredicated, Fields.pr, prOk, cmdPlain, cmdQuad, cmdMem, gExitOk, cmdFields, and_assoc] <;> grind
theorem mov (f : FmtG) : Statement (.mov f) := by
  rintro _ _ ⟨⟩
  show (prOk f.pr && widthOk f.xop) = true ↔ _ ∧ _ ∧ (false) = false ∧ (!widthOk f.xop) = false
  simp [neverPredicated, Fields.pr, prOk, cmdPlain, cmdQuad, cmdMem, gExitOk, cmdFields, and_assoc] <;> grind
theorem nullOp (f : FmtG) : Statement (.nullOp f) := by
  rintro _ _ ⟨⟩
  show (prOk f.pr && f.xop == 0) = true ↔ _ ∧ _ ∧ (f.xop != 0) = false ∧ (false) = false
  simp [neverPredicated, Fields.pr, prOk, cmdPlain, cmdQuad, cmdMem, gExitOk, cmdFields, and_assoc] <;> grind
theorem bfx (f : FmtG) : Statement (.bfx f) := by
  rintro _ _ ⟨⟩
  show (f.pr == 0 && widthOk f.xop) = true ↔ _ ∧ _ ∧ (false) = false ∧ (!widthOk f.xop) = false
  simp [neverPredicated, Fields.pr, prOk, cmdPlain, cmdQuad, cmdMem, gExitOk, cmdFields, and_assoc] <;> grind
theorem bfxs (f : FmtG) : Statement (.bfxs f) := by
  rintro _ _ ⟨⟩
  show (f.pr == 0 && widthOk f.xop) = true ↔ _ ∧ _ ∧ (false) = false ∧ (!widthOk f.xop) = false
  simp [neverPredicated, Fields.pr, prOk, cmdPlain, cmdQuad, cmdMem, gExitOk, cmdFields, and_assoc] <;> grind
theorem bfi (f : FmtG) : Statement (.bfi f) := by
  rintro _ _ ⟨⟩
  show (f.pr == 0 && widthOk f.xop) = true ↔ _ ∧ _ ∧ (false) = false ∧ (!widthOk f.xop) = false
  simp [neverPredicated, Fields.pr, prOk, cmdPlain, cmdQuad, cmdMem, gExitOk, cmdFields, and_assoc] <;> grind
theorem sel (f : FmtG) : Statement (.sel f) := by
  rintro _ _ ⟨⟩
  show (f.pr == 0 && widthOk f.xop) = true ↔ _ ∧ _ ∧ (false) = false ∧ (!widthOk f.xop) = false
  simp [neverPredicated, Fields.pr, prOk, cmdPlain, cmdQuad, cmdMem, gExitOk, cmdFields, and_assoc] <;> grind
theorem madd (f : FmtG) : Statement (.madd f) := by
  rintro _ _ ⟨⟩
  show (f.pr == 0 && widthOk f.xop) = true ↔ _ ∧ _ ∧ (false) = false ∧ (!widthOk f.xop) = false
  simp [neverPredicated, Fields.pr, prOk, cmdPlain, cmdQuad, cmdMem, gExitOk, cmdFields, and_assoc] <;> grind
theorem fsh (f : FmtG) : Statement (.fsh f) := by
  rintro _ _ ⟨⟩
  show (f.pr == 0 && widthOk f.xop) = true ↔ _ ∧ _ ∧ (false) = false ∧ (!widthOk f.xop) = false
  simp [neverPredicated, Fields.pr, prOk, cmdPlain, cmdQuad, cmdMem, gExitOk, cmdFields, and_assoc] <;> grind
theorem addi (f : FmtI) : Statement (.addi f) := by
  rintro _ _ ⟨⟩
  show (prOk f.pr && widthOk f.xop) = true ↔ _ ∧ _ ∧ (false) = false ∧ (!widthOk f.xop) = false
  simp [neverPredicated, Fields.pr, prOk, cmdPlain, cmdQuad, cmdMem, gExitOk, cmdFields, and_assoc] <;> grind
theorem muli (f : FmtI) : Statement (.muli f) := by
  rintro _ _ ⟨⟩
  show (prOk f.pr && widthOk f.xop) = true ↔ _ ∧ _ ∧ (false) = false ∧ (!widthOk f.xop) = false
  simp [neverPredicated, Fields.pr, prOk, cmdPlain, cmdQuad, cmdMem, gExitOk, cmdFields, and_assoc] <;> grind
theorem andi (f : FmtI) : Statement (.andi f) := by
  rintro _ _ ⟨⟩
  show (prOk f.pr && widthOk f.xop) = true ↔ _ ∧ _ ∧ (false) = false ∧ (!widthOk f.xop) = false
  simp [neverPredicated, Fields.pr, prOk, cmdPlain, cmdQuad, cmdMem, gExitOk, cmdFields, and_assoc] <;> grind
theorem ori (f : FmtI) : Statement (.ori f) := by
  rintro _ _ ⟨⟩
  show (prOk f.pr && widthOk f.xop) = true ↔ _ ∧ _ ∧ (false) = false ∧ (!widthOk f.xop) = false
  simp [neverPredicated, Fields.pr, prOk, cmdPlain, cmdQuad, cmdMem, gExitOk, cmdFields, and_assoc] <;> grind
theorem xori (f : FmtI) : Statement (.xori f) := by
  rintro _ _ ⟨⟩
  show (prOk f.pr && widthOk f.xop) = true ↔ _ ∧ _ ∧ (false) = false ∧ (!widthOk f.xop) = false
  simp [neverPredicated, Fields.pr, prOk, cmdPlain, cmdQuad, cmdMem, gExitOk, cmdFields, and_assoc] <;> grind
theorem shli (f : FmtI) : Statement (.shli f) := by
  rintro _ _ ⟨⟩
  show (prOk f.pr && widthOk f.xop) = true ↔ _ ∧ _ ∧ (false) = false ∧ (!widthOk f.xop) = false
  simp [neverPredicated, Fields.pr, prOk, cmdPlain, cmdQuad, cmdMem, gExitOk, cmdFields, and_assoc] <;> grind
theorem shri (f : FmtI) : Statement (.shri f) := by
  rintro _ _ ⟨⟩
  show (prOk f.pr && widthOk f.xop) = true ↔ _ ∧ _ ∧ (false) = false ∧ (!widthOk f.xop) = false
  simp [neverPredicated, Fields.pr, prOk, cmdPlain, cmdQuad, cmdMem, gExitOk, cmdFields, and_assoc] <;> grind
theorem sari (f : FmtI) : Statement (.sari f) := by
  rintro _ _ ⟨⟩
  show (prOk f.pr && widthOk f.xop) = true ↔ _ ∧ _ ∧ (false) = false ∧ (!widthOk f.xop) = false
  simp [neverPredicated, Fields.pr, prOk, cmdPlain, cmdQuad, cmdMem, gExitOk, cmdFields, and_assoc] <;> grind
theorem roli (f : FmtI) : Statement (.roli f) := by
  rintro _ _ ⟨⟩
  show (prOk f.pr && widthOk f.xop) = true ↔ _ ∧ _ ∧ (false) = false ∧ (!widthOk f.xop) = false
  simp [neverPredicated, Fields.pr, prOk, cmdPlain, cmdQuad, cmdMem, gExitOk, cmdFields, and_assoc] <;> grind
theorem minsi (f : FmtI) : Statement (.minsi f) := by
  rintro _ _ ⟨⟩
  show (prOk f.pr && widthOk f.xop) = true ↔ _ ∧ _ ∧ (false) = false ∧ (!widthOk f.xop) = false
  simp [neverPredicated, Fields.pr, prOk, cmdPlain, cmdQuad, cmdMem, gExitOk, cmdFields, and_assoc] <;> grind
theorem maxsi (f : FmtI) : Statement (.maxsi f) := by
  rintro _ _ ⟨⟩
  show (prOk f.pr && widthOk f.xop) = true ↔ _ ∧ _ ∧ (false) = false ∧ (!widthOk f.xop) = false
  simp [neverPredicated, Fields.pr, prOk, cmdPlain, cmdQuad, cmdMem, gExitOk, cmdFields, and_assoc] <;> grind
theorem movi (f : FmtI) : Statement (.movi f) := by
  rintro _ _ ⟨⟩
  show (prOk f.pr && widthOk f.xop) = true ↔ _ ∧ _ ∧ (false) = false ∧ (!widthOk f.xop) = false
  simp [neverPredicated, Fields.pr, prOk, cmdPlain, cmdQuad, cmdMem, gExitOk, cmdFields, and_assoc] <;> grind
theorem teq (f : FmtG) : Statement (.teq f) := by
  rintro _ _ ⟨⟩
  show (prOk f.pr && widthOk f.xop) = true ↔ _ ∧ _ ∧ (false) = false ∧ (!widthOk f.xop) = false
  simp [neverPredicated, Fields.pr, prOk, cmdPlain, cmdQuad, cmdMem, gExitOk, cmdFields, and_assoc] <;> grind
theorem tne (f : FmtG) : Statement (.tne f) := by
  rintro _ _ ⟨⟩
  show (prOk f.pr && widthOk f.xop) = true ↔ _ ∧ _ ∧ (false) = false ∧ (!widthOk f.xop) = false
  simp [neverPredicated, Fields.pr, prOk, cmdPlain, cmdQuad, cmdMem, gExitOk, cmdFields, and_assoc] <;> grind
theorem tlts (f : FmtG) : Statement (.tlts f) := by
  rintro _ _ ⟨⟩
  show (prOk f.pr && widthOk f.xop) = true ↔ _ ∧ _ ∧ (false) = false ∧ (!widthOk f.xop) = false
  simp [neverPredicated, Fields.pr, prOk, cmdPlain, cmdQuad, cmdMem, gExitOk, cmdFields, and_assoc] <;> grind
theorem tles (f : FmtG) : Statement (.tles f) := by
  rintro _ _ ⟨⟩
  show (prOk f.pr && widthOk f.xop) = true ↔ _ ∧ _ ∧ (false) = false ∧ (!widthOk f.xop) = false
  simp [neverPredicated, Fields.pr, prOk, cmdPlain, cmdQuad, cmdMem, gExitOk, cmdFields, and_assoc] <;> grind
theorem tltu (f : FmtG) : Statement (.tltu f) := by
  rintro _ _ ⟨⟩
  show (prOk f.pr && widthOk f.xop) = true ↔ _ ∧ _ ∧ (false) = false ∧ (!widthOk f.xop) = false
  simp [neverPredicated, Fields.pr, prOk, cmdPlain, cmdQuad, cmdMem, gExitOk, cmdFields, and_assoc] <;> grind
theorem tleu (f : FmtG) : Statement (.tleu f) := by
  rintro _ _ ⟨⟩
  show (prOk f.pr && widthOk f.xop) = true ↔ _ ∧ _ ∧ (false) = false ∧ (!widthOk f.xop) = false
  simp [neverPredicated, Fields.pr, prOk, cmdPlain, cmdQuad, cmdMem, gExitOk, cmdFields, and_assoc] <;> grind
theorem tgts (f : FmtG) : Statement (.tgts f) := by
  rintro _ _ ⟨⟩
  show (prOk f.pr && widthOk f.xop) = true ↔ _ ∧ _ ∧ (false) = false ∧ (!widthOk f.xop) = false
  simp [neverPredicated, Fields.pr, prOk, cmdPlain, cmdQuad, cmdMem, gExitOk, cmdFields, and_assoc] <;> grind
theorem tges (f : FmtG) : Statement (.tges f) := by
  rintro _ _ ⟨⟩
  show (prOk f.pr && widthOk f.xop) = true ↔ _ ∧ _ ∧ (false) = false ∧ (!widthOk f.xop) = false
  simp [neverPredicated, Fields.pr, prOk, cmdPlain, cmdQuad, cmdMem, gExitOk, cmdFields, and_assoc] <;> grind
theorem tgtu (f : FmtG) : Statement (.tgtu f) := by
  rintro _ _ ⟨⟩
  show (prOk f.pr && widthOk f.xop) = true ↔ _ ∧ _ ∧ (false) = false ∧ (!widthOk f.xop) = false
  simp [neverPredicated, Fields.pr, prOk, cmdPlain, cmdQuad, cmdMem, gExitOk, cmdFields, and_assoc] <;> grind
theorem tgeu (f : FmtG) : Statement (.tgeu f) := by
  rintro _ _ ⟨⟩
  show (prOk f.pr && widthOk f.xop) = true ↔ _ ∧ _ ∧ (false) = false ∧ (!widthOk f.xop) = false
  simp [neverPredicated, Fields.pr, prOk, cmdPlain, cmdQuad, cmdMem, gExitOk, cmdFields, and_assoc] <;> grind
theorem teqi (f : FmtI) : Statement (.teqi f) := by
  rintro _ _ ⟨⟩
  show (prOk f.pr && widthOk f.xop) = true ↔ _ ∧ _ ∧ (false) = false ∧ (!widthOk f.xop) = false
  simp [neverPredicated, Fields.pr, prOk, cmdPlain, cmdQuad, cmdMem, gExitOk, cmdFields, and_assoc] <;> grind
theorem tnei (f : FmtI) : Statement (.tnei f) := by
  rintro _ _ ⟨⟩
  show (prOk f.pr && widthOk f.xop) = true ↔ _ ∧ _ ∧ (false) = false ∧ (!widthOk f.xop) = false
  simp [neverPredicated, Fields.pr, prOk, cmdPlain, cmdQuad, cmdMem, gExitOk, cmdFields, and_assoc] <;> grind
theorem tltsi (f : FmtI) : Statement (.tltsi f) := by
  rintro _ _ ⟨⟩
  show (prOk f.pr && widthOk f.xop) = true ↔ _ ∧ _ ∧ (false) = false ∧ (!widthOk f.xop) = false
  simp [neverPredicated, Fields.pr, prOk, cmdPlain, cmdQuad, cmdMem, gExitOk, cmdFields, and_assoc] <;> grind
theorem tlesi (f : FmtI) : Statement (.tlesi f) := by
  rintro _ _ ⟨⟩
  show (prOk f.pr && widthOk f.xop) = true ↔ _ ∧ _ ∧ (false) = false ∧ (!widthOk f.xop) = false
  simp [neverPredicated, Fields.pr, prOk, cmdPlain, cmdQuad, cmdMem, gExitOk, cmdFields, and_assoc] <;> grind
theorem tltui (f : FmtI) : Statement (.tltui f) := by
  rintro _ _ ⟨⟩
  show (prOk f.pr && widthOk f.xop) = true ↔ _ ∧ _ ∧ (false) = false ∧ (!widthOk f.xop) = false
  simp [neverPredicated, Fields.pr, prOk, cmdPlain, cmdQuad, cmdMem, gExitOk, cmdFields, and_assoc] <;> grind
theorem tleui (f : FmtI) : Statement (.tleui f) := by
  rintro _ _ ⟨⟩
  show (prOk f.pr && widthOk f.xop) = true ↔ _ ∧ _ ∧ (false) = false ∧ (!widthOk f.xop) = false
  simp [neverPredicated, Fields.pr, prOk, cmdPlain, cmdQuad, cmdMem, gExitOk, cmdFields, and_assoc] <;> grind
theorem tgtsi (f : FmtI) : Statement (.tgtsi f) := by
  rintro _ _ ⟨⟩
  show (prOk f.pr && widthOk f.xop) = true ↔ _ ∧ _ ∧ (false) = false ∧ (!widthOk f.xop) = false
  simp [neverPredicated, Fields.pr, prOk, cmdPlain, cmdQuad, cmdMem, gExitOk, cmdFields, and_assoc] <;> grind
theorem tgesi (f : FmtI) : Statement (.tgesi f) := by
  rintro _ _ ⟨⟩
  show (prOk f.pr && widthOk f.xop) = true ↔ _ ∧ _ ∧ (false) = false ∧ (!widthOk f.xop) = false
  simp [neverPredicated, Fields.pr, prOk, cmdPlain, cmdQuad, cmdMem, gExitOk, cmdFields, and_assoc] <;> grind
theorem pand (f : FmtG) : Statement (.pand f) := by
  rintro _ _ ⟨⟩
  show (prOk f.pr && f.xop == 0) = true ↔ _ ∧ _ ∧ (f.xop != 0) = false ∧ (false) = false
  simp [neverPredicated, Fields.pr, prOk, cmdPlain, cmdQuad, cmdMem, gExitOk, cmdFields, and_assoc] <;> grind
theorem por (f : FmtG) : Statement (.por f) := by
  rintro _ _ ⟨⟩
  show (prOk f.pr && f.xop == 0) = true ↔ _ ∧ _ ∧ (f.xop != 0) = false ∧ (false) = false
  simp [neverPredicated, Fields.pr, prOk, cmdPlain, cmdQuad, cmdMem, gExitOk, cmdFields, and_assoc] <;> grind
theorem pxor (f : FmtG) : Statement (.pxor f) := by
  rintro _ _ ⟨⟩
  show (prOk f.pr && f.xop == 0) = true ↔ _ ∧ _ ∧ (f.xop != 0) = false ∧ (false) = false
  simp [neverPredicated, Fields.pr, prOk, cmdPlain, cmdQuad, cmdMem, gExitOk, cmdFields, and_assoc] <;> grind
theorem pnot (f : FmtG) : Statement (.pnot f) := by
  rintro _ _ ⟨⟩
  show (prOk f.pr && f.xop == 0) = true ↔ _ ∧ _ ∧ (f.xop != 0) = false ∧ (false) = false
  simp [neverPredicated, Fields.pr, prOk, cmdPlain, cmdQuad, cmdMem, gExitOk, cmdFields, and_assoc] <;> grind
theorem steer (f : FmtG) : Statement (.steer f) := by
  rintro _ _ ⟨⟩
  show (prOk f.pr && f.xop == 0) = true ↔ _ ∧ _ ∧ (f.xop != 0) = false ∧ (false) = false
  simp [neverPredicated, Fields.pr, prOk, cmdPlain, cmdQuad, cmdMem, gExitOk, cmdFields, and_assoc] <;> grind
theorem merge (f : FmtG) : Statement (.merge f) := by
  rintro _ _ ⟨⟩
  show (f.pr == 0 && f.xop == 0) = true ↔ _ ∧ _ ∧ (f.xop != 0) = false ∧ (false) = false
  simp [neverPredicated, Fields.pr, prOk, cmdPlain, cmdQuad, cmdMem, gExitOk, cmdFields, and_assoc] <;> grind
theorem fan (f : FmtF) : Statement (.fan f) := by
  rintro _ _ ⟨⟩
  show (prOk f.pr && f.xop == 0 && f.zero == 0) = true ↔ _ ∧ _ ∧ (f.xop != 0 || f.zero != 0) = false ∧ (false) = false
  simp [neverPredicated, Fields.pr, prOk, cmdPlain, cmdQuad, cmdMem, gExitOk, cmdFields, and_assoc] <;> grind
theorem rdc (f : FmtR) : Statement (.rdc f) := by
  rintro _ _ ⟨⟩
  show (true) = true ↔ _ ∧ _ ∧ (false) = false ∧ (false) = false
  simp [neverPredicated, Fields.pr, prOk, cmdPlain, cmdQuad, cmdMem, gExitOk, cmdFields, and_assoc] <;> grind
theorem tagof (f : FmtG) : Statement (.tagof f) := by
  rintro _ _ ⟨⟩
  show (prOk f.pr && f.xop == 0) = true ↔ _ ∧ _ ∧ (f.xop != 0) = false ∧ (false) = false
  simp [neverPredicated, Fields.pr, prOk, cmdPlain, cmdQuad, cmdMem, gExitOk, cmdFields, and_assoc] <;> grind
theorem retag (f : FmtG) : Statement (.retag f) := by
  rintro _ _ ⟨⟩
  show (prOk f.pr && f.xop == 0) = true ↔ _ ∧ _ ∧ (f.xop != 0) = false ∧ (false) = false
  simp [neverPredicated, Fields.pr, prOk, cmdPlain, cmdQuad, cmdMem, gExitOk, cmdFields, and_assoc] <;> grind
theorem fadd (f : FmtG) : Statement (.fadd f) := by
  rintro _ _ ⟨⟩
  show (prOk f.pr && floatOk f.xop) = true ↔ _ ∧ _ ∧ (false) = false ∧ (!floatOk f.xop) = false
  simp [neverPredicated, Fields.pr, prOk, cmdPlain, cmdQuad, cmdMem, gExitOk, cmdFields, and_assoc] <;> grind
theorem fsub (f : FmtG) : Statement (.fsub f) := by
  rintro _ _ ⟨⟩
  show (prOk f.pr && floatOk f.xop) = true ↔ _ ∧ _ ∧ (false) = false ∧ (!floatOk f.xop) = false
  simp [neverPredicated, Fields.pr, prOk, cmdPlain, cmdQuad, cmdMem, gExitOk, cmdFields, and_assoc] <;> grind
theorem fmul (f : FmtG) : Statement (.fmul f) := by
  rintro _ _ ⟨⟩
  show (prOk f.pr && floatOk f.xop) = true ↔ _ ∧ _ ∧ (false) = false ∧ (!floatOk f.xop) = false
  simp [neverPredicated, Fields.pr, prOk, cmdPlain, cmdQuad, cmdMem, gExitOk, cmdFields, and_assoc] <;> grind
theorem fdiv (f : FmtG) : Statement (.fdiv f) := by
  rintro _ _ ⟨⟩
  show (prOk f.pr && floatOk f.xop) = true ↔ _ ∧ _ ∧ (false) = false ∧ (!floatOk f.xop) = false
  simp [neverPredicated, Fields.pr, prOk, cmdPlain, cmdQuad, cmdMem, gExitOk, cmdFields, and_assoc] <;> grind
theorem fmin (f : FmtG) : Statement (.fmin f) := by
  rintro _ _ ⟨⟩
  show (prOk f.pr && floatOk f.xop) = true ↔ _ ∧ _ ∧ (false) = false ∧ (!floatOk f.xop) = false
  simp [neverPredicated, Fields.pr, prOk, cmdPlain, cmdQuad, cmdMem, gExitOk, cmdFields, and_assoc] <;> grind
theorem fmax (f : FmtG) : Statement (.fmax f) := by
  rintro _ _ ⟨⟩
  show (prOk f.pr && floatOk f.xop) = true ↔ _ ∧ _ ∧ (false) = false ∧ (!floatOk f.xop) = false
  simp [neverPredicated, Fields.pr, prOk, cmdPlain, cmdQuad, cmdMem, gExitOk, cmdFields, and_assoc] <;> grind
theorem fminm (f : FmtG) : Statement (.fminm f) := by
  rintro _ _ ⟨⟩
  show (prOk f.pr && floatOk f.xop) = true ↔ _ ∧ _ ∧ (false) = false ∧ (!floatOk f.xop) = false
  simp [neverPredicated, Fields.pr, prOk, cmdPlain, cmdQuad, cmdMem, gExitOk, cmdFields, and_assoc] <;> grind
theorem fmaxm (f : FmtG) : Statement (.fmaxm f) := by
  rintro _ _ ⟨⟩
  show (prOk f.pr && floatOk f.xop) = true ↔ _ ∧ _ ∧ (false) = false ∧ (!floatOk f.xop) = false
  simp [neverPredicated, Fields.pr, prOk, cmdPlain, cmdQuad, cmdMem, gExitOk, cmdFields, and_assoc] <;> grind
theorem fcpys (f : FmtG) : Statement (.fcpys f) := by
  rintro _ _ ⟨⟩
  show (prOk f.pr && floatOk f.xop) = true ↔ _ ∧ _ ∧ (false) = false ∧ (!floatOk f.xop) = false
  simp [neverPredicated, Fields.pr, prOk, cmdPlain, cmdQuad, cmdMem, gExitOk, cmdFields, and_assoc] <;> grind
theorem fscale (f : FmtG) : Statement (.fscale f) := by
  rintro _ _ ⟨⟩
  show (prOk f.pr && floatOk f.xop) = true ↔ _ ∧ _ ∧ (false) = false ∧ (!floatOk f.xop) = false
  simp [neverPredicated, Fields.pr, prOk, cmdPlain, cmdQuad, cmdMem, gExitOk, cmdFields, and_assoc] <;> grind
theorem fabs (f : FmtG) : Statement (.fabs f) := by
  rintro _ _ ⟨⟩
  show (prOk f.pr && floatOk f.xop) = true ↔ _ ∧ _ ∧ (false) = false ∧ (!floatOk f.xop) = false
  simp [neverPredicated, Fields.pr, prOk, cmdPlain, cmdQuad, cmdMem, gExitOk, cmdFields, and_assoc] <;> grind
theorem fneg (f : FmtG) : Statement (.fneg f) := by
  rintro _ _ ⟨⟩
  show (prOk f.pr && floatOk f.xop) = true ↔ _ ∧ _ ∧ (false) = false ∧ (!floatOk f.xop) = false
  simp [neverPredicated, Fields.pr, prOk, cmdPlain, cmdQuad, cmdMem, gExitOk, cmdFields, and_assoc] <;> grind
theorem fsqrt (f : FmtG) : Statement (.fsqrt f) := by
  rintro _ _ ⟨⟩
  show (prOk f.pr && floatOk f.xop) = true ↔ _ ∧ _ ∧ (false) = false ∧ (!floatOk f.xop) = false
  simp [neverPredicated, Fields.pr, prOk, cmdPlain, cmdQuad, cmdMem, gExitOk, cmdFields, and_assoc] <;> grind
theorem frcp (f : FmtG) : Statement (.frcp f) := by
  rintro _ _ ⟨⟩
  show (prOk f.pr && floatOk f.xop) = true ↔ _ ∧ _ ∧ (false) = false ∧ (!floatOk f.xop) = false
  simp [neverPredicated, Fields.pr, prOk, cmdPlain, cmdQuad, cmdMem, gExitOk, cmdFields, and_assoc] <;> grind
theorem frsq (f : FmtG) : Statement (.frsq f) := by
  rintro _ _ ⟨⟩
  show (prOk f.pr && floatOk f.xop) = true ↔ _ ∧ _ ∧ (false) = false ∧ (!floatOk f.xop) = false
  simp [neverPredicated, Fields.pr, prOk, cmdPlain, cmdQuad, cmdMem, gExitOk, cmdFields, and_assoc] <;> grind
theorem ex2 (f : FmtG) : Statement (.ex2 f) := by
  rintro _ _ ⟨⟩
  show (prOk f.pr && floatOk f.xop) = true ↔ _ ∧ _ ∧ (false) = false ∧ (!floatOk f.xop) = false
  simp [neverPredicated, Fields.pr, prOk, cmdPlain, cmdQuad, cmdMem, gExitOk, cmdFields, and_assoc] <;> grind
theorem lg2 (f : FmtG) : Statement (.lg2 f) := by
  rintro _ _ ⟨⟩
  show (prOk f.pr && floatOk f.xop) = true ↔ _ ∧ _ ∧ (false) = false ∧ (!floatOk f.xop) = false
  simp [neverPredicated, Fields.pr, prOk, cmdPlain, cmdQuad, cmdMem, gExitOk, cmdFields, and_assoc] <;> grind
theorem sinp (f : FmtG) : Statement (.sinp f) := by
  rintro _ _ ⟨⟩
  show (prOk f.pr && floatOk f.xop) = true ↔ _ ∧ _ ∧ (false) = false ∧ (!floatOk f.xop) = false
  simp [neverPredicated, Fields.pr, prOk, cmdPlain, cmdQuad, cmdMem, gExitOk, cmdFields, and_assoc] <;> grind
theorem cosp (f : FmtG) : Statement (.cosp f) := by
  rintro _ _ ⟨⟩
  show (prOk f.pr && floatOk f.xop) = true ↔ _ ∧ _ ∧ (false) = false ∧ (!floatOk f.xop) = false
  simp [neverPredicated, Fields.pr, prOk, cmdPlain, cmdQuad, cmdMem, gExitOk, cmdFields, and_assoc] <;> grind
theorem tanh (f : FmtG) : Statement (.tanh f) := by
  rintro _ _ ⟨⟩
  show (prOk f.pr && floatOk f.xop) = true ↔ _ ∧ _ ∧ (false) = false ∧ (!floatOk f.xop) = false
  simp [neverPredicated, Fields.pr, prOk, cmdPlain, cmdQuad, cmdMem, gExitOk, cmdFields, and_assoc] <;> grind
theorem frnd (f : FmtI) : Statement (.frnd f) := by
  rintro _ _ ⟨⟩
  show (prOk f.pr && floatOk f.xop && f.imm9.toNat < 8 && roundOk f.imm9.toNat) = true ↔ _ ∧ _ ∧ (f.imm9.toNat / 8 != 0) = false ∧ (!floatOk f.xop || !roundOk (f.imm9.toNat % 8)) = false
  simp [neverPredicated, Fields.pr, prOk, cmdPlain, cmdQuad, cmdMem, gExitOk, cmdFields, and_assoc] <;> grind
theorem fclass (f : FmtG) : Statement (.fclass f) := by
  rintro _ _ ⟨⟩
  show (prOk f.pr && floatOk f.xop) = true ↔ _ ∧ _ ∧ (false) = false ∧ (!floatOk f.xop) = false
  simp [neverPredicated, Fields.pr, prOk, cmdPlain, cmdQuad, cmdMem, gExitOk, cmdFields, and_assoc] <;> grind
theorem ffrac (f : FmtG) : Statement (.ffrac f) := by
  rintro _ _ ⟨⟩
  show (prOk f.pr && floatOk f.xop) = true ↔ _ ∧ _ ∧ (false) = false ∧ (!floatOk f.xop) = false
  simp [neverPredicated, Fields.pr, prOk, cmdPlain, cmdQuad, cmdMem, gExitOk, cmdFields, and_assoc] <;> grind
theorem ffma (f : FmtG) : Statement (.ffma f) := by
  rintro _ _ ⟨⟩
  show (f.pr == 0 && floatOk f.xop) = true ↔ _ ∧ _ ∧ (false) = false ∧ (!floatOk f.xop) = false
  simp [neverPredicated, Fields.pr, prOk, cmdPlain, cmdQuad, cmdMem, gExitOk, cmdFields, and_assoc] <;> grind
theorem ffms (f : FmtG) : Statement (.ffms f) := by
  rintro _ _ ⟨⟩
  show (f.pr == 0 && floatOk f.xop) = true ↔ _ ∧ _ ∧ (false) = false ∧ (!floatOk f.xop) = false
  simp [neverPredicated, Fields.pr, prOk, cmdPlain, cmdQuad, cmdMem, gExitOk, cmdFields, and_assoc] <;> grind
theorem fnfma (f : FmtG) : Statement (.fnfma f) := by
  rintro _ _ ⟨⟩
  show (f.pr == 0 && floatOk f.xop) = true ↔ _ ∧ _ ∧ (false) = false ∧ (!floatOk f.xop) = false
  simp [neverPredicated, Fields.pr, prOk, cmdPlain, cmdQuad, cmdMem, gExitOk, cmdFields, and_assoc] <;> grind
theorem fnfms (f : FmtG) : Statement (.fnfms f) := by
  rintro _ _ ⟨⟩
  show (f.pr == 0 && floatOk f.xop) = true ↔ _ ∧ _ ∧ (false) = false ∧ (!floatOk f.xop) = false
  simp [neverPredicated, Fields.pr, prOk, cmdPlain, cmdQuad, cmdMem, gExitOk, cmdFields, and_assoc] <;> grind
theorem fteq (f : FmtG) : Statement (.fteq f) := by
  rintro _ _ ⟨⟩
  show (prOk f.pr && floatOk f.xop) = true ↔ _ ∧ _ ∧ (false) = false ∧ (!floatOk f.xop) = false
  simp [neverPredicated, Fields.pr, prOk, cmdPlain, cmdQuad, cmdMem, gExitOk, cmdFields, and_assoc] <;> grind
theorem ftne (f : FmtG) : Statement (.ftne f) := by
  rintro _ _ ⟨⟩
  show (prOk f.pr && floatOk f.xop) = true ↔ _ ∧ _ ∧ (false) = false ∧ (!floatOk f.xop) = false
  simp [neverPredicated, Fields.pr, prOk, cmdPlain, cmdQuad, cmdMem, gExitOk, cmdFields, and_assoc] <;> grind
theorem ftlt (f : FmtG) : Statement (.ftlt f) := by
  rintro _ _ ⟨⟩
  show (prOk f.pr && floatOk f.xop) = true ↔ _ ∧ _ ∧ (false) = false ∧ (!floatOk f.xop) = false
  simp [neverPredicated, Fields.pr, prOk, cmdPlain, cmdQuad, cmdMem, gExitOk, cmdFields, and_assoc] <;> grind
theorem ftle (f : FmtG) : Statement (.ftle f) := by
  rintro _ _ ⟨⟩
  show (prOk f.pr && floatOk f.xop) = true ↔ _ ∧ _ ∧ (false) = false ∧ (!floatOk f.xop) = false
  simp [neverPredicated, Fields.pr, prOk, cmdPlain, cmdQuad, cmdMem, gExitOk, cmdFields, and_assoc] <;> grind
theorem ftun (f : FmtG) : Statement (.ftun f) := by
  rintro _ _ ⟨⟩
  show (prOk f.pr && floatOk f.xop) = true ↔ _ ∧ _ ∧ (false) = false ∧ (!floatOk f.xop) = false
  simp [neverPredicated, Fields.pr, prOk, cmdPlain, cmdQuad, cmdMem, gExitOk, cmdFields, and_assoc] <;> grind
theorem ftord (f : FmtG) : Statement (.ftord f) := by
  rintro _ _ ⟨⟩
  show (prOk f.pr && floatOk f.xop) = true ↔ _ ∧ _ ∧ (false) = false ∧ (!floatOk f.xop) = false
  simp [neverPredicated, Fields.pr, prOk, cmdPlain, cmdQuad, cmdMem, gExitOk, cmdFields, and_assoc] <;> grind
theorem fcvt (f : FmtI) : Statement (.fcvt f) := by
  rintro _ _ ⟨⟩
  show (prOk f.pr && convOk 0 f.xop f.imm9) = true ↔ _ ∧ _ ∧ (false) = false ∧ (!convOk 0 f.xop f.imm9) = false
  simp [neverPredicated, Fields.pr, prOk, cmdPlain, cmdQuad, cmdMem, gExitOk, cmdFields, and_assoc] <;> grind
theorem fcvts (f : FmtI) : Statement (.fcvts f) := by
  rintro _ _ ⟨⟩
  show (prOk f.pr && convOk 1 f.xop f.imm9) = true ↔ _ ∧ _ ∧ (false) = false ∧ (!convOk 1 f.xop f.imm9) = false
  simp [neverPredicated, Fields.pr, prOk, cmdPlain, cmdQuad, cmdMem, gExitOk, cmdFields, and_assoc] <;> grind
theorem fcvtu (f : FmtI) : Statement (.fcvtu f) := by
  rintro _ _ ⟨⟩
  show (prOk f.pr && convOk 2 f.xop f.imm9) = true ↔ _ ∧ _ ∧ (false) = false ∧ (!convOk 2 f.xop f.imm9) = false
  simp [neverPredicated, Fields.pr, prOk, cmdPlain, cmdQuad, cmdMem, gExitOk, cmdFields, and_assoc] <;> grind
theorem scvtf (f : FmtI) : Statement (.scvtf f) := by
  rintro _ _ ⟨⟩
  show (prOk f.pr && convOk 3 f.xop f.imm9) = true ↔ _ ∧ _ ∧ (false) = false ∧ (!convOk 3 f.xop f.imm9) = false
  simp [neverPredicated, Fields.pr, prOk, cmdPlain, cmdQuad, cmdMem, gExitOk, cmdFields, and_assoc] <;> grind
theorem ucvtf (f : FmtI) : Statement (.ucvtf f) := by
  rintro _ _ ⟨⟩
  show (prOk f.pr && convOk 4 f.xop f.imm9) = true ↔ _ ∧ _ ∧ (false) = false ∧ (!convOk 4 f.xop f.imm9) = false
  simp [neverPredicated, Fields.pr, prOk, cmdPlain, cmdQuad, cmdMem, gExitOk, cmdFields, and_assoc] <;> grind
theorem mxscl (f : FmtI) : Statement (.mxscl f) := by
  rintro _ _ ⟨⟩
  show (prOk f.pr && convOk 5 f.xop f.imm9) = true ↔ _ ∧ _ ∧ (false) = false ∧ (!convOk 5 f.xop f.imm9) = false
  simp [neverPredicated, Fields.pr, prOk, cmdPlain, cmdQuad, cmdMem, gExitOk, cmdFields, and_assoc] <;> grind
theorem mxq (f : FmtI) : Statement (.mxq f) := by
  rintro _ _ ⟨⟩
  show (prOk f.pr && convOk 6 f.xop f.imm9) = true ↔ _ ∧ _ ∧ (false) = false ∧ (!convOk 6 f.xop f.imm9) = false
  simp [neverPredicated, Fields.pr, prOk, cmdPlain, cmdQuad, cmdMem, gExitOk, cmdFields, and_assoc] <;> grind
theorem ldd (f : FmtL) : Statement (.ldd f) := by
  rintro _ _ ⟨⟩
  show (prOk f.pr) = true ↔ _ ∧ _ ∧ (false) = false ∧ (false) = false
  simp [neverPredicated, Fields.pr, prOk, cmdPlain, cmdQuad, cmdMem, gExitOk, cmdFields, and_assoc] <;> grind
theorem ldw (f : FmtL) : Statement (.ldw f) := by
  rintro _ _ ⟨⟩
  show (prOk f.pr) = true ↔ _ ∧ _ ∧ (false) = false ∧ (false) = false
  simp [neverPredicated, Fields.pr, prOk, cmdPlain, cmdQuad, cmdMem, gExitOk, cmdFields, and_assoc] <;> grind
theorem ldws (f : FmtL) : Statement (.ldws f) := by
  rintro _ _ ⟨⟩
  show (prOk f.pr) = true ↔ _ ∧ _ ∧ (false) = false ∧ (false) = false
  simp [neverPredicated, Fields.pr, prOk, cmdPlain, cmdQuad, cmdMem, gExitOk, cmdFields, and_assoc] <;> grind
theorem ldh (f : FmtL) : Statement (.ldh f) := by
  rintro _ _ ⟨⟩
  show (prOk f.pr) = true ↔ _ ∧ _ ∧ (false) = false ∧ (false) = false
  simp [neverPredicated, Fields.pr, prOk, cmdPlain, cmdQuad, cmdMem, gExitOk, cmdFields, and_assoc] <;> grind
theorem ldhs (f : FmtL) : Statement (.ldhs f) := by
  rintro _ _ ⟨⟩
  show (prOk f.pr) = true ↔ _ ∧ _ ∧ (false) = false ∧ (false) = false
  simp [neverPredicated, Fields.pr, prOk, cmdPlain, cmdQuad, cmdMem, gExitOk, cmdFields, and_assoc] <;> grind
theorem ldb (f : FmtL) : Statement (.ldb f) := by
  rintro _ _ ⟨⟩
  show (prOk f.pr) = true ↔ _ ∧ _ ∧ (false) = false ∧ (false) = false
  simp [neverPredicated, Fields.pr, prOk, cmdPlain, cmdQuad, cmdMem, gExitOk, cmdFields, and_assoc] <;> grind
theorem ldbs (f : FmtL) : Statement (.ldbs f) := by
  rintro _ _ ⟨⟩
  show (prOk f.pr) = true ↔ _ ∧ _ ∧ (false) = false ∧ (false) = false
  simp [neverPredicated, Fields.pr, prOk, cmdPlain, cmdQuad, cmdMem, gExitOk, cmdFields, and_assoc] <;> grind
theorem std (f : FmtS) : Statement (.std f) := by
  rintro _ _ ⟨⟩
  show (prOk f.pr) = true ↔ _ ∧ _ ∧ (false) = false ∧ (false) = false
  simp [neverPredicated, Fields.pr, prOk, cmdPlain, cmdQuad, cmdMem, gExitOk, cmdFields, and_assoc] <;> grind
theorem stw (f : FmtS) : Statement (.stw f) := by
  rintro _ _ ⟨⟩
  show (prOk f.pr) = true ↔ _ ∧ _ ∧ (false) = false ∧ (false) = false
  simp [neverPredicated, Fields.pr, prOk, cmdPlain, cmdQuad, cmdMem, gExitOk, cmdFields, and_assoc] <;> grind
theorem sth (f : FmtS) : Statement (.sth f) := by
  rintro _ _ ⟨⟩
  show (prOk f.pr) = true ↔ _ ∧ _ ∧ (false) = false ∧ (false) = false
  simp [neverPredicated, Fields.pr, prOk, cmdPlain, cmdQuad, cmdMem, gExitOk, cmdFields, and_assoc] <;> grind
theorem stb (f : FmtS) : Statement (.stb f) := by
  rintro _ _ ⟨⟩
  show (prOk f.pr) = true ↔ _ ∧ _ ∧ (false) = false ∧ (false) = false
  simp [neverPredicated, Fields.pr, prOk, cmdPlain, cmdQuad, cmdMem, gExitOk, cmdFields, and_assoc] <;> grind
theorem nstore (f : FmtS) : Statement (.nstore f) := by
  rintro _ _ ⟨⟩
  show (prOk f.pr && f.imm16 == 0) = true ↔ _ ∧ _ ∧ (false) = false ∧ (f.imm16 != 0) = false
  simp [neverPredicated, Fields.pr, prOk, cmdPlain, cmdQuad, cmdMem, gExitOk, cmdFields, and_assoc] <;> grind
theorem aadd (f : FmtS) : Statement (.aadd f) := by
  rintro _ _ ⟨⟩
  show (prOk f.pr) = true ↔ _ ∧ _ ∧ (false) = false ∧ (false) = false
  simp [neverPredicated, Fields.pr, prOk, cmdPlain, cmdQuad, cmdMem, gExitOk, cmdFields, and_assoc] <;> grind
theorem amins (f : FmtS) : Statement (.amins f) := by
  rintro _ _ ⟨⟩
  show (prOk f.pr) = true ↔ _ ∧ _ ∧ (false) = false ∧ (false) = false
  simp [neverPredicated, Fields.pr, prOk, cmdPlain, cmdQuad, cmdMem, gExitOk, cmdFields, and_assoc] <;> grind
theorem aminu (f : FmtS) : Statement (.aminu f) := by
  rintro _ _ ⟨⟩
  show (prOk f.pr) = true ↔ _ ∧ _ ∧ (false) = false ∧ (false) = false
  simp [neverPredicated, Fields.pr, prOk, cmdPlain, cmdQuad, cmdMem, gExitOk, cmdFields, and_assoc] <;> grind
theorem amaxs (f : FmtS) : Statement (.amaxs f) := by
  rintro _ _ ⟨⟩
  show (prOk f.pr) = true ↔ _ ∧ _ ∧ (false) = false ∧ (false) = false
  simp [neverPredicated, Fields.pr, prOk, cmdPlain, cmdQuad, cmdMem, gExitOk, cmdFields, and_assoc] <;> grind
theorem amaxu (f : FmtS) : Statement (.amaxu f) := by
  rintro _ _ ⟨⟩
  show (prOk f.pr) = true ↔ _ ∧ _ ∧ (false) = false ∧ (false) = false
  simp [neverPredicated, Fields.pr, prOk, cmdPlain, cmdQuad, cmdMem, gExitOk, cmdFields, and_assoc] <;> grind
theorem aand (f : FmtS) : Statement (.aand f) := by
  rintro _ _ ⟨⟩
  show (prOk f.pr) = true ↔ _ ∧ _ ∧ (false) = false ∧ (false) = false
  simp [neverPredicated, Fields.pr, prOk, cmdPlain, cmdQuad, cmdMem, gExitOk, cmdFields, and_assoc] <;> grind
theorem aor (f : FmtS) : Statement (.aor f) := by
  rintro _ _ ⟨⟩
  show (prOk f.pr) = true ↔ _ ∧ _ ∧ (false) = false ∧ (false) = false
  simp [neverPredicated, Fields.pr, prOk, cmdPlain, cmdQuad, cmdMem, gExitOk, cmdFields, and_assoc] <;> grind
theorem axor (f : FmtS) : Statement (.axor f) := by
  rintro _ _ ⟨⟩
  show (prOk f.pr) = true ↔ _ ∧ _ ∧ (false) = false ∧ (false) = false
  simp [neverPredicated, Fields.pr, prOk, cmdPlain, cmdQuad, cmdMem, gExitOk, cmdFields, and_assoc] <;> grind
theorem afadd (f : FmtS) : Statement (.afadd f) := by
  rintro _ _ ⟨⟩
  show (prOk f.pr) = true ↔ _ ∧ _ ∧ (false) = false ∧ (false) = false
  simp [neverPredicated, Fields.pr, prOk, cmdPlain, cmdQuad, cmdMem, gExitOk, cmdFields, and_assoc] <;> grind
theorem fld (f : FmtX) : Statement (.fld f) := by
  rintro _ _ ⟨⟩
  show (prOk f.pr && widthOk f.xop && f.zero == 0) = true ↔ _ ∧ _ ∧ (f.zero != 0) = false ∧ (!widthOk f.xop) = false
  simp [neverPredicated, Fields.pr, prOk, cmdPlain, cmdQuad, cmdMem, gExitOk, cmdFields, and_assoc] <;> grind
theorem flda (f : FmtX) : Statement (.flda f) := by
  rintro _ _ ⟨⟩
  show (prOk f.pr && widthOk f.xop && f.zero == 0) = true ↔ _ ∧ _ ∧ (f.zero != 0) = false ∧ (!widthOk f.xop) = false
  simp [neverPredicated, Fields.pr, prOk, cmdPlain, cmdQuad, cmdMem, gExitOk, cmdFields, and_assoc] <;> grind
theorem fst (f : FmtE) : Statement (.fst f) := by
  rintro _ _ ⟨⟩
  show (prOk f.pr && widthOk f.xop && f.t1 == 0 && f.t0 == 0 && bitsOf f.cmd.toNat 26 24 == 0) = true ↔ _ ∧ _ ∧ (f.t1 != 0 || f.t0 != 0 || bitsOf f.cmd.toNat 26 24 != 0) = false ∧ (!widthOk f.xop) = false
  simp [neverPredicated, Fields.pr, prOk, cmdPlain, cmdQuad, cmdMem, gExitOk, cmdFields, and_assoc] <;> grind
theorem fstr (f : FmtE) : Statement (.fstr f) := by
  rintro _ _ ⟨⟩
  show (prOk f.pr && widthOk f.xop && f.t1 == 0 && f.t0 == 0 && scopeOk (bitsOf f.cmd.toNat 26 24)) = true ↔ _ ∧ _ ∧ (f.t1 != 0 || f.t0 != 0) = false ∧ (!widthOk f.xop || !scopeOk (bitsOf f.cmd.toNat 26 24)) = false
  simp [neverPredicated, Fields.pr, prOk, cmdPlain, cmdQuad, cmdMem, gExitOk, cmdFields, and_assoc] <;> grind
theorem faadd (f : FmtX) : Statement (.faadd f) := by
  rintro _ _ ⟨⟩
  show (prOk f.pr && widthOk f.xop && f.zero == 0) = true ↔ _ ∧ _ ∧ (f.zero != 0) = false ∧ (!widthOk f.xop) = false
  simp [neverPredicated, Fields.pr, prOk, cmdPlain, cmdQuad, cmdMem, gExitOk, cmdFields, and_assoc] <;> grind
theorem famins (f : FmtX) : Statement (.famins f) := by
  rintro _ _ ⟨⟩
  show (prOk f.pr && widthOk f.xop && f.zero == 0) = true ↔ _ ∧ _ ∧ (f.zero != 0) = false ∧ (!widthOk f.xop) = false
  simp [neverPredicated, Fields.pr, prOk, cmdPlain, cmdQuad, cmdMem, gExitOk, cmdFields, and_assoc] <;> grind
theorem faminu (f : FmtX) : Statement (.faminu f) := by
  rintro _ _ ⟨⟩
  show (prOk f.pr && widthOk f.xop && f.zero == 0) = true ↔ _ ∧ _ ∧ (f.zero != 0) = false ∧ (!widthOk f.xop) = false
  simp [neverPredicated, Fields.pr, prOk, cmdPlain, cmdQuad, cmdMem, gExitOk, cmdFields, and_assoc] <;> grind
theorem famaxs (f : FmtX) : Statement (.famaxs f) := by
  rintro _ _ ⟨⟩
  show (prOk f.pr && widthOk f.xop && f.zero == 0) = true ↔ _ ∧ _ ∧ (f.zero != 0) = false ∧ (!widthOk f.xop) = false
  simp [neverPredicated, Fields.pr, prOk, cmdPlain, cmdQuad, cmdMem, gExitOk, cmdFields, and_assoc] <;> grind
theorem famaxu (f : FmtX) : Statement (.famaxu f) := by
  rintro _ _ ⟨⟩
  show (prOk f.pr && widthOk f.xop && f.zero == 0) = true ↔ _ ∧ _ ∧ (f.zero != 0) = false ∧ (!widthOk f.xop) = false
  simp [neverPredicated, Fields.pr, prOk, cmdPlain, cmdQuad, cmdMem, gExitOk, cmdFields, and_assoc] <;> grind
theorem faand (f : FmtX) : Statement (.faand f) := by
  rintro _ _ ⟨⟩
  show (prOk f.pr && widthOk f.xop && f.zero == 0) = true ↔ _ ∧ _ ∧ (f.zero != 0) = false ∧ (!widthOk f.xop) = false
  simp [neverPredicated, Fields.pr, prOk, cmdPlain, cmdQuad, cmdMem, gExitOk, cmdFields, and_assoc] <;> grind
theorem faor (f : FmtX) : Statement (.faor f) := by
  rintro _ _ ⟨⟩
  show (prOk f.pr && widthOk f.xop && f.zero == 0) = true ↔ _ ∧ _ ∧ (f.zero != 0) = false ∧ (!widthOk f.xop) = false
  simp [neverPredicated, Fields.pr, prOk, cmdPlain, cmdQuad, cmdMem, gExitOk, cmdFields, and_assoc] <;> grind
theorem faxor (f : FmtX) : Statement (.faxor f) := by
  rintro _ _ ⟨⟩
  show (prOk f.pr && widthOk f.xop && f.zero == 0) = true ↔ _ ∧ _ ∧ (f.zero != 0) = false ∧ (!widthOk f.xop) = false
  simp [neverPredicated, Fields.pr, prOk, cmdPlain, cmdQuad, cmdMem, gExitOk, cmdFields, and_assoc] <;> grind
theorem faxchg (f : FmtX) : Statement (.faxchg f) := by
  rintro _ _ ⟨⟩
  show (prOk f.pr && widthOk f.xop && f.zero == 0) = true ↔ _ ∧ _ ∧ (f.zero != 0) = false ∧ (!widthOk f.xop) = false
  simp [neverPredicated, Fields.pr, prOk, cmdPlain, cmdQuad, cmdMem, gExitOk, cmdFields, and_assoc] <;> grind
theorem facas (f : FmtX) : Statement (.facas f) := by
  rintro _ _ ⟨⟩
  show (f.pr == 0 && widthOk f.xop && f.zero == 0) = true ↔ _ ∧ _ ∧ (f.zero != 0) = false ∧ (!widthOk f.xop) = false
  simp [neverPredicated, Fields.pr, prOk, cmdPlain, cmdQuad, cmdMem, gExitOk, cmdFields, and_assoc] <;> grind
theorem fafadd (f : FmtX) : Statement (.fafadd f) := by
  rintro _ _ ⟨⟩
  show (prOk f.pr && floatOk f.xop && f.zero == 0) = true ↔ _ ∧ _ ∧ (f.zero != 0) = false ∧ (!floatOk f.xop) = false
  simp [neverPredicated, Fields.pr, prOk, cmdPlain, cmdQuad, cmdMem, gExitOk, cmdFields, and_assoc] <;> grind
theorem fence (f : FmtS) : Statement (.fence f) := by
  rintro _ _ ⟨⟩
  show (prOk f.pr && bitsOf f.imm16.toNat 14 3 == 0 && scopeOk (bitsOf f.imm16.toNat 2 0)) = true ↔ _ ∧ _ ∧ (false) = false ∧ (bitsOf f.imm16.toNat 14 3 != 0 || !scopeOk (bitsOf f.imm16.toNat 2 0)) = false
  simp [neverPredicated, Fields.pr, prOk, cmdPlain, cmdQuad, cmdMem, gExitOk, cmdFields, and_assoc] <;> grind
theorem xmit (f : FmtE) : Statement (.xmit f) := by
  rintro _ _ ⟨⟩
  show (prOk f.pr && f.xop == 0 && f.t1 == 0 && f.t0 == 0 && bitsOf f.cmd.toNat 26 10 == 0) = true ↔ _ ∧ _ ∧ (f.xop != 0 || f.t1 != 0 || f.t0 != 0 || bitsOf f.cmd.toNat 26 10 != 0) = false ∧ (false) = false
  simp [neverPredicated, Fields.pr, prOk, cmdPlain, cmdQuad, cmdMem, gExitOk, cmdFields, and_assoc] <;> grind
theorem inlet (f : FmtR) : Statement (.inlet f) := by
  rintro _ _ ⟨⟩
  show (true) = true ↔ _ ∧ _ ∧ (false) = false ∧ (false) = false
  simp [neverPredicated, Fields.pr, prOk, cmdPlain, cmdQuad, cmdMem, gExitOk, cmdFields, and_assoc] <;> grind
theorem fradd (f : FmtE) : Statement (.fradd f) := by
  rintro _ _ ⟨⟩
  show (prOk f.pr && widthOk f.xop && f.t1 == 0 && f.t0 == 0 && bitsOf f.cmd.toNat 26 24 == 0) = true ↔ _ ∧ _ ∧ (f.t1 != 0 || f.t0 != 0 || bitsOf f.cmd.toNat 26 24 != 0) = false ∧ (!widthOk f.xop) = false
  simp [neverPredicated, Fields.pr, prOk, cmdPlain, cmdQuad, cmdMem, gExitOk, cmdFields, and_assoc] <;> grind
theorem frfadd (f : FmtE) : Statement (.frfadd f) := by
  rintro _ _ ⟨⟩
  show (prOk f.pr && floatOk f.xop && f.t1 == 0 && f.t0 == 0 && bitsOf f.cmd.toNat 26 24 == 0) = true ↔ _ ∧ _ ∧ (f.t1 != 0 || f.t0 != 0 || bitsOf f.cmd.toNat 26 24 != 0) = false ∧ (!floatOk f.xop) = false
  simp [neverPredicated, Fields.pr, prOk, cmdPlain, cmdQuad, cmdMem, gExitOk, cmdFields, and_assoc] <;> grind
theorem br (f : FmtB) : Statement (.br f) := by
  rintro _ _ ⟨⟩
  show (prOk f.pr) = true ↔ _ ∧ _ ∧ (false) = false ∧ (false) = false
  simp [neverPredicated, Fields.pr, prOk, cmdPlain, cmdQuad, cmdMem, gExitOk, cmdFields, and_assoc] <;> grind
theorem bri (f : FmtG) : Statement (.bri f) := by
  rintro _ _ ⟨⟩
  show (gExitOk f) = true ↔ _ ∧ _ ∧ (f.xop != 0 || f.t1.toNat % 64 != 0 || f.t0 != 0) = false ∧ (false) = false
  simp [neverPredicated, Fields.pr, prOk, cmdPlain, cmdQuad, cmdMem, gExitOk, cmdFields, and_assoc] <;> grind
theorem call (f : FmtB) : Statement (.call f) := by
  rintro _ _ ⟨⟩
  show (prOk f.pr) = true ↔ _ ∧ _ ∧ (false) = false ∧ (false) = false
  simp [neverPredicated, Fields.pr, prOk, cmdPlain, cmdQuad, cmdMem, gExitOk, cmdFields, and_assoc] <;> grind
theorem calli (f : FmtG) : Statement (.calli f) := by
  rintro _ _ ⟨⟩
  show (gExitOk f) = true ↔ _ ∧ _ ∧ (f.xop != 0 || f.t1.toNat % 64 != 0 || f.t0 != 0) = false ∧ (false) = false
  simp [neverPredicated, Fields.pr, prOk, cmdPlain, cmdQuad, cmdMem, gExitOk, cmdFields, and_assoc] <;> grind
theorem ret (f : FmtG) : Statement (.ret f) := by
  rintro _ _ ⟨⟩
  show (gExitOk f) = true ↔ _ ∧ _ ∧ (f.xop != 0 || f.t1.toNat % 64 != 0 || f.t0 != 0) = false ∧ (false) = false
  simp [neverPredicated, Fields.pr, prOk, cmdPlain, cmdQuad, cmdMem, gExitOk, cmdFields, and_assoc] <;> grind
theorem endStrand (f : FmtB) : Statement (.endStrand f) := by
  rintro _ _ ⟨⟩
  show (prOk f.pr && f.off18 == 0) = true ↔ _ ∧ _ ∧ (false) = false ∧ (f.off18 != 0) = false
  simp [neverPredicated, Fields.pr, prOk, cmdPlain, cmdQuad, cmdMem, gExitOk, cmdFields, and_assoc] <;> grind
theorem tsalloc (f : FmtI) : Statement (.tsalloc f) := by
  rintro _ _ ⟨⟩
  show (prOk f.pr && f.xop == 0 && f.imm9.toNat < 64) = true ↔ _ ∧ _ ∧ (f.xop != 0 || f.imm9.toNat / 64 != 0) = false ∧ (false) = false
  simp [neverPredicated, Fields.pr, prOk, cmdPlain, cmdQuad, cmdMem, gExitOk, cmdFields, and_assoc] <;> grind
theorem tsfree (f : FmtS) : Statement (.tsfree f) := by
  rintro _ _ ⟨⟩
  show (prOk f.pr && bitsOf f.imm16.toNat 14 0 == 0) = true ↔ _ ∧ _ ∧ (false) = false ∧ (bitsOf f.imm16.toNat 14 0 != 0) = false
  simp [neverPredicated, Fields.pr, prOk, cmdPlain, cmdQuad, cmdMem, gExitOk, cmdFields, and_assoc] <;> grind
theorem tagnew (f : FmtI) : Statement (.tagnew f) := by
  rintro _ _ ⟨⟩
  show (prOk f.pr && f.xop == 0 && f.imm9 == 0) = true ↔ _ ∧ _ ∧ (f.xop != 0 || f.imm9 != 0) = false ∧ (false) = false
  simp [neverPredicated, Fields.pr, prOk, cmdPlain, cmdQuad, cmdMem, gExitOk, cmdFields, and_assoc] <;> grind
theorem tagrel (f : FmtS) : Statement (.tagrel f) := by
  rintro _ _ ⟨⟩
  show (prOk f.pr && f.imm16 == 0) = true ↔ _ ∧ _ ∧ (false) = false ∧ (f.imm16 != 0) = false
  simp [neverPredicated, Fields.pr, prOk, cmdPlain, cmdQuad, cmdMem, gExitOk, cmdFields, and_assoc] <;> grind
theorem spawn (f : FmtE) : Statement (.spawn f) := by
  rintro _ _ ⟨⟩
  show (prOk f.pr && f.xop == 0 && f.t1 == 0 && f.t0 == 0 && bitsOf f.cmd.toNat 26 18 == 0) = true ↔ _ ∧ _ ∧ (f.xop != 0 || f.t1 != 0 || f.t0 != 0 || bitsOf f.cmd.toNat 26 18 != 0) = false ∧ (false) = false
  simp [neverPredicated, Fields.pr, prOk, cmdPlain, cmdQuad, cmdMem, gExitOk, cmdFields, and_assoc] <;> grind
theorem spawnr (f : FmtE) : Statement (.spawnr f) := by
  rintro _ _ ⟨⟩
  show (prOk f.pr && f.xop == 0 && f.t1 == 0 && f.t0 == 0 && bitsOf f.cmd.toNat 26 18 == 0) = true ↔ _ ∧ _ ∧ (f.xop != 0 || f.t1 != 0 || f.t0 != 0 || bitsOf f.cmd.toNat 26 18 != 0) = false ∧ (false) = false
  simp [neverPredicated, Fields.pr, prOk, cmdPlain, cmdQuad, cmdMem, gExitOk, cmdFields, and_assoc] <;> grind
theorem joinOp (f : FmtX) : Statement (.joinOp f) := by
  rintro _ _ ⟨⟩
  show (prOk f.pr && f.xop == 0 && f.zero == 0 && f.dst == 0 && f.imm14 == 0) = true ↔ _ ∧ _ ∧ (f.xop != 0 || f.zero != 0 || f.dst != 0 || f.imm14 != 0) = false ∧ (false) = false
  simp [neverPredicated, Fields.pr, prOk, cmdPlain, cmdQuad, cmdMem, gExitOk, cmdFields, and_assoc] <;> grind
theorem bararr (f : FmtS) : Statement (.bararr f) := by
  rintro _ _ ⟨⟩
  show (prOk f.pr && bitsOf f.imm16.toNat 14 6 == 0) = true ↔ _ ∧ _ ∧ (false) = false ∧ (bitsOf f.imm16.toNat 14 6 != 0) = false
  simp [neverPredicated, Fields.pr, prOk, cmdPlain, cmdQuad, cmdMem, gExitOk, cmdFields, and_assoc] <;> grind
theorem barwait (f : FmtX) : Statement (.barwait f) := by
  rintro _ _ ⟨⟩
  show (prOk f.pr && f.xop == 0 && f.zero == 0 && f.imm14.toNat < 64) = true ↔ _ ∧ _ ∧ (f.xop != 0 || f.zero != 0 || f.imm14.toNat / 64 != 0) = false ∧ (false) = false
  simp [neverPredicated, Fields.pr, prOk, cmdPlain, cmdQuad, cmdMem, gExitOk, cmdFields, and_assoc] <;> grind
theorem barsync (f : FmtX) : Statement (.barsync f) := by
  rintro _ _ ⟨⟩
  show (prOk f.pr && f.xop == 0 && f.zero == 0 && f.imm14.toNat < 64) = true ↔ _ ∧ _ ∧ (f.xop != 0 || f.zero != 0 || f.imm14.toNat / 64 != 0) = false ∧ (false) = false
  simp [neverPredicated, Fields.pr, prOk, cmdPlain, cmdQuad, cmdMem, gExitOk, cmdFields, and_assoc] <;> grind
theorem waitOp (f : FmtX) : Statement (.waitOp f) := by
  rintro _ _ ⟨⟩
  show (prOk f.pr && f.xop == 0 && f.zero == 0 && f.imm14 == 0) = true ↔ _ ∧ _ ∧ (f.xop != 0 || f.zero != 0 || f.imm14 != 0) = false ∧ (false) = false
  simp [neverPredicated, Fields.pr, prOk, cmdPlain, cmdQuad, cmdMem, gExitOk, cmdFields, and_assoc] <;> grind
theorem yieldOp (f : FmtX) : Statement (.yieldOp f) := by
  rintro _ _ ⟨⟩
  show (prOk f.pr && f.xop == 0 && f.zero == 0 && f.dst == 0 && f.imm14 == 0) = true ↔ _ ∧ _ ∧ (f.xop != 0 || f.zero != 0 || f.dst != 0 || f.imm14 != 0) = false ∧ (false) = false
  simp [neverPredicated, Fields.pr, prOk, cmdPlain, cmdQuad, cmdMem, gExitOk, cmdFields, and_assoc] <;> grind
theorem scopy (f : FmtE) : Statement (.scopy f) := by
  rintro _ _ ⟨⟩
  show (cmdMem f) = true ↔ _ ∧ _ ∧ (f.xop != 0 || bitsOf f.cmd.toNat 15 0 != 0) = false ∧ (!((cmdFields f.cmd).2.2.1 < 8 || (cmdFields f.cmd).2.2.1 == 15)) = false
  simp [neverPredicated, Fields.pr, prOk, cmdPlain, cmdQuad, cmdMem, gExitOk, cmdFields, and_assoc] <;> grind
theorem sgather (f : FmtE) : Statement (.sgather f) := by
  rintro _ _ ⟨⟩
  show (cmdMem f) = true ↔ _ ∧ _ ∧ (f.xop != 0 || bitsOf f.cmd.toNat 15 0 != 0) = false ∧ (!((cmdFields f.cmd).2.2.1 < 8 || (cmdFields f.cmd).2.2.1 == 15)) = false
  simp [neverPredicated, Fields.pr, prOk, cmdPlain, cmdQuad, cmdMem, gExitOk, cmdFields, and_assoc] <;> grind
theorem sscatter (f : FmtE) : Statement (.sscatter f) := by
  rintro _ _ ⟨⟩
  show (cmdMem f) = true ↔ _ ∧ _ ∧ (f.xop != 0 || bitsOf f.cmd.toNat 15 0 != 0) = false ∧ (!((cmdFields f.cmd).2.2.1 < 8 || (cmdFields f.cmd).2.2.1 == 15)) = false
  simp [neverPredicated, Fields.pr, prOk, cmdPlain, cmdQuad, cmdMem, gExitOk, cmdFields, and_assoc] <;> grind
theorem sfill (f : FmtE) : Statement (.sfill f) := by
  rintro _ _ ⟨⟩
  show (cmdMem f) = true ↔ _ ∧ _ ∧ (f.xop != 0 || bitsOf f.cmd.toNat 15 0 != 0) = false ∧ (!((cmdFields f.cmd).2.2.1 < 8 || (cmdFields f.cmd).2.2.1 == 15)) = false
  simp [neverPredicated, Fields.pr, prOk, cmdPlain, cmdQuad, cmdMem, gExitOk, cmdFields, and_assoc] <;> grind
theorem sparam (f : FmtE) : Statement (.sparam f) := by
  rintro _ _ ⟨⟩
  show (cmdPlain f && bitsOf f.cmd.toNat 10 0 == 0) = true ↔ _ ∧ _ ∧ (f.xop != 0 || bitsOf f.cmd.toNat 10 0 != 0) = false ∧ ((cmdFields f.cmd).1 != 0 || (cmdFields f.cmd).2.1 != 0 || (cmdFields f.cmd).2.2.1 != 0) = false
  simp [neverPredicated, Fields.pr, prOk, cmdPlain, cmdQuad, cmdMem, gExitOk, cmdFields, and_assoc] <;> grind
theorem mxcfg (f : FmtE) : Statement (.mxcfg f) := by
  rintro _ _ ⟨⟩
  show (cmdQuad f) = true ↔ _ ∧ _ ∧ (f.xop != 0 || bitsOf f.cmd.toNat 15 0 != 0) = false ∧ ((cmdFields f.cmd).2.2.1 != 0) = false
  simp [neverPredicated, Fields.pr, prOk, cmdPlain, cmdQuad, cmdMem, gExitOk, cmdFields, and_assoc] <;> grind
theorem mxrun (f : FmtE) : Statement (.mxrun f) := by
  rintro _ _ ⟨⟩
  show (cmdQuad f) = true ↔ _ ∧ _ ∧ (f.xop != 0 || bitsOf f.cmd.toNat 15 0 != 0) = false ∧ ((cmdFields f.cmd).2.2.1 != 0) = false
  simp [neverPredicated, Fields.pr, prOk, cmdPlain, cmdQuad, cmdMem, gExitOk, cmdFields, and_assoc] <;> grind
theorem mxldacc (f : FmtE) : Statement (.mxldacc f) := by
  rintro _ _ ⟨⟩
  show (cmdQuad f) = true ↔ _ ∧ _ ∧ (f.xop != 0 || bitsOf f.cmd.toNat 15 0 != 0) = false ∧ ((cmdFields f.cmd).2.2.1 != 0) = false
  simp [neverPredicated, Fields.pr, prOk, cmdPlain, cmdQuad, cmdMem, gExitOk, cmdFields, and_assoc] <;> grind
theorem mxstacc (f : FmtE) : Statement (.mxstacc f) := by
  rintro _ _ ⟨⟩
  show (cmdQuad f) = true ↔ _ ∧ _ ∧ (f.xop != 0 || bitsOf f.cmd.toNat 15 0 != 0) = false ∧ ((cmdFields f.cmd).2.2.1 != 0) = false
  simp [neverPredicated, Fields.pr, prOk, cmdPlain, cmdQuad, cmdMem, gExitOk, cmdFields, and_assoc] <;> grind
theorem mxrel (f : FmtE) : Statement (.mxrel f) := by
  rintro _ _ ⟨⟩
  show (prOk f.pr && f.xop == 0 && (cmdFields f.cmd).2.2.1 == 0 && bitsOf f.cmd.toNat 15 1 == 0) = true ↔ _ ∧ _ ∧ (f.xop != 0 || bitsOf f.cmd.toNat 15 1 != 0) = false ∧ ((cmdFields f.cmd).2.2.1 != 0) = false
  simp [neverPredicated, Fields.pr, prOk, cmdPlain, cmdQuad, cmdMem, gExitOk, cmdFields, and_assoc] <;> grind
theorem vmap (f : FmtE) : Statement (.vmap f) := by
  rintro _ _ ⟨⟩
  show (cmdQuad f) = true ↔ _ ∧ _ ∧ (f.xop != 0 || bitsOf f.cmd.toNat 15 0 != 0) = false ∧ ((cmdFields f.cmd).2.2.1 != 0) = false
  simp [neverPredicated, Fields.pr, prOk, cmdPlain, cmdQuad, cmdMem, gExitOk, cmdFields, and_assoc] <;> grind
theorem vred (f : FmtE) : Statement (.vred f) := by
  rintro _ _ ⟨⟩
  show (cmdQuad f) = true ↔ _ ∧ _ ∧ (f.xop != 0 || bitsOf f.cmd.toNat 15 0 != 0) = false ∧ ((cmdFields f.cmd).2.2.1 != 0) = false
  simp [neverPredicated, Fields.pr, prOk, cmdPlain, cmdQuad, cmdMem, gExitOk, cmdFields, and_assoc] <;> grind
theorem wincfg (f : FmtE) : Statement (.wincfg f) := by
  rintro _ _ ⟨⟩
  show (cmdQuad f) = true ↔ _ ∧ _ ∧ (f.xop != 0 || bitsOf f.cmd.toNat 15 0 != 0) = false ∧ ((cmdFields f.cmd).2.2.1 != 0) = false
  simp [neverPredicated, Fields.pr, prOk, cmdPlain, cmdQuad, cmdMem, gExitOk, cmdFields, and_assoc] <;> grind
theorem winrun (f : FmtE) : Statement (.winrun f) := by
  rintro _ _ ⟨⟩
  show (cmdQuad f) = true ↔ _ ∧ _ ∧ (f.xop != 0 || bitsOf f.cmd.toNat 15 0 != 0) = false ∧ ((cmdFields f.cmd).2.2.1 != 0) = false
  simp [neverPredicated, Fields.pr, prOk, cmdPlain, cmdQuad, cmdMem, gExitOk, cmdFields, and_assoc] <;> grind
theorem decode (f : FmtE) : Statement (.decode f) := by
  rintro _ _ ⟨⟩
  show (prOk f.pr && f.xop == 0 && (cmdFields f.cmd).2.2.2 == 0) = true ↔ _ ∧ _ ∧ (f.xop != 0 || bitsOf f.cmd.toNat 15 0 != 0) = false ∧ (false) = false
  simp [neverPredicated, Fields.pr, prOk, cmdPlain, cmdQuad, cmdMem, gExitOk, cmdFields, and_assoc] <;> grind
theorem coll (f : FmtE) : Statement (.coll f) := by
  rintro _ _ ⟨⟩
  show (cmdMem f) = true ↔ _ ∧ _ ∧ (f.xop != 0 || bitsOf f.cmd.toNat 15 0 != 0) = false ∧ (!((cmdFields f.cmd).2.2.1 < 8 || (cmdFields f.cmd).2.2.1 == 15)) = false
  simp [neverPredicated, Fields.pr, prOk, cmdPlain, cmdQuad, cmdMem, gExitOk, cmdFields, and_assoc] <;> grind
theorem hquery (f : FmtE) : Statement (.hquery f) := by
  rintro _ _ ⟨⟩
  show (cmdPlain f && (cmdFields f.cmd).2.2.2 == 0) = true ↔ _ ∧ _ ∧ (f.xop != 0 || bitsOf f.cmd.toNat 15 0 != 0) = false ∧ ((cmdFields f.cmd).1 != 0 || (cmdFields f.cmd).2.1 != 0 || (cmdFields f.cmd).2.2.1 != 0) = false
  simp [neverPredicated, Fields.pr, prOk, cmdPlain, cmdQuad, cmdMem, gExitOk, cmdFields, and_assoc] <;> grind
theorem rsquery (f : FmtE) : Statement (.rsquery f) := by
  rintro _ _ ⟨⟩
  show (cmdPlain f) = true ↔ _ ∧ _ ∧ (f.xop != 0) = false ∧ ((cmdFields f.cmd).1 != 0 || (cmdFields f.cmd).2.1 != 0 || (cmdFields f.cmd).2.2.1 != 0) = false
  simp [neverPredicated, Fields.pr, prOk, cmdPlain, cmdQuad, cmdMem, gExitOk, cmdFields, and_assoc] <;> grind
theorem stok (f : FmtE) : Statement (.stok f) := by
  rintro _ _ ⟨⟩
  show (prOk f.pr && f.xop == 0 && (cmdFields f.cmd).2.2.1 == 0 && bitsOf f.cmd.toNat 15 10 == 0) = true ↔ _ ∧ _ ∧ (f.xop != 0 || bitsOf f.cmd.toNat 15 10 != 0) = false ∧ ((cmdFields f.cmd).2.2.1 != 0) = false
  simp [neverPredicated, Fields.pr, prOk, cmdPlain, cmdQuad, cmdMem, gExitOk, cmdFields, and_assoc] <;> grind
theorem toks (f : FmtE) : Statement (.toks f) := by
  rintro _ _ ⟨⟩
  show (prOk f.pr && f.xop == 0 && (cmdFields f.cmd).2.2.1 == 0 && bitsOf f.cmd.toNat 15 10 == 0) = true ↔ _ ∧ _ ∧ (f.xop != 0 || bitsOf f.cmd.toNat 15 10 != 0) = false ∧ ((cmdFields f.cmd).2.2.1 != 0) = false
  simp [neverPredicated, Fields.pr, prOk, cmdPlain, cmdQuad, cmdMem, gExitOk, cmdFields, and_assoc] <;> grind
theorem srd (f : FmtI) : Statement (.srd f) := by
  rintro _ _ ⟨⟩
  show (prOk f.pr && f.xop == 0 && f.imm9.toNat < 0x14) = true ↔ _ ∧ _ ∧ (f.xop != 0) = false ∧ decide (0x14 ≤ f.imm9.toNat) = false
  simp [neverPredicated, Fields.pr, prOk, cmdPlain, cmdQuad, cmdMem, gExitOk, cmdFields, and_assoc] <;> grind
theorem swr (f : FmtI) : Statement (.swr f) := by
  rintro _ _ ⟨⟩
  show (prOk f.pr && f.xop == 0 && f.imm9.toNat < 0x14 && f.t0 == 0) = true ↔ _ ∧ _ ∧ (f.xop != 0 || f.t0 != 0) = false ∧ decide (0x14 ≤ f.imm9.toNat) = false
  simp [neverPredicated, Fields.pr, prOk, cmdPlain, cmdQuad, cmdMem, gExitOk, cmdFields, and_assoc] <;> grind
theorem trap (f : FmtI) : Statement (.trap f) := by
  rintro _ _ ⟨⟩
  show (prOk f.pr && f.t0 == 0) = true ↔ _ ∧ _ ∧ (f.t0 != 0) = false ∧ (false) = false
  simp [neverPredicated, Fields.pr, prOk, cmdPlain, cmdQuad, cmdMem, gExitOk, cmdFields, and_assoc] <;> grind
theorem bkpt (f : FmtG) : Statement (.bkpt f) := by
  rintro _ _ ⟨⟩
  show (prOk f.pr && f.xop == 0 && f.t1 == 0 && f.t0 == 0) = true ↔ _ ∧ _ ∧ (f.xop != 0 || f.t1 != 0 || f.t0 != 0) = false ∧ (false) = false
  simp [neverPredicated, Fields.pr, prOk, cmdPlain, cmdQuad, cmdMem, gExitOk, cmdFields, and_assoc] <;> grind
theorem enrd (f : FmtG) : Statement (.enrd f) := by
  rintro _ _ ⟨⟩
  show (prOk f.pr && f.xop == 0) = true ↔ _ ∧ _ ∧ (f.xop != 0) = false ∧ (false) = false
  simp [neverPredicated, Fields.pr, prOk, cmdPlain, cmdQuad, cmdMem, gExitOk, cmdFields, and_assoc] <;> grind
theorem perfrd (f : FmtI) : Statement (.perfrd f) := by
  rintro _ _ ⟨⟩
  show (prOk f.pr && f.xop == 0 && perfIndexOk f.imm9.toNat) = true ↔ _ ∧ _ ∧ (f.xop != 0) = false ∧ (!perfIndexOk f.imm9.toNat) = false
  simp [neverPredicated, Fields.pr, prOk, cmdPlain, cmdQuad, cmdMem, gExitOk, cmdFields, and_assoc] <;> grind
theorem trace (f : FmtS) : Statement (.trace f) := by
  rintro _ _ ⟨⟩
  show (prOk f.pr) = true ↔ _ ∧ _ ∧ (false) = false ∧ (false) = false
  simp [neverPredicated, Fields.pr, prOk, cmdPlain, cmdQuad, cmdMem, gExitOk, cmdFields, and_assoc] <;> grind
theorem clk (f : FmtG) : Statement (.clk f) := by
  rintro _ _ ⟨⟩
  show (prOk f.pr && f.xop == 0) = true ↔ _ ∧ _ ∧ (f.xop != 0) = false ∧ (false) = false
  simp [neverPredicated, Fields.pr, prOk, cmdPlain, cmdQuad, cmdMem, gExitOk, cmdFields, and_assoc] <;> grind
theorem snuff (f : FmtG) : Statement (.snuff f) := by
  rintro _ _ ⟨⟩
  show (prOk f.pr && f.xop == 0 && f.t1 == 0 && f.t0 == 0) = true ↔ _ ∧ _ ∧ (f.xop != 0 || f.t1 != 0 || f.t0 != 0) = false ∧ (false) = false
  simp [neverPredicated, Fields.pr, prOk, cmdPlain, cmdQuad, cmdMem, gExitOk, cmdFields, and_assoc] <;> grind
theorem fwcall (f : FmtG) : Statement (.fwcall f) := by
  rintro _ _ ⟨⟩
  show (prOk f.pr && f.xop == 0) = true ↔ _ ∧ _ ∧ (f.xop != 0) = false ∧ (false) = false
  simp [neverPredicated, Fields.pr, prOk, cmdPlain, cmdQuad, cmdMem, gExitOk, cmdFields, and_assoc] <;> grind
theorem assert (f : FmtG) : Statement (.assert f) := by
  rintro _ _ ⟨⟩
  show (prOk f.pr && f.xop == 0 && f.t1 == 0 && f.t0 == 0) = true ↔ _ ∧ _ ∧ (f.xop != 0 || f.t1 != 0 || f.t0 != 0) = false ∧ (false) = false
  simp [neverPredicated, Fields.pr, prOk, cmdPlain, cmdQuad, cmdMem, gExitOk, cmdFields, and_assoc] <;> grind
theorem genc (f : FmtC) : Statement (.genc f) := by
  rintro _ _ ⟨⟩
  show (prOk f.pr) = true ↔ _ ∧ _ ∧ (false) = false ∧ (false) = false
  simp [neverPredicated, Fields.pr, prOk, cmdPlain, cmdQuad, cmdMem, gExitOk, cmdFields, and_assoc] <;> grind
theorem appc (f : FmtC) : Statement (.appc f) := by
  rintro _ _ ⟨⟩
  show (prOk f.pr) = true ↔ _ ∧ _ ∧ (false) = false ∧ (false) = false
  simp [neverPredicated, Fields.pr, prOk, cmdPlain, cmdQuad, cmdMem, gExitOk, cmdFields, and_assoc] <;> grind
theorem evElementIssue (die : Nat) (idx : Nat) (elem : Nat) : Statement (.evElementIssue die idx elem) := nofun
theorem evTokenArrival (n : Nat) : Statement (.evTokenArrival n) := nofun
theorem evBlockFetch (die : Nat) (idx : Nat) (elem : Nat) : Statement (.evBlockFetch die idx elem) := nofun
theorem evBlockInstanceStart (die : Nat) (idx : Nat) (elem : Nat) : Statement (.evBlockInstanceStart die idx elem) := nofun
theorem evBlockStarved (inst : Nat) : Statement (.evBlockStarved inst) := nofun
theorem evCommit (inst : Nat) : Statement (.evCommit inst) := nofun
theorem evFootprintRegistration (n : Nat) : Statement (.evFootprintRegistration n) := nofun
theorem evParkedCommitResume (n : Nat) : Statement (.evParkedCommitResume n) := nofun
theorem evFrameMoveArrival (n : Nat) : Statement (.evFrameMoveArrival n) := nofun
theorem evFarAccessAtHome (n : Nat) : Statement (.evFarAccessAtHome n) := nofun
theorem evPostedEffectAtHome (n : Nat) : Statement (.evPostedEffectAtHome n) := nofun
theorem evPostedAckArrival (n : Nat) : Statement (.evPostedAckArrival n) := nofun
theorem evWaitingFarAccessPerform (die : Nat) (idx : Nat) (n : Nat) : Statement (.evWaitingFarAccessPerform die idx n) := nofun
theorem evBankArbitration (die : Nat) (idx : Nat) (bank : Nat) : Statement (.evBankArbitration die idx bank) := nofun
theorem evBankStarvationPromote (die : Nat) (idx : Nat) (bank : Nat) : Statement (.evBankStarvationPromote die idx bank) := nofun
theorem evFarReplyArrival (n : Nat) : Statement (.evFarReplyArrival n) := nofun
theorem evReplyHeldResend (n : Nat) : Statement (.evReplyHeldResend n) := nofun
theorem evLamplighterRelight (die : Nat) (idx : Nat) : Statement (.evLamplighterRelight die idx) := nofun
theorem evRangeSplit (die : Nat) (idx : Nat) : Statement (.evRangeSplit die idx) := nofun
theorem evFrameWaitGrant (die : Nat) (idx : Nat) : Statement (.evFrameWaitGrant die idx) := nofun
theorem evEmberReady (n : Nat) : Statement (.evEmberReady n) := nofun
theorem evRefusalCountLimit (n : Nat) : Statement (.evRefusalCountLimit n) := nofun
theorem evReservationTimeout (n : Nat) : Statement (.evReservationTimeout n) := nofun
theorem evArbitrationGrant (point : Point) : Statement (.evArbitrationGrant point) := nofun
theorem evCircuitTokenArrival (n : Nat) : Statement (.evCircuitTokenArrival n) := nofun
theorem evCreditReturn (n : Nat) : Statement (.evCreditReturn n) := nofun
theorem evBorderCrossing (n : Nat) : Statement (.evBorderCrossing n) := nofun
theorem evMasterFreeze (n : Nat) : Statement (.evMasterFreeze n) := nofun
theorem evSpaceTableItem (n : Nat) : Statement (.evSpaceTableItem n) := nofun
theorem evJoinRequest (n : Nat) : Statement (.evJoinRequest n) := nofun
theorem evLiveCountZero (vf : Nat) (ctx : Nat) (space : Nat) : Statement (.evLiveCountZero vf ctx space) := nofun
theorem evWaitRequest (n : Nat) : Statement (.evWaitRequest n) := nofun
theorem evBarrierArrival (n : Nat) : Statement (.evBarrierArrival n) := nofun
theorem evBarrierPhaseComplete (n : Nat) : Statement (.evBarrierPhaseComplete n) := nofun
theorem evBarwaitRequest (n : Nat) : Statement (.evBarwaitRequest n) := nofun
theorem evTlbWalk (n : Nat) : Statement (.evTlbWalk n) := nofun
theorem evStreamCommandArrival (n : Nat) : Statement (.evStreamCommandArrival n) := nofun
theorem evStreamCommandPerform (n : Nat) : Statement (.evStreamCommandPerform n) := nofun
theorem evStreamRoundBoundary (n : Nat) : Statement (.evStreamRoundBoundary n) := nofun
theorem evStreamPageFaultStop (n : Nat) : Statement (.evStreamPageFaultStop n) := nofun
theorem evEngineLineAccess (n : Nat) : Statement (.evEngineLineAccess n) := nofun
theorem evMeCommandPerform (n : Nat) : Statement (.evMeCommandPerform n) := nofun
theorem evVsuCommandPerform (n : Nat) : Statement (.evVsuCommandPerform n) := nofun
theorem evWindowCommandPerform (n : Nat) : Statement (.evWindowCommandPerform n) := nofun
theorem evDecodeFrame (n : Nat) : Statement (.evDecodeFrame n) := nofun
theorem evCollGroupComplete (n : Nat) : Statement (.evCollGroupComplete n) := nofun
theorem evStokElementSend (n : Nat) : Statement (.evStokElementSend n) := nofun
theorem evToksTokenCapture (n : Nat) : Statement (.evToksTokenCapture n) := nofun
theorem evCommandCompletion (n : Nat) : Statement (.evCommandCompletion n) := nofun
theorem evFaultDelivery (vf : Nat) (ctx : Nat) : Statement (.evFaultDelivery vf ctx) := nofun
theorem evHandlerDone (vf : Nat) (ctx : Nat) (slot : Nat) : Statement (.evHandlerDone vf ctx slot) := nofun
theorem evPreciseStop (vf : Nat) (ctx : Nat) : Statement (.evPreciseStop vf ctx) := nofun
theorem evParityFreezeReport (vf : Nat) (ctx : Nat) (die : Nat) (idx : Nat) (hop : Nat) (dir : Nat) (elem : Nat) : Statement (.evParityFreezeReport vf ctx die idx hop dir elem) := nofun
theorem evSnuffMarkerBroadcast (vf : Nat) (ctx : Nat) : Statement (.evSnuffMarkerBroadcast vf ctx) := nofun
theorem evQuadMarkerArrival (die : Nat) (idx : Nat) : Statement (.evQuadMarkerArrival die idx) := nofun
theorem evChannelMarkerArrival (n : Nat) : Statement (.evChannelMarkerArrival n) := nofun
theorem evQuadStateReadout (vf : Nat) (ctx : Nat) : Statement (.evQuadStateReadout vf ctx) := nofun
theorem evEngineSnuffStop (n : Nat) : Statement (.evEngineSnuffStop n) := nofun
theorem evQuadZeroing (die : Nat) (idx : Nat) : Statement (.evQuadZeroing die idx) := nofun
theorem evQuadZeroComplete (die : Nat) (idx : Nat) : Statement (.evQuadZeroComplete die idx) := nofun
theorem evLanternReport : Statement (.evLanternReport) := nofun
theorem evFactorUpdate (die : Nat) : Statement (.evFactorUpdate die) := nofun
theorem evSharedCostSplit : Statement (.evSharedCostSplit) := nofun
theorem evCandlePeriodStart (vf : Nat) : Statement (.evCandlePeriodStart vf) := nofun
theorem evCandleCut (vf : Nat) : Statement (.evCandleCut vf) := nofun
theorem evClassChange (vf : Nat) (ctx : Nat) : Statement (.evClassChange vf ctx) := nofun
theorem evPowerCheck (mw : Nat) : Statement (.evPowerCheck mw) := nofun
theorem evThermalLimit (die : Nat) (deg : Nat) : Statement (.evThermalLimit die deg) := nofun
theorem evThermalShutdown (die : Nat) (deg : Nat) : Statement (.evThermalShutdown die deg) := nofun
theorem evDeviceReset : Statement (.evDeviceReset) := nofun
theorem evHostLinkDegrade : Statement (.evHostLinkDegrade) := nofun
theorem evCxlMemRead (hpa : Nat) (len : Nat) : Statement (.evCxlMemRead hpa len) := nofun
theorem evCxlMemWrite (hpa : Nat) (bytes : List Byte) (poison : Bool) : Statement (.evCxlMemWrite hpa bytes poison) := nofun
theorem evCommandDoorbell (vf : Nat) (tail : Nat) : Statement (.evCommandDoorbell vf tail) := nofun
theorem evEventHeadWrite (vf : Nat) (head : Nat) : Statement (.evEventHeadWrite vf head) := nofun
theorem evRegisterWrite (vf : Nat) (off : Nat) (val : Word) : Statement (.evRegisterWrite vf off val) := nofun
theorem evFwcallDispatch (n : Nat) : Statement (.evFwcallDispatch n) := nofun
theorem evCreateContext (n : Nat) : Statement (.evCreateContext n) := nofun
theorem evDestroyContext (n : Nat) : Statement (.evDestroyContext n) := nofun
theorem evMap (n : Nat) : Statement (.evMap n) := nofun
theorem evMapGrant (n : Nat) : Statement (.evMapGrant n) := nofun
theorem evMapMove (n : Nat) : Statement (.evMapMove n) := nofun
theorem evMigrationDrainComplete (n : Nat) : Statement (.evMigrationDrainComplete n) := nofun
theorem evMigrationReissue (n : Nat) : Statement (.evMigrationReissue n) := nofun
theorem evUnmap (n : Nat) : Statement (.evUnmap n) := nofun
theorem evUnmapComplete (n : Nat) : Statement (.evUnmapComplete n) := nofun
theorem evLoadImage (n : Nat) : Statement (.evLoadImage n) := nofun
theorem evLaunch (n : Nat) : Statement (.evLaunch n) := nofun
theorem evQueryQuiescent (n : Nat) : Statement (.evQueryQuiescent n) := nofun
theorem evSaveImage (n : Nat) : Statement (.evSaveImage n) := nofun
theorem evSaveImageNonreleasing (n : Nat) : Statement (.evSaveImageNonreleasing n) := nofun
theorem evRestoreImage (n : Nat) : Statement (.evRestoreImage n) := nofun
theorem evSnuffCommand (n : Nat) : Statement (.evSnuffCommand n) := nofun
theorem evSetCandle (n : Nat) : Statement (.evSetCandle n) := nofun
theorem evReadLanterns (n : Nat) : Statement (.evReadLanterns n) := nofun
theorem evSetDieTable (n : Nat) : Statement (.evSetDieTable n) := nofun
theorem evMarkBadNodes (n : Nat) : Statement (.evMarkBadNodes n) := nofun
theorem evAttest (n : Nat) : Statement (.evAttest n) := nofun
theorem evLoadCalibration (n : Nat) : Statement (.evLoadCalibration n) := nofun
theorem evResetVf (n : Nat) : Statement (.evResetVf n) := nofun
theorem evSetCounting (n : Nat) : Statement (.evSetCounting n) := nofun
theorem evPodPacketReceive (src : Nat) (cls : Nat) (seqno : Nat) (port : Nat) (pkt : PodBody) : Statement (.evPodPacketReceive src cls seqno port pkt) := nofun
theorem evPodRetransmitTimeout (n : Nat) (port : Nat) : Statement (.evPodRetransmitTimeout n port) := nofun
theorem evPodPortFailure (port : Nat) : Statement (.evPodPortFailure port) := nofun
theorem evPodLost (pkg : Nat) : Statement (.evPodLost pkg) := nofun

end Sys2Proof.Laws.Admits
end

