-- ==== Sys2Proof/Tests/Slice0.lean ====
section
/-!
SUPPORT. Tests: the checks of WellFormed refuse, words written out from the spec decode, the spec's worked values come
out, and every statement's hypotheses are met by a small state.
-/

namespace Sys2Proof.Tests

open Sys2Proof Sys2Proof.Machine

set_option maxRecDepth 20000
set_option Elab.async false

/-! ### Small states -/

/-- The context, quad, strand tag and image of the tests: one region of one quad, code at 0x10000 with the blocks at
offsets 0 and 64 placed there, one declared pool of two spaces, a .quad barrier 3 of one, a circuit from the quad to
itself. -/
def cx0 : CtxId := ⟨0, 0⟩
def qi : QuadId := ⟨0, 0⟩

def region0 : RegionDecl :=
  { w := 1, h := 1, entry := some 0, iters := 1, framesKiB := 64, overflowKiB := 64, embersKiB := 64,
    places := [⟨0, [⟨0, 0, 0⟩]⟩, ⟨64, [⟨0, 0, 0⟩]⟩], barriers := [⟨3, 1, 2, none⟩], vault := [] }

def im0 : Image :=
  { code := [], regions := [region0], tagspaces := [⟨1, 4, 1, 2, none⟩], circuits := [⟨0, 0, 0, 0, 64, 5⟩], hdata := 0, hbm := [],
    recorded := none }

def c0 : Context :=
  { Context.initial cx0 with
    run := .running, image := some im0, codeBase := 0x10000, aperture := 2 ^ 33, regions := [⟨0, 0, 0, 0⟩],
    spaces := [{ Space.initial 0 with allocated := true }, { Space.initial 1 with decl := some 0, level := 1, k := 4 },
      { Space.initial 2 with decl := some 0, level := 1, k := 4, allocated := true, gen := 5, live := 1 }],
    credits := [32], params := { LaunchParams.initial with handler := 0x10000, budget := 100 }, budget := 100, ring := 0x100000,
    energy := 65536 * 7 }

def q0 : Quad := Quad.initial qi cx0 0 0 0
def st0 : Strand := Strand.initial 2 cx0 0x9

/-- An instance with one slot in play, its block at 0x10000. -/
def i0 : Inst := { Inst.initial 1 st0 qi [0x01180109, 0, 0, 0] with addr := 0x10000 }

def base : State := { State.reset with quads := [q0], contexts := [c0], nextId := 10, ready := true, hdmBase := 2 ^ 44 }

/-- The lane of slot 0 with its operands, and the state about to run it. -/
def lane (a b x : Option Tok) : Lane := ⟨1, 0, ⟨a, b, x⟩⟩
def run (i : Inst) (a b x : Option Tok) : State := { base with insts := [i], lanes := [lane a b x] }
def run0 (a b x : Option Tok) : State := run i0 a b x

/-- A value operand. -/
def v (w : Word) : Option Tok := some (.val w)

/-- The next state of an outcome. -/
def after (o : Out) : Option State := match o with | .next s => some s | _ => none

/-- The tokens a step sends, and the instance's exception flags after it. -/
def toks (o : Out) : List Tok := ((after o).map fun s => s.flying.map (·.tok)).getD []
def flagsOf (o : Out) : Nat := ((after o).bind fun s => s.insts.head?.map (·.flags)).getD 999

/-- One value operand, two, three. -/
def one (f : Instr) (a : Word) : Out := exec f (run0 (v a) none none)
def two (f : Instr) (a b : Word) : Out := exec f (run0 (v a) (v b) none)
def three (f : Instr) (a b x : Word) : Out := exec f (run0 (v a) (v b) (v x))

/-- A G format at a width or format, to i0.l. -/
def g (xop : BitVec 3) : FmtG := ⟨0, xop, 0, 0x80⟩
def ig (xop : BitVec 3) (imm : BitVec 9) : FmtI := ⟨0, xop, imm, 0x80⟩

/-! ### Well-formedness: a term outside each check -/

theorem test_wf_good : (Instr.sub ⟨0, 6, 0, 0x109⟩).wf = true := by decide
theorem test_wf_pr : (Instr.add ⟨1, 0, 0, 0⟩).wf = false := by decide
theorem test_wf_width : (Instr.mul ⟨0, 4, 0, 0⟩).wf = false := by decide
theorem test_wf_xop : (Instr.pand ⟨0, 1, 0, 0⟩).wf = false := by decide
theorem test_wf_unpredicated : (Instr.sel ⟨2, 0, 0, 0⟩).wf = false := by decide
theorem test_wf_merge : (Instr.merge ⟨0, 1, 0, 0⟩).wf = false := by decide
theorem test_wf_fan : (Instr.fan ⟨0, 0, 0, 0, 1, 0, 0⟩).wf = false := by decide
theorem test_wf_format : (Instr.fadd ⟨0, 3, 0, 0⟩).wf = false := by decide
theorem test_wf_rounding : (Instr.frnd ⟨0, 0, 6, 0⟩).wf = false := by decide
theorem test_wf_fused : (Instr.ffma ⟨3, 0, 0, 0⟩).wf = false := by decide
theorem test_wf_fcvt : (Instr.fcvt ⟨0, 0, 0x0F0, 0⟩).wf = false := by decide
theorem test_wf_fcvts : (Instr.fcvts ⟨0, 0, 0x108, 0⟩).wf = false := by decide
theorem test_wf_mxscl : (Instr.mxscl ⟨0, 0, 0x116, 0⟩).wf = false := by decide
theorem test_wf_nstore : (Instr.nstore ⟨0, 0, 1⟩).wf = false := by decide
theorem test_wf_fld : (Instr.fld ⟨0, 0, 0, 0, 1, 0, 0⟩).wf = false := by decide
theorem test_wf_facas : (Instr.facas ⟨2, 0, 0, 0, 0, 0, 0⟩).wf = false := by decide
theorem test_wf_fst : (Instr.fst ⟨0, 0, 1, 0, 0, 0⟩).wf = false := by decide
theorem test_wf_fstr_scope : (Instr.fstr ⟨0, 0, 0, 0, 0, 0⟩).wf = false := by decide
theorem test_wf_fence : (Instr.fence ⟨0, 0, 7⟩).wf = false := by decide
theorem test_wf_xmit : (Instr.xmit ⟨0, 0, 0, 0, 0, 0x400⟩).wf = false := by decide
theorem test_wf_end : (Instr.endStrand ⟨0, 0, 1⟩).wf = false := by decide
theorem test_wf_bri : (Instr.bri ⟨0, 0, 1, 0⟩).wf = false := by decide
theorem test_wf_tsalloc : (Instr.tsalloc ⟨0, 0, 64, 0⟩).wf = false := by decide
theorem test_wf_tagnew : (Instr.tagnew ⟨0, 0, 1, 0⟩).wf = false := by decide
theorem test_wf_tsfree : (Instr.tsfree ⟨0, 0, 1⟩).wf = false := by decide
theorem test_wf_bararr : (Instr.bararr ⟨0, 0, 0x40⟩).wf = false := by decide
theorem test_wf_spawn : (Instr.spawn ⟨0, 0, 0, 0, 0, 0x40000⟩).wf = false := by decide
theorem test_wf_join : (Instr.joinOp ⟨0, 0, 0, 1, 0, 0, 0⟩).wf = false := by decide
theorem test_wf_barwait : (Instr.barwait ⟨0, 0, 0, 0, 0, 0, 64⟩).wf = false := by decide
theorem test_wf_wait : (Instr.waitOp ⟨0, 0, 0, 0, 0, 0, 1⟩).wf = false := by decide
theorem test_wf_stream_engine : (Instr.scopy ⟨0, 0, 0, 0, 0, 0x80000⟩).wf = false := by decide
theorem test_wf_sparam : (Instr.sparam ⟨0, 0, 0, 0, 0, 1⟩).wf = false := by decide
theorem test_wf_quad_engine : (Instr.mxcfg ⟨0, 0, 0, 0, 0, 0x10000⟩).wf = false := by decide
theorem test_wf_mxrel : (Instr.mxrel ⟨0, 0, 0, 0, 0, 2⟩).wf = false := by decide
theorem test_wf_decode : (Instr.decode ⟨0, 0, 0, 0, 0, 1⟩).wf = false := by decide
theorem test_wf_hquery : (Instr.hquery ⟨0, 0, 0, 0, 0, 1⟩).wf = false := by decide
theorem test_wf_rsquery : (Instr.rsquery ⟨0, 0, 0, 0, 0, 0x4000000⟩).wf = false := by decide
theorem test_wf_stok : (Instr.stok ⟨0, 0, 0, 0, 0, 0x400⟩).wf = false := by decide
theorem test_wf_srd : (Instr.srd ⟨0, 0, 0x14, 0⟩).wf = false := by decide
theorem test_wf_swr : (Instr.swr ⟨0, 0, 8, 1⟩).wf = false := by decide
theorem test_wf_trap : (Instr.trap ⟨0, 0, 0, 1⟩).wf = false := by decide
theorem test_wf_bkpt : (Instr.bkpt ⟨0, 0, 1, 0⟩).wf = false := by decide
theorem test_wf_perfrd : (Instr.perfrd ⟨0, 0, 0x16, 0⟩).wf = false := by decide

/-! ### Decoding: the worked encodings of chapters 03 to 17, and words made from the tables of R93 -/

theorem test_decode_sub : decodeTableWord 32 0x01180109 = some (.sub ⟨0, 6, 0, 0x109⟩) := by rfl
theorem test_decode_minsi : decodeTableWord 32 0x2487F60C = some (.minsi ⟨0, 1, 0x1FB, 0x00C⟩) := by rfl
theorem test_decode_bfi : decodeTableWord 32 0x19000084 = some (.bfi ⟨0, 0, 0, 0x084⟩) := by rfl
theorem test_decode_steer : decodeTableWord 32 0x42610C84 = some (.steer ⟨3, 0, 0x086, 0x084⟩) := by rfl
theorem test_decode_merge : decodeTableWord 32 0x42800003 = some (.merge ⟨0, 0, 0, 0x003⟩) := by rfl
theorem test_decode_tagof : decodeTableWord 32 0x44001301 = some (.tagof ⟨0, 0, 0x009, 0x101⟩) := by rfl
theorem test_decode_fan : decodeTableWord 64 0x00000D8543020883 = some (.fan ⟨0, 0, 0x104, 0x083, 0, 0x006, 0x185⟩) := by rfl
theorem test_decode_genc : decodeTableWord 32 0xF13C6E81 = some (.genc ⟨0, 0x9E37, 0x081⟩) := by rfl
theorem test_decode_appc : decodeTableWord 32 0xF8F37282 = some (.appc ⟨0, 0x79B9, 0x082⟩) := by rfl
theorem test_decode_rdc : decodeTableWord 32 0x43FC0084 = some (.rdc ⟨31, 0, 0x084⟩) := by rfl
theorem test_decode_fadd : decodeTableWord 32 0x50040080 = (some (.fadd ⟨0, 1, 0, 0x080⟩)) := by rfl
theorem test_decode_ldd : decodeTableWord 32 0x8003FE82 = some (.ldd ⟨0, 3, 0x7F, 0x082⟩) := by rfl
theorem test_decode_std : decodeTableWord 32 0x841F0010 = some (.std ⟨0, 31, 0x0010⟩) := by rfl
theorem test_decode_fld : decodeTableWord 64 0x0000400090009000 = some (.fld ⟨0, 0, 1, 4, 0, 1, 0⟩) := by rfl
theorem test_decode_br : decodeTableWord 32 0xA01FFFFF = some (.br ⟨0, 7, 0x3FFFF⟩) := by rfl
theorem test_decode_scopy : decodeTableWord 64 0x100F0000B0000083 = some (.scopy ⟨0, 0, 0, 0x083, 2, 0xF0000⟩) := by rfl
theorem test_decode_swr : decodeTableWord 32 0xC0801200 = some (.swr ⟨0, 0, 0x009, 0⟩) := by rfl
theorem test_decode_trap : decodeTableWord 32 0xC1040A00 = some (.trap ⟨0, 1, 5, 0⟩) := by rfl
theorem test_decode_perfrd : decodeTableWord 32 0xC2801607 = some (.perfrd ⟨0, 0, 0x00B, 0x007⟩) := by rfl
/-- R95: a reserved pr, a predicate on an unpredicated instruction, a reserved opcode, an X format in the last slot. -/
theorem test_decode_pr : decodeTableWord 32 0x00A00000 = none := by rfl
theorem test_decode_unpredicated : decodeTableWord 32 0x42C00003 = none := by rfl
theorem test_decode_opcode : decodeTableWord 32 0x3F800000 = none := by rfl
theorem test_decode_truncated : decode [0x00, 0x90, 0x00, 0x90] = .error .truncated := by rfl
theorem test_encode : encodeBytes (.sub ⟨0, 6, 0, 0x109⟩) = [0x09, 0x01, 0x18, 0x01] := by rfl

/-! ### Worked values: the spec's own cases, and hand calculations from its definitions -/

theorem test_add_sat : toks (two (.add (g 6)) 0x7FFF 1) = [.val 0x7FFF] := by decide +kernel
theorem test_sub_wraps : toks (two (.sub (g 3)) 0 1) = [.val 0xFF] := by decide +kernel
theorem test_mul : toks (two (.mul (g 1)) 0x10001 0x10001) = [.val 0x20001] := by decide +kernel
theorem test_mulhs : toks (two (.mulhs (g 3)) 0x80 0x80) = [.val 0x40] := by decide +kernel
theorem test_mulhu : toks (two (.mulhu (g 3)) 0x80 0xFF) = [.val 0x7F] := by decide +kernel
theorem test_divs_zero : toks (two (.divs (g 2)) 7 0) = [.val 0xFFFF] := by decide +kernel
theorem test_divs_least : toks (two (.divs (g 3)) 0x80 0xFF) = [.val 0x80] := by decide +kernel
theorem test_divu : toks (two (.divu (g 0)) 100 7) = [.val 14] := by decide +kernel
theorem test_rems : toks (two (.rems (g 3)) 0xF9 2) = [.val 0xFF] := by decide +kernel
theorem test_remu_zero : toks (two (.remu (g 0)) 9 0) = [.val 9] := by decide +kernel
theorem test_and : toks (two (.andOp (g 0)) 0xC 0xA) = [.val 8] := by decide +kernel
theorem test_or : toks (two (.orOp (g 0)) 0xC 0xA) = [.val 0xE] := by decide +kernel
theorem test_xor : toks (two (.xorOp (g 0)) 0xC 0xA) = [.val 6] := by decide +kernel
theorem test_andn : toks (two (.andn (g 0)) 0xC 0xA) = [.val 4] := by decide +kernel
theorem test_orn : toks (two (.orn (g 3)) 0xC 0xFA) = [.val 0x0D] := by decide +kernel
theorem test_shl_over : toks (two (.shl (g 0)) 1 64) = [.val 0] := by decide +kernel
theorem test_shr : toks (two (.shr (g 3)) 0x180 7) = [.val 1] := by decide +kernel
theorem test_sar_over : toks (two (.sar (g 3)) 0x80 200) = [.val 0xFF] := by decide +kernel
theorem test_rol : toks (two (.rol (g 3)) 0x81 9) = [.val 3] := by decide +kernel
theorem test_ror : toks (two (.ror (g 3)) 0x81 1) = [.val 0xC0] := by decide +kernel
theorem test_mins : toks (two (.mins (g 3)) 0x80 1) = [.val 0x80] := by decide +kernel
theorem test_minu : toks (two (.minu (g 3)) 0x80 1) = [.val 1] := by decide +kernel
theorem test_maxs : toks (two (.maxs (g 3)) 0x80 1) = [.val 1] := by decide +kernel
theorem test_maxu : toks (two (.maxu (g 3)) 0x80 1) = [.val 0x80] := by decide +kernel
theorem test_absd : toks (two (.absd (g 3)) 1 0xFF) = [.val 0xFE] := by decide +kernel
theorem test_neg : toks (one (.neg (g 3)) 1) = [.val 0xFF] := by decide +kernel
theorem test_abs_least : toks (one (.abs (g 3)) 0x80) = [.val 0x80] := by decide +kernel
theorem test_not : toks (one (.notOp (g 3)) 0x0F) = [.val 0xF0] := by decide +kernel
theorem test_clz : toks (one (.clz (g 1)) 1) = [.val 31] := by decide +kernel
theorem test_ctz_zero : toks (one (.ctz (g 2)) 0) = [.val 16] := by decide +kernel
theorem test_popc : toks (one (.popc (g 3)) 0x1FF) = [.val 8] := by decide +kernel
theorem test_brev : toks (one (.brev (g 3)) 1) = [.val 0x80] := by decide +kernel
theorem test_bswap : toks (one (.bswap (g 2)) 0x1234) = [.val 0x3412] := by decide +kernel
theorem test_sext : toks (one (.sext (g 3)) 0x80) = [.val 0xFFFFFFFFFFFFFF80] := by decide +kernel
theorem test_zext : toks (one (.zext (g 3)) 0x1FF) = [.val 0xFF] := by decide +kernel
theorem test_mov : toks (one (.mov (g 0)) 5) = [.val 5] := by decide +kernel
theorem test_bfx : toks (three (.bfx (g 0)) 0xABCD 0 0x0804) = [.val 0xBC] := by decide +kernel
theorem test_bfxs : toks (three (.bfxs (g 0)) 0xABCD 4 0x0404) = [.val 0xFFFFFFFFFFFFFFC0] := by decide +kernel
theorem test_bfi : toks (three (.bfi (g 0)) 0xFFFF 0 0x0404) = [.val 0xFF0F] := by decide +kernel
theorem test_sel : toks (three (.sel (g 0)) 1 2 1) = [.val 1] := by decide +kernel
theorem test_madd : toks (three (.madd (g 3)) 16 17 0xFF) = [.val 0x0F] := by decide +kernel
theorem test_fsh : toks (three (.fsh (g 3)) 0x12 0x34 4) = [.val 0x23] := by decide +kernel
theorem test_addi : toks (one (.addi (ig 0 0x1FF)) 3) = [.val 2] := by decide +kernel
theorem test_minsi : toks (one (.minsi (ig 1 0x1FB)) 7) = [.val 0xFFFFFFFB] := by decide +kernel
theorem test_shli : toks (one (.shli (ig 0 5)) 3) = [.val 96] := by decide +kernel
theorem test_tlts : toks (two (.tlts (g 3)) 0x80 1) = [.val 1] := by decide +kernel
theorem test_tltu : toks (two (.tltu (g 3)) 0x80 1) = [.val 0] := by decide +kernel
theorem test_tgesi : toks (one (.tgesi (ig 0 0x1FF)) 0) = [.val 1] := by decide +kernel
theorem test_genc : toks (exec (.genc ⟨0, 0x9E37, 0x081⟩) (run0 none none none)) = [.val 0xFFFFFFFFFFFF9E37] := by decide +kernel
theorem test_appc : toks (one (.appc ⟨0, 0x79B9, 0x082⟩) 0xFFFFFFFFFFFF9E37) = [.val 0xFFFFFFFF9E3779B9] := by decide +kernel
theorem test_fan : toks (one (.fan ⟨0, 0, 0x104, 0x083, 0, 0x006, 0x185⟩) 9) = [.val 9, .val 9, .val 9] := by decide +kernel
theorem test_absorbs : toks (exec (.add ⟨2, 0, 0, 0x80⟩) (run0 (v 1) (v 2) (v 1))) = [] := by decide +kernel
theorem test_null : toks (exec (.add (g 0)) (run0 (some .null) (v 2) none)) = [.null] := by decide +kernel
theorem test_steer_goes : toks (exec (.pand (g 0)) (run0 (v 3) (v 1) none)) = [.val 1] := by decide +kernel

/-- R146: FFMS of the worked case. -/
theorem test_ffms : toks (three (.ffms (g 0)) 0x3F800001 0x3F7FFFFF 0x3F800000) = [.val 0x337FFFFE] := by decide +kernel
theorem test_ffms_flags : flagsOf (three (.ffms (g 0)) 0x3F800001 0x3F7FFFFF 0x3F800000) = 0 := by decide +kernel
theorem test_fmul_rounds : toks (two (.fmul (g 0)) 0x3F800001 0x3F7FFFFF) = [.val 0x3F800000] := by decide +kernel
theorem test_fadd_half : toks (two (.fadd (g 1)) 0x3C00 0x3C00) = [.val 0x4000] := by decide +kernel
theorem test_fsub_zero : toks (two (.fsub (g 0)) 0x3F800000 0x3F800000) = [.val 0] := by decide +kernel
theorem test_fdiv_zero : toks (two (.fdiv (g 0)) 0x3F800000 0x80000000) = [.val 0xFF800000] := by decide +kernel
theorem test_fmin_zeros : toks (two (.fmin (g 0)) 0 0x80000000) = [.val 0x80000000] := by decide +kernel
theorem test_fsqrt : toks (one (.fsqrt (g 0)) 0x40800000) = [.val 0x40000000] := by decide +kernel
/-- R149's results, R116's EX2 at the end of its range, and R150's FRND. -/
theorem test_sinp_half : toks (one (.sinp (g 0)) 0x3F000000) = [.val 0x3F800000] := by decide +kernel
theorem test_sinp_minus_two : toks (one (.sinp (g 0)) 0xC0000000) = [.val 0x80000000] := by decide +kernel
theorem test_cosp_half : toks (one (.cosp (g 0)) 0x3F000000) = [.val 0] := by decide +kernel
theorem test_lg2_least : toks (one (.lg2 (g 0)) 1) = [.val 0xC3150000] := by decide +kernel
theorem test_ex2_least : toks (one (.ex2 (g 0)) 0xC3150000) = [.val 1] := by decide +kernel
theorem test_ex2_below : flagsOf (one (.ex2 (g 0)) 0xC3160000) = 24 := by decide +kernel
theorem test_frnd_rm : toks (one (.frnd (ig 0 3)) 0xBF000000) = [.val 0xBF800000] := by decide +kernel
theorem test_frnd_rz : toks (one (.frnd (ig 0 1)) 0xBF000000) = [.val 0x80000000] := by decide +kernel
/-- R155's table. -/
theorem test_fcvts_saturates : toks (one (.fcvts (ig 0 0x102)) 0x43480000) = [.val 0x7F] := by decide +kernel
theorem test_fcvts_rne : toks (one (.fcvts (ig 0 0x10A)) 0xC0200000) = [.val 0xFFFFFFFE] := by decide +kernel
theorem test_fcvts_rna : toks (one (.fcvts (ig 4 0x10A)) 0xC0200000) = [.val 0xFFFFFFFD] := by decide +kernel
theorem test_fcvtu_small : flagsOf (one (.fcvtu (ig 0 0x104)) 0xBECCCCCD) = 16 := by decide +kernel
theorem test_fcvtu_negative : flagsOf (one (.fcvtu (ig 0 0x104)) 0xBF800000) = 1 := by decide +kernel
theorem test_scvtf : toks (one (.scvtf (ig 0 0x0B2)) 70000) = [.val 0x7C00] := by decide +kernel
theorem test_scvtf_sat : toks (one (.scvtf (ig 0 0x0B3)) 70000) = [.val 0x7BFF] := by decide +kernel
/-- R154: an infinity stays one between equal types, saturating or not. -/
theorem test_fcvt_equal : toks (one (.fcvt (ig 0 0x111)) 0x7F800000) = [.val 0x7F800000] := by decide +kernel
/-- R15 to R18: K enters row 1 at F4; F5 reaches M2 through M5 and F6; the package has 24 boundaries of two directions. -/
theorem test_route_k : dieRoute 16 12 = [4, 12] := by decide +kernel
theorem test_route_row : dieRoute 5 10 = [13, 6, 10] := by decide +kernel
theorem test_boundaries : boundaries.length = 2 * 24 := by decide +kernel
/-- R310: data sections in source order, each from the next multiple of 64. -/
theorem test_vault_places : (vaultPlaces 0 [List.replicate 65 1, [], [2]]).map (·.1) = [0, 128, 128] := by decide
theorem test_ftlt : toks (two (.ftlt (g 0)) 0x80000000 0) = [.val 0] := by decide +kernel

/-! ### Witnesses: states and operands that meet the hypotheses of each statement -/

def l0 : Lane := lane none none none
def l1 (a : Word) : Lane := lane (v a) none none
def l2 (a b : Word) : Lane := lane (v a) (v b) none
def l3 (a b x : Word) : Lane := lane (v a) (v b) (v x)
def s0 : State := run0 none none none
def s1 (a : Word) : State := run0 (v a) none none
def s2 (a b : Word) : State := run0 (v a) (v b) none
def s3 (a b x : Word) : State := run0 (v a) (v b) (v x)

/-- A lane with two operands fires, unpredicated and with a matching predicate. -/
theorem wit_two (a b : Word) : (Fires (s2 a b) 0 (l2 a b) i0 ∧ Two (l2 a b) a b) ∧
    Fires (s3 a b 1) 3 (l3 a b 1) i0 ∧ Two (l3 a b 1) a b := ⟨⟨⟨rfl, rfl, rfl⟩, rfl, rfl⟩, ⟨rfl, rfl, rfl⟩, rfl, rfl⟩
theorem wit_one (a : Word) : Fires (s1 a) 0 (l1 a) i0 ∧ One (l1 a) a := ⟨⟨rfl, rfl, rfl⟩, rfl⟩
theorem wit_three (a b x : Word) : Fires (s3 a b x) 0 (l3 a b x) i0 ∧ Three (l3 a b x) a b x :=
  ⟨⟨rfl, rfl, rfl⟩, rfl, rfl, rfl⟩
theorem wit_none : Fires s0 0 l0 i0 := ⟨rfl, rfl, rfl⟩

theorem wit_IntArithmeticResults : Fires (s2 1 2) (g 0).pr (l2 1 2) i0 ∧ Two (l2 1 2) 1 2 := (wit_two 1 2).1
theorem wit_DivisionResults : Fires (s2 7 0) (g 3).pr (l2 7 0) i0 ∧ Two (l2 7 0) 7 0 := (wit_two 7 0).1
theorem wit_LogicAndShiftResults : Fires (s2 1 64) (g 0).pr (l2 1 64) i0 ∧ Two (l2 1 64) 1 64 := (wit_two 1 64).1
theorem wit_IntUnaryResults : Fires (s1 0) (g 0).pr (l1 0) i0 ∧ One (l1 0) 0 := wit_one 0
theorem wit_BitFieldResults : Fires (s3 1 0 0x0804) 0 (l3 1 0 0x0804) i0 ∧ Three (l3 1 0 0x0804) 1 0 0x0804 := wit_three 1 0 0x0804
theorem wit_SelMaddFshResults : Fires (s3 1 2 0) 0 (l3 1 2 0) i0 ∧ Three (l3 1 2 0) 1 2 0 := wit_three 1 2 0
theorem wit_ImmediateResults : Fires (s1 9) (ig 3 0x1FF).pr (l1 9) i0 ∧ (ig 3 0x1FF).xop.toNat < 4 ∧ One (l1 9) 9 :=
  ⟨(wit_one 9).1, by decide, rfl⟩
theorem wit_CompareResults : (Fires (s2 1 2) (g 0).pr (l2 1 2) i0 ∧ Two (l2 1 2) 1 2) ∧
    Fires (s1 1) (ig 0 2).pr (l1 1) i0 ∧ One (l1 1) 1 := ⟨(wit_two 1 2).1, wit_one 1⟩
theorem wit_ExactOperations : ((Ex.zero true).isNumber ∧ (Ex.fin false 1 3).isNumber) ∧ (Ex.fin false 1 3).rat ≠ 0 :=
  ⟨⟨trivial, by decide, by decide⟩, by decide +kernel⟩
theorem wit_RoundingModes : 0 < (2 : Nat) ∧ ((3 : Nat) : Rat) / (2 : Nat) / (2 : Rat) ^ (0 : Int) - 1 = 1 / 2 := ⟨by decide, by decide +kernel⟩
theorem wit_FloatArithmeticResults : (Fires (s2 0x3F800000 0x80000000) (g 0).pr (l2 0x3F800000 0x80000000) i0 ∧
    Two (l2 0x3F800000 0x80000000) 0x3F800000 0x80000000) ∧ (g 2).xop.toNat < 3 := ⟨(wit_two _ _).1, by decide⟩
theorem wit_FloatSelectionResults : (Fires (s2 0x7E00 0) (g 1).pr (l2 0x7E00 0) i0 ∧ Two (l2 0x7E00 0) 0x7E00 0) ∧
    (g 1).xop.toNat < 3 := ⟨(wit_two _ _).1, by decide⟩
theorem wit_FusedResults : (Fires (s3 1 2 3) 0 (l3 1 2 3) i0 ∧ Three (l3 1 2 3) 1 2 3) ∧ (g 0).xop.toNat < 3 :=
  ⟨wit_three 1 2 3, by decide⟩
theorem wit_FloatUnaryResults : (Fires (s1 0x3FC0) (g 2).pr (l1 0x3FC0) i0 ∧ One (l1 0x3FC0) 0x3FC0) ∧
    (g 2).xop.toNat < 3 ∧ fltMag 2 0x3FC0 < fltInf 2 := ⟨wit_one 0x3FC0, by decide, by decide⟩
/-- A zero, an infinity, a NaN, a negative, 1.0 and 0.5 for the clauses of R149. -/
theorem wit_SpecialFunctionResults : (Fires (s1 0x3800) (g 1).pr (l1 0x3800) i0 ∧ One (l1 0x3800) 0x3800) ∧
    (g 1).xop.toNat < 3 ∧ fltIsNan 1 0x7E00 ∧ fltMag 1 0xFC00 = fltInf 1 ∧ fltNeg 1 0xFC00 = true ∧ fltMag 1 0x8000 = 0 ∧
    (fltEx 1 0x3C00).rat = ((1 : Int) : Rat) ∧ (fltEx 1 0x3800).rat = ((0 : Int) : Rat) + 1 / 2 :=
  ⟨wit_one _, by decide, by decide, by decide, by decide, by decide, by decide +kernel, by decide +kernel⟩
theorem wit_FloatCompareResults : (Fires (s2 0x7FC00000 0) (g 0).pr (l2 0x7FC00000 0) i0 ∧
    Two (l2 0x7FC00000 0) 0x7FC00000 0) ∧ (g 0).xop.toNat < 3 := ⟨(wit_two _ _).1, by decide⟩
/-- FP16 to INT8, INT32 to FP16; 2.0 quantised to FP8 with the scale 127, and its scale; 0.5 rounded to an integer. -/
theorem wit_ConversionResults : (Fires (s1 0x3800) (ig 0 0x122).pr (l1 0x3800) i0 ∧ One (l1 0x3800) 0x3800) ∧
    ((0x122#9).extractLsb' 5 4).toNat = 9 ∧ ((0x122#9).extractLsb' 1 4).toNat < 8 ∧
    ((0x0B2#9).extractLsb' 5 4).toNat < 8 ∧ ((0x116#9).extractLsb' 1 4).toNat = 0xB ∧
    (floatValue 8 0x40000000).ex = .fin false 8388608 4194304 ∧ (0 < fltMag 1 0x3800 ∧ fltMag 1 0x3800 < fltInf 1) :=
  ⟨wit_one _, by decide, by decide, by decide, by decide, by decide +kernel, by decide, by decide⟩

theorem wit_PredicateAndSteering : (Fires (s2 1 2) (g 0).pr (l2 1 2) i0 ∧ Two (l2 1 2) 1 2) ∧
    (Fires (s1 1) (g 0).pr (l1 1) i0 ∧ One (l1 1) 1) ∧
    (let l := lane (some .null) none (v 1)
     Fires (run0 (some .null) none (v 1)) 0 l i0 ∧ l.ops.third = some (.val 1) ∧
       (if (1#64).getLsbD 0 then l.ops.left else l.ops.right) = some .null) ∧
    (let l := lane none (v 3) (some .null)
     Fires (run0 none (v 3) (some .null)) 0 l i0 ∧ l.ops.third = some .null) :=
  ⟨(wit_two 1 2).1, wit_one 1, ⟨⟨rfl, rfl, rfl⟩, rfl, rfl⟩, ⟨rfl, rfl, rfl⟩, rfl⟩

/-- Space 2 of the tests' context is allocated with generation 5; a tag of it, and one with another generation. -/
def goodTag : Word := 0x250003
theorem wit_ConstantsReadsAndTags : Fires s0 (g 0).pr l0 i0 ∧ i0.frame.regs[(31#5).toNat]? = some 0 ∧
    (Fires (s2 15 goodTag) (g 0).pr (l2 15 goodTag) i0 ∧ Two (l2 15 goodTag) 15 goodTag) ∧
    (∃ c r, (s2 15 goodTag).ctx? i0.frame.strand.cx = some c ∧ c.region? 0 = some r) ∧
    (∃ p, (s2 15 goodTag).space? i0.frame.strand.cx 2 = some p ∧ p.openTo i0.frame.strand = true ∧ p.gen = 5 ∧
      15 < 2 ^ p.k ∧ ¬ 16 < 2 ^ p.k) :=
  ⟨wit_none, rfl, (wit_two _ _).1, ⟨c0, ⟨0, 0, 0, 0⟩, rfl, rfl⟩, _, rfl, by decide, by decide, by decide, by decide⟩

theorem wit_PredicatesAndNulls :
    ((Instr.add ⟨2, 0, 0, 0x80⟩).WellFormed ∧ (Instr.add ⟨2, 0, 0, 0x80⟩).form.map (·.2.pr) = some 2 ∧
      (run0 (v 1) (v 2) (some .null)).lanes.head? = some (lane (v 1) (v 2) (some .null)) ∧ (1#64).getLsbD 0 = (2#2 == 2)) ∧
    (let l := lane (some .null) (v 2) none
     Fires (run0 (some .null) (v 2) none) 0 l i0 ∧ l.ops.left = some .null ∧ l.ops.right.isSome) ∧
    (let l := lane (v 1) (some .null) none
     Fires (run0 (v 1) (some .null) none) 0 l i0 ∧ l.ops.left.isSome ∧ l.ops.right = some .null) :=
  ⟨⟨by decide, by decide, rfl, by decide⟩, ⟨⟨rfl, rfl, rfl⟩, rfl, rfl⟩, ⟨rfl, rfl, rfl⟩, rfl, rfl⟩

/-- Between two values the higher slot wins, and the lower where it is there already. -/
theorem wit_TokenDelivery : (3#7 ≠ 0) ∧ (1#2 ≠ 0) ∧
    ([(3, 5, some 9)] : List (Nat × Nat × Option Word)).find? (·.1 = (3#7).toNat) = some ((3#7).toNat, 5, some 9) := by decide

/-! #### Memory instructions. T is 0x5D0000 with three 64 KiB areas. -/

/-- A quad with a registered write interval [64, 128), and one whose vault holds poison at 256. -/
def qw : Quad := { q0 with entries := [.pending 7 0 ⟨0, 8⟩ ⟨64, 128⟩] }
def sw (a b : Word) : State := { s2 a b with quads := [qw] }
def sp (a b : Word) : State := { s2 a b with poison := [vaultBase qi + 256] }

theorem test_tileTop : base.tileTop q0 = 0x5D0000 := by decide +kernel

theorem clear_q0 (a n : Nat) : q0.clearOfAccesses a n :=
  ⟨fun _ _ _ _ h => by simp [q0, Quad.initial] at h, fun _ h => by simp [q0, Quad.initial] at h⟩
theorem clear_q0w (a n : Nat) : q0.clearOfWrites a n :=
  ⟨fun _ _ _ _ h => by simp [q0, Quad.initial] at h, fun _ h => by simp [q0, Quad.initial] at h⟩
theorem unclear_qw : ¬ qw.clearOfWrites 64 8 := fun h => by
  have := h.1 7 0 ⟨0, 8⟩ ⟨64, 128⟩ (by simp [qw]); revert this; decide
theorem unclear_qa : ¬ qw.clearOfAccesses 0 8 := fun h => by
  have := (h.1 7 0 ⟨0, 8⟩ ⟨64, 128⟩ (by simp [qw])).2; revert this; decide

/-- The highest aligned doubleword. -/
theorem wit_NearLoadResults : (Fires (s1 0x5CFFF8) 0 (l1 0x5CFFF8) i0 ∧ One (l1 0x5CFFF8) 0x5CFFF8) ∧
    (s1 0x5CFFF8).quad? i0.frame.quad = some q0 ∧ loadAddr ⟨0, 0, 0, 0x80⟩ 8 0x5CFFF8 + 8 = (s1 0x5CFFF8).tileTop q0 ∧
    loadAddr ⟨0, 0, 0, 0x80⟩ 8 0x5CFFF8 % 8 = 0 ∧ q0.clearOfWrites 0x5CFFF8 8 ∧
    (s1 0x5CFFF8).nearPoisoned i0.frame.strand i0.frame.quad 0x5CFFF8 8 = false ∧
    (s1 0x5CFFF8).nonOldest i0.frame.strand = false :=
  ⟨wit_one _, rfl, by decide +kernel, by decide, clear_q0w _ _, by decide +kernel, by decide +kernel⟩

/-- In an ordered space, iteration 9 while iteration 8 has not retired. -/
def co : Context := { c0 with spaces := [{ Space.initial 0 with allocated := true, ordered := true, retiredBelow := 8 }] }
theorem wit_NearLoadResults_ordered : (let s := { s1 64 with contexts := [co] }
    Fires s 0 (l1 64) i0 ∧ s.quad? i0.frame.quad = some q0 ∧ 64 + 8 ≤ s.tileTop q0 ∧ s.nonOldest i0.frame.strand = true ∧
      s.nearPoisoned i0.frame.strand i0.frame.quad 64 8 = false) :=
  ⟨⟨rfl, rfl, rfl⟩, rfl, by decide +kernel, by decide +kernel, by decide +kernel⟩

theorem wit_NearEffectsBuffered : (Fires (s2 8 1) 0 (l2 8 1) i0 ∧ Two (l2 8 1) 8 1) ∧ (s2 8 1).quad? i0.frame.quad = some q0 ∧
    storeAddr ⟨0, 31, 0xFFF8⟩ 8 = 0 ∧ 0 + 8 ≤ (s2 8 1).tileTop q0 ∧ q0.clearOfAccesses 0 8 :=
  ⟨(wit_two _ _).1, rfl, by decide, by decide +kernel, clear_q0 _ _⟩

/-- The first address outside, a misaligned one inside, one that meets a write interval and one a read interval, poison. -/
theorem wit_NearAccessFaults : (sw 64 1).quad? i0.frame.quad = some qw ∧ (sp 256 1).quad? i0.frame.quad = some q0 ∧
    (Fires (sw 64 1) 0 (l2 64 1) i0 ∧ Two (l2 64 1) 64 1) ∧ (sw 64 1).tileTop qw < 0x5CFFF9 + 8 ∧
    (0x5CFFF0 + 8 ≤ (sw 64 1).tileTop qw ∧ 0x5CFFF4 % 8 ≠ 0) ∧ ¬ qw.clearOfWrites 64 8 ∧ ¬ qw.clearOfAccesses 0 8 ∧
    (Fires (sp 256 1) 0 (l2 256 1) i0 ∧ q0.clearOfWrites 256 8 ∧
      (sp 256 1).nearPoisoned i0.frame.strand i0.frame.quad 256 8 = true) :=
  ⟨rfl, rfl, ⟨⟨rfl, rfl, rfl⟩, rfl, rfl⟩, by decide +kernel, ⟨by decide +kernel, by decide⟩, unclear_qw, unclear_qa,
    ⟨rfl, rfl, rfl⟩, clear_q0w _ _, by decide +kernel⟩

theorem wit_FarExits : i0.exits = [] ∧ (Fires (s1 0x2000000000) 0 (l1 0x2000000000) i0 ∧ One (l1 0x2000000000) 0x2000000000) ∧
    exitAddr ⟨0, 0, 1, 4, 0, 1, 0⟩ 0x2000000000 % 8 = 0 ∧ exitAddr ⟨0, 0, 1, 4, 0, 1, 1⟩ 0x2000000000 % 8 ≠ 0 ∧
    (Fires (s2 8 1) 0 (l2 8 1) i0 ∧ Two (l2 8 1) 8 1) ∧ (Fires (s3 8 1 2) 0 (l3 8 1 2) i0 ∧ Three (l3 8 1 2) 8 1 2) :=
  ⟨rfl, wit_one _, by decide, by decide, (wit_two _ _).1, wit_three _ _ _⟩

theorem wit_PostedEffectsBuffered : (Fires (s2 8 1) 0 (l2 8 1) i0 ∧ Two (l2 8 1) 8 1) ∧
    (Fires (s1 4) 0 (l1 4) i0 ∧ One (l1 4) 4) ∧ (s1 4).ctx? i0.frame.strand.cx = some c0 ∧ c0.image = some im0 ∧
    (0 < im0.circuits.length ∧ im0.circuits.length ≤ 1) ∧ BarrierNamed (s1 4) i0 3 ∧ ¬ BarrierNamed (s1 4) i0 4 :=
  ⟨(wit_two _ _).1, wit_one _, rfl, rfl, by decide, ⟨c0, region0, ⟨3, 1, 2, none⟩, rfl, rfl, by decide, rfl⟩, by
    rintro ⟨c, d, b, hc, hd, hb, hn⟩; cases hc; cases hd; simp [region0] at hb; subst hb; cases hn⟩

/-! #### Control, tags, commands, system -/

theorem wit_ExitsFire : i0.exits = [] ∧ Fires s0 (0#2) l0 i0 ∧ (Fires (s1 0x10040) 0 (l1 0x10040) i0 ∧ One (l1 0x10040) 0x10040) ∧
    (0x10040#64).setWidth 6 = 0#6 ∧ (0x10041#64).setWidth 6 ≠ 0#6 := ⟨rfl, wit_none, wit_one _, by decide, by decide⟩

theorem good_tag (a : Word) : TagNames (s1 a) i0.frame.strand (goodTag.setWidth 40) (fun cap => 3 < cap) :=
  ⟨by decide, _, rfl, by decide, by decide, by decide⟩
theorem bad_tag : ¬ TagNames (s1 0x260003) i0.frame.strand 0x260003 (fun _ => True) := by
  rintro ⟨-, p, hp, -, hg, -⟩; cases hp; revert hg; decide

theorem wit_WaitingExits : Fires (s1 goodTag) 0 (l1 goodTag) i0 ∧ i0.exits = [] ∧ One (l1 goodTag) goodTag ∧
    BarrierNamed (s1 goodTag) i0 3 ∧ TagNames (s1 goodTag) i0.frame.strand (goodTag.setWidth 40) (fun _ => True) ∧
    ¬ TagNames (s1 0x260003) i0.frame.strand 0x260003 (fun _ => True) ∧
    (0x48800#64).getLsbD 63 = false ∧ (0x48800#64).extractLsb' 42 14 = (BitVec.ofNat 40 i0.frame.strand.tag).extractLsb' 26 14 ∧
    (∃ c q, (s1 0x48800).ctx? i0.frame.strand.cx = some c ∧ c.quadOf? 0 0 = some q) ∧ (0x8000000000000000#64).getLsbD 63 = true :=
  ⟨(wit_one _).1, rfl, rfl, ⟨c0, region0, ⟨3, 1, 2, none⟩, rfl, rfl, by decide, rfl⟩,
    ⟨by decide, _, rfl, by decide, by decide, trivial⟩, bad_tag, by decide, by decide, ⟨c0, qi, rfl, rfl⟩, by decide⟩

theorem wit_TagEffects : (Fires (s1 goodTag) 0 (l1 goodTag) i0 ∧ One (l1 goodTag) goodTag) ∧
    TagNames (s1 goodTag) i0.frame.strand (goodTag.setWidth 40) (fun cap => 3 < cap) ∧
    ((goodTag.setWidth 40 : BitVec 40).extractLsb' 20 6).toNat ≠ 0 ∧ (0x8000#16).getLsbD 15 = true ∧ (0#16).getLsbD 15 = false ∧
    (Fires (s2 goodTag 4) 0 (l2 goodTag 4) i0 ∧ Two (l2 goodTag 4) goodTag 4 ∧
      TagNames (s2 goodTag 4) i0.frame.strand (goodTag.setWidth 40) (fun cap => 3 < cap ∧ 16 ≤ cap)) ∧
    ¬ TagNames (s1 0x260003) i0.frame.strand 0x260003 (fun _ => True) :=
  ⟨wit_one _, good_tag _, by decide, by decide, by decide,
    ⟨(wit_two _ _).1.1, (wit_two _ _).1.2, by decide, _, rfl, by decide, by decide, by decide, by decide⟩, bad_tag⟩

/-- Space 1 is free, space 2 is allocated; with both allocated none is free; a strand that holds a reservation. -/
def cfull : Context := { c0 with spaces := [{ Space.initial 0 with allocated := true, k := 1, held := [(0, 2)] },
  { Space.initial 1 with allocated := true }, { Space.initial 2 with reserved := true }] }
def ir : Inst := { i0 with frame := { i0.frame with strand := { st0 with tagResv := [⟨0x10000, 0, 0x110000, true⟩] } } }
theorem wit_TagAllocation : Fires s0 (ig 0 0).pr l0 i0 ∧ s0.ctx? i0.frame.strand.cx = some c0 ∧ c0.image = some im0 ∧
    (∃ own, s0.space? i0.frame.strand.cx ((BitVec.ofNat 40 i0.frame.strand.tag).extractLsb' 20 6).toNat = some own ∧
      (∃ dl, im0.tagspaces[0]? = some dl ∧ dl.level = own.level + 1 ∧ dl.ordered = none ∧
        queueAdmits 0 st0.sid c0.poolQueue = true ∧
        (∃ p, s0.space? cx0 p.num = some p ∧ p ∈ c0.spaces ∧ p.num = dl.first ∧ p.allocated = false ∧ p.reserved = false) ∧
        ∀ p ∈ cfull.spaces, dl.first ≤ p.num → p.num < dl.first + dl.pool → p.allocated = true ∨ p.reserved = true) ∧
      heldIn 0 own.held = false ∧ own.k ≤ 16 ∧ st0.tag < 2 ^ 40) ∧
    im0.tagspaces[1]? = none ∧ st0.resvOf? i0.addr l0.slot = none ∧
    (∃ r, ir.frame.strand.resvOf? i0.addr l0.slot = some r) ∧
    ∀ it < 2 ^ 1, heldIn it [(0, 2)] = true :=
  ⟨wit_none, rfl, rfl, ⟨_, rfl, ⟨_, rfl, rfl, rfl, rfl, ⟨_, rfl, .tail _ (.head _), rfl, rfl, rfl⟩, by decide⟩,
    rfl, by decide, by decide⟩, rfl, rfl, ⟨_, rfl⟩, by decide⟩

def ix : Inst := { i0 with exits := [⟨0, 3, .finish⟩] }
theorem wit_SecondExitFaults : ix.exits ≠ [] ∧ Fires (run ix none none none) 0 l0 ix ∧
    (Fires (run ix (v 65) none none) 0 (l1 65) ix ∧ One (l1 65) 65) ∧
    (Fires (run ix (v 65) (v 1) none) 0 (l2 65 1) ix ∧ Two (l2 65 1) 65 1) ∧
    (Fires (run ix (v 65) (v 1) (v 2)) 0 (l3 65 1 2) ix ∧ Three (l3 65 1 2) 65 1 2) :=
  ⟨by decide, ⟨rfl, rfl, rfl⟩, ⟨⟨rfl, rfl, rfl⟩, rfl⟩, ⟨⟨rfl, rfl, rfl⟩, rfl, rfl⟩, ⟨⟨rfl, rfl, rfl⟩, rfl, rfl, rfl⟩⟩

/-- A shape record: dense or not, innermost dimension first, with its rank and type. -/
def shp (base ty : Nat) (dims : List (Nat × Nat)) : List Nat :=
  [base, ty + 16 * dims.length] ++ dims.map (fun d => d.1 + 2 ^ 32 * d.2) ++ List.replicate (6 - dims.length) 0
def z (n : Nat) : List Nat := List.replicate n 0
def bytesOf (ws : List Nat) : List Byte := ws.flatMap (leBytes 8)

/-- A place in the tests' quad as a virtual address. -/
def va (o : Nat) : Nat := 2 ^ 33 + o
def vec : List Nat := shp (va 0x1000) 8 [(4, 1)]
def vec2 : List Nat := shp (va 0x2000) 8 [(4, 1)]
def mat : List Nat := shp (va 0x1000) 8 [(8, 1), (1, 8)]
def tile : List Nat := shp (va 0x10000) 8 [(128, 1), (128, 128)]
/-- A 4 × 4 × 2 window record with a 2 × 2 kernel. -/
def winw : List Nat := [va 0x1000, 0x138, 2 + 2 ^ 32, 4 + 2 * 2 ^ 32, 4 + 8 * 2 ^ 32, 0, 0, 0x11110202]
def qwin : Quad := { q0 with window := bytesOf winw }

/-- An operand and a block that each command's section admits, by opcode. -/
def blockFor (op : Nat) : Word × List Nat :=
  match op with
  | 0x160 => (0x400, vec ++ vec2 ++ z 8)
  | 0x161 => (0x400, vec ++ vec2 ++ [0, 0, va 0x3000] ++ z 5)
  | 0x162 => (0x400, vec ++ vec2 ++ [0, 0, va 0x3000] ++ z 5)
  | 0x163 => (0x400, z 8 ++ vec2 ++ z 8)
  | 0x165 => (0x488, [])
  | 0x166 => (0x400, mat ++ mat ++ z 17)
  | 0x167 => (0x400, tile ++ z 1)
  | 0x168 => (0x400, tile ++ z 1)
  | 0x16A => (0x400, vec2 ++ vec ++ vec ++ z 8 ++ [0xA0])
  | 0x16B => (0x400, shp (va 0x2000) 8 [(2, 1)] ++ shp (va 0x1000) 8 [(4, 1), (2, 4)] ++ z 1)
  | 0x16C => (0x400, winw)
  | 0x16D => (0x400, shp (va 0x2000) 8 [(8, 1), (1, 8)] ++ [va 0x1000, 2 ^ 32])
  | 0x16E => (0x400, [0, 0, 1, va 0x3000] ++ z 4 ++ shp (va 0x2000) 0 [(8, 1), (8, 8), (1, 64)] ++ z 16)
  | 0x16F => (0x400, [va 0x1000, va 0x2000, 4 + 0x4008 * 2 ^ 32, 1] ++ z 4)
  | 0x172 => (0x400, vec ++ [0x3FF0000])
  | _ => (0x400, vec ++ z 1)

/-- Memory that holds bytes from an address on. -/
def cellsAt : Nat → List Byte → List Host.Cell
  | _, [] => []
  | a, b :: r => if b = 0 then cellsAt (a + 1) r else (a, b) :: cellsAt (a + 1) r
theorem get_below : ∀ (bs : List Byte) (a x : Nat), x < a → memGet x (cellsAt a bs) = 0
  | [], _, _, _ => rfl
  | b :: r, a, x, h => by
    unfold cellsAt; split
    · exact get_below r _ _ (by omega)
    · simp only [memGet]; rw [if_neg (by omega), if_pos h]
theorem get_cells : ∀ (bs : List Byte) (a k : Nat), k < bs.length → bs[k]? = some (memGet (a + k) (cellsAt a bs))
  | b :: r, a, 0, _ => by
    unfold cellsAt; split
    · rw [get_below r _ _ (by omega)]; simp_all
    · simp [memGet]
  | b :: r, a, k + 1, h => by
    have ih := get_cells r (a + 1) k (by simpa using h)
    unfold cellsAt; split
    · rw [← Nat.add_assoc, Nat.add_right_comm]; simpa using ih
    · simp only [memGet]; rw [if_neg (by omega), if_neg (by omega), ← Nat.add_assoc, Nat.add_right_comm]; simpa using ih
def sc (op : Nat) : State :=
  { s1 (blockFor op).1 with quads := [qwin], mem := cellsAt (vaultBase qi + (blockFor op).1.toNat) (bytesOf (blockFor op).2) }

theorem test_blocks : commandRows.all (fun r =>
    (match r.check ⟨0, 0, 0, 0x80, 0, 0⟩ c0 qwin i0 (blockFor r.op).1 (bytesOf (blockFor r.op).2) with
      | .ok _ => true | .error _ => false) &&
    (bytesOf (blockFor r.op).2).length == r.size) = true := by decide +kernel
/-- Every command has a block it accepts, with BEN = 0 and with a barrier of the region that admits every kind. -/
theorem wit_CommandsIssued : (∀ r ∈ commandRows, ∃ (a : Word) (bs : List Byte) (k : Checked), Fires (sc r.op) 0 (l1 a) i0 ∧
      One (l1 a) a ∧ BlockRead (sc r.op) i0 a r.size bs ∧ r.check ⟨0, 0, 0, 0x80, 0, 0⟩ c0 qwin i0 a bs = .ok k) ∧
    (BarrierAdmits s0 i0 1 0 ∧ BarrierAdmits s0 i0 2 0x4300000) ∧
    (s0.quad? i0.frame.quad = some q0 ∧ s0.ctx? i0.frame.strand.cx = some c0 ∧ c0.indexOf q0 < 128 ∧
      i0.frame.strand.tag < 2 ^ 40) ∧ Fires (s2 0x48800 1) 0 (l2 0x48800 1) i0 ∧ Two (l2 0x48800 1) 0x48800 1 := by
  refine ⟨fun r hr => ?_, ⟨fun h => absurd h (by decide), fun _ => ⟨⟨3, 1, 2, none⟩, rfl, fun _ h => nomatch h⟩⟩,
    ⟨rfl, rfl, by decide, by decide⟩, (wit_two _ _).1.1, (wit_two _ _).1.2⟩
  have h := List.all_eq_true.mp test_blocks r hr
  simp only [Bool.and_eq_true, beq_iff_eq] at h
  obtain ⟨h1, h2⟩ := h
  cases hc : r.check ⟨0, 0, 0, 0x80, 0, 0⟩ c0 qwin i0 (blockFor r.op).1 (bytesOf (blockFor r.op).2) with
  | error e => rw [hc] at h1; cases h1
  | ok k =>
    refine ⟨(blockFor r.op).1, bytesOf (blockFor r.op).2, k, ⟨rfl, rfl, rfl⟩, rfl, ?_, hc⟩
    by_cases hn : r.size = 0
    · exact .inl ⟨hn, List.eq_nil_of_length_eq_zero (by omega)⟩
    · refine .inr ⟨hn, h2, fun k hk => ?_, qwin, rfl, ?_, ?_, ⟨fun _ _ _ _ h => by simp [qwin, q0, Quad.initial] at h,
        fun _ h => by simp [qwin, q0, Quad.initial] at h⟩, ?_⟩
      · exact get_cells _ _ k (h2 ▸ hk)
      all_goals
        simp only [commandRows, List.mem_cons, List.not_mem_nil, or_false] at hr
        rcases hr with rfl | rfl | rfl | rfl | rfl | rfl | rfl | rfl | rfl | rfl | rfl | rfl | rfl | rfl | rfl | rfl <;>
        first
        | decide +kernel
        | exact absurd rfl hn

/-- A null; SCOPY's block one byte past T, off its boundary, over a write interval, over poison, of zeros; a barrier the
region lacks. -/
theorem wit_CommandsRefused : (Fires (run0 (some .null) none none) 0 (lane (some .null) none none) i0) ∧
    (Fires (s1 0x5CFF40) 0 (l1 0x5CFF40) i0 ∧ (s1 0x5CFF40).tileTop q0 < 0x5CFF41 + 192 ∧ 0x5CFF40 + 192 ≤ (s1 0x5CFF40).tileTop q0) ∧
    (0x420 % 64 ≠ 0) ∧ ¬ qw.clearOfWrites 64 192 ∧ (sp 192 1).poisoned (vaultBase qi + 192) 192 = true ∧
    (BlockRead s0 i0 0x400 192 (List.replicate 192 0) ∧
      checkStream 0x160 c0 q0 i0 0x400 (List.replicate 192 0) = .error .shapeInvalid) ∧
    ¬ BarrierAdmits s0 i0 1 0x4400000 :=
  ⟨⟨rfl, rfl, rfl⟩, ⟨⟨rfl, rfl, rfl⟩, by decide +kernel, by decide +kernel⟩, by decide,
    (fun h => by have := h.1 7 0 ⟨0, 8⟩ ⟨64, 128⟩ (by simp [qw]); revert this; decide), by decide +kernel,
    ⟨.inr ⟨by decide, by decide, by decide +kernel, q0, rfl, by decide +kernel, by decide, clear_q0w _ _, rfl⟩, by decide +kernel⟩,
    fun h => by obtain ⟨b, hb, -⟩ := h (by decide); cases (show s0.barrierDecl? i0 4 = none by decide +kernel).symm.trans hb⟩

theorem wit_QueryResults : (Fires (s1 0x48800) 0 (l1 0x48800) i0 ∧ One (l1 0x48800) 0x48800) ∧
    (s1 0x48800).quad? i0.frame.quad = some q0 ∧ (s1 0x48800).ctx? i0.frame.strand.cx = some c0 ∧
    c0.quadOf? 0 ((0x48800#64).extractLsb' 56 7).toNat = some qi ∧ q0.entries.length ≤ 64 :=
  ⟨wit_one _, rfl, rfl, rfl, by decide⟩

theorem wit_StatusReads : Fires s0 (ig 0 2).pr l0 i0 ∧ s0.quad? i0.frame.quad = some q0 ∧
    s0.ctx? i0.frame.strand.cx = some c0 ∧ c0.decl? q0.ldie = some region0 ∧
    (∃ p, s0.space? cx0 (tagSpace st0.tag) = some p) ∧ (∃ w, q0.width[i0.frame.elem]? = some w) :=
  ⟨wit_none, rfl, rfl, rfl, ⟨_, rfl⟩, _, rfl⟩

/-- Counter 21 is the quad's last, 0x20 the first shared one; the counting function is 0, or another. -/
theorem wit_CounterReads : Fires s0 (g 0).pr l0 i0 ∧ s0.quad? i0.frame.quad = some q0 ∧ s0.ctx? i0.frame.strand.cx = some c0 ∧
    q0.counters[21]? = some 0 ∧ st0.cx.vf = s0.counting ∧ s0.shared[0]? = some 0 ∧
    st0.cx.vf ≠ { s0 with counting := 1 }.counting := ⟨wit_none, rfl, rfl, rfl, rfl, rfl, by decide⟩

/-- The physical function has PRIV, function 1 has not. FWCALL blocks: of zeros, of a reserved first word, of a barrier the
region lacks; from a function with PRIV, of SET_CANDLE. -/
def i1 : Inst := { i0 with frame := { i0.frame with strand := { st0 with cx := ⟨1, 0⟩ } } }
def fn1 (p : Bool) : State := { run i1 (v 0x400) none none with functions := [Function.initial 0, { Function.initial 1 with priv := p }] }
def withBlock (s : State) (ws : List Nat) : State := { s with mem := cellsAt (vaultBase qi + 0x400) (bytesOf ws) }
theorem blockRead64 (i : Inst) (s : State) (ws : List Nat) (hi : i.frame.quad = qi) (hs : s.quad? qi = some q0)
    (hm : s.mem = cellsAt (vaultBase qi + 0x400) (bytesOf ws)) (hl : (bytesOf ws).length = 64)
    (ht : 0x400 + 64 ≤ s.tileTop q0) (hp : (s.scrubBlock i 0x400 64).poisoned (vaultBase i.frame.quad + 0x400) 64 = false) :
    BlockRead s i 0x400 64 (bytesOf ws) :=
  .inr ⟨by decide, hl, by rw [hi, hm]; exact fun k hk => get_cells _ _ _ (by omega), q0, by rw [hi, hs], ht, by decide, clear_q0w _ _, hp⟩

theorem wit_SystemEffects : (Fires (s1 0x400) 0 (l1 0x400) i0 ∧ One (l1 0x400) 0x400) ∧ (0x08#9 ∈ [0x08#9, 0x09, 0x11, 0x12, 0x13]) ∧
    ((s1 0x400).func i0.frame.strand.cx.vf).priv = true ∧
    BlockRead (withBlock (s1 0x400) (z 8)) i0 0x400 64 (bytesOf (z 8)) ∧
    BlockRead (withBlock (s1 0x400) (2 ^ 16 :: z 7)) i0 0x400 64 (bytesOf (2 ^ 16 :: z 7)) ∧
    (BlockRead (withBlock (s1 0x400) ([0, 0, 0x44] ++ z 5)) i0 0x400 64 (bytesOf ([0, 0, 0x44] ++ z 5)) ∧
      ¬ BarrierNamed (withBlock (s1 0x400) ([0, 0, 0x44] ++ z 5)) i0 4) ∧
    (((fn1 true).func i1.frame.strand.cx.vf).priv = true ∧ Fires (withBlock (fn1 true) (0x0B :: z 7)) 0 (l1 0x400) i1 ∧
      BlockRead (withBlock (fn1 true) (0x0B :: z 7)) i1 0x400 64 (bytesOf (0x0B :: z 7)) ∧ i1.frame.strand.cx.vf ≠ 0) ∧
    s0.ctx? i0.frame.strand.cx = some c0 ∧ c0.params.bkpts = false := by
  refine ⟨wit_one _, by decide, rfl, ?_, ?_, ⟨?_, ?_⟩, ⟨rfl, ⟨rfl, rfl, rfl⟩, ?_, by decide⟩, rfl, rfl⟩
  case refine_4 => rintro ⟨c, d, b, hc, hd, hb, hn⟩; cases hc; cases hd; simp [region0] at hb; subst hb; cases hn
  all_goals exact blockRead64 _ _ _ rfl rfl rfl (by decide +kernel) (by decide +kernel) rfl

theorem wit_SystemFaults : (Fires (fn1 false) 0 (l1 0x400) i1 ∧ One (l1 0x400) 0x400) ∧
    ((fn1 false).func i1.frame.strand.cx.vf).priv = false ∧ (Fires (s1 0) 0 (l1 0) i0 ∧ (0#64).getLsbD 0 = false) ∧
    (let c := { c0 with params := { c0.params with bkpts := true } }
     { s0 with contexts := [c] }.ctx? i0.frame.strand.cx = some c ∧ c.params.bkpts = true ∧
       i0.frame.strand.bkptSlot ≠ some l0.slot) := ⟨⟨⟨rfl, rfl, rfl⟩, rfl⟩, rfl, ⟨⟨rfl, rfl, rfl⟩, rfl⟩, rfl, rfl, by decide⟩

/-- A context with a handler and an empty mask, and with a mask that selects ASSERT. -/
def cmask : Context := { c0 with params := { c0.params with stopMask := 2 ^ 0x1D } }
theorem wit_TakingAFault : s0.inst? i0.id = some i0 ∧ s0.ctx? i0.frame.strand.cx = some c0 ∧ c0.params.handler ≠ 0 ∧
    bitOf c0.params.stopMask (FaultCode.assert).num = false ∧
    { s0 with contexts := [cmask] }.ctx? i0.frame.strand.cx = some cmask ∧
    bitOf cmask.params.stopMask (FaultCode.assert).num = true := ⟨rfl, rfl, by decide, by decide, rfl, by decide⟩

theorem wit_Abandonment : s0.inst? i0.id = some i0 ∧ s0.ctx? i0.frame.strand.cx = some c0 ∧ s0.quad? i0.frame.quad = some q0 ∧
    i0.frame.strand.handler = none ∧ c0.params.traceMask = 0 ∧ (s0.findSpace cx0 qi 320 []).isSome ∧ 0x81 ≠ 0x87 ∧ 0x86 ≠ 0x87 :=
  ⟨rfl, rfl, rfl, rfl, rfl, by decide +kernel, by decide, by decide⟩

/-! #### Device steps -/

/-- A page table at 16 MiB: [0, 2^36) is code and [2^36, 2^37) is writable data, both at physical address 0. -/
def tables : List Host.Cell := [(0x1000000, 1), (0x1000001, 0x10), (0x1000003, 1), (0x1001000, 0x0B), (0x1001008, 7)]
def cp : Context := { c0 with root := 0x1000000, ring := 2 ^ 36 + 0x100000 }
def mapped : State := { base with contexts := [cp], mem := tables }
/-- A data address. -/
def da (o : Nat) : Nat := 2 ^ 36 + o

def msg (n : Nat) (src dst : Node) (body : MsgBody) : Msg :=
  { id := n, cx := cx0, src := src, dst := dst, cls := 0, prio := 0, hops := [], at' := 0, left := none, entered := none,
    refused := false, via := none, body := body }
def has (s : State) (m : Msg) : State := { s with msgs := [m] }
/-- No packet is between two dies. -/
def clearB (s : State) : Bool := s.msgs.all fun x => !x.underway || x.left.isNone
theorem clear_ok {s : State} (h : clearB s = true) : s.pathsClear := fun x hx hu => by
  have := List.all_eq_true.mp h x hx
  simp only [hu, Bool.not_true, Bool.false_or, Option.isNone_iff_eq_none] at this
  exact .inl this
theorem arrives (s : State) (n : Nat) (src dst : Node) (body : MsgBody) (h : body.own = false)
    (h2 : (has s (msg n src dst body)).acquireBlocked (msg n src dst body) = false) :
    Arrives (has s (msg n src dst body)) n (msg n src dst body) body := by
  refine ⟨by simp [has, State.msg?, msg], rfl, ?_⟩
  have hm : (has s (msg n src dst body)).msgs = [msg n src dst body] := rfl
  have h1 : (msg n src dst body).body.own = false := h
  have h3 : (msg n src dst body).hops.isEmpty = true := rfl
  have h4 : (msg n src dst body).refused = false := rfl
  have h5 : (msg n src dst body).leftBefore (msg n src dst body) = false := rfl
  simp [State.arrived, State.packetAhead, State.behindLink, State.inChannel, hm, h1, h2, h3, h4, h5]
theorem notHeld (n : Nat) (src dst : Node) (body : MsgBody) :
    (has base (msg n src dst body)).acquireBlocked (msg n src dst body) = false := by
  have he : ∀ e, (has base (msg n src dst body)).ember? e = none := fun _ => rfl
  unfold State.acquireBlocked
  split
  · simp [he]
  · rfl

def ember0 : Ember :=
  { id := 4, strand := st0, quad := qi, elem := 0, live := 0xFFFFFFFF, regs := List.replicate 32 7, exit := 0, reply := 4, reason := 0,
    seq := 0, cont := 0x10000, source := 0, pkg := 0, home := 0, width := 0, op := 0x120, block := 0x10000, pool := .vault qi,
    addr := 0, size := 320, wait := .reply, value := some 5 }
def cmd0 (op : Nat) (bs : List Byte) : Command :=
  { id := 7, op := op, cx := cx0, sid := 2, quad := qi, ldie := 0, qindex := 0, tag := 9, lsid := 0, block := 0x10000, eng := 0,
    bar := none, low := 0, arg := 0, val := 0, bytes := bs, window := [], seed := 0, foots := [⟨qi, ⟨0, 8⟩, ⟨64, 128⟩⟩] }
def pend0 (op : Nat) (bs : List Byte) (ph : CmdPhase) : Pending :=
  { cmd := cmd0 op bs, phase := ph, n := 0, round := 0, marks := 0, cond := 0, count := 0, code := 0, itemErr := false, sparams := [],
    bytes := bs, pos := 0, halted := false, got := [], pendingMarks := [], writes := [], vals := [], lines := [], cutOff := false, issued := 7, order := 7, at' := 0 }

/-- An instance of `sub` with its slot idle, ready, or fired. -/
def iw (st : SlotStatus) (o : Operands) : Inst := { i0 with slots := [⟨0, o, st, none, false, 0⟩], flying := [5] }
def noOps : Operands := ⟨none, none, none⟩
/-- A block of one branch and three MOVIs, at 0x10000. -/
def blockBody : List Byte := encodeBytes (.br ⟨0, 0, 0⟩) ++ (List.replicate 3 (encodeBytes (.movi ⟨0, 0, 1, 0⟩))).flatten
def block0 : List Byte := leBytes 8 0x20A ++ leBytes 8 (xorAll (blockBody.map (·.toNat)) * 2 ^ 56) ++ blockBody
def sb : State := { mapped with mem := cellsAt 0x10000 block0 ++ tables, frames := [{ i0.frame with block := 0x10000 }] }
def hdr0 : Header := headerOf 0x20A 0
def fetchGood : Bool :=
  match fetchBlock (.quad qi) sb cp 0x10000 with
  | (_, .ok bs) =>
    (match checkBlock (leNat (bs.take 8)) (leNat ((bs.drop 8).take 8)) (slotsOf (4 * (bitsOf (leNat (bs.take 8)) 8 4 + 1)) (bs.drop 16)) with
      | .ok _ => true | .error _ => false)
  | _ => false
theorem test_fetch_block : fetchGood = true := by decide +kernel
def m0 : Mapped := { elem := 0, addr := 0x10000, header := hdr0, body := [0, 0, 0, 0], started := 0 }
def qm : Quad := { q0 with mapped := [m0] }

theorem wit_DataflowSteps :
    (∀ i ∈ [iw .fired noOps, iw .idle noOps, iw .idle ⟨v 1, none, none⟩],
      let s := { base with insts := [i], flying := [⟨5, 1, 2, 0, .left, .val 3⟩] }
      s.flying.find? (·.id = 5) = some ⟨5, 1, 2, 0, .left, .val 3⟩ ∧ s.inst? 1 = some i ∧ i.held = false ∧
        s.quad? i.frame.quad = some q0 ∧ s.quadRuns q0 = true ∧ (i.slots.find? (·.slot = 0)).isSome ∧ (i.instrAt? 0).isSome) ∧
    (let b := iw .ready ⟨v 1, v 2, none⟩
     let s := { base with insts := [b] }
     s.quad? ⟨0, 0⟩ = some q0 ∧ s.quadRuns q0 = true ∧ (s.fillQueue q0.id 0).insts = [b] ∧ b.frame.quad = q0.id ∧
       b.frame.elem = 0 ∧ b.held = false ∧ b.readySlots = [0]) ∧
    (QuadAt sb 0 0 q0 ∧ sb.nextStart? q0 0 = some { i0.frame with block := 0x10000 } ∧ sb.ctx? q0.cx = some cp ∧
      q0.mapped? 0 0x10000 = none ∧ fetchGood = true ∧ clearB sb = true) ∧
    (let s := { sb with quads := [qm] }
     QuadAt s 0 0 qm ∧ s.nextStart? qm 0 = some { i0.frame with block := 0x10000 } ∧ qm.mapped? 0 0x10000 = some m0 ∧
       s.matchUsed qm.id + m0.body.length ≤ s.matchCapacity qm) ∧
    (let i := { i0 with header := hdr0 }
     let s := { base with insts := [i] }
     s.inst? 1 = some i ∧ i.flying = [] ∧ i.readySlots = [] ∧ i.markedSlots = [] ∧ s.lanes = [] ∧ i.exitMet = false ∧ s.quadRuns q0 = true) := by
  refine ⟨?_, ?_, ⟨⟨rfl, ?_⟩, ?_, rfl, rfl, test_fetch_block, ?_⟩, ⟨⟨rfl, ?_⟩, ?_, rfl, ?_⟩, ?_⟩ <;> decide +kernel

/-- An instance at its commit, with one exit. -/
def ic (effs : List Eff) : Inst :=
  { i0 with header := hdr0, exits := [⟨0, 3, .branch 0x10000 0⟩], effs := effs, wbuf := [(3, 1, some 9), (4, 1, none)] }
def committing (i : Inst) (q : Quad) : State := { mapped with insts := [i], quads := [q] }
def mayDo (i : Inst) (q : Quad) (P : Except Stop Reserved → Bool) : Bool :=
  let s := committing i q
  s.mayCommit i && s.unitFree q.id && s.quadRuns q && clearB s && P (reserve s cp i).2

/-- A commit that branches; one whose far store meets no page, one that meets a registered interval; a parked one; a
registration. -/
theorem wit_CommitSteps :
    (mayDo (ic []) q0 (fun _ => true) = true ∧ (ic []).effs = [] ∧ s0.nonOldest st0 = false ∧ cp.params.traceMask = 0 ∧
      cp.placeOf? (tagLdie st0.tag) 0x10000 st0.tag = some (q0.id, 0) ∧ cp.places (tagLdie st0.tag) 0x10000 ≠ []) ∧
    mayDo (ic [⟨0, 0, .farStore (2 ^ 40) 8 1 none⟩]) q0 (fun r => match r with | .error (.fault .pageFault _ _ _) => true | _ => false) = true ∧
    mayDo (ic [⟨0, 0, .store 64 8 1⟩]) qw (fun r => match r with | .error (.refuse 0x83 _) => true | _ => false) = true ∧
    (let r : CommitRec := { inst := ic [], todo := [], wait := .acks 2, parked := true, space := [], poolPark := false, pas := [], capped := 0, order := 1 }
     let s := { base with commits := [r] }
     s.commits.find? (fun x => x.inst.id = 1 ∧ x.parked = true) = some r ∧ s.waitOver r = true ∧ s.unitFree qi = true ∧ clearB s = true ∧
       (∀ x ∈ s.commits, x.parked = true → x.wait = r.wait → x.inst.id = 1)) ∧
    (let s := has { base with cmds := [pend0 0x160 [] (.registering [qi])] } (msg 3 (.quad qi) (.quad qi) (.register 7 qi))
     s.cmd? 7 = some (pend0 0x160 [] (.registering [qi])) ∧ s.quad? qi = some q0 ∧ s.embers = [] ∧ s.frames = [] ∧ s.insts = [] ∧ ∀ st ∈ s.strands, st.resv = none) := by
  refine ⟨⟨?_, rfl, rfl, rfl, ?_, ?_⟩, ?_, ?_, ?_, ?_⟩ <;> decide +kernel

def access (pa n : Nat) (w acq : Bool) (op : Option Rmw) (b : Word) : Access :=
  { cx := cx0, va := da pa, pa := pa, n := n, write := w, acq := acq, op := op, b := b, x := 0, mark := .plain }
def postedAt : State := has mapped (msg 3 (.quad qi) (.mdie 0) (.posted (access 0x2000 8 true false none 77)))

theorem wit_StoreFrames : mapped.memOk = true ∧
    (∀ i ∈ [ic [⟨0, 0, .store 0x5CFFF8 8 1⟩], ic [⟨0, 0, .atomic .add 0 8 1⟩]],
      mayDo i q0 (fun _ => true) = true ∧ (committing i q0).nonOldest i.frame.strand = false ∧ (committing i q0).specs = [] ∧
        (committing i q0).nearPoisoned i.frame.strand i.frame.quad 0 8 = false) ∧
    (Arrives postedAt 3 (msg 3 (.quad qi) (.mdie 0) (.posted (access 0x2000 8 true false none 77)))
        (.posted (access 0x2000 8 true false none 77)) ∧
      postedAt.sealed 0x2000 = false ∧ postedAt.serves (.mdie 0) cx0 0x2000 = true) := by
  refine ⟨?_, ?_, arrives _ _ _ _ _ rfl rfl, ?_, ?_⟩ <;> decide +kernel

/-- A far load, an addition and a load of poison at a port; at a vault, a posted effect behind a registered interval, and one
whose turn has come; an acknowledgement, replies with room, without, and with poison; banks; a walk; a waiting request. -/
def farAt (op : Option Rmw) (p : List Nat) : State :=
  has { mapped with poison := p } (msg 3 (.quad qi) (.mdie 0) (.far 4 (access 0x2000 8 op.isSome false op 1)))
def qf : Quad := { q0 with waitFar := [⟨0, msg 3 (.mdie 0) (.quad qi) (.posted (access 0 8 true false none 1)), access 0 8 true false none 1, 0⟩] }
def qb : Quad := { q0 with banks := [⟨3, 2, 1, 64⟩, ⟨3, 5, 2, 0⟩] }
def qfull : Quad := { q0 with ready := List.replicate 4096 0 }
def withEmber (q : Quad) : State := { base with embers := [ember0], quads := [q] }
def ifar : Inst := { ic [] with exits := [⟨0, 3, .far (.load false (da 64) 8) 0x120 0x10000 4⟩] }
def mh : Msg := { msg 3 (.quad qi) (.mdie 0) (.ack 1) with hops := [.stackPort 0] }

theorem wit_HomeSteps : mapped.memOk = true ∧
    (∀ x ∈ [(none, []), (some Rmw.add, []), (none, [0x2000])],
      (farAt x.1 x.2).acquireBlocked (msg 3 (.quad qi) (.mdie 0) (.far 4 (access 0x2000 8 x.1.isSome false x.1 1))) = false ∧
      (farAt x.1 x.2).sealed 0x2000 = false ∧ (farAt x.1 x.2).serves (.mdie 0) cx0 0x2000 = true ∧
      (farAt x.1 x.2).poisoned 0x2000 8 = !x.2.isEmpty) ∧
    (let s := has { base with quads := [qw] } (msg 3 (.mdie 0) (.quad qi) (.posted (access (vaultBase qi + 64) 8 true false none 1)))
     s.serves (.quad qi) cx0 (vaultBase qi + 64) = true ∧ s.sealed (vaultBase qi + 64) = false ∧
       qw.farBlocked (msg 3 (.mdie 0) (.quad qi) (.posted (access (vaultBase qi + 64) 8 true false none 1)))
         (access (vaultBase qi + 64) 8 true false none 1) 1 = true) ∧
    (∃ w, qf.waitFar.find? (·.msg.id = 3) = some w ∧ qf.farBlocked w.msg w.a w.seq = false ∧ base.specs = []) ∧
    (∀ n src dst body, body.own = false → Arrives (has base (msg n src dst body)) n (msg n src dst body) body) ∧
    ((withEmber q0).ember? 4 = some ember0 ∧ (withEmber q0).quad? qi = some q0 ∧ q0.cleared = [] ∧
      (∃ p, (withEmber q0).space? cx0 (tagSpace st0.tag) = some p ∧ p.allocated = true ∧ p.gen = tagGen st0.tag) ∧
      (withEmber qfull).quad? qi = some qfull ∧ qfull.ready.length = 4096 ∧ qfull.cleared = []) ∧
    (let m := { msg 3 (.mdie 0) (.quad qi) (.reply 4 1 none) with refused := true }
     (has (withEmber q0) m).msg? 3 = some m ∧ m.refused = true) ∧
    (⟨3, 2, 1, 64⟩ ∈ qb.banks ∧ ∀ x ∈ qb.banks, x.bank = 3 → x ≠ ⟨3, 2, 1, 64⟩ → 2 < x.rank) ∧
    (let s := committing ifar q0
     s.mayCommit ifar = true ∧ clearB s = true ∧
       ifar.farNeeds.find? (fun (va, k) => (cp.aperture? va).isNone && va < 2 ^ 57 && !(q0.tlb.any fun t => t.hits cp.id va k)) = some (da 64, .read) ∧
       (match walkVa s cp (da 64) .read with | (_, .ok pa) => pa == 64 | _ => false) = true) ∧
    ((has base mh).queued (.stackPort 0) = [mh] ∧ (has base mh).msg? mh.id = some mh) := by
  refine ⟨?_, ?_, ?_, ⟨_, rfl, ?_, rfl⟩, (fun _ _ _ _ h => arrives base _ _ _ _ h (notHeld _ _ _ _)), ⟨rfl, rfl, rfl, ⟨_, rfl, ?_, ?_⟩, rfl, ?_, rfl⟩, ⟨rfl, rfl⟩, ?_, ?_, ?_⟩ <;>
    decide +kernel

/-- An ember ready to relight, a range seed, one in the frame wait, one entering the ready list, a frame that arrives with
room and without, a strand whose refusals entitle it to a reservation, and one whose reservation ends. -/
def em (w : Wait) (reason : Nat) : Ember := { ember0 with wait := w, reason := reason }
def lampState (q : Quad) (e : Ember) : State := { base with quads := [q], embers := [e] }
def frm : Frame := { i0.frame with block := 0x10000 }
def cnone : Context := { c0 with image := some { im0 with regions := [{ region0 with framesKiB := 0 }] } }
def frameMsg : Msg := msg 3 (.quad qi) (.quad qi) (.frame frm false)
theorem wit_LamplighterSteps :
    (let q := { q0 with ready := [4] }
     let s := lampState q ember0
     s.quad? ⟨0, 0⟩ = some q ∧ s.quadRuns q = true ∧ s.ctx? q.cx = some c0 ∧ c0.toReplay q.id = [] ∧ q.ready.head? = some ember0.id ∧ clearB s = true ∧
       s.ember? 4 = some ember0 ∧ s.recordGood ember0 = true ∧ ember0.isRangeSeed = false ∧ c0.params.logMode = 0 ∧
       c0.params.traceMask = 0 ∧ c0.id = q.cx ∧ c0.placeOf? (tagLdie st0.tag) 0x10000 st0.tag = some (qi, 0) ∧ q.frameWait = [] ∧
       s.frameFree qi = true) ∧
    (let e := em .range 0x8A
     let s := lampState q0 e
     s.rangeFor q0 c0 = some e ∧ q0.ready = [] ∧ s.idleElement q0.id = true ∧ clearB s = true ∧ c0.logAdmits q0.id e = true ∧ s.recordGood e = true) ∧
    (let q := { q0 with frameWait := [4] }
     let s := lampState q ember0
     s.quad? ⟨0, 0⟩ = some q ∧ s.quadRuns q = true ∧ s.ember? 4 = some ember0 ∧ s.frameFree q.id = true ∧ clearB s = true) ∧
    (let q := { q0 with cleared := [4] }
     let s := lampState q (em .nothing 0)
     s.ember? 4 = some (em .nothing 0) ∧ s.quad? qi = some q ∧ q.ready.length < 4096) ∧
    (Arrives (has base frameMsg) 3 frameMsg (.frame frm false) ∧ (has base frameMsg).quad? frm.quad = some q0 ∧
      (has base frameMsg).recorder frameMsg = none ∧ (has base frameMsg).frameFree qi = true ∧ q0.frameWait = []) ∧
    (let s := has { base with contexts := [cnone] } frameMsg
     s.frameFree qi = false ∧ s.ctx? q0.cx = some cnone ∧ cnone.params.traceMask = 0 ∧ frm.strand.handler = none ∧
       (s.findSpace frm.strand.cx frm.quad 320 []).isSome) ∧
    (let e := { ember0 with strand := { st0 with due := some (.pool 0 0x10000 0) } }
     let s := lampState q0 e
     let s1 := { s with contexts := [cfull] }
     s.ember? 4 = some e ∧ e.strand.due = some (.pool 0 0x10000 0) ∧ clearB s = true ∧ e.strand.resv = none ∧ s.ctx? cx0 = some c0 ∧
       (∀ x ∈ s.embers, x.strand.sid = 2 → x = e) ∧ s.freePool? cx0 0 = some 1 ∧ (s.space? cx0 1).isSome ∧ c0.poolQueue = [] ∧
       s1.freePool? cx0 0 = none ∧ (∃ p, s.space? cx0 2 = some p ∧ p.freeIter? = some 0 ∧ p.k ≤ 16 ∧ c0.iterQueue = []) ∧
       ∃ p, s1.space? cx0 0 = some p ∧ p.freeIter? = none) ∧
    (let f := { frm with strand := { st0 with resv := some (.lines qi 0 64 (some 0)) } }
     f ∈ { base with frames := [f] }.frames ∧ f.strand.sid = 2 ∧ 0 ≤ base.clk) := by
  refine ⟨?_, ?_, ?_, ?_, ⟨arrives _ _ _ _ _ rfl rfl, rfl, ?_, ?_, rfl⟩, ?_, ?_, ?_⟩ <;> decide +kernel

def c2r : Context := { c0 with image := some { im0 with circuits := [⟨0, 0, 0, 1, 64, 5⟩] } }
def tokMsg (tag : Nat) (b : Bool) : Msg := msg 3 (.quad qi) (.quad qi) (.token 0 tag 9 b)
/-- Space 2 with no one live, and with one; generation 6 is stale. -/
def cz (n : Nat) : Context := { c0 with spaces := [{ Space.initial 0 with allocated := true },
  { Space.initial 2 with decl := some 0, level := 1, k := 4, allocated := true, gen := 5, live := n }] }
def joinMsg : Msg := msg 3 (.quad qi) .k (.join 4 0x250003)
def waitMsg : Msg := msg 3 (.quad qi) (.quad qi) (.wait 4 0x90000)
theorem wit_CircuitAndSpaceSteps :
    c0.credits[0]? = some 32 ∧
    ((has { base with contexts := [c2r] } (tokMsg (2 ^ 36) false)).ctx? cx0 = some c2r ∧ c2r.circuits[0]? = some ⟨0, 0, 0, 1, 64, 5⟩ ∧
      tagCtx (2 ^ 36) = c2r.id.num ∧ tagLdie (2 ^ 36) = 1 ∧ tagLdie 9 ≠ 1 ∧ c2r.run = .running) ∧
    (∀ tag ∈ [0x250003, 0x260003], let s := has base (tokMsg tag false)
      s.ctx? cx0 = some c0 ∧ s.quad? qi = some q0 ∧ s.recorder (tokMsg tag false) = none ∧ s.toksFor q0 0 = none ∧
        c0.circuits[0]? = some ⟨0, 0, 0, 0, 64, 5⟩) ∧
    (∃ p, base.space? cx0 2 = some p ∧ p.allocated = true ∧ p.closed = false ∧ p.gen = tagGen 0x250003 ∧ p.gen ≠ tagGen 0x260003) ∧
    (∀ n ∈ [0, 1], let s := has { base with contexts := [cz n], embers := [ember0] } joinMsg
      s.ember? 4 = some ember0 ∧ (s.space? ember0.strand.cx (tagSpace 0x250003)).isSome) ∧
    (let m := { joinMsg with cls := 20 }
     (has { base with contexts := [cz 0], embers := [ember0] } m).joinsReady ⟨0, 0⟩ 2 = [(m, 4)]) ∧
    (Arrives (has base waitMsg) 3 waitMsg (.wait 4 0x90000) ∧ (has base waitMsg).quad? qi = some q0 ∧
      sameHandle 0x90000 (cmd0 0x160 []).tag (cmd0 0x160 []).lsid = true ∧ (pend0 0x160 [] .queued).issued < 8) ∧
    (∀ n src dst body, body.own = false → Arrives (has base (msg n src dst body)) n (msg n src dst body) body) := by
  refine ⟨?_, ?_, ?_, ⟨_, rfl, ?_, ?_, ?_, ?_⟩, ?_, ?_, ⟨arrives _ _ _ _ _ rfl rfl, rfl, ?_⟩, fun _ _ _ _ h => arrives base _ _ _ _ h (notHeld _ _ _ _)⟩ <;> decide +kernel

def bar0 (n : Nat) : Barrier :=
  { site := .quad qi, num := 3, count := 2, scope := 2, members := none, phase := 0, arrivals := List.replicate n ⟨false, false, none, none⟩,
    waiters := [4], keptDone := [] }
theorem wit_BarrierSteps :
    (let s := { base with barriers := [bar0 1] }
     s.barrier? (.quad qi) 3 = some (bar0 1) ∧ s.syncHeld (.quad qi) 3 ⟨false, false, none, none⟩ = false ∧ (bar0 1).arrivals.length < 2) ∧
    (let s := { base with barriers := [bar0 3], embers := [ember0] }
     s.barriers[0]? = some (bar0 3) ∧ (bar0 3).count ≠ 0 ∧ (bar0 3).count ≤ (bar0 3).arrivals.length ∧
       (((bar0 3).arrivals.take 2).filterMap (·.ember) ++ (bar0 3).waiters = [4]) ∧ s.ember? 4 = some ember0 ∧
       s.ctx? ember0.strand.cx = some c0 ∧ c0.run = .running) ∧
    (∀ n src body, body.own = false → Arrives (has base (msg n src (.quad qi) body)) n (msg n src (.quad qi) body) body) := by
  refine ⟨?_, ?_, fun _ _ _ h => arrives base _ _ _ _ h (notHeld _ _ _ _)⟩ <;> decide +kernel

/-- Commands at their engines: the home quad with the command registered, the pages of `cp`. -/
def qc : Quad := { q0 with entries := [.pending 7 0 ⟨0, 8⟩ ⟨64, 128⟩] }
def atEngine (p : Pending) : State := { mapped with cmds := [p], quads := [qc] }
def fillAt (b : Nat) : List Byte := bytesOf (z 8 ++ shp b 8 [(4, 1)] ++ [2 ^ 32] ++ z 7)
def fillP (b n : Nat) : Pending := { pend0 0x163 (fillAt b) (.running 0) with n := n }
def stokP : Pending := pend0 0x172 (bytesOf (shp (da 0x2000) 8 [(4, 1)] ++ [0x3FF0000])) .queued
def toksP : Pending := pend0 0x173 (bytesOf (vec ++ z 1)) .queued
def decP (n : Nat) : Pending :=
  { pend0 0x16E (bytesOf ([0, 0, n, da 0x3000] ++ z 4 ++ shp (da 0x2000) 0 [(8, 1), (8, 8), (n, 64)] ++ z 16)) (.running 0) with halted := true }
def collP : Pending := pend0 0x16F (bytesOf ([va 0x1000, va 0x2000, 4 + 0x4008 * 2 ^ 32, 2] ++ z 4)) .queued
def collQ : Pending := { collP with cmd := { collP.cmd with id := 8 } }
/-- A rank of a group of two, its contribution read. -/
def collR (id r : Nat) : Pending :=
  let p := pend0 0x16F (bytesOf ([va 0x1000, va 0x2000, 4 + 0x4008 * 2 ^ 32, 2 + r * 65536] ++ z 4)) .queued
  { p with cmd := { p.cmd with id := id }, vals := List.replicate 4 (some 0) }
def mxP (op : Nat) (low : Nat) (arg : Word) (bs : List Nat) : Pending :=
  { pend0 op (bytesOf bs) .queued with cmd := { cmd0 op (bytesOf bs) with low := low, arg := arg } }
def okOf {α ε : Type} (x : State × Except ε α) : Bool := match x.2 with | .ok _ => true | .error _ => false
def runsAt (p : Pending) : Bool := (atEngine p).cmd? 7 == some p && (atEngine p).engineRuns p
/-- The engine's requests for its lines have been granted. -/
def lineMsg : Msg := msg 3 (.eng 0 0) (.mdie 0) (.lineOf 7)
def asked (p : Pending) : State := has (atEngine p) lineMsg
def granted (s : State) (p : Pending) (lines : List Nat) : Bool :=
  (lines.all fun pa => s.clearAt p.cmd.id (s.homeOf pa)) &&
    (s.msgs.all fun m => m.body != .lineOf p.cmd.id || (m.hops.isEmpty && !s.packetAhead m)) &&
    (s.msgs.any (·.body == .lineOf p.cmd.id) || lines.all fun pa => (s.lineHops (s.engineNode p) (pa / 64 * 64)).isEmpty)
theorem granted_ok {s : State} {p : Pending} {lines : List Nat} (h : granted s p lines = true) : s.linesGranted p lines := by
  simp only [granted, Bool.and_eq_true, Bool.or_eq_true, List.all_eq_true, List.any_eq_true, bne_iff_ne, beq_iff_eq,
    List.isEmpty_iff, Bool.not_eq_true'] at h
  exact ⟨h.1.1, fun m hm hb => (h.1.2 m hm).resolve_left fun hn => hn hb, h.2⟩

theorem wit_EngineSteps_streams :
    (let p := pend0 0x163 [] .done
     (atEngine p).cmd? 7 = some p ∧ (atEngine p).ctx? cx0 = some cp ∧ cp.run = .running ∧ (atEngine p).quad? qi = some qc ∧
       Entry.pending 7 0 ⟨0, 8⟩ ⟨64, 128⟩ ∈ qc.entries ∧ (atEngine p).msgs = []) ∧
    (let s := has { base with cmds := [pend0 0x163 [] .queued] } (msg 3 (.quad qi) (.mdie 0) (.command 7))
     s.cmd? 7 = some (pend0 0x163 [] .queued) ∧ (s.idleEngine 0).isSome) ∧
    (let sp := { pend0 0x164 [] .queued with cmd := { cmd0 0x164 [] with id := 8, arg := 0x90000, low := 0x8000 } }
     let s := { base with cmds := [fillP (da 0) 0, sp] }
     s.sparamTarget sp.cmd = some (fillP (da 0) 0) ∧ sparamGood sp.cmd (fillP (da 0) 0) = true ∧
       sparamGood { sp.cmd with low := 0 } (fillP (da 0) 0) = false ∧
       { base with cmds := [sp] }.sparamTarget sp.cmd = none) ∧
    (let p := fillP (va 0x2000) 0
     let s := atEngine p
     s.engineRuns p = true ∧ p.writes = [] ∧ (∃ a, p.args? = some a ∧ roundOver p a = false ∧ clearB s = true ∧
      0 < s.streamReady (s.engineUnit p) cp p a ∧ okOf (stepElem s (s.engineUnit p) cp p a) = true ∧ a.op = 0x163 ∧
      a.walk.count = 4 ∧ a.dst.marks = false ∧ a.dst.ty = 8 ∧ (cp.aperture? (a.dst.place (positionOf a.dst.dims 0)).1).isSome)) ∧
    (let p := fillP (2 ^ 40) 0
     let s := atEngine p
     runsAt p = true ∧ (∃ a, p.args? = some a ∧ roundOver p a = false ∧
      s.nextStop (s.engineUnit p) cp p a = some (.pageFault (2 ^ 40) 1))) ∧
    (let p := fillP 0x2000 0
     let s := atEngine p
     runsAt p = true ∧ (∃ a, p.args? = some a ∧ s.nextStop (s.engineUnit p) cp p a = some (.permission 0x2000 1))) ∧
    (let p := { fillP (da 0) 1 with writes := [⟨da 0x2000, 4, 9, none, false, false⟩] }
     let s := asked p
     s.engineRuns p = true ∧ s.specs = [] ∧ clearB s = true ∧ (match s.engineXlate (s.engineUnit p) cp (da 0x2000) 4 .write with
       | (s1, .ok pa) => pa / 2 ^ 46 == s1.pkgNo && granted s p [pa] | _ => false) = true) ∧
    (runsAt (fillP (da 0) 4) = true ∧ (∃ a, (fillP (da 0) 4).args? = some a ∧ roundOver (fillP (da 0) 4) a = true) ∧
      0 < (fillP (da 0) 4).rounds) ∧
    (let p := { stokP with lines := [(da 0x2000, 4, 5, false)] }
     runsAt p = true ∧ p.pendingMarks = [] ∧ (∃ sh, parseShape (recordAt p.bytes 0) false false = some sh ∧ p.n + 1 < sh.count ∧
      p.elem? sh 0 = some (5, false)) ∧
     0 < (atEngine p).capacityOf p ∧ cp.credits[0]? = some 32 ∧
      (let p := { stokP with cmd := { stokP.cmd with tag := 0xFF0009 } }
       runsAt p = true ∧ (atEngine p).capacityOf p = 0)) ∧
    (let s := has (atEngine toksP) (tokMsg 0x250003 false)
     s.toksFor qc 0 = some toksP ∧ s.cmd? 7 = some toksP ∧ s.quad? qi = some qc ∧ s.ctx? cx0 = some cp ∧ cp.crosses 0 = false ∧
       s.recorder (tokMsg 0x250003 false) = none ∧ s.engineRuns toksP = true ∧ s.unblocked toksP = true ∧ s.stale cp.id 0x250003 = false ∧
       (parseShape (recordAt toksP.bytes 0) false false).isSome) := by
  refine ⟨?_, ?_, ?_, ⟨?_, rfl, _, rfl, ?_, ?_, ?_, ?_, ?_, ?_, ?_, ?_, ?_⟩, ⟨?_, _, rfl, ?_, ?_⟩, ⟨?_, _, rfl, ?_⟩, ?_,
    ⟨?_, ⟨_, rfl, ?_⟩, ?_⟩, ⟨?_, ?_, ⟨_, rfl, ?_, ?_⟩, ?_, ?_, ?_⟩, ?_⟩ <;> decide +kernel

def mxRunP : Pending := mxP 0x166 0 0 (shp (va 0x1000) 8 [(8, 1), (128, 8)] ++ shp (va 0x1000) 8 [(8, 1), (128, 8)] ++ z 17)
def qme : Quad := { qc with me := { config := some 0x488, acc := [], live := [], marks := [] } }
def qlive : Quad := { qc with me := { config := some 0x488, acc := [], live := [0], marks := [] } }
theorem wit_EngineSteps_units :
    (∀ p ∈ [mxP 0x165 0 0x488 [], mxRunP, mxP 0x169 0 0 [], mxP 0x169 1 0 [], pend0 0x16A (bytesOf (blockFor 0x16A).2) .queued,
        { pend0 0x16D (bytesOf (blockFor 0x16D).2) .queued with cmd := { cmd0 0x16D [] with window := bytesOf winw } }],
      ∀ q ∈ [qc, qme, qlive], let s := { atEngine p with quads := [q] }
        s.cmd? 7 = some p ∧ s.quad? p.cmd.quad = some q ∧ s.ctx? p.cmd.cx = some cp ∧ s.unitMay p = true) ∧
    qc.me.config = none ∧ qme.me.live = [] ∧ qlive.me.live ≠ [] ∧
    (∃ r, mxRunOf mxRunP.bytes = some r ∧ r.ok 0x488 = true ∧ mxRunP.n < (r.k + (cfgMode 0x488).1 - 1) / (cfgMode 0x488).1 * r.steps) ∧
    (shapeAt (bytesOf (blockFor 0x16A).2) 0).isSome ∧
    ((parseShape (recordAt (bytesOf winw) 0) true true).isSome ∧ (shapeAt (bytesOf (blockFor 0x16D).2) 0).isSome) ∧
    (∀ n ∈ [0, 1], runsAt (decP n) = true) ∧
    (let p := decP 1
     let d := decodeOf p.bytes
     let s := atEngine p
     d.frames = 1 ∧ p.halted = true ∧ p.marks = 0 ∧ s.postsAway 7 = false ∧ s.bitsWanted p = false) ∧
    (let p := { decP 1 with phase := .queued }
     let m := msg 3 (.quad qi) (.mdie 0) (.decode 7)
     let s := has (atEngine p) m
     s.commandMsg? 7 = some m ∧ s.arrived m = true ∧ s.decodeAhead m p.cmd.eng = false ∧ s.decoderBusy p = false) ∧
    (let s := { mapped with cmds := [collP, collQ] }
     s.cmd? 7 = some collP ∧ s.collReady collP = true ∧ s.collGroup collP = [collP, collQ] ∧ (collOf collP.bytes).nranks = 2 ∧
       (collOf collP.bytes).scope ≠ 5 ∧ 1 ∉ ([collP, collQ].map fun x => (collOf x.bytes).rank)) ∧
    (let s := has { mapped with cmds := [collP] } lineMsg
     collP.collRead = false ∧ collP.collWants ≠ [] ∧ clearB s = true ∧
       (collP.collWants.head?.bind (s.pieceStop (s.engineUnit collP) cp)).isNone = true ∧
       granted s collP (s.linesOf cp ((firstLine collP.collWants).take 1)) = true ∧
       (collOf collP.bytes).pieces 0 = [(va 0x1000, 4, 0)] ∧
       okOf ((s.landed collP true).readSpan (s.engineUnit collP) cp (firstLine collP.collWants)) = true) ∧
    (let g := [collR 7 0, collR 8 1]
     let s := { mapped with cmds := g }
     s.collReady (collR 7 0) = true ∧ s.collGroup (collR 7 0) = g ∧ (∀ x ∈ g, (collOf x.bytes).fields = (collOf (collR 7 0).bytes).fields) ∧
       (∀ r < 2, r ∈ g.map fun x => (collOf x.bytes).rank) ∧ (∀ x ∈ g, x.collRead = true) ∧
       (∀ x ∈ g, ∀ y ∈ g, y.cmd.id = x.cmd.id → y.bytes = x.bytes)) ∧
    (let p := { collR 7 0 with marks := 1, phase := .running 0 }
     (atEngine p).collWriting p = [p] ∧ p.writes = [] ∧ (atEngine p).postsAway 7 = false) := by
  refine ⟨?_, ?_, ?_, ?_, ⟨_, rfl, ?_, ?_⟩, ?_, ?_, ?_, ?_, ?_, ?_, ?_, ?_⟩ <;> decide +kernel

def frec (kind : Nat) : FaultRec :=
  { code := .assert, kind := kind, slotNo := some 0, detail := 0, tag := 9, block := 0x10000, addr := 0, handle := 0, unitNo := 0, unit := 0,
    elem := 0, qindex := 0, ldie := 0, data := 0, ember := some 4, sid := none, cmd := none, lsid := none }
def withCtx (c : Context) : State := { mapped with contexts := [c] }
def pageAt (s : State) (c : Context) (k : Kind) : Bool :=
  match s.slotPage c 0 k with
  | .at' s1 pa => pa == 0x100000 && pa / 2 ^ 46 == s1.pkgNo && !(s1.readPhys .k c.id c.ring pa 512).2.2
  | _ => false
/-- The handler's record and its table entries lie off the slot. -/
def slotOff (s : State) (c : Context) (k : Nat) (r : FaultRec) : Bool :=
  match s.slotPage c k .write with
  | .at' s1 pa =>
    let o := pa % 2 ^ 46
    let va := c.ring + 0x8000 + 512 * k
    let u := (s1.faultEmber r).1
    c.ring % 65536 == 0 && (c.aperture? va).isNone && u.badLines.isEmpty && decide (o + 512 ≤ 2 ^ 46) &&
    ((walkReads u va walkLevels c.root).all fun ea => decide (ea + 8 ≤ o ∨ o + 512 ≤ ea)) &&
      (match walkVa u c va .read with | (_, .ok pa) => decide (pa % 2 ^ 46 + 512 ≤ o ∨ o + 512 ≤ pa % 2 ^ 46) | _ => true)
  | _ => true
theorem slotApart {s : State} {c : Context} {k : Nat} {r : FaultRec} (h : slotOff s c k r = true) (s1 : State) (pa : Nat)
    (ho : s.slotPage c k .write = .at' s1 pa) : SlotApart (s1.faultEmber r).1 c k (pa % 2 ^ 46) := by
  simp only [slotOff, ho, Bool.and_eq_true, List.all_eq_true, decide_eq_true_eq, beq_iff_eq, Option.isNone_iff_eq_none,
    List.isEmpty_iff] at h
  refine ⟨h.1.1.1.1.1, h.1.1.1.1.2, h.1.1.1.2, h.1.1.2, h.1.2, fun t pa ht => ?_⟩
  have h2 := h.2
  rw [ht] at h2
  exact of_decide_eq_true h2
/-- A fault with a handler and one with the mask set, a handler's end, a violation, a parity report. -/
theorem wit_FaultSteps :
    (let c := { cp with faults := [frec 0] }
     let s := withCtx c
     s.ctx? ⟨0, 0⟩ = some c ∧ c.run = .running ∧ c.stopMsk = [] ∧ c.freeSlot = some 0 ∧ c.region? (frec 0).ldie = some ⟨0, 0, 0, 0⟩ ∧
       c.params.handler ≠ 0 ∧ bitOf c.params.stopMask (frec 0).code.num = false ∧ s.faultsHandler (frec 0) = false ∧
       pageAt s c .write = true ∧ clearB s = true ∧
       ∀ (s1 : State) (pa : Nat), s.slotPage c 0 .write = .at' s1 pa → SlotApart (s1.faultEmber (frec 0)).1 c 0 (pa % 2 ^ 46)) ∧
    (bitOf cmask.params.stopMask (frec 0).code.num = true ∧ cmask.run = .running ∧ cmask.stopMsk.contains (frec 0) = false ∧
      (let c := { cmask with faults := [frec 0] }
       (c.stopMsk ++ c.faults).find? (fun x => decide (c.params.handler = 0) || (withCtx c).faultsHandler x ||
         (bitOf c.params.stopMask x.code.num && !c.stopMsk.contains x)) = some (frec 0))) ∧
    (let c := { cp with ringSlots := [⟨0, frec 0, some (em .fault 0x1D), some 99⟩] }
     let s := withCtx c
     s.ctx? ⟨0, 0⟩ = some c ∧ (∃ x, c.ringSlots.find? (fun y => y.slot = 0) = some x ∧ x.sid = some 99 ∧ x.rec'.code ≠ .emberOverflow ∧
       x.ember.isSome ∧ x.rec'.kind = 0) ∧ s.strandGone 99 = true ∧ pageAt s c .read = true ∧ s.specs = [] ∧ clearB s = true) ∧
    (let c := { cp with run := .freezing }
     (withCtx c).ctx? ⟨0, 0⟩ = some c ∧ c.run = .freezing ∧ 1023 < 1024) ∧
    (base.quad? ⟨0, 0⟩ = some q0 ∧ q0.cx = ⟨0, 0⟩ ∧ q0.zeroing = false ∧ base.ctx? ⟨0, 0⟩ = some c0) := by
  refine ⟨⟨?_, ?_, ?_, ?_, ?_, ?_, ?_, ?_, ?_, ?_, slotApart ?_⟩, ?_, ⟨?_, ⟨_, rfl, ?_, ?_, ?_, ?_⟩, ?_, ?_, ?_, ?_⟩, ?_, ?_⟩ <;>
    decide +kernel

def cc (keep d : Bool) (clk : Nat) : Context :=
  { cp with run := .cutting keep d, cutClk := clk, imageArea := da (2 ^ 30), imageMiB := 16, cutDest := da (2 ^ 30) }
def marker : Msg := msg 3 (.quad ⟨0, 1⟩) (.quad qi) .marker
theorem wit_SnuffSteps :
    (let c := cc true false 0
     (withCtx c).ctx? ⟨0, 0⟩ = some c ∧ c.run = .cutting true false ∧ c.cutClk = 0 ∧ c.cutCmd = none ∧
       clearB (withCtx c) = true ∧ (withCtx c).destGood c c.cutDest = true ∧ (withCtx c).destGood c (2 ^ 40) = false) ∧
    (let c := cc true false 5
     (∀ q ∈ [q0, { q0 with snuff := .marked }], let s := { withCtx c with quads := [q] }
       s.quad? ⟨0, 0⟩ = some q ∧ s.ctx? q.cx = some c ∧ q.zeroing = false ∧ s.cutting c.id = true ∧ s.commits = [] ∧ clearB s = true) ∧
     (let s := { has (withCtx c) marker with quads := [q0, { Quad.initial ⟨0, 1⟩ cx0 0 1 0 with ready := [] }] }
      s.msg? 3 = some marker ∧ (s.quad? ⟨0, 1⟩).isSome ∧ s.quad? qi = some q0 ∧
        s.channelBusy c (Quad.initial ⟨0, 1⟩ cx0 0 1 0) q0 = false) ∧
     (let s := { withCtx c with cmds := [fillP (da 0) 0] }
      s.cmd? 7 = some (fillP (da 0) 0) ∧ s.cutting cx0 = true ∧ (fillP (da 0) 0).cutOff = false ∧ (fillP (da 0) 0).writes = [])) ∧
    (∀ c ∈ [cc true false 5, cc true true 5, cc false true 5], let s := { withCtx c with quads := [] }
      s.ctx? ⟨0, 0⟩ = some c ∧ s.cutComplete c = true ∧ clearB s = true) ∧
    (∀ q ∈ [{ q0 with zeroing := true }, { q0 with zeroing := true, snuff := .saved }],
      { base with quads := [q] }.quad? ⟨0, 0⟩ = some q ∧ q.zeroing = true) := by
  refine ⟨?_, ?_, ?_, ?_⟩ <;> decide +kernel

def late : State := { base with clk := 2048 * 1000 }
theorem wit_EnergySteps :
    (late.clk % 2048 = 0 ∧ { late with lanterns := [(.kdie, .ctx cx0, 5)] }.lanterns = [(.kdie, .ctx cx0, 5)] ∧ late.ctx? cx0 = some c0) ∧
    (late.msOver = true ∧ 16 ∉ late.msFactors ∧ 16 < late.factors.length ∧ late.msPower = false) ∧
    (∀ d < 17, d ∈ { late with msPower := true, msFactors := List.range 17 }.msFactors) ∧
    (let f := { Function.initial 1 with quota := some 5, spent := 5 * 65536, period := 0, nextPeriod := some (none, 7) }
     let s := { late with functions := [Function.initial 0, f] }
     s.functions[1]? = some f ∧ f.started + f.period ≤ s.msNo ∧ f.cut = false ∧ f.quota = some 5 ∧ 5 * 65536 ≤ f.spent) ∧
    (let c := { c0 with budget := 0 }
     { late with contexts := [c] }.ctx? ⟨0, 0⟩ = some c ∧ c.run ≠ .created ∧ c.run ≠ .loaded ∧ c.params.cls = 1 ∧ c.cls ≠ 2) := by
  refine ⟨?_, ?_, ?_, ?_, ?_⟩ <;> decide +kernel

/-- A write of a peer's, in a frame that port 3 sent. -/
def pkt0 : PodBody := .write 0 0 0 0x2000 8 1 none false false
def pf0 : PodFrame := { number := 0, etherType := 0x88B5, addr := 0, body := pkt0, at' := 0, port := 3 }
theorem wit_HostAndPodSteps :
    (let s := { base with hdmBase := 2 ^ 42 }
     (∀ p ∈ hostWay 56, s.hostGranted p = true) ∧ s.hdmBase ≤ 2 ^ 42 + 56 ∧ 2 ^ 42 + 56 < s.hdmBase + 2 ^ 40 ∧ (2 ^ 42 + 56) % 64 + 8 ≤ 64 ∧
       s.powerOff = false ∧ s.kAhead 8 = false) ∧
    (∃ w, base.windows[63]? = some w) ∧ base.halfRate = false ∧
    (let s := { base with podSize := 2 }
     s.isPeer 1 = true ∧ valueOf 15 false s.ports = true ∧ s.sealed (s.pkgNo * 2 ^ 46 + 0x2000) = false ∧ (s.flow 1 0).early = [] ∧
       (s.flow 1 0).nextRecv = 0 ∧ 1 ∉ s.lostPkgs) ∧
    (let s := { base with clk := 100000, flows := [{ peer := 1, cls := 0, nextSend := 1, nextRecv := 0, unacked := [pf0], early := [], lost := false, silent := none }] }
     pf0 ∈ (s.flow 1 0).unacked ∧ pf0.at' + 2 * s.fclk < s.clk ∧ pf0.port ≠ 4 ∧ valueOf 4 false s.ports = true) := by
  refine ⟨?_, ⟨_, rfl⟩, ?_, ?_, ?_⟩ <;> decide +kernel

/-! #### Endom's commands -/

/-- The physical function's command 1, read from its window and first of its context. -/
def kc (ws : List Nat) (ph : KPhase) : KCmd := { id := 1, vf := 0, from' := none, words := ws, phase := ph, dispatched := true }
def atK (s : State) (k : KCmd) : State := { s with kcmds := [k] }
def settling : KPhase → Bool
  | .settling _ _ => true
  | _ => false
theorem performs (s : State) (ws : List Nat) (ph : KPhase) (n : Nat) (h : (kc ws ph).code = n)
    (hp : settling ph = false) (hm : s.msgs = []) : Performs (atK s (kc ws ph)) 1 n (kc ws ph) :=
  ⟨by simp [atK, kc], h, rfl, by simp [State.firstOf, atK, kc],
    fun c r (he : ph = .settling c r) => by subst he; exact (nomatch hp), clear_ok (by simp [clearB, atK, hm])⟩
theorem lastRead (s : State) (ws : List Nat) (ph : KPhase) (hw : s.windows = State.reset.windows) : LastRead (atK s (kc ws ph)) (kc ws ph) :=
  .inr ⟨Window.initial, by show s.windows[0]? = _; rw [hw]; rfl, .inr rfl⟩
theorem wit_LastRead : LastRead (atK mapped (kc [1] .ready)) (kc [1] .ready) := lastRead _ _ _ rfl

def kfw (code ans : Nat) : KCmd :=
  { id := 1, vf := 0, from' := some (cx0, 0x10000, 9, qi, 0), words := [code, ans] ++ z 6, phase := .ready, dispatched := false }
def mapWords (va n pa flags : Nat) : List Nat := [3, 0x3000, 0, va, n, pa, flags, 0]
/-- A context whose ring lies in an unmapped page, so that its data page can be unmapped. -/
def cfree : Context := { cp with ring := 2 ^ 50 }
theorem wit_ContextCommandSteps_maps :
    (let s := { mapped with kcmds := [kfw 7 (da 0x3000)] }
     s.kcmds.find? (fun x => x.id = 1) = some (kfw 7 (da 0x3000)) ∧ s.firstOf (kfw 7 (da 0x3000)) = true ∧
       s.verdict (kfw 7 (da 0x3000)) = .perform) ∧
    (let k := kfw 0 (da 0x3000)
     let s := { mapped with kcmds := [k] }
     s.firstOf k = true ∧ k.code = 0 ∧ s.ctx? cx0 = some cp ∧ clearB s = true ∧ s.badLines = [] ∧ s.kWriting k = false ∧ k.w 1 % 65536 + 16 ≤ 65536 ∧
       (match translate s cp (k.w 1) 1 .write with
         | (s1, .ok pa) => pa == 0x3000 && pa / 2 ^ 46 == s1.pkgNo && !s1.poisoned (pa % 2 ^ 46) 16 | _ => false) = true) ∧
    (mapped.freeCtx 0 = some 1 ∧ mapped.tableNext + 16384 ≤ tableEnd) ∧
    (let k := kc [2, 0x3000, 0, 0] .ready
     k.w 3 / 2 ^ 16 = 0 ∧ k.target.bind mapped.ctx? = some cp ∧ k.barred cp = false ∧ cp.cutByOther = false ∧ cp.run = .running ∧
       { mapped with contexts := [], quads := [] }.gone cx0 = true ∧ { cp with run := .saved }.resting = true) ∧
    (let k := kc (mapWords (2 ^ 37) (2 ^ 36) (2 ^ 37) 0xC00400) .ready
     k.badFlags = false ∧ k.target.bind mapped.ctx? = some cp ∧ bitOf (k.w 6) 14 = false ∧ bitOf (k.w 6) 15 = false ∧
       mapped.mapChecks k cp (pageSize k.psize) = true ∧ mapped.pages cp (k.w 3) (k.w 4) = [] ∧
       (putLeaves cp (pageSize k.psize) k.leafFlags (k.w 4 / pageSize k.psize) (k.w 3) (k.w 5) mapped).isSome ∧
       (∀ j < 16, mapped.hdm? (0x3000 + j) = none) ∧ mapped.mapChecks (kc (mapWords (2 ^ 37) 65537 0 0x400) .ready) cp 65536 = false) ∧
    (let k := kc (mapWords (2 ^ 36) (2 ^ 36) (2 ^ 37) 0xC04400) .ready
     bitOf (k.w 6) 14 = true ∧ bitOf (k.w 6) 15 = false ∧ k.badFlags = false ∧ k.target.bind mapped.ctx? = some cp ∧
       mapped.mapChecks k cp (pageSize k.psize) = true ∧
       (∃ ps, mapped.pagesToMove k cp (pageSize k.psize) = some ps ∧ ps.length = 1 ∧ ∀ p ∈ ps, mapped.hostHas p = false)) ∧
    (let k := kc (mapWords 0 65536 0x200000 0x18000) .ready
     k.grants = true ∧ k.badFlags = false ∧ base.heldByOld k.named 0x200000 65536 = false ∧ base.unmapOpen 0x200000 65536 = false ∧ grantable k.named 0x200000 65536 = true ∧
       grantable k.named 0x200001 65536 = false) ∧
    (let k := kc [4, 0x3000, 0, 2 ^ 36, 2 ^ 36, 0, 0] .ready
     let s := withCtx cfree
     k.w 6 / 2 ^ 16 = 0 ∧ k.target.bind s.ctx? = some cfree ∧ (s.pages cfree (2 ^ 36) (2 ^ 36)).length = 1 ∧
       (∀ p ∈ s.pages cfree (2 ^ 36) (2 ^ 36), splitsPage (2 ^ 36) (2 ^ 36) p = false) ∧ cfree.keepsMapped (2 ^ 36) (2 ^ 36) = false ∧
       cp.keepsMapped (2 ^ 36) (2 ^ 36) = true ∧ s.commitTouches cfree.id (2 ^ 36) (2 ^ 36) = false) ∧
    (∀ k ∈ [kc [4] (.unmapping [(0, 65536)]), kc [3] (.copied []), kc (mapWords (2 ^ 36) (2 ^ 36) 0 0) (.sealed' [])],
      (atK mapped k).msgs = [] ∧ k.target.bind { mapped with contexts := [] }.ctx? = none) := by
  refine ⟨?_, ?_, ?_, ?_, ?_, ⟨?_, ?_, ?_, ?_, ?_, _, rfl, ?_⟩, ?_, ?_, ?_⟩ <;> decide +kernel
theorem wit_ContextCommandSteps_performs : Performs (atK mapped (kc [1, 0x3000, 0, 2 ^ 33] .ready)) 1 0x01 (kc [1, 0x3000, 0, 2 ^ 33] .ready) ∧
    Performs (atK mapped (kc [2] .cutting)) 1 0x02 (kc [2] .cutting) ∧
    Performs (atK mapped (kc (mapWords 0 0 0 0) (.sealed' []))) 1 0x03 (kc (mapWords 0 0 0 0) (.sealed' [])) ∧
    Performs (atK mapped (kc [4] (.unmapping []))) 1 0x04 (kc [4] (.unmapping [])) ∧
    (Performs (atK mapped (kc [7] (.round true []))) 1 0x07 (kc [7] (.round true [])) ∧
      (kc [7] (.round true [])).target.bind mapped.ctx? = some cp) ∧
    ∀ p ∈ mapped.pages cp (2 ^ 36) (2 ^ 36), mapped.remoteUnderway p.pa 65536 = false :=
  ⟨performs _ _ _ _ rfl rfl rfl, performs _ _ _ _ rfl rfl rfl, performs _ _ _ _ rfl rfl rfl, performs _ _ _ _ rfl rfl rfl, ⟨performs _ _ _ _ rfl rfl rfl, rfl⟩,
    by decide +kernel⟩

def enabledState : State := { mapped with enabled := List.replicate 8 (2 ^ 100 - 1), quads := [] }
def im1 : Image := { im0 with circuits := [], recorded := some [(1, 4, 2, true)] }
def cl (r : Run) : Context := { cp with run := r, image := some im0, imageArea := da (2 ^ 30), imageMiB := 16 }
/-- A saved image's first 64 bytes at 0x9000 of the host's memory, and the image it names. -/
def imgBytes : List Byte := bytesOf ([0x1A5, 0, 64] ++ z 5)
def saved0 : SavedImage :=
  { serial := 0, bytes := imgBytes, cxt := { c0 with image := some { im0 with regions := [] } }, quads := [], insts := [], commits := [], frames := [],
    embers := [], fifo := [], cmds := [], barriers := [], msgs := [], specs := [], retiring := [], posted := [], decoders := [], vaults := [], stopped := false,
    damaged := false }
def cnoimg : Context := { cp with run := .saved, image := none }
theorem wit_ContextCommandSteps_images :
    (let k := kc [5, 0x3000, 0, 0, 0x9000, 64, 0x10000] .ready
     k.w 3 / 2 ^ 16 = 0 ∧ k.target.bind (withCtx (cl .created)).ctx? = some (cl .created) ∧ (mapped.hostBytes 0x9000 64).2.isSome ∧
       ({ mapped with hostPoison := [0x9000] }.hostBytes 0x9000 64).2 = none ∧ imageGood im1 0x10000 = true ∧ imageGood im1 0x10001 = false ∧
       mapped.pagesAdmit cp .fetch 0x10000 im1.code.length = true ∧ im1.hbm = []) ∧
    (let l := fun _ : Nat => 0
     let l1 := fun n : Nat => if n = 2 then 1 else 0
     launchReserved l = false ∧ bitOf (l 2) 6 = false ∧ launchReserved l1 = false ∧ handlerGood im0 0x10000 (l 4) = true ∧
       (enabledState.hostBytes 0x9000 256).2.isSome ∧ enabledState.candleSpent 0 = false ∧
       placeRegions enabledState 0 [] 0 (im0.regions.map fun d => (d.w, d.h)) [] = some [⟨0, 0, 0, 0⟩] ∧
       placeRegions { mapped with quads := [] } 0 [] 0 (im0.regions.map fun d => (d.w, d.h)) [] = none ∧
       enabledState.podDiffers ((cl .loaded).launched im0 (launchParams l) [⟨0, 0, 0, 0⟩]) = false) ∧
    (let k := kc [8, 0x3000, 0, 0, 1, 0] .ready
     let s := withCtx (cl .running)
     k.target.bind s.ctx? = some (cl .running) ∧ k.w 4 = 1 ∧ k.barred (cl .running) = false ∧ (cl .running).cutByOther = false ∧
       savesFrom .running = true ∧ s.destGood (cl .running) (k.saveTo (cl .running)) = true ∧ s.settled (cl .running) = true ∧
       s.destGood (cl .running) (2 ^ 40) = false ∧ (withCtx (cl .stopped)).destGood (cl .stopped) (k.saveTo (cl .stopped)) = true) ∧
    (let k := kc [9, 0x3000, 0, 0, 0x9000, 0] .ready
     let s := { withCtx cnoimg with hostMem := cellsAt 0x9000 imgBytes, saved := [saved0] }
     k.target.bind s.ctx? = some cnoimg ∧ cnoimg.resting = true ∧ s.candleSpent 0 = false ∧
       s.readImage k = (s, .ok imgBytes) ∧ s.imageHeld imgBytes = some saved0 ∧
       leNat ((imgBytes.drop 8).take 8) = cnoimg.id.vf % 64 * 1024 + cnoimg.id.num % 1024 ∧
       takes cnoimg saved0 = true ∧ placeRegions s.takeMarks 0 [] 0 saved0.shapes [] = some []) := by
  refine ⟨?_, ?_, ?_, ?_⟩ <;> decide +kernel

def calib (kind : Nat) : List Byte := leBytes 8 (0x100 + kind) ++ leBytes 8 3389
theorem wit_AdminCommandSteps :
    (∃ f, mapped.functions[1]? = some f) ∧
    (tableDies 0x8).eraseDups.length = (tableDies 0x8).length ∧ (0x98 < 2 ^ 12 ∧ 0x90 % 16 = 0 ∧ 0x90 / 16 % 16 ≤ 9) ∧
    (kc [0x0F] .ready).fromPf = true ∧ (mapped.hostBytes 0x9000 32).2.isSome ∧
    (∀ t ∈ [1, 2], recordForm (({ mapped with hostMem := cellsAt 0x9000 (calib t) }.hostBytes 0x9000 3389).2.getD []) = true) ∧
    recordForm [] = false ∧ maskGood (2 ^ 96 - 1) = true ∧ limitsGood 0 = true ∧
    ((∀ c ∈ mapped.contexts, c.id.vf ≠ 1) ∧ (∀ q ∈ mapped.quads, q.cx.vf ≠ 1)) ∧ (∃ w, mapped.windows[1]? = some w ∧ w.sqHead = w.sqTail) ∧
    Performs (atK mapped (kc [0x11, 0x3000, 0, 1, 3, 0] .ready)) 1 0x11 (kc [0x11, 0x3000, 0, 1, 3, 0] .ready) ∧
    (kc [0x0C, 0x3000, 0, 0, 0x4000] .ready).target.bind mapped.ctx? = some cp :=
  ⟨⟨_, rfl⟩, by decide +kernel, by decide, rfl, by decide +kernel, by decide +kernel, by decide +kernel, by decide +kernel,
    by decide +kernel, by decide +kernel, ⟨_, rfl, rfl⟩, performs _ _ _ _ rfl rfl rfl, by decide +kernel⟩

/-! #### Frames, steps -/

theorem wit_ValueFrame : (s2 1 2).lanes.head? = some (l2 1 2) ∧ (s2 1 2).inst? (l2 1 2).inst = some i0 ∧
    (∃ t, exec (.add (g 0)) (s2 1 2) = .next t) ∧ ∃ t, exec (.fadd (g 0)) (s2 0x3F800000 0x3F800000) = .next t :=
  ⟨rfl, rfl, ⟨_, rfl⟩, _, rfl⟩
theorem wit_StepRunsDecoded : (s2 1 2).lanes = l2 1 2 :: [] ∧ (s2 1 2).inst? (l2 1 2).inst = some i0 ∧
    decode ((i0.body.drop (l2 1 2).slot).flatMap bytesOfSlot) = .ok (.sub ⟨0, 6, 0, 0x109⟩, [0, 0, 0, 0, 0, 0, 0, 0, 0, 0, 0, 0]) ∧
    { base with agenda := [.evDeviceReset] }.agenda = .evDeviceReset :: [] ∧ base.lanes = [] ∧
    { base with lanes := [⟨99, 0, noOps⟩] }.inst? 99 = none ∧
    decode (([0] : List Slot).flatMap bytesOfSlot) = .error (.illegalWord 1) := by
  refine ⟨rfl, rfl, rfl, rfl, rfl, ?_, rfl⟩; decide +kernel
theorem wit_DecodeEncode : (Instr.sub ⟨0, 6, 0, 0x109⟩).WellFormed ∧ (Instr.sub ⟨0, 6, 0, 0x109⟩).form.isSome ∧
    decode [0x09, 0x01, 0x18, 0x01] = .ok (.sub ⟨0, 6, 0, 0x109⟩, []) := ⟨by decide, rfl, rfl⟩
theorem wit_StepKeepsMemory : (s2 1 2).memOk = true ∧ ∃ t, step (s2 1 2) = .next t := ⟨by decide +kernel, _, rfl⟩

/-- The first step of a slot of zeros is refused. -/
theorem test_step_refuses : step (run { i0 with body := [0] } none none none) = .refused .notAnInstruction := by rfl
theorem test_fetch_word : (match step (State.reset.withFetchWord 32 0x01180109) with | .next s => s.flying.length | _ => 9) = 1 := by
  decide +kernel

/-! #### Further clauses -/

theorem wit_ExactOperations_zeros : (Ex.zero true).isNumber ∧ (Ex.zero true).rat * (Ex.fin false 1 3).rat = 0 ∧ (Ex.zero false).rat = 0 ∧
    (Ex.zero true).rat + (Ex.zero false).rat = 0 := ⟨trivial, by decide +kernel, rfl, by decide +kernel⟩
/-- 300.5 clamps to 8 bits either way and rounds to 16; FP32 takes 3/2, E2M1 overflows at 100 and FP16 is tiny at 2^-20. -/
theorem wit_RoundingModes_types :
    (let r := roundAt 0 0 false 601 2 0
     (2 : Int) ^ 7 - 1 < (r.1 : Int) ∧ (-(r.1 : Int)) < -(2 : Int) ^ 7 ∧ (r.1 : Int) ≤ (2 : Int) ^ 15 - 1 ∧ r.2 = true) ∧
    ((2 : Rat) ^ (0 : Int) ≤ ((3 : Nat) : Rat) / (2 : Nat) ∧ ((3 : Nat) : Rat) / (2 : Nat) < (2 : Rat) ^ ((0 : Int) + 1)) ∧
    ((2 : Rat) ^ (6 : Int) ≤ ((100 : Nat) : Rat) / (1 : Nat) ∧ ((100 : Nat) : Rat) / (1 : Nat) < (2 : Rat) ^ ((6 : Int) + 1) ∧
      (floatValue 0xD (floatFmt 0xD).max).ex.rat < 96) ∧
    ((2 : Rat) ^ (-20 : Int) ≤ ((1 : Nat) : Rat) / (2 ^ 20 : Nat) ∧ ((1 : Nat) : Rat) / (2 ^ 20 : Nat) < (2 : Rat) ^ ((-20 : Int) + 1)) := by
  refine ⟨⟨?_, ?_, ?_, ?_⟩, ⟨?_, ?_⟩, ⟨?_, ?_, ?_⟩, ⟨?_, ?_⟩⟩ <;> decide +kernel
/-- 3.0 for FRCP, FRSQ and FSQRT, 2^-1 for LG2, 1, 301 and -301 for EX2. -/
theorem wit_SpecialFunctionResults_values : (0 < fltMag 0 0x40400000 ∧ fltMag 0 0x40400000 < fltInf 0 ∧ fltNeg 0 0x40400000 = false) ∧
    (fltEx 0 0x3F000000).rat = (2 : Rat) ^ (-1 : Int) ∧ (fltEx 0 0x3F800000).rat = ((1 : Int) : Rat) ∧
    (fltEx 0 0x43968000).rat = ((301 : Int) : Rat) ∧ (fltEx 0 0xC3968000).rat = ((-301 : Int) : Rat) ∧ fltMag 0 0xC3968000 < fltInf 0 := by
  refine ⟨⟨?_, ?_, ?_⟩, ?_, ?_, ?_, ?_, ?_⟩ <;> decide +kernel
/-- MXSCL for E4M3 below, inside and, for MXINT8 and ceil, above its range; an infinity and a scale of 0xFF for MXQ. -/
theorem wit_ConversionResults_scales :
    (let y := fun e => |(floatValue 8 e).ex.rat|
     0 < y 1 ∧ y 1 < (2 : Rat) ^ ((8 : Int) - 127) ∧ (2 : Rat) ^ ((8 : Int) - 127) ≤ y 0x40000000 ∧
       y 1 ≤ 448 * (2 : Rat) ^ (-128 : Int) ∧ 448 * (2 : Rat) ^ (-128 : Int) < y 0x40000000 ∧ y 0x40000000 ≤ 448 * (2 : Rat) ^ (127 : Int) ∧
       (127 / 64 : Rat) * (2 : Rat) ^ (127 : Int) < y 0x7F7FFFFF) ∧
    (floatValue 8 0xFF800000).ex = .inf true ∧ ((0xFF00000000000000#64).extractLsb' 56 8).toNat = 0xFF := by
  refine ⟨⟨?_, ?_, ?_, ?_, ?_, ?_, ?_⟩, ?_, ?_⟩ <;> decide +kernel

/-- A null at port 11, at SPAWNR's and SPARAM's ports, and at INLET's. -/
theorem wit_PredicatesAndNulls_ports :
    (let l := lane (v 1) (v 2) (some .null)
     Fires (run0 (v 1) (v 2) (some .null)) 0 l i0 ∧ l.ops.left.isSome ∧ l.ops.right.isSome ∧ l.ops.third = some .null) ∧
    (let l := lane (some .null) none none
     Fires (run0 (some .null) none none) 0 l i0 ∧ l.ops.left = some .null ∧ (0x8000#16).getLsbD 15 = true) := by
  refine ⟨⟨⟨rfl, rfl, rfl⟩, rfl, rfl, rfl⟩, ⟨rfl, rfl, rfl⟩, rfl, by decide⟩

/-! An instance at its commit with an exit, effects and register writes, alone in its context. -/
def iX (op : ExitOp) (effs : List Eff) (swrs : List Swr) : Inst :=
  { i0 with header := hdr0, exits := [⟨0, 3, op⟩], effs := effs, wbuf := [(3, 1, some 9), (4, 1, none)], flags := 2, drops := 3, swrs := swrs }
def reserves (s : State) (c : Context) (i : Inst) : Bool := match (reserve s c i).2 with | .ok _ => true | .error _ => false
def mayBool (s : State) (i : Inst) (q : Quad) : Bool := s.mayCommit i && s.unitFree q.id && s.quadRuns q && clearB s
theorem mayCommit {s : State} {i : Inst} {c : Context} {q : Quad} (hi : s.insts = [i]) (hc : s.contexts = [c]) (hq : s.quads = [q])
    (h1 : c.id = i.frame.strand.cx) (h2 : q.id = i.frame.quad) (h : mayBool s i q = true) : MayCommit s i c q := by
  simp only [mayBool, Bool.and_eq_true] at h
  exact ⟨by simp [State.inst?, hi], by simp [State.ctx?, hc, h1], by simp [State.quad?, hq, h2], h.1.1.1, h.1.1.2, h.1.2, clear_ok h.2⟩
theorem plain {s : State} {op : ExitOp} {effs : List Eff} {swrs : List Swr} {c : Context} (h : s.nonOldest st0 = false)
    (ht : c.params.traceMask = 0) (hq : c.poolQueue ++ c.iterQueue = []) : Plain s (iX op effs swrs) c ⟨0, 3, op⟩ :=
  ⟨rfl, rfl, rfl, rfl, rfl, rfl, h, ht, by simp [hq]⟩

theorem wit_CommitSteps_exits :
    (∀ x ∈ [(ExitOp.finish, []), (.far (.load false (da 64) 8) 0x120 0x10000 4, []), (.trap 5, []), (.trap 5, [⟨0, 8, 2⟩])],
      let i := iX x.1 [] x.2
      let s := committing i q0
      MayCommit s i cp q0 ∧ Plain s i cp ⟨0, 3, x.1⟩ ∧ reserves s cp i = true ∧ s.posted = []) ∧
    (∃ p, (committing (iX .finish [] []) q0).space? cx0 (tagSpace st0.tag) = some p ∧ p.ordered = false ∧ p.freeing = [] ∧
      p.gen = tagGen st0.tag) := by
  refine ⟨fun x hx => ⟨mayCommit rfl rfl rfl rfl rfl ?_, plain ?_ rfl rfl, ?_, rfl⟩, _, rfl, rfl, rfl, rfl⟩ <;> revert x <;> decide +kernel

/-- A region of two quads, its second block on the second. -/
def ctwo : Context := { c0 with
  image := some { im0 with regions := [{ region0 with w := 2, places := [⟨0, [⟨0, 0, 0⟩]⟩, ⟨64, [⟨1, 0, 0⟩]⟩] }] } }
def two2 (i : Inst) : State := { base with contexts := [ctwo], quads := [q0, Quad.initial ⟨0, 1⟩ cx0 0 1 0], insts := [i] }
theorem wit_CommitSteps_away : (let i := iX (.branch 0x10040 1) [] []
    mayBool (two2 i) i q0 = true ∧ ctwo.places (tagLdie st0.tag) 0x10040 ≠ [] ∧
      ctwo.placeOf? (tagLdie st0.tag) 0x10040 st0.tag = some (⟨0, 1⟩, 0)) := by decide +kernel

/-- One effect each: its space, circuit or command; SPAWN's and the others' tags name space 2, which is empty for TSFREE. -/
def cze : Context := { cp with spaces := (cz 0).spaces }
def effState (e : Effect) (c : Context) : State := { committing (iX (.branch 0x10000 0) [⟨0, 0, e⟩] []) q0 with contexts := [c] }
theorem wit_StoreFrames_effects :
    (∀ x ∈ [(Effect.spawn 0x250003 0x10000, cp), (.spawnr 0x250003 0x10000 5, cp), (.tsfree 2 true, cze), (.tagrel 0x250003, cp),
        (.xmit 0 7, cp), (.fence 6, cp), (.command (cmd0 0x160 []), cp)],
      let i := iX (.branch 0x10000 0) [⟨0, 0, x.1⟩] []
      let s := effState x.1 x.2
      MayCommit s i x.2 q0 ∧ Plain s i x.2 ⟨0, 3, .branch 0x10000 0⟩ ∧ BranchesTo i x.2 ⟨0, 3, .branch 0x10000 0⟩ 0x10000 0 q0.id 0 ∧
        reserves s x.2 i = true ∧ s.posted = [] ∧ s.commits = [] ∧ s.cmd? 7 = none ∧ (s.space? cx0 2).isSome) ∧
    (cp.credits[0]? = some (31 + 1) ∧ cp.circuits[0]? = some ⟨0, 0, 0, 0, 64, 5⟩ ∧
      cp.placeOf? 0 (cp.codeBase + 64) 9 = some (qi, 0)) ∧
    (let c := { cp with spaces := [{ Space.initial 2 with decl := some 0, level := 1, k := 4, allocated := true, gen := 5, held := [(3, 4)] }] }
     ∃ p, (effState (.tagrel 0x250003) c).space? cx0 2 = some p ∧ heldIn (tagIter 0x250003) p.held = true ∧
       (effState (.tagrel 0x250003) c).aliveTag cx0 0x250003 = false ∧ (effState (.tagrel 0x250003) c).pendingTag cx0 0x250003 = false) := by
  refine ⟨fun x hx => ⟨mayCommit rfl ?_ rfl ?_ rfl ?_, plain ?_ ?_ ?_, ⟨rfl, by decide, ?_, ?_⟩, ?_, rfl, rfl, rfl, ?_⟩, ?_, ⟨_, rfl, ?_, ?_, ?_⟩⟩
  · rfl
  all_goals first | (revert x; decide +kernel) | decide +kernel


/-- A near store and a far load of an iteration that is not the oldest, with its record; the oldest's, which named the next
when it began, and the next's with two bytes. -/
def spec (n : Nat) (bytes : List (Nat × Byte)) (regs : List Word) : SpecIter :=
  { cx := cx0, space := 0, iter := n, quad := qi, bytes := bytes, bad := [], lines := [], block := 0x10000, regs := regs, strand := st0, ended := false,
    traces := [] }
def slate : State := { base with contexts := [co], specs := [spec 8 [] [8, 9], spec 9 [(64, 5), (65, 6)] [9, 10]] }
theorem wit_StoreFrames_speculation :
    (slate.nonOldest st0 = true ∧ ((iX (.far (.load false (da 64) 8) 0x120 0x10000 4) [] []).exits.any (·.op.forbidden)) = true ∧
      (iX .finish [⟨0, 0, .store 64 8 1⟩] []).nearSet = [⟨0, 0, .store 64 8 1⟩] ∧ (∀ p ∈ slate.specs, p.lines = []) ∧
      (∃ p ∈ slate.specs, p.isOf st0.cx (tagSpace st0.tag) (tagIter st0.tag) = true ∧ p.quad = qi)) ∧
    (∃ (p : Space) (x y : SpecIter), slate.space? cx0 0 = some p ∧ slate.specs = [x, y] ∧ x.isOf cx0 0 p.retiredBelow = true ∧
      x.regs[1]? = some 9 ∧ (9#64).toNat % 2 ^ 17 = p.retiredBelow + 1 ∧ y.isOf cx0 0 (p.retiredBelow + 1) = true ∧ y.ended = false ∧
      y.traces = [] ∧ (y.bytes.map (·.1)).Nodup) := by
  refine ⟨⟨?_, ?_, ?_, ?_, spec 9 [(64, 5), (65, 6)] [9, 10], ?_, ?_, rfl⟩, _, _, _, rfl, rfl, ?_, rfl, ?_, ?_, rfl, rfl, ?_⟩ <;> decide +kernel

/-- A posted store of a poisoned element; far accesses at a vault, and an atomic of another kind. -/
def badStore : Access := { access 0x2000 8 true false none 77 with mark := .poison }
def atVault (op : Option Rmw) : State := has base (msg 3 (.mdie 0) (.quad qi) (.far 4 (access (vaultBase qi + 64) 8 op.isSome false op 1)))
theorem wit_HomeSteps_vault : 1 ≤ badStore.n ∧ badStore.n ≤ 8 ∧
    (∀ op ∈ [none, some Rmw.maxU, some .cas, some (.fadd 0)], let a := access (vaultBase qi + 64) 8 op.isSome false op 1
      (atVault op).acquireBlocked (msg 3 (.mdie 0) (.quad qi) (.far 4 a)) = false ∧ (atVault op).specs = [] ∧
      (atVault op).quad? qi = some q0 ∧ q0.farBlocked (msg 3 (.mdie 0) (.quad qi) (.far 4 a)) a q0.vseq = false ∧
      (atVault op).sealed a.pa = false ∧ (atVault op).serves (.quad qi) cx0 a.pa = true ∧
      ((atVault op).scrub (vaultBase qi + 64) 8).poisoned (vaultBase qi + 64) 8 = false) := by
  refine ⟨?_, ?_, ?_⟩ <;> decide +kernel

/-- A record in the HBM pool over poison; a range of 31 iterations in grains of 4, with space for its parts and without. -/
def chbm : Context := { cp with poolBase := da 0x200000, poolSize := 65536 }
def lostAt (q : Quad) (e : Ember) : State := { lampState q e with contexts := [chbm], mem := tables, poison := [0x200000] }
def erange : Ember := { em .range 0x8A with regs := [0, 3 * 2 ^ 32 + 40] ++ List.replicate 30 0, live := 2, size := 72, value := none }
def cnopool : Context := { c0 with image := some { im0 with regions := [{ region0 with embersKiB := 0 }] } }
theorem wit_LamplighterSteps_lost :
    (∀ x ∈ [({ q0 with ready := [4] }, em .reply 0), (q0, em .range 0x8A), ({ q0 with frameWait := [4] }, em .reply 0)],
      let e := { x.2 with pool := .hbm }
      (lostAt x.1 e).recordGood e = false ∧ e.strand.cx = q0.cx ∧ e.strand.due = none) ∧
    (let s := lampState q0 erange
     s.rangeFor q0 c0 = some erange ∧ s.recordGood erange = true ∧ erange.value = none ∧ tagIter erange.strand.tag = 9 ∧
       (((erange.regs[1]?).getD 0).setWidth 17 : BitVec 17).toNat = 40 ∧ (((erange.regs[1]?).getD 0).extractLsb' 32 16).toNat + 1 = 4 ∧
       (40 - 9) / 2 ^ 3 ≤ 4 ∧ (∀ j < 3, 4 < (40 - 9) / 2 ^ j) ∧
       (splitSpaces (s.readRecord erange).1 c0.id erange.poolQuad (3 - 1) []).isSome ∧
       splitSpaces (({ s with contexts := [cnopool] }).readRecord erange).1 cnopool.id erange.poolQuad (3 - 1) [] = none) ∧
    (0x83 ≤ 0x83 ∧ 0x83 < 0x84) := by
  refine ⟨?_, ⟨?_, ?_, ?_, ?_, ?_, ?_, ?_, ?_, ?_, ?_⟩, ?_⟩ <;> decide +kernel

/-- A copy of equal types, a gather and a scatter whose first index is -1; the units on data of 1.0, 2.0, 3.0 and more. -/
def copyP : Pending :=
  { pend0 0x160 (bytesOf (vec ++ vec2 ++ z 8)) (.running 0) with lines := (List.range 4).map fun k => (va (0x1000 + 4 * k), 4, 5, false) }
def idxP (op : Nat) : Pending :=
  { pend0 op (bytesOf (vec ++ vec2 ++ [0, 77, va 0x3000] ++ z 5)) (.running 0) with
    lines := (List.range 4).map fun k => (va (0x3000 + 4 * k), 4, 2 ^ 32 - 1, false) }
def steps (p : Pending) : Bool := let s := atEngine p
  match p.args? with
  | some a => s.engineRuns p && p.writes.isEmpty && !roundOver p a && okOf (stepElem s (s.engineUnit p) cp p a) &&
      clearB s && decide (0 < s.streamReady (s.engineUnit p) cp p a) &&
      a.walk.count == 4 && !a.dst.marks && (cp.aperture? (a.dst.place (positionOf a.dst.dims p.n)).1).isSome && a.src.ty == a.dst.ty &&
      a.dst.ty == 8 && (a.dst.place (positionOf a.dst.dims p.n)).1 % 64 + 4 ≤ 64
  | none => false
/-- One piece of a line is wanted; its line's request has been granted, and it is read. -/
def lineReads (s : State) (p : Pending) (ws : List (Nat × Nat × Nat)) : Bool :=
  match firstLine ws with
  | [x] => p.writes.isEmpty && s.engineRuns p && clearB s && (s.pieceStop (s.engineUnit p) cp x).isNone &&
      granted s p (s.linesOf cp [x]) && (match (s.landed p true).engineXlate (s.engineUnit p) cp x.1 x.2.1 .read with
        | (s2, .ok pa) => pa / 2 ^ 46 == s2.pkgNo | _ => false)
  | _ => false
theorem wit_EngineSteps_copies : (∀ p ∈ [copyP, idxP 0x161, idxP 0x162], steps p = true) ∧
    (∃ a, copyP.args? = some a ∧ copyP.elem? a.src 0 = some (5, false)) ∧
    (∀ op ∈ [0x161, 0x162], ∃ a, (idxP op).args? = some a ∧ (idxP op).index? a 0 = some (-1, false)) ∧
    (let p := { copyP with lines := [] }
     let s := asked p
     ∃ a, p.args? = some a ∧ lineReads s p (p.streamWants cp a) = true) ∧
    (let s := asked stokP
     lineReads s stokP (s.stokWants stokP) = true) := by
  refine ⟨by decide +kernel, ⟨_, rfl, by decide +kernel⟩, fun op h => ?_, ⟨_, rfl, by decide +kernel⟩, by decide +kernel⟩
  simp only [List.mem_cons, List.not_mem_nil, or_false] at h
  rcases h with rfl | rfl <;> exact ⟨_, rfl, by decide +kernel⟩

def ldP : Pending := mxP 0x167 0 0 (shp (va 0x1000) 8 [(128, 1), (128, 128)] ++ z 1)
def stP : Pending := mxP 0x168 0 0 (shp (va 0x10000) 8 [(128, 1), (128, 128)] ++ z 1)
def vmP : Pending := pend0 0x16A (bytesOf (shp (va 0x2000) 7 [(2, 1)] ++ shp (va 0x1000) 7 [(2, 1)] ++ shp (va 0x1008) 6 [(2, 1)] ++ z 8 ++ [1])) .queued
def vrP : Pending := pend0 0x16B (bytesOf (shp (va 0x2000) 7 [(2, 1)] ++ shp (va 0x1000) 7 [(3, 1), (2, 3)] ++ [5])) .queued
/-- A window of one column without padding, and one whose padding of one its first place reads. -/
def win1 (pad : Nat) : List Nat :=
  [va 0x1000, 0x138 + pad * 0x200, 1 + 2 ^ 32, 4 + 2 ^ 32, 4 + 4 * 2 ^ 32, 0, 0, 0x11110101 + pad * 2 ^ 32]
def wrP (pad : Nat) : Pending :=
  { pend0 0x16D (bytesOf (shp (va 0x2000) 8 [(1, 1), (6, 1)] ++ [va 0x1000, 6 * 2 ^ 32])) .queued with
    cmd := { cmd0 0x16D [] with window := bytesOf (win1 pad) } }
def atHomeB (c : Context) (sh : Shape) (n : Nat) : Bool :=
  sh.ty != 0xD && decide (8 ≤ typeBits sh.ty) && decide ((sh.place (positionOf sh.dims n)).1 % 64 + typeBits sh.ty / 8 ≤ 64) &&
    c.aperture % 64 == 0 && decide (c.aperture ≤ (sh.place (positionOf sh.dims n)).1)
theorem wit_EngineSteps_values :
    (∀ p ∈ [ldP, stP, vmP, vrP, wrP 0, wrP 1], ∀ q ∈ [qme, qlive], let s := { atEngine p with quads := [q] }
      s.cmd? 7 = some p ∧ s.quad? p.cmd.quad = some q ∧ s.unitMay p = true ∧ s.specs = []) ∧
    ((∃ r, mxRunOf mxRunP.bytes = some r ∧ r.rows ≤ 128 ∧ 0 < r.rows ∧ 0 < r.cols) ∧
      (∀ p ∈ [ldP, stP], (parseShape (recordAt p.bytes 0) false false).isSome) ∧ cfgTile 0x488 (fieldAt ldP.bytes 64 % 4) = true) ∧
    (∃ out a b, shapeAt vmP.bytes 0 = some out ∧ shapeAt vmP.bytes 64 = some a ∧ shapeAt vmP.bytes 128 = some b ∧
      shapeAt vmP.bytes 192 = none ∧ fieldAt vmP.bytes 256 = 1 ∧ out.ty = 7 ∧ a.ty = 7 ∧ b.ty = 6 ∧ 0 < out.count ∧
      atHomeB cp out 0 = true) ∧
    (∃ out inp, shapeAt vrP.bytes 0 = some out ∧ shapeAt vrP.bytes 64 = some inp ∧ bitsOf (fieldAt vrP.bytes 128) 3 0 = 5 ∧ inp.ty = 7 ∧
      inp.extent 0 = 3 ∧ atHomeB cp out 0 = true) ∧
    (∀ pad ∈ [0, 1], (parseShape (recordAt (wrP pad).cmd.window 0) true true).isSome ∧
      (match shapeAt (wrP pad).bytes 0 with | some d => d.extent 0 == 1 && atHomeB cp d 0 | none => false) = true) ∧
    (∃ w, parseShape (recordAt (wrP 0).cmd.window 0) true true = some w ∧ windowPos w.w7 w 0 0 0 0 = some (0, 0)) ∧
    (∃ w, parseShape (recordAt (wrP 1).cmd.window 0) true true = some w ∧ windowPos w.w7 w 0 0 0 0 = none) := by
  refine ⟨?_, ⟨⟨_, rfl, ?_, ?_, ?_⟩, ?_, ?_⟩, ⟨_, _, _, rfl, rfl, rfl, ?_, ?_, ?_, ?_, ?_, ?_, ?_⟩, ⟨_, _, rfl, rfl, ?_, ?_, ?_, ?_⟩, ?_,
    ⟨_, rfl, ?_⟩, ⟨_, rfl, ?_⟩⟩ <;> decide +kernel
/-- An accumulator that holds 1.0 takes 1.0, a NaN, and what makes it infinite. -/
theorem wit_EngineSteps_rounding : (floatValue 8 0x3F800000).ex ≠ .nan ∧ (floatValue 8 0x7FC00000).ex = .nan ∧
    ((floatValue 8 0x3F800000).ex.add (.fin false 1 1)).isNan = false ∧
    (roundRne 8 ((floatValue 8 0x7F7FFFFF).ex.add (floatValue 8 0x7F7FFFFF).ex)).1 % 2 ^ 31 = 0x7F800000 := by
  refine ⟨?_, ?_, ?_, ?_⟩ <;> decide +kernel

/-- A token in flight to element 0, and a record at the head of a ready list, meet a parity failure. -/
theorem wit_FaultSteps_parity :
    ({ base with insts := [iw .idle noOps], flying := [⟨5, 1, 2, 0, .left, .val 3⟩] }.discardAt cx0 q0 0 1 0).isSome ∧
    ({ base with quads := [{ q0 with ready := [4] }], embers := [ember0] }.discardAt cx0 { q0 with ready := [4] } 5 1 0).isSome ∧
    (∃ r, base.badNode[0]? = some r) ∧ 0 ∉ base.badHeld ∧ 0 ∈ { base with badHeld := [0] }.badHeld := by
  refine ⟨?_, ?_, ⟨_, rfl⟩, ?_, ?_⟩ <;> decide +kernel
/-- A frame of another type, a package silent for 100 ms, a command that settles, ATTEST of a context that does not exist. -/
theorem wit_HostAndPodSteps_more :
    valueOf 0 false base.ports = true ∧ ¬ (0x800 = 0x88B5) ∧
    (let f : PodFlow := { peer := 1, cls := 0, nextSend := 1, nextRecv := 0, unacked := [pf0], early := [], lost := false, silent := some 0 }
     let s := { base with podSize := 2, clk := 10000 * 18000 + 1, flows := [f] }
     s.unreached 1 = true ∧ s.isPeer 1 = true ∧ 1 ∉ s.lostPkgs) ∧
    (∀ b ∈ [pkt0, .read 0 0 0 0x2000 8], Arrives (has base (msg 3 (.pod 1) (.mdie 0) (.served b))) 3
      (msg 3 (.pod 1) (.mdie 0) (.served b)) (.served b)) ∧ base.sealed (base.pkgNo * 2 ^ 46 + 0x2000) = false ∧
    (let m := { msg 3 (.mdie 0) (.pod 1) (.served pkt0) with hops := [.ether 3] }
     (has base m).queued (.ether 3) = [m] ∧ (has base m).barrierNext (.ether 3) = none ∧ 1 ∉ base.lostPkgs) := by
  refine ⟨?_, ?_, ⟨?_, ?_, ?_⟩, fun b _ => arrives base _ _ _ _ rfl (notHeld _ _ _ _), ?_, ?_⟩ <;> decide +kernel
theorem wit_ContextCommandSteps_settling : ∀ code ∈ [3, 5], let k := kc [code, 0x3000] (.settling 0 [1])
    (atK mapped k).kcmds.find? (fun x => x.id = 1) = some k ∧ k.dispatched = true ∧ (atK mapped k).firstOf k = true ∧
      (atK mapped k).kWriting k = false ∧ clearB (atK mapped k) = true := by decide +kernel
theorem wit_AdminCommandSteps_attest : (kc [0x0F, 0x3000, 0, 0, 0, 1] .ready).target.bind mapped.ctx? = none ∧
    (kc [0x0F, 0x3000] .ready).target.bind mapped.ctx? = some cp ∧ 0 ∉ mapped.badHeld := by
  refine ⟨?_, ?_, ?_⟩ <;> decide +kernel

end Sys2Proof.Tests
end

section
/-!
PROOFS. The statements of the family of 00_scope.md: words that decode, and the host port and pod transport.
-/

namespace Sys2Proof.Proofs

open Sys2Proof Sys2Proof.Machine

/-! ### Words written out from the formats -/

/-- Settles O57: decoding is a computation, and each word is run through it. -/
theorem decodeWords : Obligations.DecodeWords := by
  unfold Obligations.DecodeWords
  exact ⟨rfl, rfl, rfl, rfl, rfl, rfl, rfl, rfl, rfl, rfl, rfl, rfl⟩

/-! ### A packet in sequence that names no stack -/

/-- A package in a pod of two, all else as reset leaves it: HDMBASE and the base of the physical function's event ring are 0,
so that the ring lies in HBM (R386, R387). -/
def podOfTwo : State := { State.reset with podSize := 2 }

/-- A write by the physical function of package 1 at offset 2^40, where a vault begins and no stack is (R19). -/
def strayWrite : PodBody := .write 0 0 0 (2 ^ 40) 8 0 none false false

/-- Packet 0 of package 1 has been taken: packet 1 is the next of its triple. -/
def tookFirst : State :=
  (podOfTwo.heard 1).setFlow { podOfTwo.flow 1 0 with nextRecv := 1 }

/-- The record of the violation is in the physical function's event ring (R322). -/
def strayReported : State := tookFirst.event 0 0 0 0 0x1A 1 (2 ^ 40) 0

/-- Package 1 may use no address of this one but a stack's: K reports its stray write, and the packet is acknowledged. -/
theorem receive_strayWrite : exec (.evPodPacketReceive 1 0 0 0 strayWrite) podOfTwo =
    .next (strayReported.sendAck 1 0).tick := rfl

/-- The ring lies in HBM, and a record's first byte is its type, here 1 (R394). -/
theorem strayReported_byteAt_zero : strayReported.byteAt 0 = 1 := by decide +kernel

/-- An acknowledgement is a packet and leaves memory alone. -/
theorem sendAck_mem (s : State) (src cls : Nat) : (s.sendAck src cls).mem = s.mem := rfl

/-- Refutes O52: its clause on received packets says of every packet in sequence that memory stays as it was, and bounds the
address only for what is delivered. A packet in sequence that names no stack is a violation, and the record of it goes into
the physical function's event ring, which changes memory where that ring lies in HBM behind HDMBASE. -/
theorem not_hostAndPodSteps : ¬ Obligations.HostAndPodSteps := by
  unfold Obligations.HostAndPodSteps
  intro h
  obtain ⟨-, -, -, -, -, hreceive, -⟩ := h podOfTwo
  obtain ⟨t, ht, hmem, -⟩ := hreceive 1 0 0 0 0 0 (2 ^ 40) 8 0 rfl (by decide) rfl rfl
  obtain rfl := Host.Outcome.next.inj (receive_strayWrite.symm.trans ht)
  rw [State.tick_mem, sendAck_mem] at hmem
  have hzero : strayReported.byteAt 0 = 0 := by rw [State.byteAt, hmem]; rfl
  rw [strayReported_byteAt_zero] at hzero
  exact absurd hzero (by decide)

end Sys2Proof.Proofs
end

section
/-!
PROOFS. Every step keeps the memories in canonical form (01_machine.md): a law for each operation that has none yet, in the
order of the model's files, the outcome of every instruction and device step, and the step itself.
-/

namespace Sys2Proof.Machine

/-! ### Outcomes, lanes that fire -/

/-- An outcome that goes on goes on with canonical memories. -/
def OutOk (o : Out) : Prop := ∀ t, o = .next t → t.memOk = true

@[simp] theorem outOk_next {t : State} : OutOk (.next t) ↔ t.memOk = true :=
  ⟨fun h => h t rfl, fun h _ e => Host.Outcome.next.inj e ▸ h⟩
@[simp] theorem outOk_refused (r : Refusal) : OutOk (.refused r) := fun _ h => nomatch h
@[simp] theorem outOk_fault (f : Fault) : OutOk (.fault f) := fun _ h => nomatch h
theorem outOk_ite {c : Prop} [Decidable c] {a b : Out} (ha : OutOk a) (hb : OutOk b) : OutOk (if c then a else b) := by
  split
  · exact ha
  · exact hb
@[simp] theorem notEnabled_outOk (name : String) : OutOk (notEnabled name) := outOk_refused _

section
variable {s : State} {pr : BitVec 2} {ts : List (BitVec 9)} {n : Nat} (h : s.memOk = true)
include h

theorem firing_outOk {k : Lane → Inst → State → Out} (hk : ∀ l i u, u.memOk = true → OutOk (k l i u)) :
    OutOk (firing s pr k) :=
  fun _ e => firing_memOk e h fun l i _ e => hk l i s.issued h _ e

theorem onceExit_outOk {l : Lane} {i : Inst} {k : State → Out} (hk : OutOk (k s)) : OutOk (onceExit s l i k) := by
  unfold onceExit
  split
  · exact hk
  · exact outOk_next.2 (s.takeFault_memOk _ _ _ _ _ h)

theorem value0_outOk {f : Lane → Inst → Tok} : OutOk (value0 s pr ts f) :=
  firing_outOk h fun l i u hu => by simp [hu]

theorem value1_outOk {f : Lane → Inst → Word → Word × Nat} : OutOk (value1 s pr ts f) :=
  firing_outOk h fun l i u hu => by split <;> simp [State.orFlags_memOk, hu]

theorem value2_outOk {f : Lane → Inst → Word → Word → Word × Nat} : OutOk (value2 s pr ts f) :=
  firing_outOk h fun l i u hu => by split <;> simp [State.orFlags_memOk, hu]

theorem value3_outOk {f : Lane → Inst → Word → Word → Word → Word × Nat} : OutOk (value3 s ts f) :=
  firing_outOk h fun l i u hu => by split <;> simp [State.orFlags_memOk, hu]

theorem effect1_outOk {k : Lane → Inst → Word → State → Out} (hk : ∀ l i a u, u.memOk = true → OutOk (k l i a u)) :
    OutOk (effect1 s pr n k) :=
  firing_outOk h fun l i u hu => by split <;> simp [State.resolveLsid_memOk, hu, hk]

theorem effect2_outOk {k : Lane → Inst → Word → Word → State → Out}
    (hk : ∀ l i a b u, u.memOk = true → OutOk (k l i a b u)) :
    OutOk (effect2 s pr n k) :=
  firing_outOk h fun l i u hu => by split <;> simp [State.resolveLsid_memOk, hu, hk]

theorem exit0_outOk {k : Lane → Inst → State → Out} (hk : ∀ l i u, u.memOk = true → OutOk (k l i u)) :
    OutOk (exit0 s pr k) :=
  firing_outOk h fun l i u hu => onceExit_outOk hu (hk l i u hu)

theorem exit1_outOk {k : Lane → Inst → Word → State → Out} (hk : ∀ l i a u, u.memOk = true → OutOk (k l i a u)) :
    OutOk (exit1 s pr k) :=
  firing_outOk h fun l i u hu => by
    split
    · exact outOk_refused _
    · exact outOk_next.2 hu
    · exact onceExit_outOk hu (hk l i _ u hu)

theorem exit2_outOk {k : Lane → Inst → Word → Word → State → Out} (hk : ∀ l i a b u, u.memOk = true → OutOk (k l i a b u)) :
    OutOk (exit2 s pr k) :=
  firing_outOk h fun l i u hu => by
    split
    · exact outOk_refused _
    · exact outOk_next.2 hu
    · exact onceExit_outOk hu (hk l i _ _ u hu)

theorem exit3_outOk {k : Lane → Inst → Word → Word → Word → State → Out}
    (hk : ∀ l i a b c u, u.memOk = true → OutOk (k l i a b c u)) : OutOk (exit3 s k) :=
  firing_outOk h fun l i u hu => by
    split
    · exact outOk_refused _
    · exact outOk_next.2 hu
    · exact onceExit_outOk hu (hk l i _ _ _ u hu)
end

/-! ### State -/

/-- Bytes put into package memory as they are. -/
theorem State.putMem_memOk (s : State) (a : Nat) (bs : List Byte) (h : s.memOk = true) :
    { s with mem := memPut a bs s.mem }.memOk = true := by
  rw [State.memOk_iff] at h ⊢
  exact ⟨memPut_wf bs a h.1, h.2⟩

/-- Bytes zeroed or lost leave the rest as it was. -/
theorem State.zeroMem_memOk (s : State) (p : Host.Cell → Bool) (h : s.memOk = true) :
    { s with mem := s.mem.filter p }.memOk = true := by
  rw [State.memOk_iff] at h ⊢
  exact ⟨filter_wf p h.1, h.2⟩

theorem State.putCell_memOk (s : State) (a : Nat) (b : Byte) (h : s.memOk = true) :
    { s with mem := memSet a b s.mem }.memOk = true := by
  rw [State.memOk_iff] at h ⊢
  exact ⟨memSet_wf a b h.1, h.2⟩

/-! ### Ops -/

@[simp] theorem State.issueHeld_memOk (s : State) (sid : Nat) : (State.issueHeld s sid).memOk = s.memOk := by
  unfold State.issueHeld
  grind [State.memOk]

@[simp] theorem State.chargeAccess_memOk (s : State) (home : Node) (a : Access) :
    (State.chargeAccess s home a).memOk = s.memOk := by
  unfold State.chargeAccess
  grind [State.chargeHome_memOk]

@[simp] theorem State.landOver_memOk (s : State) (m : Msg) (ls : List LinkEnd) :
    (State.landOver s m ls).memOk = s.memOk := by
  unfold State.landOver
  grind [State.countLink_memOk, State.dropMsg_memOk, State.charge_memOk, foldl_memOk_eq]

@[simp] theorem State.chargeEdge_memOk (s : State) (m : Msg) : (State.chargeEdge s m).memOk = s.memOk := by
  unfold State.chargeEdge
  grind [State.charge_memOk, foldl_memOk_eq]

@[simp] theorem State.land_memOk (s : State) (n : Nat) : (State.land s n).memOk = s.memOk := by
  unfold State.land
  grind [State.chargeEdge_memOk, State.landOver_memOk]

@[simp] theorem State.crossNow_memOk (s : State) (cx : CtxId) (a : QuadId) (b : QuadId) :
    (State.crossNow s cx a b).memOk = s.memOk := by
  unfold State.crossNow
  grind [State.countLink_memOk, State.charge_memOk, foldl_memOk_eq]

@[simp] theorem State.remoteRead_memOk (s : State) (src : Node) (cx : CtxId) (va : Nat) (pa : Nat) (n : Nat) :
    (State.remoteRead s src cx va pa n).1.memOk = s.memOk := by
  unfold State.remoteRead
  grind [State.send_memOk, State.memOk, foldl_memOk_eq]

@[simp] theorem State.readPhys_memOk (s : State) (src : Node) (cx : CtxId) (va : Nat) (pa : Nat) (n : Nat) :
    (State.readPhys s src cx va pa n).1.memOk = s.memOk := by
  unfold State.readPhys
  grind [State.remoteRead_memOk, State.rangeAccess_memOk]

theorem writeVa_memOk (s : State) (u : XUnit) (c : Machine.Context) (va : Nat) (bs : List Byte) (h : s.memOk = true) :
    ∀ t, writeVa s u c va bs = some t → t.memOk = true := by
  unfold writeVa
  grind [writeVaAs_memOk]

/-- A write that finds no page leaves the state that stood before it. -/
theorem writeVa_getD_memOk (s : State) (u : XUnit) (c : Machine.Context) (va : Nat) (bs : List Byte) (h : s.memOk = true) :
    ((writeVa s u c va bs).getD s).memOk = true := by
  cases e : writeVa s u c va bs with
  | none => exact h
  | some t => exact writeVa_memOk s u c va bs h t e

theorem State.readVa_memOk (s : State) (u : XUnit) (c : Machine.Context) (va : Nat) (n : Nat) (h : s.memOk = true) :
    (State.readVa s u c va n).1.memOk = true := by
  unfold State.readVa
  grind [State.readPhys_memOk, translateBy_memOk]

theorem State.storeEmber_memOk (s : State) (e : Ember) (h : s.memOk = true) : (State.storeEmber s e).memOk = true := by
  unfold State.storeEmber
  grind [State.storeBy_memOk]

@[simp] theorem State.nextSeq_memOk (s : State) (q : QuadId) (home : Nat) (source : Nat) :
    (State.nextSeq s q home source).2.memOk = s.memOk := by
  unfold State.nextSeq
  grind [State.modQuad_memOk]

@[simp] theorem State.hostTouch_memOk (s : State) (hpa : Nat) (n : Nat) (write : Bool) :
    (State.hostTouch s hpa n write).memOk = s.memOk := by
  unfold State.hostTouch
  grind [State.rangeAccess_memOk]

@[simp] theorem State.hostFetch_memOk (s : State) (hpa : Nat) (n : Nat) : (State.hostFetch s hpa n).1.memOk = s.memOk := by
  unfold State.hostFetch
  grind [State.hostTouch_memOk]

theorem State.traceFault_memOk (s : State) (cx : CtxId) (f : FaultRec) (h : s.memOk = true) :
    (State.traceFault s cx f).memOk = true := by
  unfold State.traceFault
  grind [State.traceRec_memOk]

@[simp] theorem State.relitJoins_memOk (s : State) (cx : CtxId) (space : Nat) :
    (State.relitJoins s cx space).memOk = s.memOk := by
  unfold State.relitJoins
  grind [State.dropMsg_memOk, State.send_memOk, foldl_memOk_eq]

@[simp] theorem State.countItem_memOk (s : State) (cx : CtxId) (space : Nat) (n : Nat) :
    (State.countItem s cx space n).memOk = s.memOk := by
  unfold State.countItem
  grind [State.modSpace_memOk, State.relitJoins_memOk]

@[simp] theorem State.uncountTag_memOk (s : State) (cx : CtxId) (tag : Nat) :
    (State.uncountTag s cx tag).memOk = s.memOk := rfl

@[simp] theorem State.wakeWhere_memOk (s : State) (p : Ember → Bool) : (State.wakeWhere s p).memOk = s.memOk := by
  unfold State.wakeWhere
  grind [State.modQuad_memOk, State.modEmber_memOk, foldl_memOk_eq]

@[simp] theorem State.mapStrands_memOk (s : State) (f : Strand → Strand) : (State.mapStrands s f).memOk = s.memOk := rfl

@[simp] theorem State.reserveNumber_memOk (s : State) (st : Strand) (d : Nat) (n : Nat) (block : Nat) (slot : Nat) :
    (State.reserveNumber s st d n block slot).2.memOk = s.memOk := by
  unfold State.reserveNumber
  grind [State.modSpace_memOk]

@[simp] theorem State.reserveIter_memOk (s : State) (st : Strand) (space : Nat) (it : Nat) (block : Nat) (slot : Nat) :
    (State.reserveIter s st space it block slot).2.memOk = s.memOk := by
  unfold State.reserveIter
  grind [State.modSpace_memOk]

@[simp] theorem State.granted1_memOk (s : State) (cx : CtxId) (sid : Nat) (r : TagResv) :
    (State.granted1 s cx sid r).memOk = s.memOk := by
  unfold State.granted1
  grind [State.mapStrands_memOk, State.wakeWhere_memOk]

@[simp] theorem State.offQueue_memOk (s : State) (cx : CtxId) (pool : Bool) (key : Nat) (sid : Nat) :
    (State.offQueue s cx pool key sid).memOk = s.memOk := rfl

@[simp] theorem State.servePool_memOk (s : State) (cx : CtxId) (d : Nat) (fuel : Nat) :
    (s.servePool cx d fuel).memOk = s.memOk := by
  induction fuel generalizing s with
  | zero => rfl
  | succ n ih =>
    unfold State.servePool
    grind [State.reserveNumber_memOk, State.offQueue_memOk, State.granted1_memOk]

@[simp] theorem State.serveIter_memOk (s : State) (cx : CtxId) (n : Nat) (fuel : Nat) :
    (s.serveIter cx n fuel).memOk = s.memOk := by
  induction fuel generalizing s with
  | zero => rfl
  | succ n ih =>
    unfold State.serveIter
    grind [State.reserveIter_memOk, State.offQueue_memOk, State.granted1_memOk]

@[simp] theorem State.wakePool_memOk (s : State) (cx : CtxId) (d : Nat) : (State.wakePool s cx d).memOk = s.memOk := by
  unfold State.wakePool
  grind [State.servePool_memOk, State.wakeWhere_memOk]

@[simp] theorem State.wakeIter_memOk (s : State) (cx : CtxId) (n : Nat) : (State.wakeIter s cx n).memOk = s.memOk := by
  unfold State.wakeIter
  grind [State.serveIter_memOk, State.wakeWhere_memOk]

@[simp] theorem State.entryFreed_memOk (s : State) (q : QuadId) : (State.entryFreed s q).memOk = s.memOk := by
  unfold State.entryFreed
  grind [State.modQuad_memOk, State.wakeWhere_memOk]

@[simp] theorem State.conflictOver_memOk (s : State) (q : QuadId) (id : Nat) :
    (State.conflictOver s q id).memOk = s.memOk := by
  unfold State.conflictOver
  grind [State.wakeWhere_memOk]

@[simp] theorem State.releaseReports_memOk (s : State) (cx : CtxId) (p : Nat → Bool) :
    (State.releaseReports s cx p).memOk = s.memOk := by
  unfold State.releaseReports
  grind [State.entryFreed_memOk, State.memOk, foldl_memOk_eq]

@[simp] theorem State.freeIter_memOk (s : State) (cx : CtxId) (space : Nat) (iter : Nat) :
    (State.freeIter s cx space iter).memOk = s.memOk := by
  unfold State.freeIter
  grind [State.wakeIter_memOk, State.releaseReports_memOk, State.modSpace_memOk]

@[simp] theorem State.sweepFreeing_memOk (s : State) (cx : CtxId) (tag : Nat) :
    (State.sweepFreeing s cx tag).memOk = s.memOk := by
  unfold State.sweepFreeing
  grind [State.freeIter_memOk]

@[simp] theorem State.retire_memOk (s : State) (st : Strand) : (State.retire s st).memOk = s.memOk := by
  unfold State.retire
  grind [State.uncountTag_memOk, State.sweepFreeing_memOk, State.memOk]

/-! ### Operands -/

theorem fireExit_outOk (s : State) (l : Lane) (id : Nat) (op : ExitOp) (h : s.memOk = true) : OutOk (fireExit s l id op) :=
  outOk_next.2 h

/-! ### IntOps -/

theorem intOne_outOk (f : FmtG) (s : State) (v : Nat → Nat → Nat) (h : s.memOk = true) : OutOk (intOne f s v) := value1_outOk h

theorem intTwo_outOk (f : FmtG) (s : State) (v : Nat → Nat → Nat → Nat) (h : s.memOk = true) : OutOk (intTwo f s v) := value2_outOk h

theorem intThree_outOk (f : FmtG) (s : State) (v : Nat → Nat → Nat → Nat → Nat) (h : s.memOk = true) :
    OutOk (intThree f s v) := value3_outOk h

theorem intImm_outOk (f : FmtI) (s : State) (v : Nat → Nat → Nat → Nat) (h : s.memOk = true) : OutOk (intImm f s v) := value1_outOk h

theorem predTwo_outOk (f : FmtG) (s : State) (v : Bool → Bool → Bool) (h : s.memOk = true) :
    OutOk (predTwo f s v) := value2_outOk h

theorem execSteer_outOk (f : FmtG) (s : State) (h : s.memOk = true) : OutOk (execSteer f s) := by
  refine firing_outOk h fun l i u hu => ?_
  grind [State.deliver_memOk, outOk_next, outOk_refused]

theorem execMerge_outOk (f : FmtG) (s : State) (h : s.memOk = true) : OutOk (execMerge f s) := by
  refine firing_outOk h fun l i u hu => ?_
  grind [State.deliver_memOk, outOk_next, outOk_refused]

theorem execRetag_outOk (f : FmtG) (s : State) (h : s.memOk = true) : OutOk (execRetag f s) := by
  refine firing_outOk h fun l i u hu => ?_
  grind [State.takeFault_memOk, State.deliver_memOk, outOk_next, outOk_refused]

/-! ### FloatOps -/

theorem fltOne_outOk (f : FmtG) (s : State) (v : Nat → Nat → Nat × Nat) (h : s.memOk = true) : OutOk (fltOne f s v) := value1_outOk h

theorem fltTwo_outOk (f : FmtG) (s : State) (v : Nat → Nat → Nat → Nat × Nat) (h : s.memOk = true) :
    OutOk (fltTwo f s v) := value2_outOk h

theorem fltThree_outOk (f : FmtG) (s : State) (v : Nat → Nat → Nat → Nat → Nat × Nat) (h : s.memOk = true) :
    OutOk (fltThree f s v) := value3_outOk h

theorem convert_outOk (f : FmtI) (s : State) (v : Nat → Nat → Nat → Nat → Nat × Nat) (h : s.memOk = true) :
    OutOk (convert f s v) := value1_outOk h

/-! ### MemOps -/

@[simp] theorem State.readLines_memOk (s : State) (st : Strand) (a : Nat) (n : Nat) :
    (State.readLines s st a n).memOk = s.memOk := rfl

@[simp] theorem State.nearBytes_memOk (s : State) (i : Inst) (ea : Nat) (n : Nat) :
    (State.nearBytes s i ea n).2.memOk = s.memOk := by
  unfold State.nearBytes
  grind [State.scrub_memOk, State.readLines_memOk]

theorem nearLoad_outOk (n : Nat) (signed : Bool) (f : FmtL) (s : State) (h : s.memOk = true) :
    OutOk (nearLoad n signed f s) := by
  refine firing_outOk h fun l i u hu => ?_
  grind [State.takeFault_memOk, State.abandon_memOk, State.deliver_memOk, State.nearBytes_memOk, outOk_next, outOk_refused]

theorem execLdd_outOk (f : FmtL) (s : State) (h : s.memOk = true) : OutOk (execLdd f s) :=
  nearLoad_outOk _ _ f s h

theorem execLdw_outOk (f : FmtL) (s : State) (h : s.memOk = true) : OutOk (execLdw f s) :=
  nearLoad_outOk _ _ f s h

theorem execLdws_outOk (f : FmtL) (s : State) (h : s.memOk = true) : OutOk (execLdws f s) :=
  nearLoad_outOk _ _ f s h

theorem execLdh_outOk (f : FmtL) (s : State) (h : s.memOk = true) : OutOk (execLdh f s) :=
  nearLoad_outOk _ _ f s h

theorem execLdhs_outOk (f : FmtL) (s : State) (h : s.memOk = true) : OutOk (execLdhs f s) :=
  nearLoad_outOk _ _ f s h

theorem execLdb_outOk (f : FmtL) (s : State) (h : s.memOk = true) : OutOk (execLdb f s) :=
  nearLoad_outOk _ _ f s h

theorem execLdbs_outOk (f : FmtL) (s : State) (h : s.memOk = true) : OutOk (execLdbs f s) :=
  nearLoad_outOk _ _ f s h

theorem nearEffect_outOk (n : Nat) (detail : Nat) (f : FmtS) (s : State) (e : Nat → Word → Effect) (h : s.memOk = true) :
    OutOk (nearEffect n detail f s e) := by
  refine effect2_outOk h fun l i a b u hu => ?_
  grind [State.takeFault_memOk, State.abandon_memOk, State.buffer_memOk, outOk_next]

theorem execStd_outOk (f : FmtS) (s : State) (h : s.memOk = true) : OutOk (execStd f s) :=
  nearEffect_outOk _ _ f s _ h

theorem execStw_outOk (f : FmtS) (s : State) (h : s.memOk = true) : OutOk (execStw f s) :=
  nearEffect_outOk _ _ f s _ h

theorem execSth_outOk (f : FmtS) (s : State) (h : s.memOk = true) : OutOk (execSth f s) :=
  nearEffect_outOk _ _ f s _ h

theorem execStb_outOk (f : FmtS) (s : State) (h : s.memOk = true) : OutOk (execStb f s) :=
  nearEffect_outOk _ _ f s _ h

theorem execNstore_outOk (f : FmtS) (s : State) (h : s.memOk = true) : OutOk (execNstore f s) := by
  refine firing_outOk h fun l i u hu => ?_
  grind [State.resolveLsid_memOk, outOk_next]

theorem execAadd_outOk (f : FmtS) (s : State) (h : s.memOk = true) : OutOk (execAadd f s) :=
  nearEffect_outOk _ _ f s _ h

theorem execAmins_outOk (f : FmtS) (s : State) (h : s.memOk = true) : OutOk (execAmins f s) :=
  nearEffect_outOk _ _ f s _ h

theorem execAminu_outOk (f : FmtS) (s : State) (h : s.memOk = true) : OutOk (execAminu f s) :=
  nearEffect_outOk _ _ f s _ h

theorem execAmaxs_outOk (f : FmtS) (s : State) (h : s.memOk = true) : OutOk (execAmaxs f s) :=
  nearEffect_outOk _ _ f s _ h

theorem execAmaxu_outOk (f : FmtS) (s : State) (h : s.memOk = true) : OutOk (execAmaxu f s) :=
  nearEffect_outOk _ _ f s _ h

theorem execAand_outOk (f : FmtS) (s : State) (h : s.memOk = true) : OutOk (execAand f s) :=
  nearEffect_outOk _ _ f s _ h

theorem execAor_outOk (f : FmtS) (s : State) (h : s.memOk = true) : OutOk (execAor f s) :=
  nearEffect_outOk _ _ f s _ h

theorem execAxor_outOk (f : FmtS) (s : State) (h : s.memOk = true) : OutOk (execAxor f s) :=
  nearEffect_outOk _ _ f s _ h

theorem execAfadd_outOk (f : FmtS) (s : State) (h : s.memOk = true) : OutOk (execAfadd f s) :=
  nearEffect_outOk _ _ f s _ h

theorem farLoad_outOk (op : Nat) (acq : Bool) (f : FmtX) (s : State) (h : s.memOk = true) : OutOk (farLoad op acq f s) := by
  refine exit1_outOk h fun l i a u hu => ?_
  grind [State.takeFault_memOk, fireExit_outOk, outOk_next]

theorem execFld_outOk (f : FmtX) (s : State) (h : s.memOk = true) : OutOk (execFld f s) :=
  farLoad_outOk _ _ f s h

theorem execFlda_outOk (f : FmtX) (s : State) (h : s.memOk = true) : OutOk (execFlda f s) :=
  farLoad_outOk _ _ f s h

theorem farAtomic_outOk (op : Nat) (n : Nat) (r : Rmw) (f : FmtX) (s : State) (h : s.memOk = true) :
    OutOk (farAtomic op n r f s) := by
  refine exit2_outOk h fun l i a b u hu => ?_
  grind [State.takeFault_memOk, fireExit_outOk, outOk_next]

theorem execFaadd_outOk (f : FmtX) (s : State) (h : s.memOk = true) : OutOk (execFaadd f s) :=
  farAtomic_outOk _ _ _ f s h

theorem execFamins_outOk (f : FmtX) (s : State) (h : s.memOk = true) : OutOk (execFamins f s) :=
  farAtomic_outOk _ _ _ f s h

theorem execFaminu_outOk (f : FmtX) (s : State) (h : s.memOk = true) : OutOk (execFaminu f s) :=
  farAtomic_outOk _ _ _ f s h

theorem execFamaxs_outOk (f : FmtX) (s : State) (h : s.memOk = true) : OutOk (execFamaxs f s) :=
  farAtomic_outOk _ _ _ f s h

theorem execFamaxu_outOk (f : FmtX) (s : State) (h : s.memOk = true) : OutOk (execFamaxu f s) :=
  farAtomic_outOk _ _ _ f s h

theorem execFaand_outOk (f : FmtX) (s : State) (h : s.memOk = true) : OutOk (execFaand f s) :=
  farAtomic_outOk _ _ _ f s h

theorem execFaor_outOk (f : FmtX) (s : State) (h : s.memOk = true) : OutOk (execFaor f s) :=
  farAtomic_outOk _ _ _ f s h

theorem execFaxor_outOk (f : FmtX) (s : State) (h : s.memOk = true) : OutOk (execFaxor f s) :=
  farAtomic_outOk _ _ _ f s h

theorem execFaxchg_outOk (f : FmtX) (s : State) (h : s.memOk = true) : OutOk (execFaxchg f s) :=
  farAtomic_outOk _ _ _ f s h

theorem execFafadd_outOk (f : FmtX) (s : State) (h : s.memOk = true) : OutOk (execFafadd f s) :=
  farAtomic_outOk _ _ _ f s h

theorem execFacas_outOk (f : FmtX) (s : State) (h : s.memOk = true) : OutOk (execFacas f s) := by
  refine exit3_outOk h fun l i a b c u hu => ?_
  grind [State.takeFault_memOk, fireExit_outOk, outOk_next]

theorem farPosted_outOk (n : Nat) (detail : Nat) (f : FmtE) (s : State) (e : Nat → Word → Effect) (h : s.memOk = true) :
    OutOk (farPosted n detail f s e) := by
  refine effect2_outOk h fun l i a b u hu => ?_
  grind [State.takeFault_memOk, State.buffer_memOk, outOk_next]

theorem execFst_outOk (f : FmtE) (s : State) (h : s.memOk = true) : OutOk (execFst f s) :=
  farPosted_outOk _ _ f s _ h

theorem execFstr_outOk (f : FmtE) (s : State) (h : s.memOk = true) : OutOk (execFstr f s) :=
  farPosted_outOk _ _ f s _ h

theorem execFradd_outOk (f : FmtE) (s : State) (h : s.memOk = true) : OutOk (execFradd f s) :=
  farPosted_outOk _ _ f s _ h

theorem execFrfadd_outOk (f : FmtE) (s : State) (h : s.memOk = true) : OutOk (execFrfadd f s) :=
  farPosted_outOk _ _ f s _ h

theorem execFence_outOk (f : FmtS) (s : State) (h : s.memOk = true) : OutOk (execFence f s) := by
  unfold execFence
  split
  · exact effect1_outOk h fun l i a u hu => outOk_next.2 hu
  · exact firing_outOk h fun l i u hu => outOk_next.2 hu

theorem execXmit_outOk (f : FmtE) (s : State) (h : s.memOk = true) : OutOk (execXmit f s) := by
  refine effect1_outOk h fun l i a u hu => ?_
  grind [State.takeFault_memOk, State.buffer_memOk, outOk_next]

/-! ### ControlOps -/

theorem execBr_outOk (f : FmtB) (s : State) (h : s.memOk = true) : OutOk (execBr f s) := by
  refine exit0_outOk h fun l i u hu => ?_
  grind [fireExit_outOk]

theorem execCall_outOk (f : FmtB) (s : State) (h : s.memOk = true) : OutOk (execCall f s) := by
  refine exit0_outOk h fun l i u hu => ?_
  grind [fireExit_outOk]

theorem execEndStrand_outOk (f : FmtB) (s : State) (h : s.memOk = true) : OutOk (execEndStrand f s) := by
  refine exit0_outOk h fun l i u hu => ?_
  grind [fireExit_outOk]

theorem branchTo_outOk (kind : Nat) (f : FmtG) (s : State) (h : s.memOk = true) : OutOk (branchTo kind f s) := by
  refine exit1_outOk h fun l i a u hu => ?_
  grind [State.takeFault_memOk, fireExit_outOk, outOk_next]

theorem execBri_outOk (f : FmtG) (s : State) (h : s.memOk = true) : OutOk (execBri f s) :=
  branchTo_outOk _ f s h

theorem execCalli_outOk (f : FmtG) (s : State) (h : s.memOk = true) : OutOk (execCalli f s) :=
  branchTo_outOk _ f s h

theorem execRet_outOk (f : FmtG) (s : State) (h : s.memOk = true) : OutOk (execRet f s) :=
  branchTo_outOk _ f s h

theorem execTrap_outOk (f : FmtI) (s : State) (h : s.memOk = true) : OutOk (execTrap f s) := by
  refine exit0_outOk h fun l i u hu => ?_
  grind [fireExit_outOk]

@[simp] theorem State.addResv_memOk (s : State) (inst : Nat) (r : TagResv) : (State.addResv s inst r).memOk = s.memOk := rfl

@[simp] theorem State.useResv_memOk (s : State) (inst : Nat) (block : Nat) (slot : Nat) :
    (State.useResv s inst block slot).memOk = s.memOk := rfl

theorem execTsalloc_outOk (f : FmtI) (s : State) (h : s.memOk = true) : OutOk (execTsalloc f s) := by
  refine firing_outOk h fun l i u hu => ?_
  grind [State.takeFault_memOk, State.offQueue_memOk, State.reserveNumber_memOk, State.abandon_memOk, State.deliver_memOk,
      State.useResv_memOk, State.addResv_memOk, outOk_next]

theorem execTagnew_outOk (f : FmtI) (s : State) (h : s.memOk = true) : OutOk (execTagnew f s) := by
  refine firing_outOk h fun l i u hu => ?_
  grind [State.offQueue_memOk, State.reserveIter_memOk, State.abandon_memOk, State.deliver_memOk, State.useResv_memOk,
      State.addResv_memOk, outOk_next]

theorem execTsfree_outOk (f : FmtS) (s : State) (h : s.memOk = true) : OutOk (execTsfree f s) := by
  unfold execTsfree
  split
  · refine effect1_outOk h fun l i a u hu => ?_
    grind [State.buffer_memOk, State.takeFault_memOk, outOk_next]
  · refine firing_outOk h fun l i u hu => ?_
    grind [State.buffer_memOk, State.takeFault_memOk, outOk_next]

theorem execTagrel_outOk (f : FmtS) (s : State) (h : s.memOk = true) : OutOk (execTagrel f s) := by
  refine effect1_outOk h fun l i a u hu => ?_
  grind [State.takeFault_memOk, State.buffer_memOk, outOk_next]

theorem execSpawn_outOk (f : FmtE) (s : State) (h : s.memOk = true) : OutOk (execSpawn f s) := by
  refine effect1_outOk h fun l i a u hu => ?_
  grind [State.takeFault_memOk, State.buffer_memOk, outOk_next]

theorem execSpawnr_outOk (f : FmtE) (s : State) (h : s.memOk = true) : OutOk (execSpawnr f s) := by
  refine effect2_outOk h fun l i a b u hu => ?_
  grind [State.takeFault_memOk, State.resolveLsid_memOk, State.buffer_memOk, outOk_next]

theorem execJoinOp_outOk (f : FmtX) (s : State) (h : s.memOk = true) : OutOk (execJoinOp f s) := by
  refine exit1_outOk h fun l i a u hu => ?_
  grind [State.takeFault_memOk, fireExit_outOk, outOk_next]

theorem execBararr_outOk (f : FmtS) (s : State) (h : s.memOk = true) : OutOk (execBararr f s) := by
  unfold execBararr
  split
  · refine effect1_outOk h fun l i a u hu => ?_
    grind [State.buffer_memOk, State.takeFault_memOk, outOk_next]
  · refine firing_outOk h fun l i u hu => ?_
    grind [State.buffer_memOk, State.takeFault_memOk, outOk_next]

theorem execBarwait_outOk (f : FmtX) (s : State) (h : s.memOk = true) : OutOk (execBarwait f s) := by
  refine exit0_outOk h fun l i u hu => ?_
  grind [State.takeFault_memOk, fireExit_outOk, outOk_next]

theorem execBarsync_outOk (f : FmtX) (s : State) (h : s.memOk = true) : OutOk (execBarsync f s) := by
  refine exit0_outOk h fun l i u hu => ?_
  grind [State.takeFault_memOk, fireExit_outOk, outOk_next]

theorem execWaitOp_outOk (f : FmtX) (s : State) (h : s.memOk = true) : OutOk (execWaitOp f s) := by
  refine exit1_outOk h fun l i a u hu => ?_
  grind [State.takeFault_memOk, fireExit_outOk, outOk_next]

theorem execYieldOp_outOk (f : FmtX) (s : State) (h : s.memOk = true) : OutOk (execYieldOp f s) := by
  refine exit0_outOk h fun l i u hu => ?_
  grind [fireExit_outOk]

/-! ### Dataflow -/

/-- A step that waits for its place among the packets changes nothing. -/
theorem State.inOrder_outOk (s : State) (name : String) {o : Out} (h : OutOk o) : OutOk (s.inOrder name o) :=
  fun t e => h t (State.inOrder_next.1 e).1

@[simp] theorem State.profile_memOk (s : State) (i : Inst) (j : Inst) (st : SlotState) (ins : Instr) :
    (State.profile s i j st ins).memOk = s.memOk := by
  unfold State.profile
  grind [State.modQuad_memOk]

@[simp] theorem State.spillAt_memOk (s : State) (q : QuadId) (set : Nat) : (State.spillAt s q set).memOk = s.memOk := rfl

@[simp] theorem State.spill_memOk (s : State) (i : Inst) (st : SlotState) (ins : Instr) (p : Port) (t : Tok) :
    (State.spill s i st ins p t).1.memOk = s.memOk := by
  unfold State.spill
  grind [State.modQuad_memOk, State.spillAt_memOk]

@[simp] theorem State.frameBanks_memOk (s : State) (q : QuadId) : (State.frameBanks s q).memOk = s.memOk := rfl

@[simp] theorem State.fillQueue_memOk (s : State) (q : QuadId) (elem : Nat) : (State.fillQueue s q elem).memOk = s.memOk := by
  unfold State.fillQueue
  grind [State.modInst_memOk, foldl_memOk_eq]

theorem execEvTokenArrival_outOk (n : Nat) (s : State) (h : s.memOk = true) : OutOk (execEvTokenArrival n s) := by
  unfold execEvTokenArrival
  grind [State.modInst_memOk, State.spill_memOk, State.fillQueue_memOk, State.profile_memOk, State.tick_memOk, outOk_next,
      State.memOk, notEnabled_outOk]

@[simp] theorem State.startLane_memOk (s : State) (p : Inst × Nat) : (State.startLane s p).memOk = s.memOk := rfl

theorem execEvElementIssue_outOk (die : Nat) (idx : Nat) (elem : Nat) (s : State) (h : s.memOk = true) :
    OutOk (execEvElementIssue die idx elem s) := by
  unfold execEvElementIssue
  grind [State.modQuad_memOk, State.startLane_memOk, State.fillQueue_memOk, State.tick_memOk, State.count_memOk, outOk_next,
      notEnabled_outOk, foldl_memOk_eq]

theorem State.faultFrame_memOk (s : State) (f : Frame) (code : FaultCode) (slot : Option Nat) (detail : Nat) (addr : Nat)
    (h : s.memOk = true) :
    (State.faultFrame s f code slot detail addr).memOk = true := by
  unfold State.faultFrame
  grind [State.queueFault_memOk, State.fullEmber_memOk, State.memOk]

theorem execEvBlockInstanceStart_outOk (die idx elem : Nat) (s : State) (h : s.memOk = true) :
    OutOk (execEvBlockInstanceStart die idx elem s) := by
  unfold execEvBlockInstanceStart
  repeat' split
  all_goals simp [State.faultFrame_memOk _ _ _ _ _ _ h]
  exact h

theorem fetchLines_memOk (u : XUnit) (c : Machine.Context) : ∀ (n va : Nat) (s : State), s.memOk = true →
    (fetchLines u c va n s).1.memOk = true
  | 0, _, _, h => h
  | n + 1, va, s, h => by
    have ih := fetchLines_memOk u c n
    unfold fetchLines
    grind [translateBy_memOk, State.readPhys_memOk, State.charge_memOk]

theorem fetchBlock_memOk (u : XUnit) (s : State) (c : Machine.Context) (va : Nat) (h : s.memOk = true) :
    (fetchBlock u s c va).1.memOk = true := by
  unfold fetchBlock
  grind [fetchLines_memOk]

theorem execEvBlockFetch_outOk (die idx elem : Nat) (s : State) (h : s.memOk = true) :
    OutOk (execEvBlockFetch die idx elem s) := by
  have hfail (t : State) (fs : List Frame) (code slot d a) (ht : t.memOk = true) :
      (fs.foldl (fun s x => s.faultFrame x code slot d a) t).memOk = true :=
    foldl_memOk _ (fun s x hs => s.faultFrame_memOk x code slot d a hs) fs t ht
  unfold execEvBlockFetch
  split
  · exact notEnabled_outOk _
  · rename_i q _
    split
    · rename_i f c _ _
      have hb := fetchBlock_memOk (.quad q.id) s c f.block h
      generalize fetchBlock (.quad q.id) s c f.block = r at hb
      obtain ⟨s1, r⟩ := r
      dsimp only at hb ⊢
      repeat' split
      all_goals simp_all [State.breach_memOk]
    · exact notEnabled_outOk _

theorem execEvBlockStarved_outOk (inst : Nat) (s : State) (h : s.memOk = true) : OutOk (execEvBlockStarved inst s) := by
  unfold execEvBlockStarved
  grind [State.takeFault_memOk, State.tick_memOk, outOk_next, notEnabled_outOk]

/-! ### EngineCmds -/

@[simp] theorem State.scrubBlock_memOk (s : State) (i : Inst) (a : Word) (n : Nat) :
    (State.scrubBlock s i a n).memOk = s.memOk := by
  unfold State.scrubBlock
  grind [State.scrub_memOk]

theorem State.readBlock_memOk (s : State) (l : Lane) (i : Inst) (a : Word) (n : Nat) (h : s.memOk = true) :
    ∀ t, s.readBlock l i a n = .error t → t.memOk = true := by
  unfold State.readBlock
  grind [State.takeFault_memOk, State.scrubBlock_memOk, State.abandon_memOk]

theorem fireCommand_outOk (op size : Nat) (f : FmtE) (check : BlockCheck) (l : Lane) (i : Inst) (a v : Word) (s : State)
    (h : s.memOk = true) : OutOk (fireCommand op size f check l i a v s) := by
  unfold fireCommand
  have hb := s.readBlock_memOk l i a size h
  grind [State.takeFault_memOk, State.scrubBlock_memOk, State.deliver_memOk, State.buffer_memOk, outOk_next, outOk_refused,
      State.memOk]

theorem command1_outOk (op : Nat) (size : Nat) (f : FmtE) (s : State) (check : BlockCheck) (h : s.memOk = true) :
    OutOk (command1 op size f s check) := by
  refine firing_outOk h fun l i u hu => ?_
  grind [State.resolveLsid_memOk, fireCommand_outOk, State.deliver_memOk, outOk_next, outOk_refused]

theorem execScopy_outOk (f : FmtE) (s : State) (h : s.memOk = true) : OutOk (execScopy f s) :=
  command1_outOk _ _ f s _ h

theorem execSgather_outOk (f : FmtE) (s : State) (h : s.memOk = true) : OutOk (execSgather f s) :=
  command1_outOk _ _ f s _ h

theorem execSscatter_outOk (f : FmtE) (s : State) (h : s.memOk = true) : OutOk (execSscatter f s) :=
  command1_outOk _ _ f s _ h

theorem execSfill_outOk (f : FmtE) (s : State) (h : s.memOk = true) : OutOk (execSfill f s) :=
  command1_outOk _ _ f s _ h

theorem execSparam_outOk (f : FmtE) (s : State) (h : s.memOk = true) : OutOk (execSparam f s) := by
  refine firing_outOk h fun l i u hu => ?_
  grind [State.resolveLsid_memOk, fireCommand_outOk, State.deliver_memOk, outOk_next, outOk_refused]

theorem execMxcfg_outOk (f : FmtE) (s : State) (h : s.memOk = true) : OutOk (execMxcfg f s) :=
  command1_outOk _ _ f s _ h

theorem execMxrun_outOk (f : FmtE) (s : State) (h : s.memOk = true) : OutOk (execMxrun f s) :=
  command1_outOk _ _ f s _ h

theorem execMxldacc_outOk (f : FmtE) (s : State) (h : s.memOk = true) : OutOk (execMxldacc f s) :=
  command1_outOk _ _ f s _ h

theorem execMxstacc_outOk (f : FmtE) (s : State) (h : s.memOk = true) : OutOk (execMxstacc f s) :=
  command1_outOk _ _ f s _ h

theorem execMxrel_outOk (f : FmtE) (s : State) (h : s.memOk = true) : OutOk (execMxrel f s) := by
  refine firing_outOk h fun l i u hu => ?_
  grind [fireCommand_outOk]

theorem execVmap_outOk (f : FmtE) (s : State) (h : s.memOk = true) : OutOk (execVmap f s) :=
  command1_outOk _ _ f s _ h

theorem execVred_outOk (f : FmtE) (s : State) (h : s.memOk = true) : OutOk (execVred f s) :=
  command1_outOk _ _ f s _ h

theorem execWincfg_outOk (f : FmtE) (s : State) (h : s.memOk = true) : OutOk (execWincfg f s) :=
  command1_outOk _ _ f s _ h

theorem execWinrun_outOk (f : FmtE) (s : State) (h : s.memOk = true) : OutOk (execWinrun f s) :=
  command1_outOk _ _ f s _ h

theorem execDecode_outOk (f : FmtE) (s : State) (h : s.memOk = true) : OutOk (execDecode f s) :=
  command1_outOk _ _ f s _ h

theorem execColl_outOk (f : FmtE) (s : State) (h : s.memOk = true) : OutOk (execColl f s) :=
  command1_outOk _ _ f s _ h

theorem execStok_outOk (f : FmtE) (s : State) (h : s.memOk = true) : OutOk (execStok f s) :=
  command1_outOk _ _ f s _ h

theorem execToks_outOk (f : FmtE) (s : State) (h : s.memOk = true) : OutOk (execToks f s) :=
  command1_outOk _ _ f s _ h

theorem execHquery_outOk (f : FmtE) (s : State) (h : s.memOk = true) : OutOk (execHquery f s) := by
  refine firing_outOk h fun l i u hu => ?_
  grind [State.resolveLsid_memOk, State.deliver_memOk, outOk_next, outOk_refused]

theorem execRsquery_outOk (f : FmtE) (s : State) (h : s.memOk = true) : OutOk (execRsquery f s) := by
  refine firing_outOk h fun l i u hu => ?_
  grind [State.resolveLsid_memOk, State.deliver_memOk, outOk_next, outOk_refused]

/-! ### Commit -/

theorem Step1.xlate_memOk (r : Step1) (c : Machine.Context) (q : QuadId) (slot va n : Nat) (k : Kind) (h : r.s.memOk = true) :
    (r.xlate c q slot va n k).s.memOk = true := by
  unfold Step1.xlate
  grind [translateBy_memOk]

@[simp] theorem Step1.count_memOk (r : Step1) (st : Strand) (slot space : Nat) :
    (r.count st slot space).s.memOk = r.s.memOk := by
  unfold Step1.count
  grind [State.countItem_memOk, Step1.halt]

theorem checkEffect_memOk (r : Step1) (c : Machine.Context) (i : Inst) (tags : List Nat) (e : Eff) (h : r.s.memOk = true) :
    (checkEffect r c i tags e).s.memOk = true := by
  unfold checkEffect
  grind [Step1.xlate_memOk, Step1.count_memOk, Step1.halt, State.modSpace_memOk]

theorem checkEffects_memOk (c : Machine.Context) (i : Inst) :
    ∀ (es : List Eff) (tags : List Nat) (r : Step1), r.s.memOk = true →
    (checkEffects c i tags es r).s.memOk = true
  | [], _, _, h => h
  | e :: rest, tags, r, h => by
    unfold checkEffects
    have h1 := checkEffect_memOk r c i tags e h
    dsimp only
    split
    · exact h1
    · exact checkEffects_memOk c i rest _ _ h1

theorem checkExit_memOk (r : Step1) (c : Machine.Context) (i : Inst) (h : r.s.memOk = true) :
    (checkExit r c i).s.memOk = true := by
  unfold checkExit
  grind [Step1.xlate_memOk, Step1.halt]

@[simp] theorem State.lapse_memOk (s : State) (cx : CtxId) (r : TagResv) : (s.lapse cx r).memOk = s.memOk := by
  unfold State.lapse
  extract_lets n decl s1
  split
  · cases decl with
    | none => rfl
    | some d => exact s1.wakePool_memOk cx d
  · exact s1.wakeIter_memOk cx n

@[simp] theorem State.squashReady_memOk (s : State) (q : QuadId) (e : Nat) : (State.squashReady s q e).memOk = s.memOk := by
  unfold State.squashReady
  grind [State.modQuad_memOk]

theorem State.squash1_memOk (s : State) (cx : CtxId) (space iter : Nat) (h : s.memOk = true) :
    (s.squash1 cx space iter).memOk = true := by
  have hlapse (xs : List TagResv) := foldl_memOk_eq (fun s r => s.lapse cx r) (fun s r => s.lapse_memOk cx r) xs s
  have hland (t : State) (ms : List Msg) := foldl_memOk_eq (fun s m => s.land m.id) (fun s m => s.land_memOk m.id) ms t
  unfold State.squash1
  grind [State.memOk, State.modCtx_memOk, State.count_memOk, State.abandon_memOk, State.squashReady_memOk,
      State.reEmber_memOk, State.fullEmber_memOk, State.overflowed_memOk]

theorem State.squashFrom_memOk (s : State) (cx : CtxId) (space : Nat) (iter : Nat) (h : s.memOk = true) :
    (State.squashFrom s cx space iter).memOk = true := by
  unfold State.squashFrom
  grind [State.squash1_memOk, foldl_memOk]

theorem State.squashReaders_memOk (s : State) (q : QuadId) (a : Nat) (n : Nat) (except : Option (CtxId × Nat × Nat)) (inside : Bool)
    (h : s.memOk = true) :
    (State.squashReaders s q a n except inside).memOk = true := by
  unfold State.squashReaders
  grind [State.squashFrom_memOk, foldl_memOk]

theorem State.makeSpecRoom_memOk (q : QuadId) (cx : CtxId) (space iter need : Nat) :
    ∀ (fuel : Nat) (s : State), s.memOk = true → (s.makeSpecRoom q cx space iter need fuel).1.memOk = true
  | 0, _, h => h
  | n + 1, s, h => by
    have ih := State.makeSpecRoom_memOk q cx space iter need n
    unfold State.makeSpecRoom
    grind [State.squash1_memOk]

theorem reserve_memOk (s : State) (c : Machine.Context) (i : Inst) (h : s.memOk = true) :
    (reserve s c i).1.memOk = true := by
  unfold reserve
  extract_lets st q young r0 r _ undone
  have h0 : r0.s.memOk = true := checkEffects_memOk c i i.later [] ⟨s, [], none⟩ h
  have hr : r.s.memOk = true := by
    unfold r
    split
    · exact h0
    · exact checkExit_memOk r0 c i h0
  have hu : undone.memOk = true := hr
  clear_value undone r
  have hroom := fun need fuel => State.makeSpecRoom_memOk q st.cx (tagSpace st.tag) (tagIter st.tag) need fuel r.s hr
  grind

@[simp] theorem State.specWrite_memOk (s : State) (st : Strand) (a : Nat) (bs : List Byte) :
    (State.specWrite s st a bs).memOk = s.memOk := rfl

theorem nearStep_memOk (st : Strand) (q : QuadId) (young : Bool) (r : State × NearOut) (e : Eff) (h : r.1.memOk = true) :
    (nearStep st q young r e).1.memOk = true := by
  obtain ⟨s, o⟩ := r
  unfold nearStep
  grind [State.specWrite_memOk, State.write_memOk, State.readLines_memOk, State.scrub_memOk]

theorem foldl_nearStep_memOk (st : Strand) (q : QuadId) (young : Bool) : ∀ (es : List Eff) (r : State × NearOut),
    r.1.memOk = true → (es.foldl (nearStep st q young) r).1.memOk = true
  | [], _, h => h
  | e :: es, r, h => foldl_nearStep_memOk st q young es _ (nearStep_memOk st q young r e h)

theorem nearEffects_memOk (s : State) (i : Inst) (h : s.memOk = true) : (nearEffects s i).1.memOk = true := by
  unfold nearEffects
  extract_lets st young
  have h1 := foldl_nearStep_memOk st i.frame.quad young i.nearSet (s, ⟨0, none⟩) h
  generalize i.nearSet.foldl (nearStep st i.frame.quad young) (s, ⟨0, none⟩) = r at h1 ⊢
  obtain ⟨s1, o⟩ := r
  refine foldl_memOk _ (fun s p hs => State.squashReaders_memOk _ _ _ _ _ _ hs) _ _ ?_
  exact (foldl_memOk_eq _ (fun s p => s.bankReq_memOk _ _ _ _) _ _).trans h1

theorem State.writeMarked_memOk (s : State) (o n v : Nat) (mark : WriteMark) (h : s.memOk = true) :
    (s.writeMarked o n v mark).memOk = true := by
  cases mark with
  | plain => exact s.write_memOk _ _ h
  | whole => exact s.write_memOk _ _ h
  | poison => exact s.putMem_memOk _ _ h
  | nibble hi => exact s.putMem_memOk _ _ h

theorem performPosted_memOk (s : State) (a : Access) (h : s.memOk = true) : (performPosted s a).memOk = true := by
  unfold performPosted
  dsimp only
  split
  · exact s.writeMarked_memOk _ _ _ _ h
  · split
    · exact h
    · exact s.putMem_memOk _ _ h

theorem State.post_memOk (s : State) (i : Inst) (a : Access) (release : Bool) (h : s.memOk = true) :
    (State.post s i a release).memOk = true := by
  unfold State.post
  grind [State.modQuad_memOk, State.chargeAccess_memOk, State.squashReaders_memOk, State.count_memOk, State.send_memOk,
      performPosted_memOk, State.memOk]

@[simp] theorem State.freeSpace_memOk (s : State) (cx : CtxId) (n : Nat) : (s.freeSpace cx n).memOk = s.memOk := by
  unfold State.freeSpace
  extract_lets gen s1 decl s2
  have h2 : s2.memOk = s.memOk := State.releaseReports_memOk _ _ _
  cases decl with
  | none => exact h2
  | some d => exact (s2.wakePool_memOk cx d).trans h2

@[simp] theorem State.sendToken_memOk (s : State) (c : Machine.Context) (src : QuadId) (circ : Nat) (tag : Nat) (v : Word) :
    (State.sendToken s c src circ tag v).memOk = s.memOk := by
  unfold State.sendToken
  grind [State.send_memOk]

@[simp] theorem State.register_memOk (s : State) (i : Inst) (cmd : Machine.Command) :
    (State.register s i cmd).memOk = s.memOk := by
  unfold State.register
  grind [State.count_memOk, State.send_memOk, State.memOk, foldl_memOk_eq]

/-- An effect issued at step 3 keeps the memories canonical. -/
theorem issueEffect_memOk (s : State) (c : Machine.Context) (r : CommitRec) (e : Eff) (h : s.memOk = true) :
    ∀ s' r', issueEffect s c r e = .done s' r' → s'.memOk = true := by
  unfold issueEffect
  cases e.eff <;> grind [State.post_memOk, State.sendToken_memOk, State.send_memOk, State.freeSpace_memOk,
      State.freeIter_memOk, State.deposit_memOk, State.modQuad_memOk, State.modSpace_memOk, State.modCtx_memOk,
      State.traceRec_memOk, State.memOk]

@[simp] theorem writeCopies_memOk (s : State) (r : CommitRec) : (writeCopies s r).memOk = s.memOk := rfl

@[simp] theorem State.applyResv_memOk (s : State) (cx : CtxId) (q : QuadId) (r : TagResv) :
    (State.applyResv s cx q r).memOk = s.memOk := rfl

@[simp] theorem State.applyResvs_memOk (s : State) (i : Inst) : (State.applyResvs s i).memOk = s.memOk := by
  unfold State.applyResvs
  grind [State.lapse_memOk, State.applyResv_memOk, foldl_memOk_eq]

@[simp] theorem State.leaveQueues_memOk (s : State) (cx : CtxId) (sid : Nat) :
    (State.leaveQueues s cx sid).memOk = s.memOk := by
  unfold State.leaveQueues
  grind [State.wakeIter_memOk, State.wakePool_memOk, State.modCtx_memOk, foldl_memOk_eq]

@[simp] theorem State.endResv_memOk (s : State) (st : Strand) (used : List (QuadId × Nat)) :
    (State.endResv s st used).memOk = s.memOk := by
  unfold State.endResv
  grind [State.entryFreed_memOk, State.leaveQueues_memOk, State.memOk, foldl_memOk_eq]

theorem State.retireFrom_memOk (s : State) (st : Strand) (q : QuadId) (h : s.memOk = true) :
    (State.retireFrom s st q).memOk = true := by
  unfold State.retireFrom
  grind [State.retire_memOk, State.queueFault_memOk]

theorem State.advance_memOk (cx : CtxId) (space : Nat) : ∀ (fuel : Nat) (s : State), s.memOk = true →
    (s.advance cx space fuel).memOk = true
  | 0, _, h => h
  | fuel + 1, s, h => by
    have ih := State.advance_memOk cx space fuel
    unfold State.advance
    split
    · exact h
    · split
      · exact h
      · extract_lets next s1 clear
        have h1 : s1.memOk = true := h
        clear_value s1
        split
        · exact h1
        · extract_lets out s2 others s4 s5
          have h2 : s2.memOk = true := foldl_memOk _ (fun s x hs => by grind
              [State.write_memOk, State.bankReq_memOk, State.markPoison_memOk]) _ _ h1
          have h3 : others.memOk = true := foldl_memOk _ (fun s x hs => s.squashReaders_memOk _ _ _ _ _ hs) _ _ h2
          have h4 : s4.memOk = true := foldl_memOk _ (fun s x hs => s.traceRec_memOk _ _ _ _ _ _ _ _ _ _ hs) _ _ h3
          have h5 : s5.memOk = true := (State.wakeWhere_memOk _ _).trans h4
          split
          · exact ih _ (State.retireFrom_memOk _ _ _ h5)
          · exact h5

theorem State.leave_memOk (s : State) (st : Strand) (q : QuadId) (h : s.memOk = true) : (s.leave st q).memOk = true := by
  unfold State.leave
  have h1 := s.retireFrom_memOk st q h
  split
  · exact h
  · dsimp only
    split
    · exact State.advance_memOk _ _ _ _ h1
    · exact h1

@[simp] theorem State.issueFar_memOk (s : State) (c : Machine.Context) (i : Inst) (e : Ember) (pa : Nat) (op : FarOp) :
    (State.issueFar s c i e pa op).memOk = s.memOk := by
  unfold State.issueFar
  grind [State.modQuad_memOk, State.modEmber_memOk, State.send_memOk]

theorem takeExit_memOk (s : State) (c : Machine.Context) (r : CommitRec) (h : s.memOk = true) :
    (takeExit s c r).memOk = true := by
  unfold takeExit
  grind [State.leave_memOk, State.queueFault_memOk, State.issueFar_memOk, State.frameBanks_memOk, State.deposit_memOk,
      State.count_memOk, State.traceRec_memOk, State.send_memOk, State.memOk]

@[simp] theorem afterStep4_memOk (s : State) (c : Machine.Context) (i : Inst) : (afterStep4 s c i).memOk = s.memOk := by
  unfold afterStep4
  grind [State.modCtx_memOk, State.memOk, foldl_memOk_eq]

theorem endCommit_memOk (s : State) (r : CommitRec) (h : s.memOk = true) : (endCommit s r).memOk = true := by
  unfold endCommit
  grind [State.settleEnergy_memOk, afterStep4_memOk, writeCopies_memOk, State.count_memOk, takeExit_memOk, State.memOk]

theorem runStep3_memOk (c : Machine.Context) : ∀ (es : List Eff) (r : CommitRec) (s : State), s.memOk = true →
    (runStep3 c r es s).memOk = true
  | [], r, s, h => endCommit_memOk s _ h
  | e :: rest, r, s, h => by
    unfold runStep3
    split
    · rename_i s' r' he
      exact runStep3_memOk c rest r' s' (issueEffect_memOk _ _ _ _ h s' r' he)
    · extract_lets s1
      have h1 : s1.memOk = true := by
        unfold s1
        split
        · exact (s.register_memOk _ _).trans h
        · exact h
      exact h1

@[simp] theorem State.consume_memOk (s : State) (i : Inst) : (State.consume s i).memOk = s.memOk := by
  unfold State.consume
  grind [State.uncountTag_memOk, State.send_memOk, foldl_memOk_eq]

theorem performCommit_memOk (s : State) (c : Machine.Context) (i : Inst) (v : Reserved) (h : s.memOk = true) :
    (performCommit s c i v).memOk = true := by
  unfold performCommit
  extract_lets s0
  have h1 := nearEffects_memOk (s0.consume i) i ((s0.consume_memOk i).trans h)
  generalize nearEffects (s0.consume i) i = y at h1 ⊢
  obtain ⟨s1, o⟩ := y
  refine runStep3_memOk _ _ _ _ ?_
  exact ((State.endResv_memOk _ _ _).trans (s1.applyResvs_memOk i)).trans h1

theorem execEvCommit_outOk (inst : Nat) (s : State) (h : s.memOk = true) : OutOk (execEvCommit inst s) := by
  unfold execEvCommit
  grind [State.takeFault_memOk, reserve_memOk, State.inOrder_outOk, performCommit_memOk, State.breach_memOk,
      State.abandon_memOk, State.tick_memOk, outOk_next, notEnabled_outOk]

theorem resumeCommit_memOk (s : State) (r : CommitRec) (h : s.memOk = true) : (resumeCommit s r).memOk = true := by
  unfold resumeCommit
  split
  · exact runStep3_memOk _ _ _ _ h
  · exact h

theorem State.wakeUnit_memOk (s : State) (q : QuadId) (h : s.memOk = true) : (State.wakeUnit s q).memOk = true := by
  unfold State.wakeUnit
  grind [resumeCommit_memOk]

theorem execEvParkedCommitResume_outOk (n : Nat) (s : State) (h : s.memOk = true) : OutOk (execEvParkedCommitResume n s) := by
  unfold execEvParkedCommitResume
  grind [resumeCommit_memOk, State.inOrder_outOk, State.tick_memOk, outOk_next, notEnabled_outOk]

theorem execEvFootprintRegistration_outOk (n : Nat) (s : State) (h : s.memOk = true) :
    OutOk (execEvFootprintRegistration n s) := by
  unfold execEvFootprintRegistration
  grind [State.modQuad_memOk, State.land_memOk, State.wakeUnit_memOk, State.modCmd_memOk, State.tick_memOk, State.send_memOk,
      outOk_next, notEnabled_outOk]

/-! ### Homes -/

theorem State.entering_memOk (s s' : State) : (s.entering s').memOk = s'.memOk := rfl

theorem State.makesRoom_outOk (s : State) {o : Out} (h : OutOk o) : OutOk (s.makesRoom o) := by
  intro t e
  obtain ⟨u, eu, rfl⟩ := State.makesRoom_next.1 e
  exact h u eu

theorem performFar_memOk (s : State) (home : Node) (a : Access) (h : s.memOk = true) :
    (performFar s home a).1.memOk = true := by
  unfold performFar
  extract_lets o s0 old
  have h0 : s0.memOk = true := (s.chargeAccess_memOk home a).trans h
  clear_value s0
  split
  · exact h0
  · split
    · exact h0
    · extract_lets s1
      have h1 : s1.memOk = true := by
        unfold s1
        split
        · exact s0.putMem_memOk _ _ h0
        · exact h0
      split
      · exact s1.squashReaders_memOk _ _ _ _ _ h1
      · exact h1

theorem performPostedAt_memOk (s : State) (home : Node) (a : Access) (h : s.memOk = true) :
    (performPostedAt s home a).memOk = true := by
  unfold performPostedAt
  grind [State.chargeAccess_memOk, State.squashReaders_memOk, performPosted_memOk]

@[simp] theorem State.chargePod_memOk (s : State) (r : PodReq) : (State.chargePod s r).memOk = s.memOk := by
  unfold State.chargePod
  grind [State.checkLine_memOk, State.cacheAccess_memOk, State.charge_memOk]

@[simp] theorem podRead_memOk (r : PodReq) (s : State) : (podRead r s).1.memOk = s.memOk := by
  unfold podRead
  grind

theorem podRmw_memOk (r : PodReq) (op : Rmw) (b x : Word) (s : State) (h : s.memOk = true) :
    (podRmw r op b x s).1.memOk = true := by
  unfold podRmw
  split
  · exact h
  · dsimp only
    split
    · exact s.putMem_memOk _ _ h
    · exact h

/-- What a request of another package performs keeps the memories canonical. -/
theorem podRequestOf_memOk {b : PodBody} {r : PodReq} {perform : State → State × Word × Bool}
    (e : podRequestOf b = some (r, perform)) (s : State) (h : s.memOk = true) : (perform s).1.memOk = true := by
  unfold podRequestOf at e
  split at e
  · cases e
    exact (podRead_memOk _ s).trans h
  · cases e
    exact s.writeMarked_memOk _ _ _ _ h
  · obtain ⟨op, -, e⟩ := Option.map_eq_some_iff.1 e
    cases e
    exact podRmw_memOk _ _ _ _ s h
  · cases e

theorem State.podRequest_memOk (s : State) (src : Nat) (r : PodReq) (perform : State → State × Word × Bool)
    (h : s.memOk = true)
    (hp : ∀ u, u.memOk = true → (perform u).1.memOk = true) : (s.podRequest src r perform).memOk = true := by
  unfold State.podRequest
  split
  · exact s.event_memOk _ _ _ _ _ _ _ _ h
  · have h1 := hp _ ((s.chargePod_memOk r).trans h)
    simpa using h1

theorem servedAtHome_outOk (name : String) (s : State) (m : Msg) (b : PodBody) (write : Bool) (h : s.memOk = true) :
    OutOk (servedAtHome name s m b write) := by
  unfold servedAtHome
  split
  · rename_i r perform src e _
    split
    · exact notEnabled_outOk _
    · exact outOk_next.2 (State.podRequest_memOk _ src r perform ((s.land_memOk m.id).trans h) (podRequestOf_memOk e))
  · exact notEnabled_outOk _

theorem performRequest_memOk (s : State) (home : Node) (m : Msg) (h : s.memOk = true) :
    (performRequest s home m).memOk = true := by
  unfold performRequest
  grind [performFar_memOk, performPostedAt_memOk, State.send_memOk]

theorem requestAtHome_outOk (name : String) (n : Nat) (s : State) (posted : Bool) (h : s.memOk = true) :
    OutOk (requestAtHome name n s posted) := by
  unfold requestAtHome
  grind [State.modQuad_memOk, State.land_memOk, State.breach_memOk, State.tick_memOk, performRequest_memOk,
      servedAtHome_outOk, outOk_next, State.memOk, notEnabled_outOk]

theorem execEvFarAccessAtHome_outOk (n : Nat) (s : State) (h : s.memOk = true) : OutOk (execEvFarAccessAtHome n s) := by
  unfold execEvFarAccessAtHome
  grind [State.makesRoom_outOk, requestAtHome_outOk]

theorem execEvPostedEffectAtHome_outOk (n : Nat) (s : State) (h : s.memOk = true) : OutOk (execEvPostedEffectAtHome n s) := by
  unfold execEvPostedEffectAtHome
  grind [State.makesRoom_outOk, requestAtHome_outOk]

theorem execEvWaitingFarAccessPerform_outOk (die : Nat) (idx : Nat) (n : Nat) (s : State) (h : s.memOk = true) :
    OutOk (execEvWaitingFarAccessPerform die idx n s) := by
  unfold execEvWaitingFarAccessPerform
  grind [State.modQuad_memOk, State.conflictOver_memOk, State.tick_memOk, performRequest_memOk, outOk_next, notEnabled_outOk]

@[simp] theorem State.settleRetired_memOk (s : State) (sid : Nat) : (State.settleRetired s sid).memOk = s.memOk := by
  unfold State.settleRetired
  grind [State.uncountTag_memOk, State.sweepFreeing_memOk, State.memOk]

theorem State.acked_memOk (s : State) (post : Nat) (h : s.memOk = true) : (State.acked s post).memOk = true := by
  unfold State.acked
  grind [State.issueHeld_memOk, State.wakeUnit_memOk, State.settleRetired_memOk, State.memOk]

theorem execEvPostedAckArrival_outOk (n : Nat) (s : State) (h : s.memOk = true) : OutOk (execEvPostedAckArrival n s) := by
  unfold execEvPostedAckArrival
  grind [State.land_memOk, State.acked_memOk, State.tick_memOk, outOk_next, notEnabled_outOk]

theorem State.acceptReply_memOk (s : State) (e : Ember) (v : Word) (poison : Option (Nat × Nat)) (h : s.memOk = true) :
    (State.acceptReply s e v poison).memOk = true := by
  unfold State.acceptReply
  grind [State.modQuad_memOk, State.modEmber_memOk, State.emberFault_memOk, State.queueFault_memOk]

theorem execEvFarReplyArrival_outOk (n : Nat) (s : State) (h : s.memOk = true) : OutOk (execEvFarReplyArrival n s) := by
  unfold execEvFarReplyArrival
  repeat' split
  all_goals grind [State.acceptReply_memOk, State.land_memOk, State.tick_memOk, State.count_memOk, outOk_next, State.memOk,
      notEnabled_outOk]

theorem execEvReplyHeldResend_outOk (n : Nat) (s : State) (h : s.memOk = true) : OutOk (execEvReplyHeldResend n s) := by
  unfold execEvReplyHeldResend
  grind [State.tick_memOk, outOk_next, State.memOk, notEnabled_outOk]

theorem execEvBankArbitration_outOk (die : Nat) (idx : Nat) (bank : Nat) (s : State) (h : s.memOk = true) :
    OutOk (execEvBankArbitration die idx bank s) := by
  unfold execEvBankArbitration
  grind [State.modQuad_memOk, State.tick_memOk, outOk_next, notEnabled_outOk]

theorem execEvBankStarvationPromote_outOk (die : Nat) (idx : Nat) (bank : Nat) (s : State) (h : s.memOk = true) :
    OutOk (execEvBankStarvationPromote die idx bank s) := by
  unfold execEvBankStarvationPromote
  grind [State.modQuad_memOk, State.tick_memOk, outOk_next, notEnabled_outOk]

theorem execEvTlbWalk_outOk (n : Nat) (s : State) (h : s.memOk = true) : OutOk (execEvTlbWalk n s) := by
  unfold execEvTlbWalk
  repeat' split
  all_goals grind [State.inOrder_outOk, State.breach_memOk, State.tick_memOk, translateBy_memOk, outOk_next,
      notEnabled_outOk]

@[simp] theorem State.setFlow_memOk (s : State) (f : PodFlow) : (State.setFlow s f).memOk = s.memOk := rfl

@[simp] theorem State.transmit_memOk (s : State) (peer : Nat) (cls : Nat) (port : Nat) (b : PodBody) :
    (State.transmit s peer cls port b).memOk = s.memOk := rfl

@[simp] theorem poisonedAnswer_memOk (s : State) (m : Msg) : (poisonedAnswer s m).memOk = s.memOk := by
  unfold poisonedAnswer
  grind [State.send_memOk]

@[simp] theorem State.goOut_memOk (s : State) (port : Nat) (m : Msg) : (State.goOut s port m).memOk = s.memOk := by
  unfold State.goOut
  grind [State.dropMsg_memOk, State.transmit_memOk, State.charge_memOk, poisonedAnswer_memOk, State.memOk]

@[simp] theorem State.lineServed_memOk (s : State) (m : Msg) : (State.lineServed s m).memOk = s.memOk := by
  unfold State.lineServed
  grind [State.chargeEdge_memOk, State.dropMsg_memOk, State.send_memOk]

@[simp] theorem State.serveLines_memOk (s : State) : (State.serveLines s).memOk = s.memOk := by
  unfold State.serveLines
  grind [State.lineServed_memOk, foldl_memOk_eq]

theorem execEvArbitrationGrant_outOk (p : Point) (s : State) (h : s.memOk = true) : OutOk (execEvArbitrationGrant p s) := by
  unfold execEvArbitrationGrant
  grind [State.tick_memOk, State.countShared_memOk, State.serveLines_memOk, State.charge_memOk, State.goOut_memOk,
      State.entering_memOk, outOk_next, State.memOk, notEnabled_outOk]

/-! ### Lamplighter -/

theorem State.parityFail_memOk (s : State) (cx : CtxId) (q : QuadId) (hop : Nat) (dir : Nat) (elem : Nat) (addr : Nat)
    (h : s.memOk = true) :
    (State.parityFail s cx q hop dir elem addr).memOk = true := by
  unfold State.parityFail
  grind [State.modCtx_memOk, State.event_memOk, State.memOk]

@[simp] theorem State.beginIter_memOk (s : State) (e : Ember) (q : QuadId) : (State.beginIter s e q).memOk = s.memOk := by
  unfold State.beginIter
  grind [State.memOk]

@[simp] theorem State.writeFrame_memOk (s : State) (src : QuadId) (e : Ember) (q : QuadId) (elem : Nat) :
    (State.writeFrame s src e q elem).memOk = s.memOk := by
  unfold State.writeFrame
  grind [State.frameBanks_memOk, State.beginIter_memOk, State.send_memOk, State.memOk]

theorem State.logRelight_memOk (s : State) (cx : CtxId) (q : QuadId) (e : Ember) (h : s.memOk = true) :
    (s.logRelight cx q e).memOk = true := by
  unfold State.logRelight
  split
  · split
    · exact h
    · extract_lets size base s0 lose w0
      have h0 : s0.memOk = true := h
      have hlose (t : State) (ht : t.memOk = true) : (lose t).memOk = true := writeVa_getD_memOk _ _ _ _ _ ht
      split
      · exact h0
      · split
        · exact hlose s0 h0
        · split
          · rename_i s1 e1
            exact writeVa_getD_memOk _ _ _ _ _ (writeVa_memOk _ _ _ _ _ h0 s1 e1)
          · exact hlose s0 h0
  · exact h

@[simp] theorem State.replayed_memOk (s : State) (cx : CtxId) (q : QuadId) : (State.replayed s cx q).memOk = s.memOk := rfl

theorem State.readRecord_memOk (s : State) (e : Ember) (h : s.memOk = true) : (State.readRecord s e).1.memOk = true := by
  unfold State.readRecord
  grind [State.readVa_memOk, State.emberBanks_memOk]

@[simp] theorem State.widen_memOk (s : State) (e : Ember) : (State.widen s e).1.memOk = s.memOk := by
  unfold State.widen
  grind [State.modEmber_memOk]

theorem State.refuseFrame_memOk (s : State) (e : Ember) (t : QuadId) (h : s.memOk = true) :
    (State.refuseFrame s e t).memOk = true := by
  unfold State.refuseFrame
  grind [State.modQuad_memOk, State.modEmber_memOk, State.reEmber_memOk, State.overflowed_memOk]

theorem State.relight_memOk (s : State) (q : QuadId) (c : Machine.Context) (e : Ember) (h : s.memOk = true) :
    (State.relight s q c e).memOk = true := by
  unfold State.relight
  grind [State.modEmber_memOk, State.emberFault_memOk, State.refuseFrame_memOk, State.replayed_memOk, State.overflowed_memOk,
      State.widen_memOk, State.countReplay_memOk, State.logRelight_memOk, State.writeFrame_memOk, State.count_memOk,
      State.traceRec_memOk]

theorem State.takeRange_memOk (s : State) (q : QuadId) (c : Machine.Context) (e : Ember) (h : s.memOk = true) :
    (State.takeRange s q c e).memOk = true := by
  unfold State.takeRange
  grind [State.modEmber_memOk, State.countItem_memOk, State.queueFault_memOk, State.crossNow_memOk, State.deposit_memOk,
      State.modCtx_memOk, State.count_memOk, State.relight_memOk, State.memOk, foldl_memOk]

theorem State.recordLost_memOk (s : State) (q : QuadId) (e : Ember) (h : s.memOk = true) :
    (State.recordLost s q e).memOk = true := by
  unfold State.recordLost
  grind [State.parityFail_memOk, State.memOk]

theorem execEvLamplighterRelight_outOk (die : Nat) (idx : Nat) (s : State) (h : s.memOk = true) :
    OutOk (execEvLamplighterRelight die idx s) := by
  unfold execEvLamplighterRelight
  grind [State.modQuad_memOk, State.takeRange_memOk, State.inOrder_outOk, State.recordLost_memOk, State.tick_memOk,
      State.readRecord_memOk, State.relight_memOk, outOk_next, notEnabled_outOk]

theorem execEvRangeSplit_outOk (die : Nat) (idx : Nat) (s : State) (h : s.memOk = true) :
    OutOk (execEvRangeSplit die idx s) := by
  unfold execEvRangeSplit
  grind [State.takeRange_memOk, State.inOrder_outOk, State.recordLost_memOk, State.tick_memOk, State.readRecord_memOk,
      outOk_next, notEnabled_outOk]

theorem execEvFrameWaitGrant_outOk (die : Nat) (idx : Nat) (s : State) (h : s.memOk = true) :
    OutOk (execEvFrameWaitGrant die idx s) := by
  unfold execEvFrameWaitGrant
  grind [State.modQuad_memOk, State.inOrder_outOk, State.recordLost_memOk, State.tick_memOk, State.writeFrame_memOk,
      State.readRecord_memOk, outOk_next, notEnabled_outOk]

theorem execEvEmberReady_outOk (n : Nat) (s : State) (h : s.memOk = true) : OutOk (execEvEmberReady n s) := by
  unfold execEvEmberReady
  grind [State.modQuad_memOk, State.tick_memOk, outOk_next, notEnabled_outOk]

@[simp] theorem State.recordLink_memOk (s : State) (m : Msg) (q : QuadId) (ch : Nat) :
    (State.recordLink s m q ch).memOk = s.memOk := by
  unfold State.recordLink
  grind [State.modQuad_memOk, State.landOver_memOk]

theorem execEvFrameMoveArrival_outOk (n : Nat) (s : State) (h : s.memOk = true) : OutOk (execEvFrameMoveArrival n s) := by
  unfold execEvFrameMoveArrival
  repeat' split
  all_goals grind [State.modQuad_memOk, State.land_memOk, State.recordLink_memOk, State.fullEmber_memOk,
      State.overflowed_memOk, State.frameBanks_memOk, State.tick_memOk, State.countReplay_memOk, State.traceRec_memOk,
      outOk_next, State.memOk, notEnabled_outOk]

@[simp] theorem State.endEntries_memOk (s : State) (sid : Nat) : (State.endEntries s sid).memOk = s.memOk := by
  unfold State.endEntries
  grind [State.entryFreed_memOk, State.memOk, foldl_memOk_eq]

@[simp] theorem State.dropResv_memOk (s : State) (st : Strand) : (State.dropResv s st).memOk = s.memOk := by
  unfold State.dropResv
  grind [State.endEntries_memOk, State.leaveQueues_memOk]

@[simp] theorem State.askEntries_memOk (s : State) (sid : Nat) (want : List (QuadId × Nat × Nat)) :
    (State.askEntries s sid want).memOk = s.memOk := by
  unfold State.askEntries
  grind [State.modQuad_memOk, foldl_memOk_eq]

@[simp] theorem State.giveResv_memOk (s : State) (e : Ember) (r : Resv) : (State.giveResv s e r).memOk = s.memOk := by
  unfold State.giveResv
  grind [State.modEmber_memOk, State.wakeIter_memOk, State.wakePool_memOk, State.modCtx_memOk, State.dropResv_memOk,
      State.askEntries_memOk, State.count_memOk]

theorem execEvRefusalCountLimit_outOk (n : Nat) (s : State) (h : s.memOk = true) : OutOk (execEvRefusalCountLimit n s) := by
  unfold execEvRefusalCountLimit
  grind [State.tick_memOk, State.giveResv_memOk, outOk_next, notEnabled_outOk]

theorem execEvReservationTimeout_outOk (n : Nat) (s : State) (h : s.memOk = true) : OutOk (execEvReservationTimeout n s) := by
  unfold execEvReservationTimeout
  grind [State.mapStrands_memOk, State.tick_memOk, outOk_next, notEnabled_outOk]

/-! ### Sync -/

@[simp] theorem State.returnCredit_memOk (s : State) (c : Machine.Context) (q : QuadId) (circ : Nat) :
    (State.returnCredit s c q circ).memOk = s.memOk := by
  unfold State.returnCredit
  grind [State.send_memOk]

theorem execEvCreditReturn_outOk (n : Nat) (s : State) (h : s.memOk = true) : OutOk (execEvCreditReturn n s) := by
  unfold execEvCreditReturn
  grind [State.land_memOk, State.tick_memOk, State.modCtx_memOk, outOk_next, notEnabled_outOk]

theorem execEvBorderCrossing_outOk (n : Nat) (s : State) (h : s.memOk = true) : OutOk (execEvBorderCrossing n s) := by
  unfold execEvBorderCrossing
  grind [State.land_memOk, State.breach_memOk, State.tick_memOk, outOk_next, State.memOk, notEnabled_outOk]

theorem State.discardToken_memOk (s : State) (c : Machine.Context) (q : Quad) (elem : Nat) (block : Nat) (circ : Nat) (tag : Nat)
    (v : Word) (h : s.memOk = true) :
    (State.discardToken s c q elem block circ tag v).memOk = true := by
  unfold State.discardToken
  grind [State.returnCredit_memOk, State.queueFault_memOk]

@[simp] theorem State.enterFifo_memOk (s : State) (t : FifoTok) : (State.enterFifo s t).memOk = s.memOk := by
  unfold State.enterFifo
  grind [State.spillAt_memOk, State.memOk]

theorem execEvCircuitTokenArrival_outOk (n : Nat) (s : State) (h : s.memOk = true) :
    OutOk (execEvCircuitTokenArrival n s) := by
  unfold execEvCircuitTokenArrival
  repeat' split
  all_goals grind [State.enterFifo_memOk, State.land_memOk, State.recordLink_memOk, State.discardToken_memOk,
      State.tick_memOk, outOk_next, State.memOk, notEnabled_outOk]

@[simp] theorem State.holdMsg_memOk (s : State) (n : Nat) : (State.holdMsg s n).memOk = s.memOk := rfl

theorem execEvSpaceTableItem_outOk (n : Nat) (s : State) (h : s.memOk = true) : OutOk (execEvSpaceTableItem n s) := by
  unfold execEvSpaceTableItem
  repeat' split
  all_goals grind [State.countItem_memOk, State.sendToken_memOk, State.land_memOk, State.tick_memOk, State.modCtx_memOk,
      outOk_next, notEnabled_outOk]

theorem execEvJoinRequest_outOk (n : Nat) (s : State) (h : s.memOk = true) : OutOk (execEvJoinRequest n s) := by
  unfold execEvJoinRequest
  grind [State.emberFault_memOk, State.holdMsg_memOk, State.land_memOk, State.tick_memOk, State.send_memOk, outOk_next,
      notEnabled_outOk]

theorem execEvLiveCountZero_outOk (vf : Nat) (ctx : Nat) (space : Nat) (s : State) (h : s.memOk = true) :
    OutOk (execEvLiveCountZero vf ctx space s) := by
  unfold execEvLiveCountZero
  grind [State.relitJoins_memOk, State.tick_memOk, outOk_next, notEnabled_outOk]

@[simp] theorem State.dropReport_memOk (s : State) (q : QuadId) (h : Nat) : (State.dropReport s q h).memOk = s.memOk := by
  unfold State.dropReport
  grind [State.modQuad_memOk, State.entryFreed_memOk]

theorem execEvWaitRequest_outOk (n : Nat) (s : State) (h : s.memOk = true) : OutOk (execEvWaitRequest n s) := by
  unfold execEvWaitRequest
  repeat' split
  all_goals grind [State.holdMsg_memOk, State.land_memOk, State.tick_memOk, State.dropReport_memOk, State.send_memOk,
      outOk_next, notEnabled_outOk]

@[simp] theorem State.modBarrier_memOk (s : State) (site : BarrierAt) (n : Nat) (f : Barrier → Barrier) :
    (State.modBarrier s site n f).memOk = s.memOk := rfl

@[simp] theorem State.arrive_memOk (s : State) (site : BarrierAt) (n : Nat) (a : Arrival) :
    (State.arrive s site n a).memOk = s.memOk := rfl

@[simp] theorem State.tellPod_memOk (s : State) (cx : CtxId) (site : BarrierAt) (n : Nat) (a : Arrival) :
    (State.tellPod s cx site n a).memOk = s.memOk := by
  unfold State.tellPod
  grind [State.send_memOk, foldl_memOk_eq]

theorem execEvBarrierArrival_outOk (n : Nat) (s : State) (h : s.memOk = true) : OutOk (execEvBarrierArrival n s) := by
  unfold execEvBarrierArrival
  grind [State.issueHeld_memOk, State.land_memOk, State.arrive_memOk, State.tellPod_memOk, State.tick_memOk, outOk_next,
      notEnabled_outOk]

@[simp] theorem State.deliverPhase_memOk (s : State) (b : Barrier) (r : Word) (en : Nat) :
    (State.deliverPhase s b r en).memOk = s.memOk := by
  unfold State.deliverPhase
  grind [State.modBarrier_memOk, State.send_memOk]

theorem execEvBarrierPhaseComplete_outOk (n : Nat) (s : State) (h : s.memOk = true) :
    OutOk (execEvBarrierPhaseComplete n s) := by
  unfold execEvBarrierPhaseComplete
  grind [State.deliverPhase_memOk, State.modBarrier_memOk, State.tick_memOk, outOk_next, notEnabled_outOk, foldl_memOk_eq]

theorem execEvBarwaitRequest_outOk (n : Nat) (s : State) (h : s.memOk = true) : OutOk (execEvBarwaitRequest n s) := by
  unfold execEvBarwaitRequest
  grind [State.modBarrier_memOk, State.land_memOk, State.tick_memOk, outOk_next, notEnabled_outOk]

@[simp] theorem State.engineArrive_memOk (s : State) (c : Machine.Context) (ldie : Nat) (q : QuadId) (src : Node) (bar : Nat)
    (err : Bool) :
    (State.engineArrive s c ldie q src bar err).memOk = s.memOk := by
  unfold State.engineArrive
  grind [State.send_memOk]

/-! ### Engines -/

/-- Past the gate a unit's step goes on from a state whose bytes are those of `s`. -/
theorem State.lineGate_outOk (name : String) (s : State) (p : Pending) (read : Bool) (lines : List Nat) (k : State → Out)
    (h : s.memOk = true) (hk : ∀ u, u.memOk = true → OutOk (k u)) : OutOk (s.lineGate name p read lines k) := by
  unfold State.lineGate
  extract_lets mine away
  split
  · exact notEnabled_outOk _
  · split
    · exact outOk_next.2 (foldl_memOk _ (fun s pa hs => by simpa using hs) _ _ h)
    · split
      · refine hk _ (foldl_memOk _ (fun s m hs => ?_) _ _ h)
        split <;> simpa using hs
      · exact notEnabled_outOk _

theorem State.engineXlate_memOk (s : State) (u : XUnit) (c : Machine.Context) (va : Nat) (n : Nat) (k : Kind)
    (h : s.memOk = true) :
    (State.engineXlate s u c va n k).1.memOk = true := by
  unfold State.engineXlate
  grind [translateBy_memOk]

@[simp] theorem State.homeAccess_memOk (s : State) (cx : CtxId) (rank o n : Nat) (write : Bool) :
    (s.homeAccess cx rank o n write).memOk = s.memOk := by
  have e : State.homeAccess = State.homeAccess := rfl
  conv at e => rhs; delta State.homeAccess
  rw [e]
  beta_reduce
  generalize s.homeOf _ = home
  cases home with
  | quad q => exact (State.bankReq_memOk _ _ _ _ _).trans (s.scrub_memOk o n)
  | _ => exact (State.checkLine_memOk _ _).trans (s.cacheAccess_memOk cx o write)

theorem State.readLine_memOk (s : State) (u : XUnit) (c : Machine.Context) (va : Nat) (n : Nat) (h : s.memOk = true) :
    (State.readLine s u c va n).1.memOk = true := by
  unfold State.readLine
  grind [State.remoteRead_memOk, State.homeAccess_memOk, State.engineXlate_memOk]

theorem State.readSpan_memOk (s : State) (u : XUnit) (c : Machine.Context) (ps : List (Nat × Nat × Nat)) (h : s.memOk = true) :
    (State.readSpan s u c ps).1.memOk = true := by
  unfold State.readSpan
  grind [State.remoteRead_memOk, State.homeAccess_memOk, State.engineXlate_memOk]

theorem State.latchLine_outOk (s : State) (name : String) (c : Machine.Context) (p : Pending) (ps : List (Nat × Nat × Nat))
    (k : Pending → State → State) (h : s.memOk = true) (hk : ∀ p u, u.memOk = true → (k p u).memOk = true) :
    OutOk (s.latchLine name c p ps k) := by
  unfold State.latchLine
  extract_lets mine
  split
  · refine State.lineGate_outOk _ _ _ _ _ _ h fun u hu => ?_
    have h1 := u.readSpan_memOk (u.engineUnit p) c mine hu
    grind [State.modCmd_memOk, State.tick_memOk, outOk_next, notEnabled_outOk]
  · exact notEnabled_outOk _

theorem State.putWrite_memOk (s : State) (w : EngWrite) (o : Nat) (h : s.memOk = true) : (s.putWrite w o).memOk = true := by
  unfold State.putWrite
  extract_lets bs s1
  have h1 : s1.memOk = true := by
    unfold s1
    split
    · exact s.putMem_memOk _ _ h
    · exact s.write_memOk _ _ h
  split
  · exact h1
  · exact h1

theorem State.putLine_memOk (s : State) (cx : CtxId) (rank o : Nat) (ws : List EngWrite) (h : s.memOk = true) :
    (s.putLine cx rank o ws).memOk = true := by
  have e : State.putLine = State.putLine := rfl
  conv at e => rhs; delta State.putLine
  rw [e]
  beta_reduce
  extract_lets s0 s1 s2
  have h1 : s1.memOk = true := foldl_memOk _ (fun s w hs => s.putWrite_memOk w _ hs) _ _
      ((s.homeAccess_memOk _ _ _ _ _).trans h)
  clear_value s1
  have h2 : s2.memOk = true := by
    unfold s2
    rw [apply_ite State.memOk, State.clearPoison_memOk, ite_self]
    exact h1
  clear_value s2
  generalize s2.homeOf _ = home
  cases home with
  | quad q => exact s2.squashReaders_memOk _ _ _ _ _ h2
  | _ => exact h2

@[simp] theorem State.postAway_memOk (s : State) (p : Pending) (pa : Nat) (w : EngWrite) (mark : WriteMark) :
    (State.postAway s p pa w mark).memOk = s.memOk := by
  unfold State.postAway
  grind [State.send_memOk, State.memOk]

@[simp] theorem State.postLine_memOk (s : State) (p : Pending) (pa : Nat) (ws : List EngWrite) :
    (State.postLine s p pa ws).memOk = s.memOk := by
  unfold State.postLine
  grind [State.postAway_memOk, foldl_memOk_eq]

@[simp] theorem State.chargeMoved_memOk (s : State) (p : Pending) (n : Nat) : (State.chargeMoved s p n).memOk = s.memOk := rfl

@[simp] theorem State.meetElems_memOk (s : State) (c : Machine.Context) (q : QuadId) (es : List (Shape × ℤ)) :
    (State.meetElems s c q es).memOk = s.memOk := by
  unfold State.meetElems
  grind [State.scrub_memOk, foldl_memOk_eq]

theorem State.homeWrites_memOk (s : State) (c : Machine.Context) (q : QuadId) (rank : Nat) (ws : List EngWrite)
    (h : s.memOk = true) :
    (State.homeWrites s c q rank ws).memOk = true := by
  unfold State.homeWrites
  grind [State.putLine_memOk, foldl_memOk]

@[simp] theorem State.releaseAt_memOk (s : State) (c : Machine.Command) (q : QuadId) :
    (State.releaseAt s c q).memOk = s.memOk := by
  unfold State.releaseAt
  grind [State.modQuad_memOk, State.entryFreed_memOk, State.conflictOver_memOk]

@[simp] theorem State.releaseBut_memOk (s : State) (c : Machine.Command) (still : List QuadId) :
    (State.releaseBut s c still).memOk = s.memOk := by
  unfold State.releaseBut
  grind [State.releaseAt_memOk, foldl_memOk_eq]

@[simp] theorem State.dropLines_memOk (s : State) (cmd : Nat) : (State.dropLines s cmd).memOk = s.memOk := by
  unfold State.dropLines
  grind [State.land_memOk, foldl_memOk_eq]

@[simp] theorem State.endCommand_memOk (s : State) (p : Pending) (code : Nat) (count : Nat) (cond : Nat) (itemErr : Bool) :
    (State.endCommand s p code count cond itemErr).memOk = s.memOk := by
  unfold State.endCommand
  grind [State.dropLines_memOk, State.releaseBut_memOk, State.modCmd_memOk]

@[simp] theorem State.refill_memOk (s : State) (m : Nat) : (State.refill s m).memOk = s.memOk := by
  unfold State.refill
  grind [State.modCmd_memOk]

@[simp] theorem State.failSparams_memOk (s : State) (ids : List Nat) (code : Nat) :
    (State.failSparams s ids code).memOk = s.memOk := by
  unfold State.failSparams
  grind [State.modCmd_memOk, foldl_memOk_eq]

@[simp] theorem State.wakeWaits_memOk (s : State) (c : Machine.Command) (r : Word) :
    (State.wakeWaits s c r).memOk = s.memOk := by
  unfold State.wakeWaits
  grind [State.land_memOk, State.dropReport_memOk, State.send_memOk, foldl_memOk_eq]

@[simp] theorem State.arriveFor_memOk (s : State) (c : Machine.Context) (p : Pending) :
    (State.arriveFor s c p).memOk = s.memOk := by
  unfold State.arriveFor
  grind [State.engineArrive_memOk]

theorem execEvCommandCompletion_outOk (n : Nat) (s : State) (h : s.memOk = true) : OutOk (execEvCommandCompletion n s) := by
  unfold execEvCommandCompletion
  grind [State.modQuad_memOk, State.uncountTag_memOk, State.entryFreed_memOk, State.failSparams_memOk,
      State.sweepFreeing_memOk, State.releaseBut_memOk, State.wakeWaits_memOk, State.arriveFor_memOk, State.makesRoom_outOk,
      State.refill_memOk, State.tick_memOk, outOk_next, State.memOk, notEnabled_outOk]

/-! ### Matrix -/

theorem State.putHome_memOk (s : State) (c : Machine.Context) (q : QuadId) (rank : Nat) (sh : Shape) (n : Nat) (v : Nat)
    (poison : Bool) (h : s.memOk = true) :
    (State.putHome s c q rank sh n v poison).memOk = true := by
  unfold State.putHome
  grind [State.homeWrites_memOk]

@[simp] theorem State.readElems_memOk (s : State) (c : Machine.Context) (q : QuadId) (rank : Nat) (es : List (Shape × ℤ)) :
    (State.readElems s c q rank es).memOk = s.memOk := by
  unfold State.readElems
  grind [State.modQuad_memOk, State.meetElems_memOk]

@[simp] theorem State.mxRun_memOk (s : State) (c : Machine.Context) (q : Quad) (p : Pending) :
    (State.mxRun s c q p).memOk = s.memOk := by
  unfold State.mxRun
  grind [State.modQuad_memOk, State.endCommand_memOk, State.chargeMoved_memOk, State.modCmd_memOk, State.charge_memOk,
      State.readElems_memOk]

@[simp] theorem State.chargeTile_memOk (s : State) (p : Pending) (sh : Shape) :
    (State.chargeTile s p sh).memOk = s.memOk := by
  unfold State.chargeTile
  grind [State.chargeMoved_memOk, State.charge_memOk]

@[simp] theorem State.mxLoad_memOk (s : State) (c : Machine.Context) (q : Quad) (p : Pending) (sh : Shape) (t : Nat) (rnd : Nat)
    (sat : Bool) :
    (State.mxLoad s c q p sh t rnd sat).memOk = s.memOk := by
  unfold State.mxLoad
  grind [State.modQuad_memOk, State.endCommand_memOk, State.readElems_memOk, State.chargeTile_memOk]

theorem State.mxStore_memOk (s : State) (c : Machine.Context) (q : Quad) (p : Pending) (sh : Shape) (t : Nat) (rnd : Nat)
    (sat : Bool) (h : s.memOk = true) :
    (State.mxStore s c q p sh t rnd sat).memOk = true := by
  unfold State.mxStore
  grind [State.modQuad_memOk, State.endCommand_memOk, State.putHome_memOk, State.chargeTile_memOk, foldl_memOk]

theorem State.mxTile_memOk (s : State) (c : Machine.Context) (q : Quad) (p : Pending) (h : s.memOk = true) :
    (State.mxTile s c q p).memOk = true := by
  unfold State.mxTile
  grind [State.endCommand_memOk, State.mxLoad_memOk, State.mxStore_memOk]

theorem State.mxRel_memOk (s : State) (c : Machine.Context) (q : Quad) (p : Pending) (h : s.memOk = true) :
    (State.mxRel s c q p).memOk = true := by
  unfold State.mxRel
  grind [State.modQuad_memOk, State.endCommand_memOk, State.queueFault_memOk]

theorem execEvMeCommandPerform_outOk (n : Nat) (s : State) (h : s.memOk = true) : OutOk (execEvMeCommandPerform n s) := by
  unfold execEvMeCommandPerform
  grind [State.modQuad_memOk, State.endCommand_memOk, State.tick_memOk, State.mxRun_memOk, State.mxTile_memOk,
      State.mxRel_memOk, outOk_next, notEnabled_outOk]

/-! ### Vector -/

theorem State.vmapStep_memOk (s : State) (c : Machine.Context) (q : Quad) (p : Pending) (out : Shape) (h : s.memOk = true) :
    (State.vmapStep s c q p out).1.memOk = true := by
  unfold State.vmapStep
  grind [State.putHome_memOk, State.readElems_memOk]

theorem State.vredStep_memOk (s : State) (c : Machine.Context) (q : Quad) (p : Pending) (out : Shape) (inp : Shape)
    (h : s.memOk = true) :
    (State.vredStep s c q p out inp).1.memOk = true := by
  unfold State.vredStep
  grind [State.putHome_memOk, State.readElems_memOk]

@[simp] theorem State.unitWent_memOk (s : State) (p : Pending) (total : Nat) : (State.unitWent s p total).memOk = s.memOk := by
  unfold State.unitWent
  grind [State.endCommand_memOk, State.modCmd_memOk]

theorem execEvVsuCommandPerform_outOk (n : Nat) (s : State) (h : s.memOk = true) : OutOk (execEvVsuCommandPerform n s) := by
  unfold execEvVsuCommandPerform
  grind [State.chargeMoved_memOk, State.vmapStep_memOk, State.tick_memOk, State.unitWent_memOk, State.charge_memOk,
      State.vredStep_memOk, outOk_next, notEnabled_outOk]

theorem State.windowRow_memOk (s : State) (c : Machine.Context) (q : Quad) (p : Pending) (inp dst : Shape) (row0 : Nat)
    (h : s.memOk = true) : (s.windowRow c q p inp dst row0).1.memOk = true := by
  unfold State.windowRow
  extract_lets kw ch ow at' step read
  have hstep (r : State × Bool) (k : Nat) (hr : r.1.memOk = true) : (step r k).1.memOk = true :=
    State.putHome_memOk _ _ _ _ _ _ _ _ hr
  have hread : read.memOk = true := (s.readElems_memOk _ _ _ _).trans h
  have hall : ∀ (ks : List Nat) (r : State × Bool), r.1.memOk = true → (ks.foldl step r).1.memOk = true := by
    intro ks
    induction ks with
    | nil => exact fun _ hr => hr
    | cons k ks ih => exact fun r hr => ih _ (hstep r k hr)
  have h1 := hall (List.range (dst.extent 0)) (read, false) hread
  generalize (List.range (dst.extent 0)).foldl step (read, false) = r at h1 ⊢
  exact (State.chargeMoved_memOk _ _ _).trans h1

theorem execEvWindowCommandPerform_outOk (n : Nat) (s : State) (h : s.memOk = true) :
    OutOk (execEvWindowCommandPerform n s) := by
  unfold execEvWindowCommandPerform
  grind [State.tick_memOk, State.unitWent_memOk, State.windowRow_memOk, outOk_next, notEnabled_outOk]

/-! ### Decoder -/

@[simp] theorem State.raiseLow_memOk (s : State) (c : Machine.Context) (p : Pending) (d : Decode') (i : Nat) :
    (State.raiseLow s c p d i).memOk = s.memOk := by
  unfold State.raiseLow
  grind [State.modQuad_memOk, foldl_memOk_eq]

@[simp] theorem State.frameArrive_memOk (s : State) (c : Machine.Context) (p : Pending) (err : Bool) :
    (State.frameArrive s c p err).memOk = s.memOk := by
  unfold State.frameArrive
  grind [State.engineArrive_memOk]

theorem State.decodeStop_outOk (s : State) (name : String) (c : Machine.Context) (p : Pending) (a4 : EngStop)
    (h : s.memOk = true) :
    OutOk (State.decodeStop s name c p a4) := by
  unfold State.decodeStop
  grind [State.endCommand_memOk, State.queueFault_memOk, State.modCmd_memOk, State.breach_memOk, State.tick_memOk,
      outOk_next, notEnabled_outOk]

@[simp] theorem State.decoded_memOk (s : State) (p : Pending) (d : Decode') (f : Shown) :
    (State.decoded s p d f).memOk = s.memOk := rfl

theorem State.frameDone_memOk (s : State) (c : Machine.Context) (p : Pending) (d : Decode') (h : s.memOk = true) :
    (State.frameDone s c p d).memOk = true := by
  unfold State.frameDone
  grind [State.raiseLow_memOk, State.endCommand_memOk, State.queueFault_memOk, State.modCmd_memOk, State.frameArrive_memOk,
      State.countShared_memOk, State.charge_memOk, State.memOk]

@[simp] theorem State.decodeSettle_memOk (s : State) (c : Machine.Context) (n : Nat) :
    (State.decodeSettle s c n).memOk = s.memOk := by
  unfold State.decodeSettle
  grind [State.releaseBut_memOk]

theorem State.takeDecode_outOk (s : State) (p : Pending) (h : s.memOk = true) : OutOk (State.takeDecode s p) := by
  unfold State.takeDecode
  grind [State.land_memOk, State.makesRoom_outOk, State.modCmd_memOk, State.tick_memOk, outOk_next, notEnabled_outOk]

theorem execEvDecodeFrame_outOk (n : Nat) (s : State) (h : s.memOk = true) : OutOk (execEvDecodeFrame n s) := by
  unfold execEvDecodeFrame
  grind [State.endCommand_memOk, State.tick_memOk, State.frameDone_memOk, State.decoded_memOk, State.takeDecode_outOk,
      outOk_next, notEnabled_outOk]

/-! ### Stream -/

theorem execEvStreamCommandArrival_outOk (n : Nat) (s : State) (h : s.memOk = true) :
    OutOk (execEvStreamCommandArrival n s) := by
  unfold execEvStreamCommandArrival
  repeat' split
  all_goals grind [State.endCommand_memOk, State.land_memOk, State.makesRoom_outOk, State.modCmd_memOk, State.tick_memOk,
      outOk_next, State.memOk, notEnabled_outOk]

theorem checkWrites_memOk (u : XUnit) (c : Machine.Context) : ∀ (ws : List EngWrite) (s : State), s.memOk = true →
    (checkWrites u c ws s).1.memOk = true
  | [], _, h => h
  | w :: r, s, h => by
    have ih := checkWrites_memOk u c r
    have h1 := s.engineXlate_memOk u c w.va w.n .write h
    unfold checkWrites
    grind

theorem stepElem_memOk (s : State) (u : XUnit) (c : Machine.Context) (p : Pending) (a : StreamArgs) (h : s.memOk = true) :
    (stepElem s u c p a).1.memOk = true := by
  unfold stepElem
  grind [checkWrites_memOk]

theorem streamRun_memOk (u : XUnit) (c : Machine.Context) (a : StreamArgs) :
    ∀ (k : Nat) (s : State) (p : Pending), s.memOk = true →
    (streamRun u c a k s p).1.memOk = true
  | 0, _, _, h => h
  | k + 1, s, p, h => by
    have ih := streamRun_memOk u c a k
    have h1 := stepElem_memOk s u c p a h
    unfold streamRun
    grind

@[simp] theorem State.streamSettle_memOk (s : State) (n : Nat) : (State.streamSettle s n).memOk = s.memOk := by
  unfold State.streamSettle
  grind [State.endCommand_memOk, State.releaseBut_memOk]

theorem execEvStreamCommandPerform_outOk (n : Nat) (s : State) (h : s.memOk = true) :
    OutOk (execEvStreamCommandPerform n s) := by
  unfold execEvStreamCommandPerform
  grind [State.inOrder_outOk, State.modCmd_memOk, State.breach_memOk, State.streamSettle_memOk, State.tick_memOk,
      State.countShared_memOk, State.charge_memOk, streamRun_memOk, outOk_next, notEnabled_outOk]

theorem execEvStreamPageFaultStop_outOk (n : Nat) (s : State) (h : s.memOk = true) :
    OutOk (execEvStreamPageFaultStop n s) := by
  unfold execEvStreamPageFaultStop
  grind [State.endCommand_memOk, State.queueFault_memOk, State.modCmd_memOk, State.tick_memOk, outOk_next, notEnabled_outOk]

theorem execEvStreamRoundBoundary_outOk (n : Nat) (s : State) (h : s.memOk = true) :
    OutOk (execEvStreamRoundBoundary n s) := by
  unfold execEvStreamRoundBoundary
  grind [State.endCommand_memOk, State.modCmd_memOk, State.tick_memOk, outOk_next, notEnabled_outOk, foldl_memOk_eq]

@[simp] theorem State.engineToken_memOk (s : State) (p : Pending) (circ : Nat) (iter : Nat) (v : Word) :
    (State.engineToken s p circ iter v).memOk = s.memOk := rfl

@[simp] theorem State.stokSettle_memOk (s : State) (n : Nat) (N : Nat) : (State.stokSettle s n N).memOk = s.memOk := by
  unfold State.stokSettle
  grind [State.endCommand_memOk, State.releaseBut_memOk]

@[simp] theorem State.stokRead_memOk (s : State) (p : Pending) : (State.stokRead s p).memOk = s.memOk := by
  unfold State.stokRead
  grind [State.releaseBut_memOk]

theorem execEvStokElementSend_outOk (n : Nat) (s : State) (h : s.memOk = true) : OutOk (execEvStokElementSend n s) := by
  unfold execEvStokElementSend
  repeat' split
  all_goals grind [State.endCommand_memOk, State.queueFault_memOk, State.stokSettle_memOk, State.chargeMoved_memOk,
      State.modCmd_memOk, State.breach_memOk, State.tick_memOk, State.engineToken_memOk, outOk_next, notEnabled_outOk]

theorem execEvToksTokenCapture_outOk (n : Nat) (s : State) (h : s.memOk = true) : OutOk (execEvToksTokenCapture n s) := by
  unfold execEvToksTokenCapture
  repeat' split
  all_goals grind [State.returnCredit_memOk, State.uncountTag_memOk, State.endCommand_memOk, State.land_memOk,
      State.discardToken_memOk, State.chargeMoved_memOk, State.modCmd_memOk, State.homeWrites_memOk, State.tick_memOk,
      outOk_next, notEnabled_outOk]

/-! ### Collective -/

theorem State.collStop_outOk (s : State) (name : String) (p : Pending) (e : EngStop) (h : s.memOk = true) :
    OutOk (State.collStop s name p e) := by
  unfold State.collStop
  grind [State.endCommand_memOk, State.queueFault_memOk, State.modCmd_memOk, State.breach_memOk, State.tick_memOk,
      outOk_next, notEnabled_outOk]

@[simp] theorem State.collResults_memOk (s : State) (parts : List Machine.Part) (code : Nat) (gid : Nat) (p : Pending) :
    (State.collResults s parts code gid p).memOk = s.memOk := by
  unfold State.collResults
  grind [State.modCmd_memOk, State.countShared_memOk, State.charge_memOk]

@[simp] theorem State.dropGroup_memOk (s : State) (ps : List Pending) (parts : List PodPart) :
    (State.dropGroup s ps parts).memOk = s.memOk := by
  unfold State.dropGroup
  grind [State.land_memOk, State.dropMsg_memOk, foldl_memOk_eq]

@[simp] theorem State.sendParts_memOk (s : State) (ps : List Pending) : (State.sendParts s ps).memOk = s.memOk := by
  unfold State.sendParts
  grind [State.modCmd_memOk, State.send_memOk, foldl_memOk_eq]

theorem State.collComplete_outOk (s : State) (n : Nat) (h : s.memOk = true) : OutOk (s.collComplete n) := by
  have hend (code : Pending → Nat) (cond : Pending → Nat) (ps : List Pending) (t : State) :=
    foldl_memOk_eq (fun s p => s.endCommand p (code p) 0 (cond p) false) (fun s p => s.endCommand_memOk p _ _ _ _) ps t
  unfold State.collComplete
  split
  · exact notEnabled_outOk _
  · extract_lets
    repeat' split
    · exact notEnabled_outOk _
    · exact notEnabled_outOk _
    · exact outOk_next.2 ((hend (·.code) (·.cond) _ _).trans h)
    · exact notEnabled_outOk _
    · exact outOk_next.2 ((State.sendParts_memOk _ _).trans h)
    · exact notEnabled_outOk _
    · exact notEnabled_outOk _
    · exact outOk_next.2 ((hend (fun _ => 0x20) (fun _ => 0) _ _).trans ((State.dropGroup_memOk _ _ _).trans h))
    · exact notEnabled_outOk _
    · exact outOk_next.2 ((foldl_memOk_eq _ (fun t p => t.collResults_memOk _ _ _ _) _ _).trans
        ((State.dropGroup_memOk _ _ _).trans h))

theorem execEvCollGroupComplete_outOk (n : Nat) (s : State) (h : s.memOk = true) : OutOk (execEvCollGroupComplete n s) := by
  unfold execEvCollGroupComplete
  grind [State.makesRoom_outOk, State.collComplete_outOk]

theorem State.collLine_outOk (s : State) (name : String) (c : Machine.Context) (p : Pending) (h : s.memOk = true) :
    OutOk (s.collLine name c p) := by
  unfold State.collLine
  split
  · exact s.collStop_outOk _ _ _ h
  · refine s.latchLine_outOk _ _ _ _ _ h fun p1 u hu => ?_
    dsimp only
    split <;> simpa using hu

theorem State.bitLine_outOk (s : State) (name : String) (c : Machine.Context) (p : Pending) (h : s.memOk = true) :
    OutOk (s.bitLine name c p) := by
  unfold State.bitLine
  extract_lets d
  split
  · exact notEnabled_outOk _
  · rename_i a n k _ _
    have h1 := s.readLine_memOk (s.engineUnit p) c a n h
    split
    · rename_i e
      rw [e] at h1
      exact State.decodeStop_outOk _ _ _ _ _ h1
    · refine State.lineGate_outOk _ _ _ _ _ _ h fun u hu => ?_
      have h2 := u.readLine_memOk (u.engineUnit p) c a n hu
      grind [State.modCmd_memOk, State.tick_memOk, outOk_next, notEnabled_outOk]

@[simp] theorem State.writeSettle_memOk (s : State) (c : Machine.Context) (n : Nat) :
    (State.writeSettle s c n).memOk = s.memOk := by
  unfold State.writeSettle
  grind [State.releaseBut_memOk, State.decodeSettle_memOk, State.streamSettle_memOk]

theorem State.lineWrite_outOk (s : State) (name : String) (c : Machine.Context) (p : Pending) (w : EngWrite)
    (h : s.memOk = true) :
    OutOk (s.lineWrite name c p w) := by
  unfold State.lineWrite
  extract_lets u group go
  have hgo (t : State) (code : Nat) (ht : t.memOk = true) : OutOk (go t code) := by
    unfold go
    simpa using ht
  clear_value go
  have h1 := s.engineXlate_memOk u c w.va w.n .write h
  have hput (t : State) (pa : Nat) (ht : t.memOk = true) :=
    State.putLine_memOk _ c.id 6 (pa % 2 ^ 46) group (t.engineXlate_memOk u c w.va w.n .write ht)
  split
  · rename_i s1 pa e
    rw [e] at h1
    split
    · exact hgo _ _ ((s1.postLine_memOk p pa group).trans h1)
    · exact State.lineGate_outOk _ _ _ _ _ _ h fun t ht => hgo _ _ (hput t pa ht)
  · rename_i s1 _ _ e
    rw [e] at h1
    exact hgo _ _ h1
  · rename_i s1 _ _ e
    rw [e] at h1
    grind [State.breach_memOk, State.tick_memOk, State.decodeStop_outOk, State.collStop_outOk, outOk_next, notEnabled_outOk]

theorem State.streamLine_outOk (s : State) (name : String) (c : Machine.Context) (p : Pending) (h : s.memOk = true) :
    OutOk (s.streamLine name c p) := by
  unfold State.streamLine
  repeat' split
  · exact notEnabled_outOk _
  · exact s.latchLine_outOk _ _ _ _ _ h fun _ _ hu => hu
  · exact notEnabled_outOk _

theorem State.lineStep_outOk (s : State) (name : String) (c : Machine.Context) (p : Pending) (h : s.memOk = true) :
    OutOk (State.lineStep s name c p) := by
  unfold State.lineStep
  grind [State.collLine_outOk, State.latchLine_outOk, State.streamLine_outOk, State.stokRead_memOk, State.bitLine_outOk,
      State.lineWrite_outOk, notEnabled_outOk]

theorem execEvEngineLineAccess_outOk (n : Nat) (s : State) (h : s.memOk = true) : OutOk (execEvEngineLineAccess n s) := by
  unfold execEvEngineLineAccess
  grind [State.makesRoom_outOk, State.inOrder_outOk, State.lineStep_outOk, notEnabled_outOk]

/-! ### Recovery -/

/-- K's page of a slot of the fault ring, found by a translation. -/
theorem State.slotPage_memOk (s : State) (c : Machine.Context) (k : Nat) (kind : Kind) (h : s.memOk = true) :
    ∀ s' pa, s.slotPage c k kind = .at' s' pa → s'.memOk = true := by
  unfold State.slotPage
  grind [translateBy_memOk]

theorem State.stopEvent_memOk (s : State) (cx : CtxId) (r : FaultRec) (addr : Nat) (h : s.memOk = true) :
    (State.stopEvent s cx r addr).memOk = true := by
  unfold State.stopEvent
  grind [State.event_memOk]

@[simp] theorem State.stopCtx_memOk (s : State) (cx : CtxId) (r : FaultRec) : (State.stopCtx s cx r).memOk = s.memOk := rfl

theorem execEvPreciseStop_outOk (vf : Nat) (ctx : Nat) (s : State) (h : s.memOk = true) :
    OutOk (execEvPreciseStop vf ctx s) := by
  unfold execEvPreciseStop
  grind [State.stopCtx_memOk, State.tick_memOk, State.modCtx_memOk, State.stopEvent_memOk, outOk_next, notEnabled_outOk]

theorem State.faultEmber_memOk (s : State) (r : FaultRec) (h : s.memOk = true) : (State.faultEmber s r).1.memOk = true := by
  unfold State.faultEmber
  grind [State.fullEmber_memOk, State.memOk]

theorem execEvFaultDelivery_outOk (vf ctx : Nat) (s : State) (h : s.memOk = true) : OutOk (execEvFaultDelivery vf ctx s) := by
  unfold execEvFaultDelivery
  split
  · exact notEnabled_outOk _
  · rename_i c _
    split
    · rename_i r k _ _
      have hpage := s.slotPage_memOk c k .write h
      split
      · exact notEnabled_outOk _
      · split
        · exact notEnabled_outOk _
        · split
          · exact notEnabled_outOk _
          · exact outOk_next.2 (State.stopEvent_memOk _ _ _ _ h)
          · rename_i s0 pa e0
            have h1 := s0.faultEmber_memOk r (hpage s0 pa e0)
            generalize s0.faultEmber r = y at h1 ⊢
            obtain ⟨s1, e⟩ := y
            have h2 := fun ws => foldl_memOk (fun s w => s.putPhys .k c.id (ringSlotAt c k + w.1) (pa + w.1) w.2)
              (fun s w hs => s.putPhys_memOk _ _ _ _ _ hs) (ws : List (Nat × List Byte)) s1 h1
            refine State.inOrder_outOk _ _ (outOk_next.2 ?_)
            rw [State.tick_memOk, State.modQuad_memOk]
            refine State.depositBy_memOk _ _ _ ?_
            rw [State.countItem_memOk, State.modCtx_memOk]
            cases e with
            | none => exact h2 _
            | some x => exact h2 _
    · exact notEnabled_outOk _

@[simp] theorem State.readAnswer_memOk (s : State) (c : Machine.Context) (k : Nat) (pa : Nat) :
    (State.readAnswer s c k pa).1.memOk = s.memOk := by
  unfold State.readAnswer
  grind [State.readPhys_memOk]

theorem State.poolPages_memOk (c : Machine.Context) (m : Nat) : ∀ (n : Nat) (s : State), s.memOk = true →
    (s.poolPages c m n).1.memOk = true
  | 0, _, h => h
  | n + 1, s, h => by
    have ih := State.poolPages_memOk c m n
    have h1 := translateBy_memOk s .k c (c.poolBase + 65536 * (m - (n + 1))) 1 .write h
    unfold State.poolPages
    grind

theorem State.poolGrows_memOk (s : State) (c : Machine.Context) (size : Nat) (h : s.memOk = true) :
    (State.poolGrows s c size).1.memOk = true := by
  unfold State.poolGrows
  grind [State.poolPages_memOk]

theorem State.retireEmber_memOk (s : State) (e : Ember) (h : s.memOk = true) : (State.retireEmber s e).memOk = true := by
  unfold State.retireEmber
  grind [State.endResv_memOk, State.leave_memOk, State.lapse_memOk, State.memOk, foldl_memOk]

@[simp] theorem State.relightLater_memOk (s : State) (e : Ember) : (State.relightLater s e).memOk = s.memOk := rfl

@[simp] theorem State.endHold_memOk (s : State) (cx : CtxId) (r : FaultRec) : (State.endHold s cx r).memOk = s.memOk := by
  unfold State.endHold
  grind [State.modCtx_memOk]

@[simp] theorem State.rangeAgain_memOk (s : State) (n : Nat) : (State.rangeAgain s n).memOk = s.memOk := by
  unfold State.rangeAgain
  grind [State.modQuad_memOk, State.modEmber_memOk]

@[simp] theorem State.actResume_memOk (s : State) (c : Machine.Context) (x : RingSlot) (a : Answer) :
    (s.actResume c x a).memOk = s.memOk := by
  unfold State.actResume
  extract_lets s0 s1
  have h1 : s1.memOk = s.memOk := by
    unfold s1
    split <;> exact s.endHold_memOk c.id x.rec'
  clear_value s1
  split
  · exact h1
  · split
    · cases x.rec'.ember with
      | none => exact h1
      | some e => exact (s1.rangeAgain_memOk e).trans h1
    · split
      · split <;> exact h1
      · exact h1
  · exact h1

theorem State.actRetire_memOk (s : State) (c : Machine.Context) (x : RingSlot) (h : s.memOk = true) :
    (State.actRetire s c x).memOk = true := by
  unfold State.actRetire
  grind [State.retireEmber_memOk, State.endCommand_memOk, State.endHold_memOk]

theorem State.actStop_memOk (s : State) (c : Machine.Context) (x : RingSlot) (h : s.memOk = true) :
    (State.actStop s c x).memOk = true := by
  unfold State.actStop
  grind [State.stopCtx_memOk, State.stopEvent_memOk, State.memOk]

theorem execEvHandlerDone_outOk (vf ctx slot : Nat) (s : State) (h : s.memOk = true) :
    OutOk (execEvHandlerDone vf ctx slot s) := by
  unfold execEvHandlerDone
  split
  · exact notEnabled_outOk _
  · rename_i c _
    split
    · exact notEnabled_outOk _
    · rename_i x _
      split
      · exact notEnabled_outOk _
      · extract_lets free
        have hfree (t : State) (ht : t.memOk = true) : (free t).memOk = true := (State.releaseReports_memOk _ _ _).trans ht
        have hpage := s.slotPage_memOk c slot .read h
        split
        · exact notEnabled_outOk _
        · exact outOk_next.2 (hfree _ (s.actStop_memOk c x h))
        · rename_i s0 pa e
          have h0 := (s0.readAnswer_memOk c slot pa).trans (hpage s0 pa e)
          split
          rename_i s1 a ea
          rw [ea] at h0
          refine State.inOrder_outOk _ _ (outOk_next.2 (hfree _ ?_))
          grind [State.poolGrows_memOk, State.actResume_memOk, State.actStop_memOk, State.actRetire_memOk]

theorem State.cutInst_memOk (s : State) (i : Inst) (h : s.memOk = true) : (State.cutInst s i).memOk = true := by
  unfold State.cutInst
  grind [State.abandon_memOk, State.modCtx_memOk]

theorem State.cutQuad_memOk (s : State) (q : QuadId) (h : s.memOk = true) : (State.cutQuad s q).memOk = true := by
  unfold State.cutQuad
  grind [State.cutInst_memOk, foldl_memOk]

theorem State.abandonFrame_memOk (s : State) (f : Frame) (h : s.memOk = true) : (State.abandonFrame s f).memOk = true := by
  unfold State.abandonFrame
  grind [State.fullEmber_memOk, State.countReplay_memOk, State.traceRec_memOk, State.memOk]

theorem State.snuffQuad_memOk (s : State) (q : QuadId) (h : s.memOk = true) : (State.snuffQuad s q).memOk = true := by
  unfold State.snuffQuad
  grind [State.abandonFrame_memOk, State.cutQuad_memOk, foldl_memOk]

theorem execEvMasterFreeze_outOk (n : Nat) (s : State) (h : s.memOk = true) : OutOk (execEvMasterFreeze n s) := by
  unfold execEvMasterFreeze
  grind [State.cutQuad_memOk, State.tick_memOk, State.modCtx_memOk, outOk_next, notEnabled_outOk, foldl_memOk]

@[simp] theorem State.discardEmber_memOk (s : State) (q : QuadId) (n : Nat) : (State.discardEmber s q n).memOk = s.memOk := rfl

theorem State.discardWord_memOk (s : State) (q : Quad) (area : Nat) (h : s.memOk = true) :
    ∀ t, s.discardWord q area = some t → t.memOk = true := by
  unfold State.discardWord
  intro t e
  dsimp only at e
  split at e
  case h_3 =>
    split at e
    · cases e; exact h
    · obtain ⟨_, -, rfl⟩ := Option.map_eq_some_iff.1 e; exact h
  all_goals
    obtain ⟨_, -, rfl⟩ := Option.map_eq_some_iff.1 e
    exact h

theorem State.discardAt_memOk (s : State) (cx : CtxId) (q : Quad) (hop dir elem : Nat) (h : s.memOk = true) :
    ∀ t, s.discardAt cx q hop dir elem = some t → t.memOk = true := by
  unfold State.discardAt
  intro t e
  dsimp only at e
  split at e
  case h_4 => exact s.discardWord_memOk q dir h t e
  all_goals
    obtain ⟨_, -, rfl⟩ := Option.map_eq_some_iff.1 e
    exact h

theorem execEvParityFreezeReport_outOk (vf : Nat) (ctx : Nat) (die : Nat) (idx : Nat) (hop : Nat) (dir : Nat) (elem : Nat) (s : State)
    (h : s.memOk = true) :
    OutOk (execEvParityFreezeReport vf ctx die idx hop dir elem s) := by
  unfold execEvParityFreezeReport
  grind [State.discardAt_memOk, State.parityFail_memOk, State.tick_memOk, outOk_next, notEnabled_outOk]

/-! ### Snuff -/

@[simp] theorem State.kWalk_memOk (s : State) (c : Machine.Context) (va : Nat) : (State.kWalk s c va).memOk = s.memOk := by
  unfold State.kWalk
  grind [State.lineAccess_memOk, foldl_memOk_eq]

@[simp] theorem State.pagesRead_memOk (s : State) (c : Machine.Context) (va : Nat) (n : Nat) :
    (State.pagesRead s c va n).memOk = s.memOk := by
  unfold State.pagesRead
  grind [State.kWalk_memOk, foldl_memOk_eq]

@[simp] theorem State.destRead_memOk (s : State) (c : Machine.Context) (dest : Nat) :
    (State.destRead s c dest).memOk = s.memOk := by
  unfold State.destRead
  grind [State.pagesRead_memOk]

theorem putVa_memOk (c : Machine.Context) (kind : Kind) : ∀ (n va : Nat) (bs : List Byte) (s : State), s.memOk = true →
    (putVa c kind n va bs s).memOk = true
  | 0, _, _, _, h => h
  | n + 1, va, bs, s, h => by
    have ih := putVa_memOk c kind n
    have h1 := translateBy_memOk s .k c va 1 kind h
    unfold putVa
    grind [State.putPhys_memOk]

theorem State.putLong_memOk (s : State) (c : Machine.Context) (va : Nat) (bs : List Byte) (h : s.memOk = true) :
    (State.putLong s c va bs).memOk = true := by
  unfold State.putLong
  grind [putVa_memOk]

@[simp] theorem State.stopEngines_memOk (s : State) (cx : CtxId) : (State.stopEngines s cx).memOk = s.memOk := by
  unfold State.stopEngines
  grind [State.dropLines_memOk, State.memOk, foldl_memOk_eq]

theorem State.startCut_memOk (s : State) (cx : CtxId) (keep : Bool) (destroy : Bool) (cmd : Option Nat) (dest : Nat)
    (h : s.memOk = true) :
    (State.startCut s cx keep destroy cmd dest).memOk = true := by
  unfold State.startCut
  grind [State.modQuad_memOk, State.snuffQuad_memOk, State.stopEngines_memOk, State.modCtx_memOk, foldl_memOk]

@[simp] theorem State.deliverKept_memOk (s : State) (cx : CtxId) : (State.deliverKept s cx).memOk = s.memOk := by
  unfold State.deliverKept
  grind [State.modBarrier_memOk, State.send_memOk, foldl_memOk_eq]

theorem execEvSnuffMarkerBroadcast_outOk (vf : Nat) (ctx : Nat) (s : State) (h : s.memOk = true) :
    OutOk (execEvSnuffMarkerBroadcast vf ctx s) := by
  unfold execEvSnuffMarkerBroadcast
  grind [State.deliverKept_memOk, State.destRead_memOk, State.inOrder_outOk, State.tick_memOk, State.modCtx_memOk,
      outOk_next, notEnabled_outOk]

theorem State.markQuad_memOk (s : State) (q : QuadId) (h : s.memOk = true) : (State.markQuad s q).memOk = true := by
  unfold State.markQuad
  grind [State.modQuad_memOk, State.snuffQuad_memOk]

theorem State.writeProfile_memOk (s : State) (c : Machine.Context) (q : Quad) (h : s.memOk = true) :
    (State.writeProfile s c q).memOk = true := by
  unfold State.writeProfile
  grind [State.modQuad_memOk, State.putLong_memOk, State.memOk]

theorem execEvQuadMarkerArrival_outOk (die : Nat) (idx : Nat) (s : State) (h : s.memOk = true) :
    OutOk (execEvQuadMarkerArrival die idx s) := by
  unfold execEvQuadMarkerArrival
  grind [State.modQuad_memOk, State.inOrder_outOk, State.markQuad_memOk, State.tick_memOk, State.writeProfile_memOk,
      State.send_memOk, outOk_next, notEnabled_outOk, foldl_memOk]

theorem execEvChannelMarkerArrival_outOk (n : Nat) (s : State) (h : s.memOk = true) :
    OutOk (execEvChannelMarkerArrival n s) := by
  unfold execEvChannelMarkerArrival
  grind [State.modQuad_memOk, State.land_memOk, State.markQuad_memOk, State.tick_memOk, outOk_next, notEnabled_outOk]

theorem execEvEngineSnuffStop_outOk (n : Nat) (s : State) (h : s.memOk = true) : OutOk (execEvEngineSnuffStop n s) := by
  unfold execEvEngineSnuffStop
  grind [State.dropLines_memOk, State.modCmd_memOk, State.tick_memOk, outOk_next, notEnabled_outOk]

@[simp] theorem State.meetVault_memOk (s : State) (c : Machine.Context) (q : Quad) :
    (State.meetVault s c q).memOk = s.memOk := by
  unfold State.meetVault
  grind [State.scrub_memOk, State.memOk]

@[simp] theorem State.readOut_memOk (s : State) (c : Machine.Context) : (State.readOut s c).memOk = s.memOk := by
  unfold State.readOut
  grind [State.meetVault_memOk, foldl_memOk_eq]

@[simp] theorem State.sweep_memOk (s : State) (cx : CtxId) : (State.sweep s cx).memOk = s.memOk := rfl

@[simp] theorem State.release_memOk (s : State) (cx : CtxId) : (State.release s cx).memOk = s.memOk := rfl

theorem execEvQuadStateReadout_outOk (vf : Nat) (ctx : Nat) (s : State) (h : s.memOk = true) :
    OutOk (execEvQuadStateReadout vf ctx s) := by
  unfold execEvQuadStateReadout
  grind [State.readOut_memOk, State.putLong_memOk, State.inOrder_outOk, State.tick_memOk, State.modCtx_memOk,
      State.charge_memOk, State.release_memOk, outOk_next, State.memOk, notEnabled_outOk]

theorem execEvQuadZeroing_outOk (die idx : Nat) (s : State) (h : s.memOk = true) : OutOk (execEvQuadZeroing die idx s) := by
  unfold execEvQuadZeroing
  split
  · exact notEnabled_outOk _
  · split
    · exact notEnabled_outOk _
    · exact outOk_next.2 (s.zeroMem_memOk _ h)

theorem execEvQuadZeroComplete_outOk (die : Nat) (idx : Nat) (s : State) (h : s.memOk = true) :
    OutOk (execEvQuadZeroComplete die idx s) := by
  unfold execEvQuadZeroComplete
  grind [State.tick_memOk, outOk_next, State.memOk, notEnabled_outOk]

/-! ### Energy -/

@[simp] theorem State.report1_memOk (s : State) (x : Lantern × Payer × Nat) : (State.report1 s x).memOk = s.memOk := by
  unfold State.report1
  grind [State.modFunc_memOk, State.modCtx_memOk]

theorem execEvLanternReport_outOk (s : State) (h : s.memOk = true) : OutOk (execEvLanternReport s) := by
  unfold execEvLanternReport
  grind [State.tick_memOk, State.report1_memOk, outOk_next, State.memOk, notEnabled_outOk, foldl_memOk_eq]

theorem execEvClassChange_outOk (vf : Nat) (ctx : Nat) (s : State) (h : s.memOk = true) :
    OutOk (execEvClassChange vf ctx s) := by
  unfold execEvClassChange
  grind [State.tick_memOk, State.modCtx_memOk, outOk_next, notEnabled_outOk]

@[simp] theorem State.setFclk_memOk (s : State) (f : Nat) : (State.setFclk s f).memOk = s.memOk := rfl

theorem execEvFactorUpdate_outOk (die : Nat) (s : State) (h : s.memOk = true) : OutOk (execEvFactorUpdate die s) := by
  unfold execEvFactorUpdate
  grind [State.tick_memOk, outOk_next, State.memOk, notEnabled_outOk]

@[simp] theorem State.splitCost_memOk (s : State) (l : Lantern) (cost : Nat) (shares : List (Payer × Nat)) (total : Nat) :
    (State.splitCost s l cost shares total).memOk = s.memOk := by
  unfold State.splitCost
  grind [State.addCharge_memOk, foldl_memOk_eq]

@[simp] theorem State.splitShared_memOk (s : State) : (State.splitShared s).memOk = s.memOk := by
  unfold State.splitShared
  grind [State.splitCost_memOk, State.addCharge_memOk, foldl_memOk_eq]

theorem execEvSharedCostSplit_outOk (s : State) (h : s.memOk = true) : OutOk (execEvSharedCostSplit s) := by
  unfold execEvSharedCostSplit
  grind [State.splitShared_memOk, State.tick_memOk, outOk_next, State.memOk, notEnabled_outOk]

theorem State.candleCtx_memOk (s : State) (c : Machine.Context) (h : s.memOk = true) :
    (State.candleCtx s c).memOk = true := by
  unfold State.candleCtx
  grind [State.startCut_memOk, State.destRead_memOk, State.modCtx_memOk]

theorem execEvCandleCut_outOk (vf : Nat) (s : State) (h : s.memOk = true) : OutOk (execEvCandleCut vf s) := by
  unfold execEvCandleCut
  grind [State.modFunc_memOk, State.candleCtx_memOk, State.tick_memOk, State.event_memOk, outOk_next, notEnabled_outOk,
      foldl_memOk]

@[simp] theorem State.startPeriod_memOk (s : State) (vf : Nat) (ms : Nat) : (State.startPeriod s vf ms).memOk = s.memOk := by
  unfold State.startPeriod
  grind [State.modFunc_memOk, State.memOk]

theorem execEvCandlePeriodStart_outOk (vf : Nat) (s : State) (h : s.memOk = true) : OutOk (execEvCandlePeriodStart vf s) := by
  unfold execEvCandlePeriodStart
  grind [State.startPeriod_memOk, State.tick_memOk, outOk_next, notEnabled_outOk]

/-! ### SystemOps -/

theorem execSrd_outOk (f : FmtI) (s : State) (h : s.memOk = true) : OutOk (execSrd f s) := by
  refine firing_outOk h fun l i u hu => ?_
  grind [State.deliver_memOk, outOk_next]

theorem execSwr_outOk (f : FmtI) (s : State) (h : s.memOk = true) : OutOk (execSwr f s) := by
  refine firing_outOk h fun l i u hu => ?_
  grind [State.modInst_memOk, State.takeFault_memOk, outOk_next, outOk_refused]

theorem execClk_outOk (f : FmtG) (s : State) (h : s.memOk = true) : OutOk (execClk f s) := by
  refine firing_outOk h fun l i u hu => ?_
  grind [State.deliver_memOk, outOk_next]

theorem execEnrd_outOk (f : FmtG) (s : State) (h : s.memOk = true) : OutOk (execEnrd f s) := by
  refine firing_outOk h fun l i u hu => ?_
  grind [State.deliver_memOk, outOk_next]

theorem execPerfrd_outOk (f : FmtI) (s : State) (h : s.memOk = true) : OutOk (execPerfrd f s) := by
  refine firing_outOk h fun l i u hu => ?_
  grind [State.deliver_memOk, outOk_next]

theorem execTrace_outOk (f : FmtS) (s : State) (h : s.memOk = true) : OutOk (execTrace f s) := by
  refine effect1_outOk h fun l i a u hu => ?_
  grind [State.buffer_memOk, outOk_next]

theorem execBkpt_outOk (f : FmtG) (s : State) (h : s.memOk = true) : OutOk (execBkpt f s) := by
  refine firing_outOk h fun l i u hu => ?_
  grind [State.takeFault_memOk, outOk_next]

theorem execAssert_outOk (f : FmtG) (s : State) (h : s.memOk = true) : OutOk (execAssert f s) := by
  refine firing_outOk h fun l i u hu => ?_
  grind [State.takeFault_memOk, outOk_next, outOk_refused]

theorem execSnuff_outOk (f : FmtG) (s : State) (h : s.memOk = true) : OutOk (execSnuff f s) := by
  refine firing_outOk h fun l i u hu => ?_
  grind [State.modInst_memOk, State.takeFault_memOk, outOk_next, outOk_refused]

theorem execFwcall_outOk (f : FmtG) (s : State) (h : s.memOk = true) : OutOk (execFwcall f s) := by
  refine firing_outOk h fun l i u hu => ?_
  grind [State.modInst_memOk, State.takeFault_memOk, State.scrubBlock_memOk, State.readBlock_memOk, State.deliver_memOk,
      outOk_next, outOk_refused]

/-! ### Endom -/

theorem State.freezeWindow_memOk (s : State) (k : KCmd) (h : s.memOk = true) : (State.freezeWindow s k).memOk = true := by
  unfold State.freezeWindow
  grind [State.event_memOk, State.memOk]

@[simp] theorem State.hostBytes_memOk (s : State) (hpa : Nat) (n : Nat) : (State.hostBytes s hpa n).1.memOk = s.memOk := by
  unfold State.hostBytes
  grind [State.hostFetch_memOk]

theorem getVa_memOk (c : Machine.Context) :
    ∀ (fuel va n : Nat) (s : State), s.memOk = true → (getVa c fuel va n s).1.memOk = true
  | 0, _, _, _, h => h
  | f + 1, va, n, s, h => by
    have ih := getVa_memOk c f
    have h1 := translateBy_memOk s .k c va 1 .read h
    unfold getVa
    split
    · exact h
    · extract_lets k
      split
      · rename_i s1 pa e1
        rw [e1] at h1
        have h2 := (s1.readPhys_memOk .k c.id va pa k).trans h1
        have h3 := ih (va + k) (n - k) _ h2
        dsimp only
        split
        · exact h2
        · generalize getVa c f (va + k) (n - k) (s1.readPhys .k c.id va pa k).1 = y at h3 ⊢
          obtain ⟨s2, r⟩ := y
          cases r <;> exact h3
      · rename_i s1 _ _ e1
        rw [e1] at h1
        exact h1

theorem State.buffer?_memOk (s : State) (k : KCmd) (addr : Nat) (n : Nat) (h : s.memOk = true) :
    (State.buffer? s k addr n).1.memOk = true := by
  unfold State.buffer?
  grind [State.hostBytes_memOk, getVa_memOk]

theorem State.report?_memOk (s : State) (k : KCmd) (addr : Nat) (bs : List Byte) (h : s.memOk = true) :
    ∀ t, s.report? k addr bs = some t → t.memOk = true := by
  intro t e
  unfold State.report? at e
  split at e
  · cases e
    exact s.hostWrite_memOk _ _ h
  · obtain ⟨c, -, e⟩ := Option.bind_eq_some_iff.1 e
    split at e
    · cases e
      exact State.putLong_memOk _ _ _ _ ((s.pagesRead_memOk _ _ _).trans h)
    · cases e

theorem State.writeStatus_memOk (s : State) (k : KCmd) (code : Nat) (result : Nat) (h : s.memOk = true) :
    (State.writeStatus s k code result).memOk = true := by
  unfold State.writeStatus
  grind [State.engineArrive_memOk, State.queueFault_memOk, writeVa_memOk, State.hostWrite_memOk, State.charge_memOk,
      State.memOk]

theorem State.takeRecord_memOk {s s1 : State} {vf : Nat} {k : KCmd} {good : Bool} (e : s.takeRecord vf = some (k, good, s1)) :
    s1.memOk = s.memOk := by
  unfold State.takeRecord at e
  split at e
  · cases e
  · split at e
    · cases e
    · extract_lets a at e
      clear_value a
      have h := s.hostFetch_memOk a 64
      generalize s.hostFetch a 64 = p at h e
      obtain ⟨s2, bs⟩ := p
      cases e
      exact h

theorem pump_memOk (vf : Nat) : ∀ (fuel : Nat) (s : State), s.memOk = true → (pump vf fuel s).memOk = true
  | 0, _, h => h
  | n + 1, s, h => by
    have ih := pump_memOk vf n
    unfold pump
    split
    · exact h
    · rename_i k good s1 e
      have h1 := (State.takeRecord_memOk e).trans h
      split
      · exact ih _ (s1.writeStatus_memOk k 0x04 0 h1)
      · split
        · exact h1
        · exact ih _ (s1.writeStatus_memOk k _ 0 h1)
        · exact s1.freezeWindow_memOk k h1

theorem State.finishK_memOk (s : State) (k : KCmd) (code : Nat) (result : Nat) (h : s.memOk = true) :
    (State.finishK s k code result).memOk = true := by
  unfold State.finishK
  grind [State.writeStatus_memOk, pump_memOk]

@[simp] theorem State.setPhase_memOk (s : State) (k : KCmd) (p : KPhase) : (State.setPhase s k p).memOk = s.memOk := rfl

theorem State.endK_memOk (s : State) (k : KCmd) (code : Nat) (result : Nat) (h : s.memOk = true) :
    (State.endK s k code result).memOk = true := by
  unfold State.endK
  grind [State.finishK_memOk, State.setPhase_memOk]

theorem execEvFwcallDispatch_outOk (n : Nat) (s : State) (h : s.memOk = true) : OutOk (execEvFwcallDispatch n s) := by
  unfold execEvFwcallDispatch
  grind [State.inOrder_outOk, State.endK_memOk, State.tick_memOk, State.freezeWindow_memOk, outOk_next, State.memOk,
      notEnabled_outOk]

theorem withCmd_outOk {name : String} {code n : Nat} {s : State} {f : KCmd → Out} (h : s.memOk = true)
    (hf : ∀ k, OutOk (f k)) :
    OutOk (withCmd name code n s f) := by
  unfold withCmd
  split
  · exact notEnabled_outOk _
  · split
    · exact notEnabled_outOk _
    · refine s.inOrder_outOk _ ?_
      split
      · split
        · exact notEnabled_outOk _
        · exact outOk_next.2 (s.finishK_memOk _ _ _ h)
      · exact hf _

theorem answer_outOk (s : State) (k : KCmd) (code : Nat) (result : Nat) (h : s.memOk = true) :
    OutOk (answer s k code result) := by
  unfold answer
  grind [State.endK_memOk, State.tick_memOk, outOk_next]

/-- A command that may freeze its window for a guest without the right. -/
theorem guestRefused_outOk (s : State) (k : KCmd) (h : s.memOk = true) :
    OutOk (if k.fromPf then answer s k 0x05 else .next (s.freezeWindow k).tick) :=
  outOk_ite (answer_outOk s k _ _ h) (outOk_next.2 (s.freezeWindow_memOk k h))

theorem withCtx_outOk {name : String} {code word top n : Nat} {s : State} {f : KCmd → Machine.Context → Out}
    (h : s.memOk = true)
    (hf : ∀ k c, OutOk (f k c)) : OutOk (withCtx name code word top n s f) := by
  refine withCmd_outOk h fun k => ?_
  split
  · exact answer_outOk s k _ _ h
  · split
    · exact hf k _
    · split
      · exact answer_outOk s k _ _ h
      · exact hf k _

/-! ### Maps -/

theorem State.zeroLines_memOk (s : State) (cx : CtxId) (a n : Nat) (h : s.memOk = true) : (s.zeroLines cx a n).memOk = true :=
  State.zeroMem_memOk _ _ ((s.rangeAccess_memOk .k cx 6 a n true).trans h)

theorem State.newTable_memOk {s s1 : State} {cx : CtxId} {n t : Nat} (e : s.newTable cx n = some (t, s1))
    (h : s.memOk = true) :
    s1.memOk = true := by
  unfold State.newTable at e
  dsimp only at e
  split at e
  · cases e
  · cases e
    exact s.zeroLines_memOk cx _ _ h

theorem State.writeEntry_memOk (s : State) (cx : CtxId) (ea e : Nat) (h : s.memOk = true) :
    (s.writeEntry cx ea e).memOk = true :=
  State.putMem_memOk _ _ _ ((s.lineAccess_memOk .k cx ea true).trans h)

theorem putLeaf_memOk (cx : CtxId) (va size entry : Nat) : ∀ (ls : List (Nat × Nat × Nat)) (table : Nat) (s : State), s.memOk = true →
    ∀ t, putLeaf cx va size entry ls table s = some t → t.memOk = true
  | [], _, _, _, _, e => nomatch e
  | (_, lo, n) :: rest, table, s, h, t, e => by
    have ih := putLeaf_memOk cx va size entry rest
    unfold putLeaf at e
    dsimp only at e
    split at e
    · cases e
      exact s.writeEntry_memOk _ _ _ h
    · have h0 := (s.lineAccess_memOk .k cx ((table + va / 2 ^ lo % 2 ^ n * 8) % 2 ^ 46) false).trans h
      split at e
      · split at e
        · cases e
        · rename_i e1
          exact ih _ _ (State.writeEntry_memOk _ _ _ _ (State.newTable_memOk e1 h0)) t e
      · split at e
        · cases e
        · exact ih _ _ h0 t e

theorem putLeaves_memOk (c : Machine.Context) (size flags : Nat) : ∀ (n va pa : Nat) (s : State), s.memOk = true →
    ∀ t, putLeaves c size flags n va pa s = some t → t.memOk = true
  | 0, _, _, _, h, _, e => Option.some.inj e ▸ h
  | n + 1, va, pa, s, h, t, e => by
    obtain ⟨s1, e1, e⟩ := Option.bind_eq_some_iff.1 e
    exact putLeaves_memOk c size flags n _ _ s1 (putLeaf_memOk _ _ _ _ _ _ s h s1 e1) t e

theorem execEvCreateContext_outOk (n : Nat) (s : State) (h : s.memOk = true) : OutOk (execEvCreateContext n s) := by
  refine withCmd_outOk h fun k => ?_
  split
  · exact answer_outOk s k _ _ h
  · split
    · rename_i e
      have h1 := State.newTable_memOk e h
      exact answer_outOk _ k _ _ h1
    · exact answer_outOk s k _ _ h

theorem State.startDestroy_memOk (s : State) (c : Machine.Context) (h : s.memOk = true) :
    (State.startDestroy s c).memOk = true := by
  unfold State.startDestroy
  grind [State.startCut_memOk, State.memOk]

theorem execEvDestroyContext_outOk (n : Nat) (s : State) (h : s.memOk = true) : OutOk (execEvDestroyContext n s) := by
  refine withCtx_outOk h fun k c => ?_
  grind [answer_outOk, State.setPhase_memOk, State.tick_memOk, State.startDestroy_memOk, outOk_next, notEnabled_outOk]

@[simp] theorem State.hostMap_memOk (s : State) (k : KCmd) : (State.hostMap s k).memOk = s.memOk := by
  unfold State.hostMap
  grind [State.memOk]

theorem execEvMap_outOk (n : Nat) (s : State) (h : s.memOk = true) : OutOk (execEvMap n s) := by
  refine withCmd_outOk h fun k => ?_
  grind [putLeaves_memOk, State.hostMap_memOk, answer_outOk, notEnabled_outOk]

theorem State.zeroPhys_memOk (s : State) (vf : Nat) (pa : Nat) (n : Nat) (h : s.memOk = true) :
    (State.zeroPhys s vf pa n).memOk = true := by
  unfold State.zeroPhys
  grind [State.zeroLines_memOk]

theorem State.grantFrame_memOk (vf : Nat) (s : State) (f : Nat) (h : s.memOk = true) :
    (State.grantFrame vf s f).memOk = true := by
  unfold State.grantFrame
  grind [State.zeroPhys_memOk, State.memOk]

theorem execEvMapGrant_outOk (n : Nat) (s : State) (h : s.memOk = true) : OutOk (execEvMapGrant n s) := by
  refine withCmd_outOk h fun k => ?_
  grind [State.grantFrame_memOk, State.hostMap_memOk, answer_outOk, notEnabled_outOk, foldl_memOk]

theorem execEvMapMove_outOk (n : Nat) (s : State) (h : s.memOk = true) : OutOk (execEvMapMove n s) := by
  refine withCmd_outOk h fun k => ?_
  grind [answer_outOk, State.setPhase_memOk, State.tick_memOk, outOk_next, State.memOk, notEnabled_outOk]

theorem State.copyPage_memOk (s : State) (cx : CtxId) (va : Nat) (old : Nat) (new : Nat) (n : Nat) (h : s.memOk = true) :
    (State.copyPage s cx va old new n).memOk = true := by
  unfold State.copyPage
  grind [State.markPoison_memOk, State.readPhys_memOk, State.putPhys_memOk, State.send_memOk, foldl_memOk]

@[simp] theorem State.dropTlb_memOk (s : State) (cx : CtxId) (va : Nat) : (State.dropTlb s cx va).memOk = s.memOk := rfl

theorem State.movePage_memOk (c : Machine.Context) (s : State) (p : Page × Nat) (h : s.memOk = true) :
    (State.movePage c s p).memOk = true := by
  unfold State.movePage
  grind [State.kWalk_memOk, State.writeEntry_memOk, State.dropTlb_memOk, State.copyPage_memOk]

theorem execEvMigrationDrainComplete_outOk (n : Nat) (s : State) (h : s.memOk = true) :
    OutOk (execEvMigrationDrainComplete n s) := by
  refine withCmd_outOk h fun k => ?_
  grind [answer_outOk, State.movePage_memOk, State.setPhase_memOk, State.tick_memOk, State.charge_memOk, outOk_next,
      State.memOk, notEnabled_outOk, foldl_memOk]

theorem execEvMigrationReissue_outOk (n : Nat) (s : State) (h : s.memOk = true) : OutOk (execEvMigrationReissue n s) := by
  refine withCmd_outOk h fun k => ?_
  grind [State.hostMap_memOk, answer_outOk, State.memOk, notEnabled_outOk]

theorem State.unmapPage_memOk (c : Machine.Context) (s : State) (p : Page) (h : s.memOk = true) :
    (State.unmapPage c s p).memOk = true := by
  unfold State.unmapPage
  grind [State.kWalk_memOk, State.writeEntry_memOk, State.dropTlb_memOk]

theorem execEvUnmap_outOk (n : Nat) (s : State) (h : s.memOk = true) : OutOk (execEvUnmap n s) := by
  refine withCtx_outOk h fun k c => ?_
  grind [answer_outOk, State.setPhase_memOk, State.unmapPage_memOk, State.tick_memOk, outOk_next, notEnabled_outOk,
      foldl_memOk]

theorem execEvUnmapComplete_outOk (n : Nat) (s : State) (h : s.memOk = true) : OutOk (execEvUnmapComplete n s) := by
  refine withCmd_outOk h fun k => ?_
  grind [answer_outOk, notEnabled_outOk]

/-! ### Images -/

@[simp] theorem State.takeMarks_memOk (s : State) : (State.takeMarks s).memOk = s.memOk := rfl

theorem execEvLoadImage_outOk (n : Nat) (s : State) (h : s.memOk = true) : OutOk (execEvLoadImage n s) := by
  refine withCtx_outOk h fun k c => ?_
  grind [State.putLong_memOk, State.buffer?_memOk, answer_outOk, State.modCtx_memOk, State.takeMarks_memOk, putVa_memOk,
      State.pagesRead_memOk, foldl_memOk]

theorem State.writeVault_memOk (s : State) (c : Machine.Context) (q : Quad) (h : s.memOk = true) :
    (State.writeVault s c q).memOk = true := by
  unfold State.writeVault
  grind [State.write_memOk, foldl_memOk]

@[simp] theorem State.addBarriers_memOk (s : State) (bs : List Barrier) : (State.addBarriers s bs).memOk = s.memOk := by
  unfold State.addBarriers
  grind [State.memOk, foldl_memOk_eq]

theorem seedRegions_memOk (c : Machine.Context) :
    ∀ (rs : List Region) (s : State), s.memOk = true → (seedRegions c rs s).memOk = true
  | [], _, h => h
  | r :: rest, s, h => by
    have ih := seedRegions_memOk c rest
    unfold seedRegions
    split
    · exact ih s h
    · exact ih _ (State.depositBy_memOk _ _ _ ((State.countItem_memOk _ _ _ _).trans h))

theorem State.startAreas_memOk (s : State) (c : Machine.Context) (q : Quad) (h : s.memOk = true) :
    (s.startAreas c q).memOk = true := by
  unfold State.startAreas
  extract_lets off s1
  have h1 : s1.memOk = true := by
    unfold s1
    split
    · exact writeVa_getD_memOk s _ _ _ _ h
    · exact h
  split
  · exact writeVa_getD_memOk s1 _ _ _ _ h1
  · exact h1

theorem readLogs_memOk (c : Machine.Context) :
    ∀ (qs : List Quad) (s : State), s.memOk = true → (readLogs c qs s).1.memOk = true
  | [], _, h => h
  | q :: rest, s, h => by
    have ih := readLogs_memOk c rest
    unfold readLogs
    grind [getVa_memOk]

theorem launchLogs_memOk (s : State) (c : Machine.Context) (qs : List Quad) (h : s.memOk = true) :
    (if c.params.logMode = 2 then readLogs c qs s else (s, some [])).1.memOk = true := by
  split
  · exact readLogs_memOk c qs s h
  · exact h

@[simp] theorem State.freshLinks_memOk (s : State) (qs : List QuadId) : (State.freshLinks s qs).memOk = s.memOk := rfl

theorem State.installQuads_memOk (s : State) (c : Machine.Context) (h : s.memOk = true) :
    (State.installQuads s c).memOk = true := by
  unfold State.installQuads
  grind [State.addBarriers_memOk, State.startAreas_memOk, State.freshLinks_memOk, State.writeVault_memOk, State.memOk,
      foldl_memOk]

theorem execEvLaunch_outOk (n : Nat) (s : State) (h : s.memOk = true) : OutOk (execEvLaunch n s) := by
  refine withCtx_outOk h fun k c => ?_
  split
  · exact answer_outOk s k _ _ h
  · refine outOk_ite (answer_outOk s k _ _ h) (outOk_ite (answer_outOk s k _ _ h) ?_)
    have h1 := s.buffer?_memOk k (k.w 4) 256 h
    generalize s.buffer? k (k.w 4) 256 = p at h1
    obtain ⟨s1, _ | bs⟩ := p
    · exact answer_outOk s1 k _ _ h1
    · have no (code : Nat) : OutOk (answer s1 k code) := answer_outOk s1 k code _ h1
      refine outOk_ite (no _) (outOk_ite (no _) (outOk_ite (no _) (outOk_ite (guestRefused_outOk s1 k h1) ?_)))
      split
      · exact no _
      · extract_lets c1
        have h2 := launchLogs_memOk s1 c1 c1.newQuads h1
        generalize (if c1.params.logMode = 2 then readLogs c1 c1.newQuads s1 else (s1, some [])) = p at h2
        obtain ⟨s2, _ | logs⟩ := p
        · exact answer_outOk s2 k _ _ h2
        · exact outOk_ite (answer_outOk s2 k _ _ h2)
            (answer_outOk _ k _ _ (seedRegions_memOk _ _ _ (State.installQuads_memOk _ _ h2)))

theorem execEvQueryQuiescent_outOk (n : Nat) (s : State) (h : s.memOk = true) : OutOk (execEvQueryQuiescent n s) := by
  refine withCtx_outOk h fun k c => ?_
  grind [answer_outOk, State.setPhase_memOk, State.tick_memOk, State.writeProfile_memOk, outOk_next, foldl_memOk]

/-! ### Restore -/

theorem cutAndSave_outOk (name : String) (k : KCmd) (c : Machine.Context) (admits : Run → Bool) (s : State)
    (h : s.memOk = true) :
    OutOk (cutAndSave name k c admits s) := by
  unfold cutAndSave
  grind [State.startCut_memOk, State.destRead_memOk, answer_outOk, State.setPhase_memOk, State.tick_memOk, outOk_next,
      notEnabled_outOk]

theorem execEvSaveImage_outOk (n : Nat) (s : State) (h : s.memOk = true) : OutOk (execEvSaveImage n s) := by
  refine withCtx_outOk h fun k c => ?_
  grind [answer_outOk, cutAndSave_outOk, notEnabled_outOk]

theorem State.asCut_memOk (s : State) (cx : CtxId) (h : s.memOk = true) : (State.asCut s cx).memOk = true := by
  unfold State.asCut
  grind [State.snuffQuad_memOk, State.stopEngines_memOk, foldl_memOk]

theorem execEvSaveImageNonreleasing_outOk (n : Nat) (s : State) (h : s.memOk = true) :
    OutOk (execEvSaveImageNonreleasing n s) := by
  refine withCtx_outOk h fun k c => ?_
  grind [State.readOut_memOk, State.putLong_memOk, State.destRead_memOk, answer_outOk, State.memOk, notEnabled_outOk]

theorem execEvSnuffCommand_outOk (n : Nat) (s : State) (h : s.memOk = true) : OutOk (execEvSnuffCommand n s) := by
  refine withCtx_outOk h fun k c => ?_
  grind [cutAndSave_outOk]

theorem State.putVaults_memOk (s : State) (v : SavedImage) (f : Reloc) (h : s.memOk = true) :
    (s.putVaults v f).memOk = true :=
  foldl_memOk _ (fun s _ h => (foldl_memOk_eq _ (fun _ _ => State.markPoison_memOk _ _ _) _ _).trans
    (foldl_memOk _ (fun s _ h => s.putCell_memOk _ _ h) _ s h)) _ s h

@[simp] theorem State.readyRestored_memOk (s : State) (cx : CtxId) : (State.readyRestored s cx).memOk = s.memOk := by
  unfold State.readyRestored
  grind [State.wakeWhere_memOk]

@[simp] theorem State.countSent_memOk (s : State) (ms : List Msg) : (State.countSent s ms).memOk = s.memOk := by
  unfold State.countSent
  grind [State.countLink_memOk, foldl_memOk_eq]

theorem State.rewalk_memOk (s : State) (c : Machine.Context) (r : CommitRec) (h : s.memOk = true) :
    (State.rewalk s c r).memOk = true := by
  unfold State.rewalk
  grind [translateBy_memOk, State.memOk, foldl_memOk]

theorem State.restoreImage_memOk (s : State) (c : Machine.Context) (v : SavedImage) (rs : List Region) (h : s.memOk = true) :
    (State.restoreImage s c v rs).memOk = true := by
  unfold State.restoreImage
  grind [State.deliverKept_memOk, State.addBarriers_memOk, State.rewalk_memOk, State.countSent_memOk, State.freshLinks_memOk,
      State.readyRestored_memOk, State.putVaults_memOk, State.memOk, foldl_memOk]

theorem State.readImage_memOk (s : State) (k : KCmd) (h : s.memOk = true) : (State.readImage s k).1.memOk = true := by
  unfold State.readImage
  grind [State.buffer?_memOk]

theorem State.restorePlaces_memOk (s : State) (k : KCmd) (h : s.memOk = true) :
    (State.restorePlaces s k).1.memOk = true := by
  unfold State.restorePlaces
  grind [State.buffer?_memOk]

theorem execEvRestoreImage_outOk (n : Nat) (s : State) (h : s.memOk = true) : OutOk (execEvRestoreImage n s) := by
  refine withCtx_outOk h fun k c => outOk_ite (answer_outOk s k _ _ h) (outOk_ite (answer_outOk s k _ _ h) ?_)
  have h1 := s.readImage_memOk k h
  generalize s.readImage k = p at h1
  obtain ⟨s1, _ | bs⟩ := p
  · exact answer_outOk s1 k _ _ h1
  · refine outOk_ite (answer_outOk s1 k _ _ h1) (outOk_ite (answer_outOk s1 k _ _ h1) ?_)
    split
    · exact answer_outOk s1 k _ _ h1
    · refine outOk_ite (answer_outOk s1 k _ _ h1) ?_
      have h2 := s1.restorePlaces_memOk k h1
      generalize s1.restorePlaces k = p at h2
      obtain ⟨s2, _ | named⟩ := p
      · exact answer_outOk s2 k _ _ h2
      · refine outOk_ite (guestRefused_outOk s2 k h2) ?_
        split
        · exact answer_outOk s2 k _ _ h2
        · exact answer_outOk _ k _ _ (State.restoreImage_memOk _ _ _ _ h2)

/-! ### Admin -/

theorem execEvSetCandle_outOk (n : Nat) (s : State) (h : s.memOk = true) : OutOk (execEvSetCandle n s) := by
  refine withCmd_outOk h fun k => ?_
  grind [State.modFunc_memOk, State.startPeriod_memOk, answer_outOk]

theorem execEvReadLanterns_outOk (n : Nat) (s : State) (h : s.memOk = true) : OutOk (execEvReadLanterns n s) := by
  refine withCmd_outOk h fun k => ?_
  grind [answer_outOk, State.report?_memOk]

theorem execEvSetDieTable_outOk (n : Nat) (s : State) (h : s.memOk = true) : OutOk (execEvSetDieTable n s) := by
  refine withCmd_outOk h fun k => ?_
  grind [State.modFunc_memOk, answer_outOk]

theorem execEvMarkBadNodes_outOk (n : Nat) (s : State) (h : s.memOk = true) : OutOk (execEvMarkBadNodes n s) := by
  refine withCmd_outOk h fun k => ?_
  grind [answer_outOk, State.memOk]

theorem execEvAttest_outOk (n : Nat) (s : State) (h : s.memOk = true) : OutOk (execEvAttest n s) := by
  refine withCmd_outOk h fun k => ?_
  grind [State.buffer?_memOk, answer_outOk, State.report?_memOk]

theorem State.configure_memOk (s : State) (bs : List Byte) (pkg pod : Nat) (masks : List Nat) (sus peak : Nat) (addrs : List Nat)
    (h : s.memOk = true) : (s.configure bs pkg pod masks sus peak addrs).memOk = true :=
  s.zeroMem_memOk _ h

theorem execEvLoadCalibration_outOk (n : Nat) (s : State) (h : s.memOk = true) : OutOk (execEvLoadCalibration n s) := by
  refine withCmd_outOk h fun k => ?_
  grind [State.configure_memOk, State.buffer?_memOk, answer_outOk, State.memOk]

theorem State.endCtx_memOk (s : State) (c : Machine.Context) (h : s.memOk = true) : (State.endCtx s c).memOk = true := by
  unfold State.endCtx
  grind [State.modCtx_memOk, State.startDestroy_memOk]

theorem execEvResetVf_outOk (n : Nat) (s : State) (h : s.memOk = true) : OutOk (execEvResetVf n s) := by
  refine withCmd_outOk h fun k => ?_
  grind [State.modFunc_memOk, State.endCtx_memOk, answer_outOk, pump_memOk, State.setPhase_memOk, State.tick_memOk,
      outOk_next, State.memOk, notEnabled_outOk]

theorem execEvSetCounting_outOk (n : Nat) (s : State) (h : s.memOk = true) : OutOk (execEvSetCounting n s) := by
  refine withCmd_outOk h fun k => ?_
  grind [answer_outOk, State.memOk]

/-! ### HostPort -/

@[simp] theorem State.hostHop_memOk (s : State) (p : Point) : (State.hostHop s p).memOk = s.memOk := by
  unfold State.hostHop
  grind [State.countShared_memOk, State.charge_memOk, State.memOk]

@[simp] theorem State.hostAccess_memOk (s : State) (o : Nat) (write : Bool) :
    (State.hostAccess s o write).memOk = s.memOk := by
  unfold State.hostAccess
  grind [State.checkLine_memOk, State.cacheAccess_memOk, State.hostHop_memOk, foldl_memOk_eq]

theorem execEvCxlMemRead_outOk (hpa : Nat) (len : Nat) (s : State) (h : s.memOk = true) :
    OutOk (execEvCxlMemRead hpa len s) := by
  unfold execEvCxlMemRead
  grind [State.tick_memOk, State.hostAccess_memOk, outOk_next, State.memOk, notEnabled_outOk]

theorem execEvCxlMemWrite_outOk (hpa : Nat) (bytes : List Byte) (poison : Bool) (s : State) (h : s.memOk = true) :
    OutOk (execEvCxlMemWrite hpa bytes poison s) := by
  unfold execEvCxlMemWrite
  grind [State.markPoison_memOk, State.write_memOk, State.tick_memOk, State.hostAccess_memOk, outOk_next, notEnabled_outOk]

theorem execEvCommandDoorbell_outOk (vf : Nat) (tail : Nat) (s : State) (h : s.memOk = true) :
    OutOk (execEvCommandDoorbell vf tail s) := by
  unfold execEvCommandDoorbell
  grind [pump_memOk, State.tick_memOk, outOk_next, State.memOk, notEnabled_outOk]

theorem execEvEventHeadWrite_outOk (vf : Nat) (head : Nat) (s : State) (h : s.memOk = true) :
    OutOk (execEvEventHeadWrite vf head s) := by
  unfold execEvEventHeadWrite
  grind [State.tick_memOk, outOk_next, State.memOk, notEnabled_outOk]

theorem State.writeRegister_memOk (s : State) (vf : Nat) (off : Nat) (val : Word) (h : s.memOk = true) :
    (State.writeRegister s vf off val).memOk = true := by
  unfold State.writeRegister
  grind [pump_memOk, State.memOk]

theorem execEvRegisterWrite_outOk (vf : Nat) (off : Nat) (val : Word) (s : State) (h : s.memOk = true) :
    OutOk (execEvRegisterWrite vf off val s) := by
  unfold execEvRegisterWrite
  grind [State.writeRegister_memOk, State.tick_memOk, outOk_next, notEnabled_outOk]

theorem execEvPowerCheck_outOk (mw : Nat) (s : State) (h : s.memOk = true) : OutOk (execEvPowerCheck mw s) := by
  unfold execEvPowerCheck
  grind [State.setFclk_memOk, State.tick_memOk, outOk_next, State.memOk, notEnabled_outOk]

theorem execEvThermalLimit_outOk (die : Nat) (deg : Nat) (s : State) (h : s.memOk = true) :
    OutOk (execEvThermalLimit die deg s) := by
  unfold execEvThermalLimit
  grind [State.setFclk_memOk, State.tick_memOk, State.event_memOk, outOk_next, State.memOk, notEnabled_outOk]

theorem State.lostContexts_memOk (s : State) (h : s.memOk = true) : s.lostContexts.memOk = true := s.zeroMem_memOk _ h

theorem execEvThermalShutdown_outOk (die : Nat) (deg : Nat) (s : State) (h : s.memOk = true) :
    OutOk (execEvThermalShutdown die deg s) := by
  unfold execEvThermalShutdown
  grind [State.lostContexts_memOk, State.tick_memOk, outOk_next, State.memOk, notEnabled_outOk]

theorem execEvDeviceReset_outOk (s : State) (h : s.memOk = true) : OutOk (execEvDeviceReset s) :=
  outOk_next.2 (State.memOk_iff.2 ⟨rfl, (State.memOk_iff.1 h).2⟩)

theorem execEvHostLinkDegrade_outOk (s : State) (h : s.memOk = true) : OutOk (execEvHostLinkDegrade s) := by
  unfold execEvHostLinkDegrade
  grind [State.tick_memOk, State.event_memOk, outOk_next, State.memOk, notEnabled_outOk]

/-! ### Pod -/

@[simp] theorem State.podReply_memOk (s : State) (src : Nat) (req : Nat) (v : Word) (poisoned : Bool) :
    (State.podReply s src req v poisoned).memOk = s.memOk := by
  unfold State.podReply
  grind [State.dropMsg_memOk, State.send_memOk]

@[simp] theorem State.podPart_memOk (s : State) (src : Nat) (vf : Nat) (key : Nat) (rank : Nat) (fields : List Nat)
    (vals : List (Option Word)) (first : Nat) (total : Nat) :
    (State.podPart s src vf key rank fields vals first total).memOk = s.memOk := rfl

theorem State.podServe_memOk (s : State) (src : Nat) (b : PodBody) (h : s.memOk = true) :
    (State.podServe s src b).memOk = true := by
  unfold State.podServe
  grind [State.podRequest_memOk, podRequestOf_memOk, State.send_memOk]

theorem State.podDeliver_memOk (s : State) (src : Nat) (a2 : PodBody) (h : s.memOk = true) :
    (State.podDeliver s src a2).memOk = true := by
  unfold State.podDeliver
  grind [State.podServe_memOk, State.podReply_memOk, State.arrive_memOk, State.podPart_memOk]

theorem podCatchUp_memOk (src cls : Nat) : ∀ (n : Nat) (s : State), s.memOk = true → (podCatchUp src cls n s).memOk = true
  | 0, _, h => h
  | n + 1, s, h => by
    unfold podCatchUp
    dsimp only
    split
    · exact h
    · exact podCatchUp_memOk src cls n _ (State.podDeliver_memOk _ _ _ ((s.setFlow_memOk _).trans h))

@[simp] theorem State.podAck_memOk (s : State) (src : Nat) (cls : Nat) (upTo : Nat) :
    (State.podAck s src cls upTo).memOk = s.memOk := rfl

@[simp] theorem State.heard_memOk (s : State) (src : Nat) : (State.heard s src).memOk = s.memOk := rfl

@[simp] theorem State.sendAck_memOk (s : State) (src : Nat) (cls : Nat) : (State.sendAck s src cls).memOk = s.memOk := rfl

theorem State.podTake_memOk (s : State) (src : Nat) (cls : Nat) (seqno : Nat) (pkt : PodBody) (h : s.memOk = true) :
    (State.podTake s src cls seqno pkt).memOk = true := by
  unfold State.podTake
  grind [State.setFlow_memOk, podCatchUp_memOk, State.sendAck_memOk, State.podDeliver_memOk]

theorem execEvPodPacketReceive_outOk (src : Nat) (cls : Nat) (seqno : Nat) (port : Nat) (pkt : PodBody) (s : State)
    (h : s.memOk = true) :
    OutOk (execEvPodPacketReceive src cls seqno port pkt s) := by
  unfold execEvPodPacketReceive
  grind [State.podTake_memOk, State.heard_memOk, State.tick_memOk, State.podAck_memOk, outOk_next, notEnabled_outOk]

theorem execEvPodRetransmitTimeout_outOk (n : Nat) (port : Nat) (s : State) (h : s.memOk = true) :
    OutOk (execEvPodRetransmitTimeout n port s) := by
  unfold execEvPodRetransmitTimeout
  grind [State.setFlow_memOk, State.tick_memOk, outOk_next, State.memOk, notEnabled_outOk]

@[simp] theorem State.rerouteAll_memOk (s : State) : (State.rerouteAll s).memOk = s.memOk := rfl

theorem execEvPodPortFailure_outOk (port : Nat) (s : State) (h : s.memOk = true) : OutOk (execEvPodPortFailure port s) := by
  unfold execEvPodPortFailure
  grind [State.rerouteAll_memOk, State.tick_memOk, State.event_memOk, outOk_next, State.memOk, notEnabled_outOk]

theorem execEvPodLost_outOk (pkg : Nat) (s : State) (h : s.memOk = true) : OutOk (execEvPodLost pkg s) := by
  unfold execEvPodLost
  grind [State.dropMsg_memOk, State.tick_memOk, poisonedAnswer_memOk, State.event_memOk, outOk_next, State.memOk,
      notEnabled_outOk, foldl_memOk]

/-! ### Every instruction and device step -/

theorem exec_outOk (i : Instr) (s : State) (h : s.memOk = true) : OutOk (exec i s) := by
  cases i with
  | add f => exact show OutOk (execAdd f s) from intTwo_outOk f s _ h
  | sub f => exact show OutOk (execSub f s) from intTwo_outOk f s _ h
  | mul f => exact show OutOk (execMul f s) from intTwo_outOk f s _ h
  | mulhs f => exact show OutOk (execMulhs f s) from intTwo_outOk f s _ h
  | mulhu f => exact show OutOk (execMulhu f s) from intTwo_outOk f s _ h
  | divs f => exact show OutOk (execDivs f s) from intTwo_outOk f s _ h
  | divu f => exact show OutOk (execDivu f s) from intTwo_outOk f s _ h
  | rems f => exact show OutOk (execRems f s) from intTwo_outOk f s _ h
  | remu f => exact show OutOk (execRemu f s) from intTwo_outOk f s _ h
  | andOp f => exact show OutOk (execAndOp f s) from intTwo_outOk f s _ h
  | orOp f => exact show OutOk (execOrOp f s) from intTwo_outOk f s _ h
  | xorOp f => exact show OutOk (execXorOp f s) from intTwo_outOk f s _ h
  | andn f => exact show OutOk (execAndn f s) from intTwo_outOk f s _ h
  | orn f => exact show OutOk (execOrn f s) from intTwo_outOk f s _ h
  | shl f => exact show OutOk (execShl f s) from intTwo_outOk f s _ h
  | shr f => exact show OutOk (execShr f s) from intTwo_outOk f s _ h
  | sar f => exact show OutOk (execSar f s) from intTwo_outOk f s _ h
  | rol f => exact show OutOk (execRol f s) from intTwo_outOk f s _ h
  | ror f => exact show OutOk (execRor f s) from intTwo_outOk f s _ h
  | mins f => exact show OutOk (execMins f s) from intTwo_outOk f s _ h
  | minu f => exact show OutOk (execMinu f s) from intTwo_outOk f s _ h
  | maxs f => exact show OutOk (execMaxs f s) from intTwo_outOk f s _ h
  | maxu f => exact show OutOk (execMaxu f s) from intTwo_outOk f s _ h
  | absd f => exact show OutOk (execAbsd f s) from intTwo_outOk f s _ h
  | neg f => exact show OutOk (execNeg f s) from intOne_outOk f s _ h
  | abs f => exact show OutOk (execAbs f s) from intOne_outOk f s _ h
  | notOp f => exact show OutOk (execNotOp f s) from intOne_outOk f s _ h
  | clz f => exact show OutOk (execClz f s) from intOne_outOk f s _ h
  | ctz f => exact show OutOk (execCtz f s) from intOne_outOk f s _ h
  | popc f => exact show OutOk (execPopc f s) from intOne_outOk f s _ h
  | brev f => exact show OutOk (execBrev f s) from intOne_outOk f s _ h
  | bswap f => exact show OutOk (execBswap f s) from intOne_outOk f s _ h
  | sext f => exact show OutOk (execSext f s) from intOne_outOk f s _ h
  | zext f => exact show OutOk (execZext f s) from intOne_outOk f s _ h
  | mov f => exact show OutOk (execMov f s) from intOne_outOk f s _ h
  | nullOp f => exact show OutOk (execNullOp f s) from value0_outOk h
  | bfx f => exact show OutOk (execBfx f s) from intThree_outOk f s _ h
  | bfxs f => exact show OutOk (execBfxs f s) from intThree_outOk f s _ h
  | bfi f => exact show OutOk (execBfi f s) from intThree_outOk f s _ h
  | sel f => exact show OutOk (execSel f s) from intThree_outOk f s _ h
  | madd f => exact show OutOk (execMadd f s) from intThree_outOk f s _ h
  | fsh f => exact show OutOk (execFsh f s) from intThree_outOk f s _ h
  | addi f => exact show OutOk (execAddi f s) from intImm_outOk f s _ h
  | muli f => exact show OutOk (execMuli f s) from intImm_outOk f s _ h
  | andi f => exact show OutOk (execAndi f s) from intImm_outOk f s _ h
  | ori f => exact show OutOk (execOri f s) from intImm_outOk f s _ h
  | xori f => exact show OutOk (execXori f s) from intImm_outOk f s _ h
  | shli f => exact show OutOk (execShli f s) from intImm_outOk f s _ h
  | shri f => exact show OutOk (execShri f s) from intImm_outOk f s _ h
  | sari f => exact show OutOk (execSari f s) from intImm_outOk f s _ h
  | roli f => exact show OutOk (execRoli f s) from intImm_outOk f s _ h
  | minsi f => exact show OutOk (execMinsi f s) from intImm_outOk f s _ h
  | maxsi f => exact show OutOk (execMaxsi f s) from intImm_outOk f s _ h
  | movi f => exact show OutOk (execMovi f s) from value0_outOk h
  | teq f => exact show OutOk (execTeq f s) from intTwo_outOk f s _ h
  | tne f => exact show OutOk (execTne f s) from intTwo_outOk f s _ h
  | tlts f => exact show OutOk (execTlts f s) from intTwo_outOk f s _ h
  | tles f => exact show OutOk (execTles f s) from intTwo_outOk f s _ h
  | tltu f => exact show OutOk (execTltu f s) from intTwo_outOk f s _ h
  | tleu f => exact show OutOk (execTleu f s) from intTwo_outOk f s _ h
  | tgts f => exact show OutOk (execTgts f s) from intTwo_outOk f s _ h
  | tges f => exact show OutOk (execTges f s) from intTwo_outOk f s _ h
  | tgtu f => exact show OutOk (execTgtu f s) from intTwo_outOk f s _ h
  | tgeu f => exact show OutOk (execTgeu f s) from intTwo_outOk f s _ h
  | teqi f => exact show OutOk (execTeqi f s) from intImm_outOk f s _ h
  | tnei f => exact show OutOk (execTnei f s) from intImm_outOk f s _ h
  | tltsi f => exact show OutOk (execTltsi f s) from intImm_outOk f s _ h
  | tlesi f => exact show OutOk (execTlesi f s) from intImm_outOk f s _ h
  | tltui f => exact show OutOk (execTltui f s) from intImm_outOk f s _ h
  | tleui f => exact show OutOk (execTleui f s) from intImm_outOk f s _ h
  | tgtsi f => exact show OutOk (execTgtsi f s) from intImm_outOk f s _ h
  | tgesi f => exact show OutOk (execTgesi f s) from intImm_outOk f s _ h
  | pand f => exact show OutOk (execPand f s) from predTwo_outOk f s _ h
  | por f => exact show OutOk (execPor f s) from predTwo_outOk f s _ h
  | pxor f => exact show OutOk (execPxor f s) from predTwo_outOk f s _ h
  | pnot f => exact show OutOk (execPnot f s) from value1_outOk h
  | steer f => exact execSteer_outOk f s h
  | merge f => exact execMerge_outOk f s h
  | fan f => exact show OutOk (execFan f s) from value1_outOk h
  | rdc f => exact show OutOk (execRdc f s) from value0_outOk h
  | tagof f => exact show OutOk (execTagof f s) from value0_outOk h
  | retag f => exact execRetag_outOk f s h
  | fadd f => exact show OutOk (execFadd f s) from fltTwo_outOk f s _ h
  | fsub f => exact show OutOk (execFsub f s) from fltTwo_outOk f s _ h
  | fmul f => exact show OutOk (execFmul f s) from fltTwo_outOk f s _ h
  | fdiv f => exact show OutOk (execFdiv f s) from fltTwo_outOk f s _ h
  | fmin f => exact show OutOk (execFmin f s) from fltTwo_outOk f s _ h
  | fmax f => exact show OutOk (execFmax f s) from fltTwo_outOk f s _ h
  | fminm f => exact show OutOk (execFminm f s) from fltTwo_outOk f s _ h
  | fmaxm f => exact show OutOk (execFmaxm f s) from fltTwo_outOk f s _ h
  | fcpys f => exact show OutOk (execFcpys f s) from fltTwo_outOk f s _ h
  | fscale f => exact show OutOk (execFscale f s) from fltTwo_outOk f s _ h
  | fabs f => exact show OutOk (execFabs f s) from fltOne_outOk f s _ h
  | fneg f => exact show OutOk (execFneg f s) from fltOne_outOk f s _ h
  | fsqrt f => exact show OutOk (execFsqrt f s) from fltOne_outOk f s _ h
  | frcp f => exact show OutOk (execFrcp f s) from fltOne_outOk f s _ h
  | frsq f => exact show OutOk (execFrsq f s) from fltOne_outOk f s _ h
  | ex2 f => exact show OutOk (execEx2 f s) from fltOne_outOk f s _ h
  | lg2 f => exact show OutOk (execLg2 f s) from fltOne_outOk f s _ h
  | sinp f => exact show OutOk (execSinp f s) from fltOne_outOk f s _ h
  | cosp f => exact show OutOk (execCosp f s) from fltOne_outOk f s _ h
  | tanh f => exact show OutOk (execTanh f s) from fltOne_outOk f s _ h
  | frnd f => exact show OutOk (execFrnd f s) from value1_outOk h
  | fclass f => exact show OutOk (execFclass f s) from fltOne_outOk f s _ h
  | ffrac f => exact show OutOk (execFfrac f s) from fltOne_outOk f s _ h
  | ffma f => exact show OutOk (execFfma f s) from fltThree_outOk f s _ h
  | ffms f => exact show OutOk (execFfms f s) from fltThree_outOk f s _ h
  | fnfma f => exact show OutOk (execFnfma f s) from fltThree_outOk f s _ h
  | fnfms f => exact show OutOk (execFnfms f s) from fltThree_outOk f s _ h
  | fteq f => exact show OutOk (execFteq f s) from fltTwo_outOk f s _ h
  | ftne f => exact show OutOk (execFtne f s) from fltTwo_outOk f s _ h
  | ftlt f => exact show OutOk (execFtlt f s) from fltTwo_outOk f s _ h
  | ftle f => exact show OutOk (execFtle f s) from fltTwo_outOk f s _ h
  | ftun f => exact show OutOk (execFtun f s) from fltTwo_outOk f s _ h
  | ftord f => exact show OutOk (execFtord f s) from fltTwo_outOk f s _ h
  | fcvt f => exact show OutOk (execFcvt f s) from convert_outOk f s _ h
  | fcvts f => exact show OutOk (execFcvts f s) from convert_outOk f s _ h
  | fcvtu f => exact show OutOk (execFcvtu f s) from convert_outOk f s _ h
  | scvtf f => exact show OutOk (execScvtf f s) from convert_outOk f s _ h
  | ucvtf f => exact show OutOk (execUcvtf f s) from convert_outOk f s _ h
  | mxscl f => exact show OutOk (execMxscl f s) from convert_outOk f s _ h
  | mxq f => exact show OutOk (execMxq f s) from convert_outOk f s _ h
  | ldd f => exact execLdd_outOk f s h
  | ldw f => exact execLdw_outOk f s h
  | ldws f => exact execLdws_outOk f s h
  | ldh f => exact execLdh_outOk f s h
  | ldhs f => exact execLdhs_outOk f s h
  | ldb f => exact execLdb_outOk f s h
  | ldbs f => exact execLdbs_outOk f s h
  | std f => exact execStd_outOk f s h
  | stw f => exact execStw_outOk f s h
  | sth f => exact execSth_outOk f s h
  | stb f => exact execStb_outOk f s h
  | nstore f => exact execNstore_outOk f s h
  | aadd f => exact execAadd_outOk f s h
  | amins f => exact execAmins_outOk f s h
  | aminu f => exact execAminu_outOk f s h
  | amaxs f => exact execAmaxs_outOk f s h
  | amaxu f => exact execAmaxu_outOk f s h
  | aand f => exact execAand_outOk f s h
  | aor f => exact execAor_outOk f s h
  | axor f => exact execAxor_outOk f s h
  | afadd f => exact execAfadd_outOk f s h
  | fld f => exact execFld_outOk f s h
  | flda f => exact execFlda_outOk f s h
  | fst f => exact execFst_outOk f s h
  | fstr f => exact execFstr_outOk f s h
  | faadd f => exact execFaadd_outOk f s h
  | famins f => exact execFamins_outOk f s h
  | faminu f => exact execFaminu_outOk f s h
  | famaxs f => exact execFamaxs_outOk f s h
  | famaxu f => exact execFamaxu_outOk f s h
  | faand f => exact execFaand_outOk f s h
  | faor f => exact execFaor_outOk f s h
  | faxor f => exact execFaxor_outOk f s h
  | faxchg f => exact execFaxchg_outOk f s h
  | facas f => exact execFacas_outOk f s h
  | fafadd f => exact execFafadd_outOk f s h
  | fence f => exact execFence_outOk f s h
  | xmit f => exact execXmit_outOk f s h
  | inlet f => exact show OutOk (execInlet f s) from value1_outOk h
  | fradd f => exact execFradd_outOk f s h
  | frfadd f => exact execFrfadd_outOk f s h
  | br f => exact execBr_outOk f s h
  | bri f => exact execBri_outOk f s h
  | call f => exact execCall_outOk f s h
  | calli f => exact execCalli_outOk f s h
  | ret f => exact execRet_outOk f s h
  | endStrand f => exact execEndStrand_outOk f s h
  | tsalloc f => exact execTsalloc_outOk f s h
  | tsfree f => exact execTsfree_outOk f s h
  | tagnew f => exact execTagnew_outOk f s h
  | tagrel f => exact execTagrel_outOk f s h
  | spawn f => exact execSpawn_outOk f s h
  | spawnr f => exact execSpawnr_outOk f s h
  | joinOp f => exact execJoinOp_outOk f s h
  | bararr f => exact execBararr_outOk f s h
  | barwait f => exact execBarwait_outOk f s h
  | barsync f => exact execBarsync_outOk f s h
  | waitOp f => exact execWaitOp_outOk f s h
  | yieldOp f => exact execYieldOp_outOk f s h
  | scopy f => exact execScopy_outOk f s h
  | sgather f => exact execSgather_outOk f s h
  | sscatter f => exact execSscatter_outOk f s h
  | sfill f => exact execSfill_outOk f s h
  | sparam f => exact execSparam_outOk f s h
  | mxcfg f => exact execMxcfg_outOk f s h
  | mxrun f => exact execMxrun_outOk f s h
  | mxldacc f => exact execMxldacc_outOk f s h
  | mxstacc f => exact execMxstacc_outOk f s h
  | mxrel f => exact execMxrel_outOk f s h
  | vmap f => exact execVmap_outOk f s h
  | vred f => exact execVred_outOk f s h
  | wincfg f => exact execWincfg_outOk f s h
  | winrun f => exact execWinrun_outOk f s h
  | decode f => exact execDecode_outOk f s h
  | coll f => exact execColl_outOk f s h
  | hquery f => exact execHquery_outOk f s h
  | rsquery f => exact execRsquery_outOk f s h
  | stok f => exact execStok_outOk f s h
  | toks f => exact execToks_outOk f s h
  | srd f => exact execSrd_outOk f s h
  | swr f => exact execSwr_outOk f s h
  | trap f => exact execTrap_outOk f s h
  | bkpt f => exact execBkpt_outOk f s h
  | enrd f => exact execEnrd_outOk f s h
  | perfrd f => exact execPerfrd_outOk f s h
  | trace f => exact execTrace_outOk f s h
  | clk f => exact execClk_outOk f s h
  | snuff f => exact execSnuff_outOk f s h
  | fwcall f => exact execFwcall_outOk f s h
  | assert f => exact execAssert_outOk f s h
  | genc f => exact show OutOk (execGenc f s) from value0_outOk h
  | appc f => exact show OutOk (execAppc f s) from value1_outOk h
  | evElementIssue die idx elem => exact execEvElementIssue_outOk die idx elem s h
  | evTokenArrival n => exact execEvTokenArrival_outOk n s h
  | evBlockFetch die idx elem => exact execEvBlockFetch_outOk die idx elem s h
  | evBlockInstanceStart die idx elem => exact execEvBlockInstanceStart_outOk die idx elem s h
  | evBlockStarved inst => exact execEvBlockStarved_outOk inst s h
  | evCommit inst => exact execEvCommit_outOk inst s h
  | evFootprintRegistration n => exact execEvFootprintRegistration_outOk n s h
  | evParkedCommitResume n => exact execEvParkedCommitResume_outOk n s h
  | evFrameMoveArrival n => exact execEvFrameMoveArrival_outOk n s h
  | evFarAccessAtHome n => exact execEvFarAccessAtHome_outOk n s h
  | evPostedEffectAtHome n => exact execEvPostedEffectAtHome_outOk n s h
  | evPostedAckArrival n => exact execEvPostedAckArrival_outOk n s h
  | evWaitingFarAccessPerform die idx n => exact execEvWaitingFarAccessPerform_outOk die idx n s h
  | evBankArbitration die idx bank => exact execEvBankArbitration_outOk die idx bank s h
  | evBankStarvationPromote die idx bank => exact execEvBankStarvationPromote_outOk die idx bank s h
  | evFarReplyArrival n => exact execEvFarReplyArrival_outOk n s h
  | evReplyHeldResend n => exact execEvReplyHeldResend_outOk n s h
  | evLamplighterRelight die idx => exact execEvLamplighterRelight_outOk die idx s h
  | evRangeSplit die idx => exact execEvRangeSplit_outOk die idx s h
  | evFrameWaitGrant die idx => exact execEvFrameWaitGrant_outOk die idx s h
  | evEmberReady n => exact execEvEmberReady_outOk n s h
  | evRefusalCountLimit n => exact execEvRefusalCountLimit_outOk n s h
  | evReservationTimeout n => exact execEvReservationTimeout_outOk n s h
  | evArbitrationGrant point => exact execEvArbitrationGrant_outOk point s h
  | evCircuitTokenArrival n => exact execEvCircuitTokenArrival_outOk n s h
  | evCreditReturn n => exact execEvCreditReturn_outOk n s h
  | evBorderCrossing n => exact execEvBorderCrossing_outOk n s h
  | evMasterFreeze n => exact execEvMasterFreeze_outOk n s h
  | evSpaceTableItem n => exact execEvSpaceTableItem_outOk n s h
  | evJoinRequest n => exact execEvJoinRequest_outOk n s h
  | evLiveCountZero vf ctx space => exact execEvLiveCountZero_outOk vf ctx space s h
  | evWaitRequest n => exact execEvWaitRequest_outOk n s h
  | evBarrierArrival n => exact execEvBarrierArrival_outOk n s h
  | evBarrierPhaseComplete n => exact execEvBarrierPhaseComplete_outOk n s h
  | evBarwaitRequest n => exact execEvBarwaitRequest_outOk n s h
  | evTlbWalk n => exact execEvTlbWalk_outOk n s h
  | evStreamCommandArrival n => exact execEvStreamCommandArrival_outOk n s h
  | evStreamCommandPerform n => exact execEvStreamCommandPerform_outOk n s h
  | evStreamRoundBoundary n => exact execEvStreamRoundBoundary_outOk n s h
  | evStreamPageFaultStop n => exact execEvStreamPageFaultStop_outOk n s h
  | evEngineLineAccess n => exact execEvEngineLineAccess_outOk n s h
  | evMeCommandPerform n => exact execEvMeCommandPerform_outOk n s h
  | evVsuCommandPerform n => exact execEvVsuCommandPerform_outOk n s h
  | evWindowCommandPerform n => exact execEvWindowCommandPerform_outOk n s h
  | evDecodeFrame n => exact execEvDecodeFrame_outOk n s h
  | evCollGroupComplete n => exact execEvCollGroupComplete_outOk n s h
  | evStokElementSend n => exact execEvStokElementSend_outOk n s h
  | evToksTokenCapture n => exact execEvToksTokenCapture_outOk n s h
  | evCommandCompletion n => exact execEvCommandCompletion_outOk n s h
  | evFaultDelivery vf ctx => exact execEvFaultDelivery_outOk vf ctx s h
  | evHandlerDone vf ctx slot => exact execEvHandlerDone_outOk vf ctx slot s h
  | evPreciseStop vf ctx => exact execEvPreciseStop_outOk vf ctx s h
  | evParityFreezeReport vf ctx die idx hop dir elem => exact execEvParityFreezeReport_outOk vf ctx die idx hop dir elem s h
  | evSnuffMarkerBroadcast vf ctx => exact execEvSnuffMarkerBroadcast_outOk vf ctx s h
  | evQuadMarkerArrival die idx => exact execEvQuadMarkerArrival_outOk die idx s h
  | evChannelMarkerArrival n => exact execEvChannelMarkerArrival_outOk n s h
  | evQuadStateReadout vf ctx => exact execEvQuadStateReadout_outOk vf ctx s h
  | evEngineSnuffStop n => exact execEvEngineSnuffStop_outOk n s h
  | evQuadZeroing die idx => exact execEvQuadZeroing_outOk die idx s h
  | evQuadZeroComplete die idx => exact execEvQuadZeroComplete_outOk die idx s h
  | evLanternReport => exact execEvLanternReport_outOk s h
  | evFactorUpdate die => exact execEvFactorUpdate_outOk die s h
  | evSharedCostSplit => exact execEvSharedCostSplit_outOk s h
  | evCandlePeriodStart vf => exact execEvCandlePeriodStart_outOk vf s h
  | evCandleCut vf => exact execEvCandleCut_outOk vf s h
  | evClassChange vf ctx => exact execEvClassChange_outOk vf ctx s h
  | evPowerCheck mw => exact execEvPowerCheck_outOk mw s h
  | evThermalLimit die deg => exact execEvThermalLimit_outOk die deg s h
  | evThermalShutdown die deg => exact execEvThermalShutdown_outOk die deg s h
  | evDeviceReset => exact execEvDeviceReset_outOk s h
  | evHostLinkDegrade => exact execEvHostLinkDegrade_outOk s h
  | evCxlMemRead hpa len => exact execEvCxlMemRead_outOk hpa len s h
  | evCxlMemWrite hpa bytes poison => exact execEvCxlMemWrite_outOk hpa bytes poison s h
  | evCommandDoorbell vf tail => exact execEvCommandDoorbell_outOk vf tail s h
  | evEventHeadWrite vf head => exact execEvEventHeadWrite_outOk vf head s h
  | evRegisterWrite vf off val => exact execEvRegisterWrite_outOk vf off val s h
  | evFwcallDispatch n => exact execEvFwcallDispatch_outOk n s h
  | evCreateContext n => exact execEvCreateContext_outOk n s h
  | evDestroyContext n => exact execEvDestroyContext_outOk n s h
  | evMap n => exact execEvMap_outOk n s h
  | evMapGrant n => exact execEvMapGrant_outOk n s h
  | evMapMove n => exact execEvMapMove_outOk n s h
  | evMigrationDrainComplete n => exact execEvMigrationDrainComplete_outOk n s h
  | evMigrationReissue n => exact execEvMigrationReissue_outOk n s h
  | evUnmap n => exact execEvUnmap_outOk n s h
  | evUnmapComplete n => exact execEvUnmapComplete_outOk n s h
  | evLoadImage n => exact execEvLoadImage_outOk n s h
  | evLaunch n => exact execEvLaunch_outOk n s h
  | evQueryQuiescent n => exact execEvQueryQuiescent_outOk n s h
  | evSaveImage n => exact execEvSaveImage_outOk n s h
  | evSaveImageNonreleasing n => exact execEvSaveImageNonreleasing_outOk n s h
  | evRestoreImage n => exact execEvRestoreImage_outOk n s h
  | evSnuffCommand n => exact execEvSnuffCommand_outOk n s h
  | evSetCandle n => exact execEvSetCandle_outOk n s h
  | evReadLanterns n => exact execEvReadLanterns_outOk n s h
  | evSetDieTable n => exact execEvSetDieTable_outOk n s h
  | evMarkBadNodes n => exact execEvMarkBadNodes_outOk n s h
  | evAttest n => exact execEvAttest_outOk n s h
  | evLoadCalibration n => exact execEvLoadCalibration_outOk n s h
  | evResetVf n => exact execEvResetVf_outOk n s h
  | evSetCounting n => exact execEvSetCounting_outOk n s h
  | evPodPacketReceive src cls seqno port pkt => exact execEvPodPacketReceive_outOk src cls seqno port pkt s h
  | evPodRetransmitTimeout n port => exact execEvPodRetransmitTimeout_outOk n port s h
  | evPodPortFailure port => exact execEvPodPortFailure_outOk port s h
  | evPodLost pkg => exact execEvPodLost_outOk pkg s h

/-! ### What the present state may do next -/

/-- A device step that keeps the memories' form. -/
def Move.Ok (m : Move) : Prop := ∀ s, s.memOk = true → OutOk (m s)

/-- Steps that all keep the memories' form. -/
def MovesOk (ms : List Move) : Prop := ∀ m ∈ ms, m.Ok

section
variable {α : Type} {m : Move} {xs ys : List Move}

@[simp] theorem movesOk_nil : MovesOk [] := fun _ h => nomatch h
@[simp] theorem movesOk_cons : MovesOk (m :: xs) ↔ m.Ok ∧ MovesOk xs := List.forall_mem_cons
@[simp] theorem movesOk_append : MovesOk (xs ++ ys) ↔ MovesOk xs ∧ MovesOk ys := List.forall_mem_append
@[simp] theorem movesOk_map {f : α → Move} {as : List α} : MovesOk (as.map f) ↔ ∀ a ∈ as, (f a).Ok := List.forall_mem_map
theorem movesOk_flatMap {f : α → List Move} {as : List α} (h : ∀ a, MovesOk (f a)) : MovesOk (as.flatMap f) := fun _ hm =>
  let ⟨a, _, ha⟩ := List.mem_flatMap.1 hm
  h a _ ha
theorem MovesOk.sublist (h : MovesOk ys) (hs : xs ⊆ ys) : MovesOk xs := fun m hm => h m (hs hm)
end

theorem Msg.steps_ok (m : Msg) : MovesOk m.steps := by
  unfold Msg.steps
  split <;> simp +contextual [Move.Ok, execEvFarAccessAtHome_outOk, execEvPostedEffectAtHome_outOk,
    execEvPostedAckArrival_outOk, execEvFarReplyArrival_outOk, execEvReplyHeldResend_outOk, execEvFrameMoveArrival_outOk,
    execEvBorderCrossing_outOk, execEvToksTokenCapture_outOk, execEvCircuitTokenArrival_outOk, execEvCreditReturn_outOk,
    execEvFootprintRegistration_outOk, execEvBarrierArrival_outOk, execEvBarwaitRequest_outOk, execEvJoinRequest_outOk,
    execEvWaitRequest_outOk, execEvStreamCommandArrival_outOk, execEvSpaceTableItem_outOk, execEvChannelMarkerArrival_outOk]

theorem Quad.steps_ok (q : Quad) : MovesOk q.steps := by
  have elem (e : Nat) : MovesOk
      [execEvElementIssue q.id.die q.id.idx e, execEvBlockInstanceStart q.id.die q.id.idx e, execEvBlockFetch q.id.die
    q.id.idx e] := by
    simp +contextual [Move.Ok, execEvElementIssue_outOk, execEvBlockInstanceStart_outOk, execEvBlockFetch_outOk]
  have bank (r : BankReq) : MovesOk [execEvBankStarvationPromote q.id.die q.id.idx r.bank, execEvBankArbitration q.id.die
    q.id.idx r.bank] := by
    simp +contextual [Move.Ok, execEvBankStarvationPromote_outOk, execEvBankArbitration_outOk]
  simp +contextual [Quad.steps, movesOk_flatMap elem, movesOk_flatMap bank, Move.Ok, execEvFrameWaitGrant_outOk,
    execEvLamplighterRelight_outOk, execEvRangeSplit_outOk, execEvQuadMarkerArrival_outOk, execEvQuadZeroing_outOk,
    execEvQuadZeroComplete_outOk, execEvWaitingFarAccessPerform_outOk]

theorem Pending.steps_ok (p : Pending) : MovesOk p.steps := by
  simp +contextual [Pending.steps, Move.Ok, execEvEngineSnuffStop_outOk, execEvEngineLineAccess_outOk,
    execEvStreamRoundBoundary_outOk, execEvStreamCommandPerform_outOk, execEvStreamPageFaultStop_outOk,
    execEvStokElementSend_outOk, execEvMeCommandPerform_outOk, execEvVsuCommandPerform_outOk,
    execEvWindowCommandPerform_outOk, execEvDecodeFrame_outOk, execEvCollGroupComplete_outOk, execEvCommandCompletion_outOk]

theorem Context.steps_ok (c : Machine.Context) : MovesOk c.steps := by
  simp +contextual [Context.steps, Move.Ok, execEvMasterFreeze_outOk, execEvPreciseStop_outOk, execEvFaultDelivery_outOk,
    execEvSnuffMarkerBroadcast_outOk, execEvQuadStateReadout_outOk, execEvClassChange_outOk, execEvHandlerDone_outOk,
    execEvLiveCountZero_outOk]

theorem KCmd.steps_ok (k : KCmd) : MovesOk k.steps := by
  simp +contextual [KCmd.steps, Move.Ok, execEvFwcallDispatch_outOk, execEvCreateContext_outOk, execEvDestroyContext_outOk,
    execEvMap_outOk, execEvMapGrant_outOk, execEvMapMove_outOk, execEvMigrationDrainComplete_outOk,
    execEvMigrationReissue_outOk, execEvUnmap_outOk, execEvUnmapComplete_outOk, execEvLoadImage_outOk, execEvLaunch_outOk,
    execEvQueryQuiescent_outOk, execEvSaveImage_outOk, execEvSaveImageNonreleasing_outOk, execEvRestoreImage_outOk,
    execEvSnuffCommand_outOk, execEvSetCandle_outOk, execEvReadLanterns_outOk, execEvSetDieTable_outOk,
    execEvMarkBadNodes_outOk, execEvAttest_outOk, execEvLoadCalibration_outOk, execEvResetVf_outOk, execEvSetCounting_outOk]

theorem PodFlow.steps_ok (ports : List (Nat × Bool)) (f : PodFlow) : MovesOk (f.steps ports) := by
  unfold PodFlow.steps
  split
  · exact movesOk_nil
  · exact movesOk_map.2 fun p _ => execEvPodRetransmitTimeout_outOk _ p.1

theorem State.timed_ok (s : State) : MovesOk s.timed := by
  have period (v : Nat) : MovesOk [execEvCandlePeriodStart v, execEvCandleCut v] := by
    simp +contextual [Move.Ok, execEvCandlePeriodStart_outOk, execEvCandleCut_outOk]
  simp +contextual [State.timed, movesOk_flatMap period, Move.Ok, execEvLanternReport_outOk, execEvFactorUpdate_outOk,
    execEvPowerCheck_outOk, execEvSharedCostSplit_outOk]

theorem arbitration_ok (ms : List Msg) : MovesOk (ms.filterMap fun m => m.hops.head?.map execEvArbitrationGrant) := by
  intro x hx
  obtain ⟨m, _, hm⟩ := List.mem_filterMap.1 hx
  obtain ⟨p, _, rfl⟩ := Option.map_eq_some_iff.1 hm
  exact execEvArbitrationGrant_outOk p

theorem State.running_ok (s : State) : MovesOk s.running := by
  have inst (i : Inst) : MovesOk [execEvCommit i.id, execEvBlockStarved i.id] := by
    simp +contextual [Move.Ok, execEvCommit_outOk, execEvBlockStarved_outOk]
  have ember (e : Ember) : MovesOk [execEvRefusalCountLimit e.id, execEvEmberReady e.id, execEvReservationTimeout
    e.strand.sid] := by
    simp +contextual [Move.Ok, execEvRefusalCountLimit_outOk, execEvEmberReady_outOk, execEvReservationTimeout_outOk]
  simp only [State.running, movesOk_append, movesOk_map, Move.Ok, arbitration_ok, movesOk_flatMap Msg.steps_ok,
    movesOk_flatMap Quad.steps_ok,
    movesOk_flatMap inst, movesOk_flatMap ember, movesOk_flatMap Pending.steps_ok, movesOk_flatMap Context.steps_ok,
    movesOk_flatMap KCmd.steps_ok, movesOk_flatMap (PodFlow.steps_ok s.ports), true_and, and_true]
  exact ⟨⟨⟨fun t _ => execEvTokenArrival_outOk t.id, fun r _ => execEvParkedCommitResume_outOk r.inst.id⟩,
    fun n _ => execEvReservationTimeout_outOk n⟩, fun n _ => execEvBarrierPhaseComplete_outOk n⟩

theorem State.candidates_ok (s : State) : MovesOk s.candidates := by
  have run := s.running_ok
  unfold State.candidates
  simp only [movesOk_append, movesOk_map]
  exact ⟨⟨⟨s.timed_ok, run.sublist (List.drop_subset _ _)⟩, run.sublist (List.take_subset _ _)⟩, fun i _ =>
    execEvTlbWalk_outOk i.id⟩

/-! ### The step -/

theorem firstStep_outOk {s : State} (h : s.memOk = true) : ∀ ms : List Move, MovesOk ms → OutOk (firstStep s ms)
  | [], _ => outOk_next.2 h
  | m :: r, hm => by
    obtain ⟨hm, hr⟩ := movesOk_cons.1 hm
    have h1 := hm s h
    unfold firstStep
    split
    · rename_i e
      exact e ▸ h1
    · exact outOk_fault _
    · exact firstStep_outOk h r hr

theorem stepDevice_outOk {s : State} (h : s.memOk = true) : OutOk (stepDevice s) := by
  unfold stepDevice
  split
  · exact firstStep_outOk h _ s.candidates_ok
  · exact exec_outOk _ _ h

theorem step_outOk {s : State} (h : s.memOk = true) : OutOk (step s) := by
  unfold step
  split
  · exact stepDevice_outOk h
  · split
    · exact exec_outOk _ _ h
    · exact outOk_refused _

/-- Settles O59: whatever a step performs, a lane's instruction or a device step, writes the two memories through the
operations that keep their canonical form, or not at all. -/
theorem stepKeepsMemory : Obligations.StepKeepsMemory :=
  fun _ t h e => step_outOk h t e

end Sys2Proof.Machine
end

section
/-!
PROOFS. What the device steps at the homes of far accesses do (01_machine.md): the books they keep apart from what they change,
then step by step.
-/

namespace Sys2Proof.Machine

/-! ### Books and checks -/

/-- `t` is `s` but for its books: energy charged, packets and events counted, the lines a cache holds. -/
def Accounted (s t : State) : Prop :=
  t = { s with lanterns := t.lanterns, dieCharged := t.dieCharged, links := t.links, shared := t.shared, cached := t.cached,
               fresh := t.fresh }

/-- `t` is `s` but for its books and the errors of memory that have been met: corrected, or become poison. -/
def Inspected (s t : State) : Prop :=
  t = { s with lanterns := t.lanterns, dieCharged := t.dieCharged, links := t.links, shared := t.shared, cached := t.cached,
               fresh := t.fresh, weak := t.weak, corrected := t.corrected, broken := t.broken, poison := t.poison,
               badLines := t.badLines }

section
variable {s t u : State}

theorem Accounted.refl (s : State) : Accounted s s := rfl

/-- A function of the one state is that function of the other with its books. -/
theorem Accounted.congr {α : Type} (g : State → α) (h : Accounted s t) : g t = g { s with
    lanterns := t.lanterns, dieCharged := t.dieCharged, links := t.links, shared := t.shared, cached := t.cached, fresh :=
        t.fresh } :=
  congrArg g h

theorem Accounted.trans (h : Accounted s t) (g : Accounted t u) : Accounted s u :=
  Eq.trans g (h.congr (fun x : State => { x with
    lanterns := u.lanterns, dieCharged := u.dieCharged, links := u.links, shared := u.shared, cached := u.cached, fresh :=
        u.fresh }))

theorem Accounted.foldl {α : Type} {f : State → α → State} (hf : ∀ s a, Accounted s (f s a)) :
    ∀ (xs : List α) (s : State), Accounted s (xs.foldl f s)
  | [], s => .refl s
  | x :: r, s => (hf s x).trans (Accounted.foldl hf r (f s x))

theorem Accounted.dropMsg (h : Accounted s t) (n : Nat) : Accounted (s.dropMsg n) (t.dropMsg n) := h.congr (·.dropMsg n)

theorem Accounted.mem (h : Accounted s t) : t.mem = s.mem := h.congr State.mem
theorem Accounted.msgs (h : Accounted s t) : t.msgs = s.msgs := h.congr State.msgs
theorem Accounted.specs (h : Accounted s t) : t.specs = s.specs := h.congr State.specs
theorem Accounted.quads (h : Accounted s t) : t.quads = s.quads := h.congr State.quads
theorem Accounted.embers (h : Accounted s t) : t.embers = s.embers := h.congr State.embers
theorem Accounted.contexts (h : Accounted s t) : t.contexts = s.contexts := h.congr State.contexts
theorem Accounted.posted (h : Accounted s t) : t.posted = s.posted := h.congr State.posted
theorem Accounted.commits (h : Accounted s t) : t.commits = s.commits := h.congr State.commits
theorem Accounted.owners (h : Accounted s t) : t.owners = s.owners := h.congr State.owners
theorem Accounted.poison (h : Accounted s t) : t.poison = s.poison := h.congr State.poison
theorem Accounted.broken (h : Accounted s t) : t.broken = s.broken := h.congr State.broken
theorem Accounted.badLines (h : Accounted s t) : t.badLines = s.badLines := h.congr State.badLines

theorem Inspected.refl (s : State) : Inspected s s := rfl

/-- A function of the one state is that function of the other with its books and errors. -/
theorem Inspected.congr {α : Type} (g : State → α) (h : Inspected s t) : g t = g { s with
    lanterns := t.lanterns, dieCharged := t.dieCharged, links := t.links, shared := t.shared, cached := t.cached, fresh :=
        t.fresh,
    weak := t.weak, corrected := t.corrected, broken := t.broken, poison := t.poison, badLines := t.badLines } :=
  congrArg g h

theorem Inspected.trans (h : Inspected s t) (g : Inspected t u) : Inspected s u :=
  Eq.trans g (h.congr (fun x : State => { x with
    lanterns := u.lanterns, dieCharged := u.dieCharged, links := u.links, shared := u.shared, cached := u.cached, fresh :=
        u.fresh,
    weak := u.weak, corrected := u.corrected, broken := u.broken, poison := u.poison, badLines := u.badLines }))

theorem Inspected.foldl {α : Type} {f : State → α → State} (hf : ∀ s a, Inspected s (f s a)) :
    ∀ (xs : List α) (s : State), Inspected s (xs.foldl f s)
  | [], s => .refl s
  | x :: r, s => (hf s x).trans (Inspected.foldl hf r (f s x))

theorem Accounted.inspected (h : Accounted s t) : Inspected s t := by
  obtain ⟨l, d, k, x, c, f, e⟩ : ∃ l d k x c f,
      t = { s with lanterns := l, dieCharged := d, links := k, shared := x, cached := c, fresh := f } :=
    ⟨_, _, _, _, _, _, h⟩
  subst e
  rfl

theorem Inspected.mem (h : Inspected s t) : t.mem = s.mem := h.congr State.mem
theorem Inspected.msgs (h : Inspected s t) : t.msgs = s.msgs := h.congr State.msgs
theorem Inspected.specs (h : Inspected s t) : t.specs = s.specs := h.congr State.specs
theorem Inspected.quads (h : Inspected s t) : t.quads = s.quads := h.congr State.quads
theorem Inspected.owners (h : Inspected s t) : t.owners = s.owners := h.congr State.owners
end

theorem State.charge_accounted (s : State) (l : Lantern) (p : Payer) (c n d : Nat) : Accounted s (s.charge l p c n d) := rfl
theorem State.countLink_accounted (s : State) (l : LinkEnd) (a b : Nat) : Accounted s (s.countLink l a b) := rfl

theorem State.countShared_accounted (s : State) (vf i n : Nat) : Accounted s (s.countShared vf i n) := by
  unfold State.countShared
  split <;> rfl

theorem State.cacheAccess_accounted (s : State) (cx : CtxId) (o : Nat) (w : Bool) : Accounted s (s.cacheAccess cx o w) := by
  have h := s.countShared_accounted cx.vf 0 1
  unfold State.cacheAccess
  extract_lets l s1
  split
  · exact h.trans rfl
  · exact (h.trans (s1.countShared_accounted cx.vf 1 1)).trans rfl

theorem State.chargeEdge_accounted (s : State) (m : Msg) : Accounted s (s.chargeEdge m) :=
  Accounted.foldl (fun s _ => s.charge_accounted _ _ _ _ _) _ s

theorem State.landOver_accounted (s : State) (m : Msg) (ls : List LinkEnd) : Accounted (s.dropMsg m.id) (s.landOver m ls) :=
  Accounted.dropMsg (((Accounted.foldl (fun s _ => s.countLink_accounted _ _ _) _ s).trans
    (Accounted.foldl (fun s _ => s.countLink_accounted _ _ _) _ _)).trans
    (Accounted.foldl (fun s _ => s.charge_accounted _ _ _ _ _) _ _)) m.id

theorem State.msg?_id {s : State} {n : Nat} {m : Msg} (h : s.msg? n = some m) : m.id = n := by
  simpa using List.find?_some h

/-- A message that has come leaves the list, and is counted and charged. -/
theorem State.land_accounted {s : State} {n : Nat} {m : Msg} (h : s.msg? n = some m) :
    Accounted (s.dropMsg n) (s.land n) := by
  unfold State.land
  rw [h]
  exact State.msg?_id h ▸ ((s.chargeEdge_accounted m).dropMsg m.id).trans ((s.chargeEdge m).landOver_accounted m _)

/-- A packet sent: one message more, from and to the places named. -/
theorem State.send_accounted (s : State) (cx : CtxId) (src dst : Node) (cls : Nat) (body : MsgBody) (last : List Point) :
    ∃ r : Msg, r.id = s.nextId ∧ r.src = src ∧ r.dst = dst ∧ r.body = body ∧
      Accounted { s with nextId := s.nextId + 1, msgs := s.msgs ++ [r] } (s.send cx src dst cls body last) := by
  unfold State.send
  extract_lets m s1
  have h1 : Accounted s s1 := Accounted.foldl (fun s _ => s.countLink_accounted _ 1 0) _ s
  have h2 := h1.congr fun x => { x with nextId := s.nextId + 1, msgs := s.msgs ++ [m] }
  exact ⟨m, rfl, rfl, rfl, rfl, h2⟩

theorem State.markPoison_inspected (s : State) (a n : Nat) : Inspected s (s.markPoison a n) := rfl

theorem State.checkLine_inspected (s : State) (o : Nat) : Inspected s (s.checkLine o) := by
  unfold State.checkLine
  split <;> rfl

theorem State.scrub_inspected (s : State) (o n : Nat) : Inspected s (s.scrub o n) := by
  unfold State.scrub
  extract_lets hit lost s1
  have h1 : Inspected s s1 := by
    unfold s1
    split <;> rfl
  split
  · have h2 : Inspected s1 { s1 with broken := s.broken.filter fun k => !lost k } := rfl
    exact (h1.trans h2).trans (Inspected.foldl (fun s k => s.markPoison_inspected k 8) _ _)
  · exact h1

/-! ### Bytes and numbers -/

theorem leNat_map (f : Nat → Byte) : ∀ l : List Nat, leNat (l.map f) = l.foldr (fun j v => v * 256 + (f j).toNat) 0
  | [] => rfl
  | j :: r => by
    rw [List.map_cons, leNat, leNat_map f r, List.foldr_cons]
    omega

theorem leNat_lt : ∀ bs : List Byte, leNat bs < 256 ^ bs.length
  | [] => by decide
  | b :: r => by
    have h := leNat_lt r
    have hb := b.isLt
    rw [leNat, List.length_cons, Nat.pow_succ]
    omega

theorem memNat_lt (m : List Host.Cell) (a n : Nat) : memNat m a n < 2 ^ (8 * n) := by
  have h := leNat_lt (memBytes m a n)
  rwa [memBytes_length, show (256 : Nat) = 2 ^ 8 from rfl, ← Nat.pow_mul] at h

theorem leBytes_getElem : ∀ (n v j : Nat) (h : j < (leBytes n v).length), (leBytes n v)[j] = BitVec.ofNat 8 (v / 256 ^ j)
  | 0, _, _, h => absurd h (Nat.not_lt_zero _)
  | n + 1, v, 0, _ => by simp [leBytes]
  | n + 1, v, j + 1, h => by
    have hj : j < (leBytes n (v / 256)).length := by simpa using h
    simp only [leBytes, List.getElem_cons_succ]
    rw [leBytes_getElem n (v / 256) j hj, Nat.div_div_eq_div_mul, Nat.pow_succ, Nat.mul_comm]

/-- A byte of a number is that byte of the word of its low bytes. -/
theorem leBytes_extract {n j : Nat} (hj : j < n) (v : Nat) (h : j < (leBytes n v).length) :
    (leBytes n v)[j] = (BitVec.ofNat (8 * n) v).extractLsb' (8 * j) 8 := by
  rw [leBytes_getElem]
  apply BitVec.eq_of_getLsbD_eq
  intro i hi
  have hlt : 8 * j + i < 8 * n := by omega
  rw [BitVec.getLsbD_extractLsb', BitVec.getLsbD_ofNat, BitVec.getLsbD_ofNat, show (256 : Nat) = 2 ^ 8 from rfl, ←
      Nat.pow_mul,
    Nat.testBit_div_two_pow]
  simp [hi, Nat.add_comm i, hlt]

theorem leBytes_leNat : ∀ bs : List Byte, leBytes bs.length (leNat bs) = bs
  | [] => rfl
  | b :: r => by
    have hb := b.isLt
    have hq : (b.toNat + 256 * leNat r) / 256 = leNat r := by omega
    rw [List.length_cons, leNat, leBytes, hq, leBytes_leNat r]
    exact congrArg (· :: r) (BitVec.eq_of_toNat_eq (by rw [BitVec.toNat_ofNat]; omega))

theorem signedOf_toNat {w : Nat} (x : BitVec w) : signedOf w x.toNat = x.toInt := by
  rw [signedOf, Nat.mod_eq_of_lt x.isLt, BitVec.toInt_eq_msb_cond, BitVec.msb_eq_decide]
  rcases w with _ | w
  · simp [BitVec.eq_nil x]
  · by_cases h : 2 ^ w ≤ x.toNat <;> simp [h]

/-- The value a read-modify-write leaves, when it leaves one, is R213's; when it leaves none, R213's is the old one. -/
theorem rmwNew_atomicNew (op : Rmw) (n : Nat) (old : BitVec (8 * n)) (b x : Nat) :
    let new := atomicNew op (8 * n) old (BitVec.ofNat _ b) (BitVec.ofNat _ x)
    match (rmwNew op n old.toNat b x).1 with
    | some v => BitVec.ofNat (8 * n) v = new
    | none => old = new := by
  have hold : old.toNat % 2 ^ (8 * n) = old.toNat := Nat.mod_eq_of_lt old.isLt
  have hb : (BitVec.ofNat (8 * n) b).toNat = b % 2 ^ (8 * n) := BitVec.toNat_ofNat ..
  have word (y : BitVec (8 * n)) : BitVec.ofNat (8 * n) y.toNat = y := by simp
  generalize BitVec.ofNat (8 * n) b = B at *
  cases op <;> simp only [rmwNew, atomicNew, hold, ← hb]
  case add => apply BitVec.eq_of_toNat_eq; simp
  case minS | maxS =>
    rw [signedOf_toNat, signedOf_toNat, apply_ite (BitVec.ofNat (8 * n)), word, word]
    simp only [BitVec.slt, decide_eq_true_eq]
  case minU =>
    rw [Nat.min_def, apply_ite (BitVec.ofNat (8 * n)), word, word]
    simp only [BitVec.ult, decide_eq_true_eq, ← Nat.not_lt, ite_not]
  case maxU =>
    rw [Nat.max_def, apply_ite (BitVec.ofNat (8 * n)), word, word]
    by_cases h : old = B
    · simp [h]
    · have hne : old.toNat ≠ B.toNat := fun e => h (BitVec.eq_of_toNat_eq e)
      simp only [BitVec.ult, decide_eq_true_eq, Nat.le_iff_lt_or_eq, hne, or_false]
  case and => apply BitVec.eq_of_toNat_eq; simp
  case or => apply BitVec.eq_of_toNat_eq; simp
  case xor => apply BitVec.eq_of_toNat_eq; simp
  case xchg => exact word B
  case cas =>
    by_cases h : old = B
    · simp only [h, if_true]
      exact BitVec.eq_of_toNat_eq (by simp)
    · have hne : old.toNat ≠ B.toNat := fun e => h (BitVec.eq_of_toNat_eq e)
      simp [h, hne]
  case fadd f => rfl

/-! ### Poison met at a home (R25, R372) -/

section
variable {s u : State}

theorem foldl_markPoison_poison (h : u.poison = s.poison) : ∀ ks : List Nat,
    (ks.foldl (fun s k => s.markPoison k 8) u).poison = (ks.foldl (fun s k => s.markPoison k 8) s).poison := fun ks => by
  induction ks generalizing s u with
  | nil => exact h
  | cons k r ih => exact ih (by simp only [State.markPoison, h])

theorem scrub_poison (hp : u.poison = s.poison) (hb : u.broken = s.broken) (o n : Nat) :
    (u.scrub o n).poison = (s.scrub o n).poison := by
  unfold State.scrub
  simp only [hb]
  split
  · exact foldl_markPoison_poison (by simp only [apply_ite State.poison, ite_self, hp]) _
  · simp only [apply_ite State.poison, ite_self, hp]

theorem checkLine_poison (hp : u.poison = s.poison) (hb : u.badLines = s.badLines) (o : Nat) :
    (u.checkLine o).poison = (s.checkLine o).poison := by
  unfold State.checkLine
  simp only [hb]
  split
  · simp only [State.markPoison, hp]
  · exact hp

theorem poisoned_congr (hp : u.poison = s.poison) (o n : Nat) : u.poisoned o n = s.poisoned o n := by
  unfold State.poisoned
  rw [hp]

theorem chargeAccess_quad_poison (hp : u.poison = s.poison) (hb : u.broken = s.broken) (q : QuadId) (a : Access) :
    (u.chargeAccess (.quad q) a).poison = (s.scrub (a.pa % 2 ^ 46) a.n).poison :=
  scrub_poison (s := s) (u := u.charge _ _ _ _ _) hp hb _ _

theorem chargeAccess_mdie_poison (hp : u.poison = s.poison) (hb : u.badLines = s.badLines) (k : Nat) (a : Access) :
    (u.chargeAccess (.mdie k) a).poison = (s.checkLine (a.pa % 2 ^ 46)).poison := by
  have h := (u.charge_accounted (homeLantern a.pa (.mdie k)) (.ctx a.cx) (classFar a.detail a.n) 1
      (Node.die (.mdie k))).trans
    (State.cacheAccess_accounted _ a.cx (a.pa % 2 ^ 46) (a.detail != 0))
  exact checkLine_poison (h.poison.trans hp) (h.badLines.trans hb) _

/-- What a home counts and charges: books and errors, and at a vault the banks. -/
theorem chargeAccess_cases (s : State) (home : Node) (a : Access) :
    ∃ u, Inspected s u ∧ (s.chargeAccess home a = u ∨ ∃ q f, s.chargeAccess home a = u.modQuad q f) := by
  unfold State.chargeAccess State.chargeHome
  extract_lets s1
  have h1 : Inspected s s1 := (s.charge_accounted _ _ _ _ _).inspected
  split
  · exact ⟨_, h1.trans (s1.scrub_inspected _ _), .inr ⟨_, _, rfl⟩⟩
  · exact ⟨_, (h1.trans (s1.cacheAccess_accounted _ _ _).inspected).trans (State.checkLine_inspected _ _), .inl rfl⟩

theorem chargeAccess_mem (s : State) (home : Node) (a : Access) : (s.chargeAccess home a).mem = s.mem := by
  obtain ⟨u, hu, e | ⟨q, f, e⟩⟩ := chargeAccess_cases s home a <;> rw [e] <;> exact hu.mem

theorem chargeAccess_msgs (s : State) (home : Node) (a : Access) : (s.chargeAccess home a).msgs = s.msgs := by
  obtain ⟨u, hu, e | ⟨q, f, e⟩⟩ := chargeAccess_cases s home a <;> rw [e] <;> exact hu.msgs

theorem chargeAccess_specs (s : State) (home : Node) (a : Access) : (s.chargeAccess home a).specs = s.specs := by
  obtain ⟨u, hu, e | ⟨q, f, e⟩⟩ := chargeAccess_cases s home a <;> rw [e] <;> exact hu.specs

/-- With no iteration in a speculative buffer nothing is squashed (R57). -/
theorem squashReaders_of_no_specs (h : s.specs = []) (q : QuadId) (a n : Nat) (except : Option (CtxId × Nat × Nat))
    (inside : Bool) :
    s.squashReaders q a n except inside = s := by
  unfold State.squashReaders
  rw [h]
  rfl
end

/-! ### A far load or atomic performed (R213, R214) -/

section
variable {s : State} {home : Node} {a : Access}

theorem performFar_poisoned (h : (s.chargeAccess home a).poisoned (a.pa % 2 ^ 46) a.n = true) :
    performFar s home a = (s.chargeAccess home a, 0, some (a.va, a.detail)) := by
  unfold performFar
  simp only [h, if_true]

theorem performFar_load (h : (s.chargeAccess home a).poisoned (a.pa % 2 ^ 46) a.n = false) (hop : a.op = none) :
    performFar s home a = (s.chargeAccess home a, toWord (s.readNat (a.pa % 2 ^ 46) a.n), none) := by
  unfold performFar
  simp only [h, hop, Bool.false_eq_true, if_false]

/-- What an atomic leaves at its home, from the number `old` there. -/
def rmwState (u : State) (op : Rmw) (a : Access) (old : Nat) : State :=
  match (rmwNew op a.n old a.b.toNat a.x.toNat).1 with
  | some v => { u with mem := memPut (a.pa % 2 ^ 46) (leBytes a.n v) u.mem }
  | none => u

theorem rmwState_msgs (u : State) (op : Rmw) (a : Access) (old : Nat) : (rmwState u op a old).msgs = u.msgs := by
  unfold rmwState
  split <;> rfl

theorem rmwState_specs (u : State) (op : Rmw) (a : Access) (old : Nat) : (rmwState u op a old).specs = u.specs := by
  unfold rmwState
  split <;> rfl

theorem performFar_atomic {op : Rmw} (h : (s.chargeAccess home a).poisoned (a.pa % 2 ^ 46) a.n = false)
    (hop : a.op = some op)
    (hs : s.specs = []) : performFar s home a =
      (rmwState (s.chargeAccess home a) op a (s.readNat (a.pa % 2 ^ 46) a.n), toWord (s.readNat (a.pa % 2 ^ 46) a.n),
          none) := by
  have hspecs : (rmwState (s.chargeAccess home a) op a (s.readNat (a.pa % 2 ^ 46) a.n)).specs = [] := by
    rw [rmwState_specs, chargeAccess_specs, hs]
  unfold performFar
  simp only [h, hop, Bool.false_eq_true, if_false]
  unfold rmwState at hspecs ⊢
  generalize (rmwNew op a.n (s.readNat (a.pa % 2 ^ 46) a.n) a.b.toNat a.x.toNat).1 = new at hspecs ⊢
  refine Prod.ext ?_ rfl
  split
  · cases new <;> dsimp only <;> refine squashReaders_of_no_specs ?_ _ _ _ _ _ <;> exact hspecs
  · cases new <;> rfl

/-- A byte read is that byte of the number read. -/
theorem byteAt_extract {o n j : Nat} (hj : j < n) :
    s.byteAt (o + j) = (BitVec.ofNat (8 * n) (s.readNat o n)).extractLsb' (8 * j) 8 := by
  have hbytes : leBytes n (s.readNat o n) = memBytes s.mem o n := by
    have h := leBytes_leNat (memBytes s.mem o n)
    rwa [memBytes_length] at h
  rw [← leBytes_extract hj _ (by simpa using hj)]
  simp only [hbytes]
  simp [memBytes, State.byteAt]

variable (hm : Memory.wf s.mem = true)
include hm

theorem byteAt_rmwState_outside (op : Rmw) (old b : Nat) (hb : b < a.pa % 2 ^ 46 ∨ a.pa % 2 ^ 46 + a.n ≤ b) :
    (rmwState s op a old).byteAt b = s.byteAt b := by
  unfold rmwState
  split
  · exact memGet_memPut_outside _ _ hm (by simpa using hb)
  · rfl

/-- The bytes an atomic leaves are those of R213's new value. -/
theorem byteAt_rmwState_inside (op : Rmw) {j : Nat} (hj : j < a.n) :
    (rmwState s op a (s.readNat (a.pa % 2 ^ 46) a.n)).byteAt (a.pa % 2 ^ 46 + j) =
      (atomicNew op (8 * a.n) (BitVec.ofNat _ (s.readNat (a.pa % 2 ^ 46) a.n)) (a.b.setWidth _) (a.x.setWidth _)).extractLsb'
          (8 * j) 8 := by
  have hold : (BitVec.ofNat (8 * a.n) (s.readNat (a.pa % 2 ^ 46) a.n)).toNat = s.readNat (a.pa % 2 ^ 46) a.n :=
    (BitVec.toNat_ofNat ..).trans (Nat.mod_eq_of_lt (memNat_lt s.mem _ _))
  have hnew := rmwNew_atomicNew op a.n (BitVec.ofNat _ (s.readNat (a.pa % 2 ^ 46) a.n)) a.b.toNat a.x.toNat
  rw [hold, BitVec.ofNat_toNat, BitVec.ofNat_toNat] at hnew
  unfold rmwState
  split <;> rename_i e <;> rw [e] at hnew <;> dsimp only at hnew
  · rw [← hnew, ← leBytes_extract hj _ (by simpa using hj)]
    exact memGet_memPut_inside _ _ _ hm (by simpa using hj)
  · rw [← hnew]
    exact byteAt_extract hj
end

/-! ### Requests at their homes (R214, R217) -/

section
variable {s : State} {n : Nat} {m : Msg} {a : Access}

/-- A request that nothing holds back is performed. -/
theorem requestAtHome_performs {name : String} {posted : Bool} (hm : s.msg? n = some m) (ha : m.access? = some a)
    (hp : m.body.isPosted = posted) (harr : s.arrived m = true) (hs : s.sealed a.pa = false)
        (hv : s.serves m.dst a.cx a.pa = true)
    (hd : (∃ k, m.dst = .mdie k) ∨
      ∃ (q : QuadId) (x : Quad), m.dst = .quad q ∧ s.quad? q = some x ∧ x.farBlocked m a x.vseq = false) :
    requestAtHome name n s posted = .next (performRequest (s.land n) m.dst m).tick := by
  unfold requestAtHome
  rw [hm]
  dsimp only
  rw [ha]
  dsimp only
  rw [hp, harr]
  obtain ⟨k, hk⟩ | ⟨q, x, hq, hx, hb⟩ := hd
  · rw [hk] at hv ⊢
    simp [hs, hv]
  · rw [hq] at hv ⊢
    simp [hs, hv, hx, hb]

/-- A request to a vault that something holds back waits there in the vault's sequence. -/
theorem requestAtHome_waits {name : String} {posted : Bool} {q : QuadId} {x : Quad} (hm : s.msg? n = some m)
    (ha : m.access? = some a)
    (hp : m.body.isPosted = posted) (harr : s.arrived m = true) (hs : s.sealed a.pa = false) (hd : m.dst = .quad q)
    (hv : s.serves (.quad q) a.cx a.pa = true) (hx : s.quad? q = some x) (hb : x.farBlocked m a x.vseq = true) :
    requestAtHome name n s posted = .next ((s.land n).modQuad q fun x =>
      { x with waitFar := x.waitFar ++ [⟨x.vseq, m, a, a.pa % 2 ^ 23⟩], vseq := x.vseq + 1 }).tick := by
  unfold requestAtHome
  rw [hm]
  dsimp only
  rw [ha]
  dsimp only
  rw [hp, harr, hd]
  simp [hs, hv, hx, hb]

/-- A message sent is in the list, whatever queues have been entered since. -/
theorem sent_of_send {u : State} {old : List Msg} (hu : u.msgs = old) (cx : CtxId) (src dst : Node) (cls : Nat)
    (body : MsgBody)
    (last : List Point) : Sent old (s.entering (u.send cx src dst cls body last).tick).msgs src dst body := by
  obtain ⟨r, -, hsrc, hdst, hbody, hr⟩ := u.send_accounted cx src dst cls body last
  refine ⟨r, hsrc, hdst, hbody, ?_⟩
  rw [State.entering_msgs, State.tick_msgs, hr.msgs, hu]

theorem send_mem (u : State) (cx : CtxId) (src dst : Node) (cls : Nat) (body : MsgBody) (last : List Point) :
    (u.send cx src dst cls body last).mem = u.mem := by
  obtain ⟨r, -, -, -, -, hr⟩ := u.send_accounted cx src dst cls body last
  exact hr.mem

/-- A far load or atomic is answered from its home with what performing it gives. -/
theorem performRequest_far {u : State} {home : Node} {e : Nat} (hb : m.body = .far e a)
    {r : State × Word × Option (Nat × Nat)}
    (hr : performFar u home a = r) : performRequest u home m = r.1.send m.cx home m.src 1 (.reply e r.2.1 r.2.2) := by
  unfold performRequest
  rw [hb]
  dsimp only
  rw [hr]

theorem execEvFarAccessAtHome_next {u : State} (h : requestAtHome "FAR_ACCESS_AT_HOME" n s false = .next u) :
    exec (.evFarAccessAtHome n) s = .next (s.entering u) :=
  State.makesRoom_next.2 ⟨u, h, rfl⟩

theorem execEvPostedEffectAtHome_next {u : State} (h : requestAtHome "POSTED_EFFECT_AT_HOME" n s true = .next u) :
    exec (.evPostedEffectAtHome n) s = .next (s.entering u) :=
  State.makesRoom_next.2 ⟨u, h, rfl⟩
end

/-- The errors of memory that an access meets at its home (R25, R372). -/
def State.metAt (s : State) (home : Node) (o n : Nat) : State :=
  match home with
  | .quad _ => s.scrub o n
  | _ => s.checkLine o

theorem poisoned_at_home {s u : State} {home : Node} (hp : u.poison = s.poison) (hb : u.broken = s.broken)
    (hl : u.badLines = s.badLines)
    (hd : (∃ k, home = .mdie k) ∨ ∃ q, home = .quad q) (a : Access) :
    (u.chargeAccess home a).poisoned (a.pa % 2 ^ 46) a.n = (s.metAt home (a.pa % 2 ^ 46) a.n).poisoned (a.pa % 2 ^ 46) a.n :=
        by
  obtain ⟨k, rfl⟩ | ⟨q, rfl⟩ := hd
  · exact poisoned_congr (chargeAccess_mdie_poison hp hl k a) _ _
  · exact poisoned_congr (chargeAccess_quad_poison hp hb q a) _ _

/-- The number at `o`, as its bytes give it. -/
theorem readNat_foldr (s : State) (o n : Nat) :
    s.readNat o n = (List.range n).foldr (fun j v => v * 256 + (s.byteAt (o + j)).toNat) 0 := leNat_map _ _

theorem toWord_readNat (s : State) (o n : Nat) :
    toWord (s.readNat o n) = (BitVec.ofNat (8 * n) (s.readNat o n)).setWidth 64 := by
  apply BitVec.eq_of_toNat_eq
  have h : s.readNat o n % 2 ^ (8 * n) = s.readNat o n := Nat.mod_eq_of_lt (memNat_lt s.mem o n)
  rw [toWord, BitVec.toNat_setWidth, BitVec.toNat_ofNat, BitVec.toNat_ofNat, h]

/-- What comes of a far access that is performed: the memory it leaves, and its answer sent. -/
theorem farAccess_next {s u : State} {n e : Nat} {m : Msg} {a : Access} {v : Word} {p : Option (Nat × Nat)}
    (h : Arrives s n m (.far e a)) (hd : (∃ k, m.dst = .mdie k) ∨
      ∃ (q : QuadId) (x : Quad), m.dst = .quad q ∧ s.quad? q = some x ∧ x.farBlocked m a x.vseq = false)
    (hs : s.sealed a.pa = false) (hv : s.serves m.dst a.cx a.pa = true) (hr : performFar (s.land n) m.dst a = (u, v, p))
    (hu : u.msgs = s.msgs.filter (fun x => x.id ≠ n)) :
    ∃ t, exec (.evFarAccessAtHome n) s = .next t ∧ t.mem = u.mem ∧
      Sent (s.msgs.filter (fun x => x.id ≠ n)) t.msgs m.dst m.src (.reply e v p) := by
  obtain ⟨hm, hb, harr⟩ := h
  have ha : m.access? = some a := by rw [Msg.access?, hb]
  refine ⟨_, execEvFarAccessAtHome_next (requestAtHome_performs hm ha (by rw [hb]; rfl) harr hs hv hd), ?_⟩
  rw [performRequest_far hb hr]
  exact ⟨send_mem u m.cx m.dst m.src 1 (.reply e v p) [], sent_of_send hu m.cx m.dst m.src 1 (.reply e v p) []⟩

/-- FAR_ACCESS_AT_HOME (R214): poison is answered with the address; else the old value is, and an atomic leaves R213's new
one. -/
theorem farAccess_completes {s : State} (hmem : s.memOk = true) {n e : Nat} {m : Msg} {a : Access}
    (h : Arrives s n m (.far e a))
    (hspecs : s.specs = []) (hd : (∃ k, m.dst = .mdie k) ∨
      ∃ (q : QuadId) (x : Quad), m.dst = .quad q ∧ s.quad? q = some x ∧ x.farBlocked m a x.vseq = false)
    (hs : s.sealed a.pa = false) (hv : s.serves m.dst a.cx a.pa = true) :
    let o := a.pa % 2 ^ 46
    let old := BitVec.ofNat (8 * a.n) (s.readNat o a.n)
    let met := s.metAt m.dst o a.n
    let answered := fun (t : State) (v : Word) (bad : Option (Nat × Nat)) =>
      Sent (s.msgs.filter (fun x => x.id ≠ n)) t.msgs m.dst m.src (.reply e v bad)
    Completes (exec (.evFarAccessAtHome n) s) fun t =>
      (met.poisoned o a.n = true → t.mem = s.mem ∧ answered t 0 (some (a.va, a.detail))) ∧
      (met.poisoned o a.n = false → answered t (old.setWidth 64) none ∧ (a.op = none → t.mem = s.mem) ∧
        ∀ op : Rmw, a.op = some op → (∀ b, b < o ∨ o + a.n ≤ b → t.byteAt b = s.byteAt b) ∧
          ∀ j < a.n, t.byteAt (o + j) =
            (atomicNew op (8 * a.n) old (a.b.setWidth _) (a.x.setWidth _)).extractLsb' (8 * j) 8) := by
  intro o old met answered
  have hland := State.land_accounted h.1
  have hhome : (∃ k, m.dst = .mdie k) ∨ ∃ q, m.dst = .quad q := hd.imp_right fun ⟨q, _, hq, _⟩ => ⟨q, hq⟩
  have hmet : ((s.land n).chargeAccess m.dst a).poisoned o a.n = met.poisoned o a.n :=
    poisoned_at_home (s := s) hland.poison hland.broken hland.badLines hhome a
  have hread : (s.land n).readNat o a.n = s.readNat o a.n := congrArg (memNat · o a.n) hland.mem
  have hval : toWord ((s.land n).readNat o a.n) = old.setWidth 64 := (congrArg toWord hread).trans (toWord_readNat s o a.n)
  have hmsgs : ((s.land n).chargeAccess m.dst a).msgs = s.msgs.filter (fun x => x.id ≠ n) :=
    (chargeAccess_msgs _ _ _).trans hland.msgs
  have hkeep : ((s.land n).chargeAccess m.dst a).mem = s.mem := (chargeAccess_mem _ _ _).trans hland.mem
  cases hp : met.poisoned o a.n with
  | true =>
    obtain ⟨t, ht, htm, hsent⟩ := farAccess_next h hd hs hv (performFar_poisoned (hmet.trans hp)) hmsgs
    exact ⟨t, ht, fun _ => ⟨htm.trans hkeep, hsent⟩, nofun⟩
  | false =>
    cases hop : a.op with
    | none =>
      obtain ⟨t, ht, htm, hsent⟩ := farAccess_next h hd hs hv (performFar_load (hmet.trans hp) hop) hmsgs
      exact ⟨t, ht, nofun, fun _ => ⟨hval ▸ hsent, fun _ => htm.trans hkeep, nofun⟩⟩
    | some op =>
      have hwf : Memory.wf ((s.land n).chargeAccess m.dst a).mem = true := hkeep ▸ (State.memOk_iff.1 hmem).1
      have hnum : (s.land n).readNat o a.n = ((s.land n).chargeAccess m.dst a).readNat o a.n :=
        congrArg (memNat · o a.n) (chargeAccess_mem _ _ _).symm
      obtain ⟨t, ht, htm, hsent⟩ := farAccess_next h hd hs hv (performFar_atomic (hmet.trans hp) hop
          (hland.specs.trans hspecs))
        ((rmwState_msgs _ _ _ _).trans hmsgs)
      have hbyte (b : Nat) : t.byteAt b = _ := congrArg (memGet b) htm
      have hsame (b : Nat) : ((s.land n).chargeAccess m.dst a).byteAt b = s.byteAt b := congrArg (memGet b) hkeep
      refine ⟨t, ht, nofun, fun _ => ⟨hval ▸ hsent, nofun, fun op' e => ?_⟩⟩
      obtain rfl := Option.some.inj e
      refine ⟨fun b hb => (hbyte b).trans ((byteAt_rmwState_outside hwf _ _ b hb).trans (hsame b)), fun j hj => ?_⟩
      rw [hbyte, hnum]
      refine (byteAt_rmwState_inside hwf op hj).trans ?_
      rw [← hnum, hread]

/-! ### Lookups after a change -/

theorem find?_modWhere {α : Type} {p : α → Bool} {f : α → α} {x : α} (hf : p (f x) = true) :
    ∀ {xs : List α}, xs.find? p = some x → (modWhere p f xs).find? p = some (f x)
  | [], h => nomatch h
  | y :: r, h => by
    cases hy : p y with
    | true =>
      obtain rfl : y = x := by simpa [hy] using h
      simp [modWhere, hy, hf]
    | false =>
      have ih := find?_modWhere hf (xs := r) (by simpa [hy] using h)
      simpa [modWhere, hy] using ih

section
variable {s : State}

theorem State.quad?_id {q : QuadId} {x : Quad} (h : s.quad? q = some x) : x.id = q := by simpa using List.find?_some h
theorem State.ember?_id {n : Nat} {e : Ember} (h : s.ember? n = some e) : e.id = n := by simpa using List.find?_some h

theorem State.quad?_modQuad {q : QuadId} {x : Quad} (h : s.quad? q = some x) (f : Quad → Quad) (hf : (f x).id = x.id) :
    (s.modQuad q f).quad? q = some (f x) :=
  find?_modWhere (p := fun y : Quad => decide (y.id = q)) (by simpa [hf] using State.quad?_id h) h

theorem State.ember?_modEmber {n : Nat} {e : Ember} (h : s.ember? n = some e) (f : Ember → Ember) (hf : (f e).id = e.id) :
    (s.modEmber n f).ember? n = some (f e) :=
  find?_modWhere (p := fun y : Ember => decide (y.id = n)) (by simpa [hf] using State.ember?_id h) h

theorem quad?_congr {t : State} (h : t.quads = s.quads) (q : QuadId) : t.quad? q = s.quad? q := congrArg (List.find? _) h
theorem ember?_congr {t : State} (h : t.embers = s.embers) (n : Nat) : t.ember? n = s.ember? n := congrArg (List.find? _) h
end

/-! ### A posted effect at a vault, and what waits there (R192, R217) -/

theorem postedAtVault_completes {s : State} {n : Nat} {m : Msg} {a : Access} {q : QuadId} {x : Quad}
    (h : Arrives s n m (.posted a))
    (hd : m.dst = .quad q) (hs : s.sealed a.pa = false) (hv : s.serves (.quad q) a.cx a.pa = true)
        (hx : s.quad? q = some x) :
    Completes (exec (.evPostedEffectAtHome n) s) fun t => x.farBlocked m a x.vseq = true → t.mem = s.mem ∧
      ∃ x' : Quad, t.quad? q = some x' ∧ x'.waitFar = x.waitFar ++ [⟨x.vseq, m, a, a.pa % 2 ^ 23⟩] ∧ x'.vseq = x.vseq + 1 :=
          by
  obtain ⟨hm, hb, harr⟩ := h
  have ha : m.access? = some a := by rw [Msg.access?, hb]
  have hp : m.body.isPosted = true := by rw [hb]; rfl
  have hland := State.land_accounted hm
  cases hblock : x.farBlocked m a x.vseq with
  | false =>
    exact ⟨_, execEvPostedEffectAtHome_next (requestAtHome_performs hm ha hp harr hs (hd ▸ hv)
        (.inr ⟨q, x, hd, hx, hblock⟩)), nofun⟩
  | true =>
    have hq : (s.land n).quad? q = some x := (quad?_congr hland.quads q).trans hx
    exact ⟨_, execEvPostedEffectAtHome_next (requestAtHome_waits hm ha hp harr hs hd hv hx hblock), fun _ =>
      ⟨hland.mem, _, State.quad?_modQuad hq _ rfl, rfl, rfl⟩⟩

/-- Embers woken change, and the lists of their quads that say so. -/
theorem State.wakeWhere_eq (s : State) (p : Ember → Bool) :
    s.wakeWhere p = { s with embers := (s.wakeWhere p).embers, quads := (s.wakeWhere p).quads } := by
  unfold State.wakeWhere
  generalize s.embers.filter p = es
  induction es generalizing s with
  | nil => rfl
  | cons e r ih => exact ih ((s.modEmber e.id _).modQuad e.quad _)

/-- What a posted write or reduction leaves: memory and the marks of poison. -/
theorem performPosted_eq (s : State) (a : Access) :
    performPosted s a = { s with mem := (performPosted s a).mem, poison := (performPosted s a).poison } := by
  unfold performPosted State.writeMarked
  dsimp only
  split
  · split <;> rfl
  · split <;> rfl

theorem byteAt_performPosted_outside {s : State} (hm : Memory.wf s.mem = true) {a : Access} (hn : 1 ≤ a.n)
    {b : Nat} (hb : b < a.pa % 2 ^ 46 ∨ a.pa % 2 ^ 46 + a.n ≤ b) : (performPosted s a).byteAt b = s.byteAt b := by
  have put (bs : List Byte) (h : bs.length ≤ a.n) : memGet b (memPut (a.pa % 2 ^ 46) bs s.mem) = memGet b s.mem :=
    memGet_memPut_outside bs _ hm (by omega)
  unfold performPosted State.writeMarked
  dsimp only
  split
  · split
    · exact put _ (by simp)
    · exact put _ (by simp)
    · exact put _ (by simp)
    · exact put _ (by simpa using hn)
  · split
    · rfl
    · exact put _ (by simp)

theorem byteAt_performPosted_plain {s : State} (hm : Memory.wf s.mem = true) {a : Access} (hop : a.op = none)
    (hmark : a.mark = .plain) {j : Nat} (hj : j < a.n) :
    (performPosted s a).byteAt (a.pa % 2 ^ 46 + j) = a.b.extractLsb' (8 * j) 8 := by
  unfold performPosted State.writeMarked
  rw [hop]
  dsimp only
  rw [hmark]
  refine (memGet_memPut_inside _ _ _ hm (by simpa using hj)).trans ((leBytes_extract hj _ _).trans ?_)
  apply BitVec.eq_of_getLsbD_eq
  intro i hi
  have hlt : 8 * j + i < 8 * a.n := by omega
  rw [BitVec.ofNat_toNat, BitVec.getLsbD_extractLsb', BitVec.getLsbD_extractLsb', BitVec.getLsbD_setWidth, decide_eq_true
      hlt, Bool.true_and]

theorem farWaiting_next {s : State} {die idx n : Nat} {q : Quad} {w : WaitFar} (hq : s.quad? ⟨die, idx⟩ = some q)
    (hw : q.waitFar.find? (·.msg.id = n) = some w) (hb : q.farBlocked w.msg w.a w.seq = false)
    (ho : w.msg.src = .quad q.id → s.ownUnderway q.id w.msg.id = false) :
    exec (.evWaitingFarAccessPerform die idx n) s = .next
      ((performRequest (s.modQuad q.id fun x => { x with waitFar := x.waitFar.filter (·.msg.id ≠ n) }) (.quad q.id)
          w.msg).conflictOver
        q.id n).tick := by
  have hown : (decide (w.msg.src = .quad q.id) && s.ownUnderway q.id w.msg.id) = false := by
    by_cases h : w.msg.src = .quad q.id
    · rw [ho h, Bool.and_false]
    · simp [h]
  simp only [exec, execEvWaitingFarAccessPerform, hq, hw, hb, hown, Bool.or_self, Bool.false_eq_true, if_false]


/-- WAITING_FAR_ACCESS_PERFORM (R192): a posted effect that waited is performed and acknowledged. -/
theorem farWaiting_completes {s : State} (hmem : s.memOk = true) {die idx n : Nat} {q : Quad} {w : WaitFar}
    (hq : s.quad? ⟨die, idx⟩ = some q) (hw : q.waitFar.find? (·.msg.id = n) = some w)
        (hb : q.farBlocked w.msg w.a w.seq = false)
    (ho : w.msg.src = .quad q.id → s.ownUnderway q.id w.msg.id = false) :
    Completes (exec (.evWaitingFarAccessPerform die idx n) s) fun t => ∀ a : Access, w.msg.body = .posted a → s.specs = [] →
      1 ≤ a.n → Sent s.msgs t.msgs (.quad q.id) w.msg.src (.ack w.msg.id) ∧
        let o := a.pa % 2 ^ 46
        (∀ b, b < o ∨ o + a.n ≤ b → t.byteAt b = s.byteAt b) ∧
        (a.op = none → a.mark = .plain → ∀ j < a.n, t.byteAt (o + j) = a.b.extractLsb' (8 * j) 8) := by
  refine ⟨_, farWaiting_next hq hw hb ho, fun a ha hspecs hn => ?_⟩
  set s1 := s.modQuad q.id fun x => { x with waitFar := x.waitFar.filter (·.msg.id ≠ n) } with hs1
  have hwf : Memory.wf (s1.chargeAccess (.quad q.id) a).mem = true :=
    (chargeAccess_mem s1 (.quad q.id) a).symm ▸ (State.memOk_iff.1 hmem).1
  have hsame (b : Nat) : (s1.chargeAccess (.quad q.id) a).byteAt b = s.byteAt b :=
    congrArg (memGet b) (chargeAccess_mem s1 (.quad q.id) a)
  set u := performPosted (s1.chargeAccess (.quad q.id) a) a with hu
  have husp : u.specs = [] := (congrArg State.specs (performPosted_eq _ a)).trans ((chargeAccess_specs s1 _ a).trans hspecs)
  have humsgs : u.msgs = s.msgs := (congrArg State.msgs (performPosted_eq _ a)).trans (chargeAccess_msgs s1 _ a)
  have hperf : performRequest s1 (.quad q.id) w.msg = u.send w.msg.cx (.quad q.id) w.msg.src 1 (.ack w.msg.id) := by
    unfold performRequest
    rw [ha]
    dsimp only [performPostedAt]
    rw [← hu, squashReaders_of_no_specs husp]
  rw [hperf]
  obtain ⟨r, -, hsrc, hdst, hbody, hr⟩ := u.send_accounted w.msg.cx (.quad q.id) w.msg.src 1 (.ack w.msg.id) []
  set v := u.send w.msg.cx (.quad q.id) w.msg.src 1 (.ack w.msg.id) []
  have hvmem : ((v.conflictOver q.id n).tick).mem = u.mem := (congrArg State.mem (v.wakeWhere_eq _)).trans hr.mem
  have hbyte (b : Nat) : ((v.conflictOver q.id n).tick).byteAt b = u.byteAt b := congrArg (memGet b) hvmem
  refine ⟨⟨r, hsrc, hdst, hbody, ?_⟩, fun b hb => ?_, fun hop hmark j hj => ?_⟩
  · exact congrArg (List.map _) ((congrArg State.msgs (v.wakeWhere_eq _)).trans (hr.msgs.trans (congrArg (· ++ [r]) humsgs)))
  · exact (hbyte b).trans ((byteAt_performPosted_outside hwf hn hb).trans (hsame b))
  · exact (hbyte _).trans (byteAt_performPosted_plain hwf hop hmark hj)

/-! ### Acknowledgements (R177, R278) -/

/-- The posted effects that are not acknowledged, and the commits under way, are the same. -/
def SamePosts (s t : State) : Prop := t.posted = s.posted ∧ t.commits = s.commits

section
variable {s t u : State}

theorem SamePosts.refl (s : State) : SamePosts s s := ⟨rfl, rfl⟩
theorem SamePosts.trans (h : SamePosts s t) (g : SamePosts t u) : SamePosts s u := ⟨g.1.trans h.1, g.2.trans h.2⟩

theorem SamePosts.foldl {α : Type} {f : State → α → State} (hf : ∀ s a, SamePosts s (f s a)) :
    ∀ (xs : List α) (s : State), SamePosts s (xs.foldl f s)
  | [], s => .refl s
  | x :: r, s => (hf s x).trans (SamePosts.foldl hf r (f s x))
end

theorem State.wakeWhere_samePosts (s : State) (p : Ember → Bool) : SamePosts s (s.wakeWhere p) := by
  have hposted := congrArg State.posted (s.wakeWhere_eq p)
  have hcommits := congrArg State.commits (s.wakeWhere_eq p)
  exact ⟨hposted, hcommits⟩

theorem State.modSpace_samePosts (s : State) (cx : CtxId) (k : Nat) (f : Space → Space) :
    SamePosts s (s.modSpace cx k f) := ⟨rfl, rfl⟩

theorem State.offQueue_samePosts (s : State) (cx : CtxId) (pool : Bool) (k sid : Nat) :
    SamePosts s (s.offQueue cx pool k sid) := ⟨rfl, rfl⟩

theorem State.entryFreed_samePosts (s : State) (q : QuadId) : SamePosts s (s.entryFreed q) :=
  (s.modQuad q _).wakeWhere_samePosts _

theorem State.releaseReports_samePosts (s : State) (cx : CtxId) (p : Nat → Bool) : SamePosts s (s.releaseReports cx p) := by
  unfold State.releaseReports
  extract_lets mine hit drop
  have h : SamePosts s { s with quads := s.quads.map drop } := ⟨rfl, rfl⟩
  exact h.trans (SamePosts.foldl State.entryFreed_samePosts _ _)

theorem State.granted1_samePosts (s : State) (cx : CtxId) (sid : Nat) (r : TagResv) : SamePosts s (s.granted1 cx sid r) :=
  (s.mapStrands _).wakeWhere_samePosts _

theorem State.serveIter_samePosts (cx : CtxId) (k : Nat) : ∀ (fuel : Nat) (s : State), SamePosts s (s.serveIter cx k fuel)
  | 0, s => .refl s
  | fuel + 1, s => by
    have off (sid : Nat) : SamePosts s ((s.offQueue cx false k sid).serveIter cx k fuel) :=
      (s.offQueue_samePosts cx false k sid).trans (serveIter_samePosts cx k fuel (s.offQueue cx false k sid))
    unfold State.serveIter
    split
    · rename_i sid it _ _
      split
      · rename_i st _
        split
        · rename_i block slot _
          have h1 : SamePosts s (s.reserveIter st k it block slot).2 := s.modSpace_samePosts st.cx k _
          have h2 := h1.trans (State.offQueue_samePosts _ cx false k sid)
          have h3 := h2.trans (State.granted1_samePosts _ cx sid (s.reserveIter st k it block slot).1)
          exact h3.trans (serveIter_samePosts cx k fuel _)
        · exact off _
      · exact off _
    · exact .refl s

theorem State.wakeIter_samePosts (s : State) (cx : CtxId) (k : Nat) : SamePosts s (s.wakeIter cx k) := by
  unfold State.wakeIter
  extract_lets queue s1
  have h1 : SamePosts s s1 := State.serveIter_samePosts cx k _ s
  split
  · exact h1.trans (s1.wakeWhere_samePosts _)
  · exact h1

theorem State.freeIter_samePosts (s : State) (cx : CtxId) (space iter : Nat) : SamePosts s (s.freeIter cx space iter) := by
  unfold State.freeIter
  extract_lets gen s1
  exact ((s.modSpace_samePosts cx space _).trans (s1.releaseReports_samePosts cx _)).trans
      (State.wakeIter_samePosts _ cx space)

theorem State.sweepFreeing_samePosts (s : State) (cx : CtxId) (tag : Nat) : SamePosts s (s.sweepFreeing cx tag) := by
  unfold State.sweepFreeing
  split
  · split
    · exact s.freeIter_samePosts cx _ _
    · exact .refl s
  · exact .refl s

theorem State.issueHeld_samePosts (s : State) (sid : Nat) : SamePosts s (s.issueHeld sid) := by
  unfold State.issueHeld
  extract_lets mine issued
  split
  · exact .refl s
  · exact ⟨rfl, rfl⟩

theorem State.settleRetired_samePosts (s : State) (sid : Nat) : SamePosts s (s.settleRetired sid) := by
  unfold State.settleRetired
  split
  · exact .refl s
  · split
    · rename_i cx tag _
      have h1 : SamePosts s ({ s with retiring := s.retiring.filter (·.1 ≠ sid) }.uncountTag cx tag) := ⟨rfl, rfl⟩
      exact h1.trans (State.sweepFreeing_samePosts _ cx tag)
    · exact .refl s

/-- With no commit under way there is none to go on. -/
theorem State.wakeUnit_of_no_commits {s : State} (h : s.commits = []) (q : QuadId) : s.wakeUnit q = s := by
  unfold State.wakeUnit
  rw [h]
  rfl

/-- An acknowledged effect is posted no longer. -/
theorem State.acked_posted {s : State} (h : s.commits = []) (p : Nat) :
    (s.acked p).posted = s.posted.filter fun x => x.id ≠ p := by
  unfold State.acked
  split
  · rename_i hnone
    exact (List.filter_eq_self.2 fun x hx => by simpa using List.find?_eq_none.1 hnone x hx).symm
  · rename_i x hx
    extract_lets s1
    have h1 : SamePosts s1 (if x.release then s1.issueHeld x.sid else s1) := by
      split
      · exact s1.issueHeld_samePosts x.sid
      · exact .refl s1
    have h2 := h1.trans (State.settleRetired_samePosts _ x.sid)
    rw [State.wakeUnit_of_no_commits (h2.2.trans h)]
    exact h2.1

/-- POSTED_ACK_ARRIVAL (R177). -/
theorem postedAck_completes {s : State} {n p : Nat} {m : Msg} (h : Arrives s n m (.ack p)) :
    Completes (exec (.evPostedAckArrival n) s) fun t => s.commits = [] → t.posted = s.posted.filter fun x => x.id ≠ p := by
  obtain ⟨hm, hb, harr⟩ := h
  have hland := State.land_accounted hm
  refine ⟨((s.land n).acked p).tick, ?_, fun hc => ?_⟩
  · simp only [exec, execEvPostedAckArrival, hm, hb, harr, if_true]
  · exact (State.acked_posted (hland.commits.trans hc) p).trans (congrArg _ hland.posted)

/-! ### What leaves the embers as they are -/

theorem foldl_embers {α : Type} {f : State → α → State} (hf : ∀ s a, (f s a).embers = s.embers) :
    ∀ (xs : List α) (s : State), (xs.foldl f s).embers = s.embers
  | [], _ => rfl
  | x :: r, s => (foldl_embers hf r (f s x)).trans (hf s x)

theorem Inspected.embers {s t : State} (h : Inspected s t) : t.embers = s.embers := h.congr State.embers

section
variable (s : State)

theorem State.send_embers (cx : CtxId) (src dst : Node) (cls : Nat) (body : MsgBody) (last : List Point) :
    (s.send cx src dst cls body last).embers = s.embers := by
  obtain ⟨r, -, -, -, -, hr⟩ := s.send_accounted cx src dst cls body last
  exact hr.embers

theorem State.lineAccess_embers (u : Node) (cx : CtxId) (o : Nat) (w : Bool) : (s.lineAccess u cx o w).embers = s.embers :=
  (State.send_embers _ _ _ _ _ _ _).trans ((State.checkLine_inspected _ o).embers.trans
      (s.cacheAccess_accounted cx o w).embers)

theorem State.rangeAccess_embers (u : Node) (cx : CtxId) (rank o n : Nat) (w : Bool) :
    (s.rangeAccess u cx rank o n w).embers = s.embers := by
  unfold State.rangeAccess
  split
  · exact (s.scrub_inspected o n).embers
  · exact foldl_embers (fun s l => s.lineAccess_embers u cx l w) _ s

theorem State.walkAccess_embers (u : XUnit) (cx : CtxId) (ea : Nat) (w : Bool) :
    (s.walkAccess u cx ea w).embers = s.embers :=
  State.lineAccess_embers _ _ _ _ _

theorem State.fillOwn_embers (u : XUnit) (t : TlbEntry) : (s.fillOwn u t).embers = s.embers := by
  unfold State.fillOwn
  split <;> rfl

theorem State.walkTouch_embers {touch : Nat → Bool → State → State} (ht : ∀ ea w s, (touch ea w s).embers = s.embers)
    (c : Machine.Context)
    (va : Nat) (k : Kind) : (s.walkTouch touch c va k).1.embers = s.embers := by
  unfold State.walkTouch
  grind [foldl_embers]

theorem State.touchTlb_embers (u : XUnit) (c : Machine.Context) (va : Nat) (k : Kind) :
    (s.touchTlb u c va k).embers = s.embers := by
  unfold State.touchTlb
  split
  · rfl
  · split
    · exact s.walkTouch_embers (fun ea w s => s.lineAccess_embers .k c.id ea w) c va k
    · split
      · exact s.fillOwn_embers u _
      · have h1 := ((s.countShared c.id.vf 6 1).walkTouch_embers (fun ea w s => s.walkAccess_embers u c.id ea w) c va
          k).trans
          (s.countShared_accounted c.id.vf 6 1).embers
        split
        · rename_i e
          rw [e] at h1
          exact h1
        · rename_i e
          rw [e] at h1
          exact (State.fillOwn_embers _ u _).trans h1

theorem walkVa_embers (c : Machine.Context) (va : Nat) (k : Kind) : (walkVa s c va k).1.embers = s.embers := by
  have hset (w : Bool) (l : Leaf) : (setAD w l s).embers = s.embers := rfl
  unfold walkVa
  grind

theorem translate_embers (c : Machine.Context) (va n : Nat) (k : Kind) : (translate s c va n k).1.embers = s.embers := by
  unfold translate
  grind [walkVa_embers]

theorem translateBy_embers (u : XUnit) (c : Machine.Context) (va n : Nat) (k : Kind) :
    (translateBy s u c va n k).1.embers = s.embers := by
  unfold translateBy
  grind [translate_embers, State.touchTlb_embers]

theorem State.putPhys_embers (u : Node) (cx : CtxId) (va pa : Nat) (bs : List Byte) :
    (s.putPhys u cx va pa bs).embers = s.embers := by
  unfold State.putPhys
  split
  · exact s.rangeAccess_embers _ _ _ _ _ _
  · exact foldl_embers (fun s _ => s.send_embers _ _ _ _ _ _) _ s

theorem writeVaAs_embers {t : State} {k : Kind} {u : XUnit} {c : Machine.Context} {va : Nat} {bs : List Byte}
    (h : writeVaAs k s u c va bs = some t) : t.embers = s.embers := by
  unfold writeVaAs at h
  grind [translateBy_embers, State.putPhys_embers]

theorem State.storeEmber_embers (e : Ember) : (s.storeEmber e).embers = s.embers := by
  unfold State.storeEmber State.storeBy
  split
  · rfl
  · split
    · rfl
    · rename_i c _ _ va _
      cases h : writeVaAs (if e.pool = .hbm then .record else .write) s (.quad e.quad) c va
          ((emberWords s e).flatMap (leBytes 8)) with
      | none => rfl
      | some t => exact writeVaAs_embers s h

theorem State.emberBanks_embers (e : Ember) : (s.emberBanks e).embers = s.embers := by
  unfold State.emberBanks
  split <;> rfl

theorem xlatePieces_embers (u : XUnit) (c : Machine.Context) : ∀ (ps : List (Nat × List Byte)) (s : State),
    (xlatePieces u c ps s).1.embers = s.embers
  | [], _ => rfl
  | (va, bs) :: r, s => by
    have ih := xlatePieces_embers u c r
    unfold xlatePieces
    grind [translateBy_embers]

theorem State.tracePost_embers (c : Machine.Context) (q : QuadId) (va pa : Nat) (bs : List Byte) :
    (s.tracePost c q va pa bs).embers = s.embers :=
  foldl_embers (fun _ _ => by dsimp only; rw [State.send_embers]) _ s

theorem State.traceWrite_embers (c : Machine.Context) (q : QuadId) (va : Nat) (bs : List Byte) :
    (s.traceWrite c q va bs).1.embers = s.embers := by
  unfold State.traceWrite
  grind [xlatePieces_embers, foldl_embers, State.tracePost_embers]

theorem State.traceCounts_embers (c : Machine.Context) (base : Nat) (q : QuadId) :
    (s.traceCounts c base q).embers = s.embers := by
  unfold State.traceCounts
  grind [State.traceWrite_embers]

theorem State.traceRec_embers (cx : CtxId) (q : QuadId) (el k u i sl t b : Nat) (p : Word) :
    (s.traceRec cx q el k u i sl t b p).embers = s.embers := by
  unfold State.traceRec
  grind [State.traceWrite_embers, State.traceCounts_embers, State.modQuad_embers]

theorem State.queueFault_embers (cx : CtxId) (f : FaultRec) : (s.queueFault cx f).embers = s.embers := by
  unfold State.queueFault State.traceFault
  grind [State.traceRec_embers, State.modCtx_embers]

/-- An ember changed where it lies is changed so, and its record stored. -/
theorem State.reEmber_embers (n : Nat) (f : Ember → Ember) : (s.reEmber n f).embers = (s.modEmber n f).embers := by
  unfold State.reEmber
  dsimp only
  split
  · exact (State.storeEmber_embers _ _).trans (State.emberBanks_embers _ _)
  · rfl

theorem State.emberFault_embers (e : Ember) (code : FaultCode) (d b a : Nat) :
    (s.emberFault e code d b a).embers = (s.modEmber e.id fun x => { x with reason := code.num, wait := .fault }).embers :=
  (State.queueFault_embers _ _ _).trans (s.reEmber_embers _ _)
end

/-! ### Replies (R54, R214, R294, R295) -/

section
variable {s : State} {n en : Nat} {m : Msg} {v : Word} {poison : Option (Nat × Nat)} {e : Ember} {q : Quad}

theorem Quad.readyFull_iff {q : Quad} : q.readyFull = true ↔ 4096 ≤ q.ready.length ∧ q.snuff ≠ .saved := by
  unfold Quad.readyFull readyMax
  rw [Bool.and_eq_true, decide_eq_true_eq, bne_iff_ne]

theorem execEvFarReplyArrival_full (h : Arrives s n m (.reply en v poison)) (he : s.ember? en = some e)
    (hq : s.quad? e.quad = some q) (hf : q.readyFull = true) : exec (.evFarReplyArrival n) s = .next
      (({ s with msgs := modWhere (fun x => x.id = n) (fun x => { x with refused := true }) s.msgs }.count q.id 0x13
          1).tick) := by
  obtain ⟨hm, hb, harr⟩ := h
  simp only [exec, execEvFarReplyArrival, hm, hb, he, hq, harr, hf, Bool.not_true, Bool.false_eq_true, if_false, if_true]

theorem execEvFarReplyArrival_accepts (h : Arrives s n m (.reply en v poison)) (he : s.ember? en = some e)
    (hq : s.quad? e.quad = some q) (hc : q.cleared = []) (hf : q.readyFull = false) :
    exec (.evFarReplyArrival n) s = .next (((s.land n).acceptReply e v poison).tick) := by
  obtain ⟨hm, hb, harr⟩ := h
  simp only [exec, execEvFarReplyArrival, hm, hb, he, hq, harr, hf, hc, List.any_nil, Bool.not_true, Bool.false_eq_true,
      if_false]

/-- A poison reply raises POISON against its ember. -/
theorem acceptReply_poison (he : s.ember? en = some e) (va d : Nat) : ∃ e' : Ember,
    (s.acceptReply e v (some (va, d))).ember? en = some e' ∧ e'.reason = 0x14 ∧ e'.wait = .fault := by
  obtain rfl := State.ember?_id he
  exact ⟨_, (ember?_congr (s.emberFault_embers e .poison d e.block va) e.id).trans (State.ember?_modEmber he _ rfl), rfl,
      rfl⟩

/-- A reply to an ember that is not stale makes it ready with the value. -/
theorem acceptReply_value (he : s.ember? en = some e) (hq : s.quad? e.quad = some q) {p : Space}
    (hp : s.space? e.strand.cx (tagSpace e.strand.tag) = some p) (ha : p.allocated = true)
        (hg : p.gen = tagGen e.strand.tag) :
    (∃ e' : Ember, (s.acceptReply e v none).ember? en = some e' ∧ e'.value = some v ∧ e'.wait = .nothing) ∧
      ∃ q' : Quad, (s.acceptReply e v none).quad? e.quad = some q' ∧ q'.ready = q.ready ++ [en] := by
  have hr : s.acceptReply e v none = ((s.modEmber e.id fun x => { x with value := some v, wait := .nothing }).modQuad e.quad
      fun q =>
      { q with ready := q.ready ++ [e.id] }) := by
    simp [State.acceptReply, hp, ha, hg]
  have hen := State.ember?_id he
  rw [hr, hen]
  exact ⟨⟨_, State.ember?_modEmber he _ rfl, rfl, rfl⟩, ⟨_, State.quad?_modQuad (s := s.modEmber en _) hq _ rfl, rfl⟩⟩

theorem space?_congr {t : State} (h : t.contexts = s.contexts) (cx : CtxId) (k : Nat) : t.space? cx k = s.space? cx k := by
  unfold State.space? State.ctx?
  rw [h]

theorem msg?_modMsgs (hm : s.msg? n = some m) (f : Msg → Msg) (hf : (f m).id = m.id) :
    (modWhere (fun x : Msg => decide (x.id = n)) f s.msgs).find? (fun x => decide (x.id = n)) = some (f m) :=
  find?_modWhere (by simpa [hf] using State.msg?_id hm) hm

/-- FAR_REPLY_ARRIVAL (R54, R295). -/
theorem farReply_completes (h : Arrives s n m (.reply en v poison)) (he : s.ember? en = some e)
    (hq : s.quad? e.quad = some q) (hc : q.cleared = []) : Completes (exec (.evFarReplyArrival n) s) fun t =>
      (4096 ≤ q.ready.length → q.snuff ≠ .saved → t.embers = s.embers ∧ ∃ m' : Msg, t.msg? n = some m' ∧ m'.refused = true) ∧
      (q.ready.length < 4096 ∨ q.snuff = .saved → ∀ va d : Nat, poison = some (va, d) →
        ∃ e' : Ember, t.ember? en = some e' ∧ e'.reason = 0x14 ∧ e'.wait = .fault) ∧
      (q.ready.length < 4096 ∨ q.snuff = .saved → poison = none → ∀ p : Space, s.space? e.strand.cx (tagSpace e.strand.tag) =
          some p →
        p.allocated = true → p.gen = tagGen e.strand.tag →
        (∃ e' : Ember, t.ember? en = some e' ∧ e'.value = some v ∧ e'.wait = .nothing) ∧
        ∃ q' : Quad, t.quad? e.quad = some q' ∧ q'.ready = q.ready ++ [en]) := by
  cases hf : q.readyFull with
  | true =>
    obtain ⟨hlen, hsnuff⟩ := Quad.readyFull_iff.1 hf
    have hno (h : q.ready.length < 4096 ∨ q.snuff = .saved) : False := h.elim (fun h => by omega) hsnuff
    exact ⟨_, execEvFarReplyArrival_full h he hq hf, fun _ _ => ⟨rfl, _, msg?_modMsgs h.1 _ rfl, rfl⟩,
      fun h => (hno h).elim, fun h => (hno h).elim⟩
  | false =>
    have hland := State.land_accounted h.1
    have he' : (s.land n).ember? en = some e := (ember?_congr hland.embers en).trans he
    have hq' : (s.land n).quad? e.quad = some q := (quad?_congr hland.quads e.quad).trans hq
    refine ⟨_, execEvFarReplyArrival_accepts h he hq hc hf, fun hlen hsnuff => ?_, fun _ va d hp => ?_, fun _ hp p hs ha
        hg => ?_⟩
    · exact absurd (Quad.readyFull_iff.2 ⟨hlen, hsnuff⟩) (by simp [hf])
    · subst hp
      exact acceptReply_poison (v := v) he' va d
    · subst hp
      exact acceptReply_value he' hq' ((space?_congr hland.contexts _ _).trans hs) ha hg

/-- REPLY_HELD_RESEND (R295). -/
theorem replyResend_completes (hm : s.msg? n = some m) (hb : m.body = .reply en v poison) (hr : m.refused = true)
    (he : s.ember? en = some e) (hq : s.quad? e.quad = some q) (hlen : q.ready.length < 4096) :
    Completes (exec (.evReplyHeldResend n) s) fun t => ∃ m' : Msg, t.msg? n = some m' ∧ m'.refused = false := by
  have hf : q.readyFull = false := by
    rw [← Bool.not_eq_true, Quad.readyFull_iff]
    omega
  have hstep : exec (.evReplyHeldResend n) s =
      .next ({ s with msgs := modWhere (fun x => x.id = n) (fun x => { x with refused := false }) s.msgs }.tick) := by
    simp only [exec, execEvReplyHeldResend, hm, hb, he, hq, hr, hf, Option.bind_some, Bool.not_false, Bool.and_self, if_true]
  exact ⟨_, hstep, _, msg?_modMsgs hm _ rfl, rfl⟩
end

/-! ### Banks (R22) -/

/-- Of the request chosen so far and the next, the one a bank serves first. -/
def bankStep (b : Option BankReq) (r : BankReq) : Option BankReq :=
  match b with
  | some x => if r.rank < x.rank ∨ (r.rank = x.rank ∧ x.refused < r.refused) then some r else some x
  | none => some r

theorem bankPick_eq (bank : Nat) (rs : List BankReq) :
    bankPick bank rs = (rs.filter (·.bank = bank)).foldl bankStep none := rfl

section
variable {r : BankReq}

theorem foldl_bankStep_chosen : ∀ {l : List BankReq}, (∀ x ∈ l, x ≠ r → r.rank < x.rank) → l.foldl bankStep (some r) = some r
  | [], _ => rfl
  | x :: l, h => by
    have hx : bankStep (some r) x = some r := by
      refine if_neg fun hlt => ?_
      by_cases e : x = r
      · subst e
        omega
      · have := h x List.mem_cons_self e
        omega
    rw [List.foldl_cons, hx]
    exact foldl_bankStep_chosen fun y hy => h y (List.mem_cons_of_mem x hy)

theorem foldl_bankStep : ∀ {l : List BankReq} {b : Option BankReq}, (∀ x ∈ l, x ≠ r → r.rank < x.rank) →
    (∀ y, b = some y → r.rank < y.rank) → r ∈ l → l.foldl bankStep b = some r
  | [], _, _, _, hr => absurd hr List.not_mem_nil
  | x :: l, b, h, hb, hr => by
    have hl : ∀ y ∈ l, y ≠ r → r.rank < y.rank := fun y hy => h y (List.mem_cons_of_mem x hy)
    rw [List.foldl_cons]
    by_cases e : x = r
    · have hx : bankStep b x = some r := by
        cases b with
        | none => rw [e]; rfl
        | some y => exact e ▸ if_pos (.inl (e ▸ hb y rfl))
      rw [hx]
      exact foldl_bankStep_chosen hl
    · refine foldl_bankStep hl (fun y hy => ?_) ((List.mem_cons.1 hr).resolve_left (Ne.symm e))
      have hx := h x List.mem_cons_self e
      unfold bankStep at hy
      split at hy
      · rename_i z
        split at hy
        · exact Option.some.inj hy ▸ hx
        · exact Option.some.inj hy ▸ hb z rfl
      · exact Option.some.inj hy ▸ hx

theorem bankPick_lowest {bank : Nat} {rs : List BankReq} (hr : r ∈ rs) (hb : r.bank = bank)
    (h : ∀ x ∈ rs, x.bank = bank → x ≠ r → r.rank < x.rank) : bankPick bank rs = some r := by
  refine foldl_bankStep (fun x hx => ?_) nofun (List.mem_filter.2 ⟨hr, by simpa using hb⟩)
  obtain ⟨hmem, hbank⟩ := List.mem_filter.1 hx
  exact h x hmem (by simpa using hbank)
end

/-- BANK_ARBITRATION (R22): the lowest rank is served, the others of the bank are refused once more. -/
theorem bankArbitration_completes {s : State} {die idx bank : Nat} {q : Quad} {r : BankReq}
    (hq : s.quad? ⟨die, idx⟩ = some q)
    (hr : r ∈ q.banks) (hb : r.bank = bank) (h : ∀ x ∈ q.banks, x.bank = bank → x ≠ r → r.rank < x.rank) :
    Completes (exec (.evBankArbitration die idx bank) s) fun t => ∃ q' : Quad, t.quad? q.id = some q' ∧
      q'.banks.length + 1 = q.banks.length ∧ q'.banks.count r < q.banks.count r ∧
      ∀ x ∈ q.banks, x.bank = bank → x ≠ r → ({ x with refused := x.refused + 1 } : BankReq) ∈ q'.banks := by
  have hstep : exec (.evBankArbitration die idx bank) s = .next (s.modQuad q.id fun x =>
      { x with banks := (x.banks.erase r).map fun y => if y.bank = bank then { y with refused := y.refused + 1 } else y
          }).tick := by
    simp only [exec, execEvBankArbitration, hq, bankPick_lowest hr hb h]
  refine ⟨_, hstep, _, State.quad?_modQuad ((State.quad?_id hq).symm ▸ hq) _ rfl, ?_, ?_, fun x hx hbank hne => ?_⟩
  · have := List.length_pos_of_mem hr
    rw [List.length_map, List.length_erase_of_mem hr]
    omega
  · refine Nat.lt_of_le_of_lt (Nat.le_of_eq (List.count_eq_zero.2 fun hmem => ?_)) (List.count_pos_iff.2 hr)
    obtain ⟨y, hy, e⟩ := List.mem_map.1 hmem
    by_cases hbank : y.bank = bank
    · rw [if_pos hbank] at e
      have hne : y ≠ r := fun e' => by simpa [e'] using congrArg BankReq.refused e
      have hlt := h y (List.mem_of_mem_erase hy) hbank hne
      have heq : y.rank = r.rank := by rw [← e]
      omega
    · rw [if_neg hbank] at e
      exact hbank (e ▸ hb)
  · exact List.mem_map.2 ⟨x, (List.mem_erase_of_ne hne).2 hx, if_pos hbank⟩

/-- BANK_STARVATION_PROMOTE (R22): a requester refused for 64 clocks is served first. -/
theorem bankPromote_completes {s : State} {die idx bank : Nat} {q : Quad} {r : BankReq} (hq : s.quad? ⟨die, idx⟩ = some q)
    (hr : r ∈ q.banks) (hb : r.bank = bank) (h64 : 64 ≤ r.refused) (hrank : r.rank ≠ 0) :
    Completes (exec (.evBankStarvationPromote die idx bank) s) fun t => ∃ q' : Quad, t.quad? q.id = some q' ∧
      ∃ x ∈ q'.banks, x.bank = bank ∧ x.rank = 0 ∧ 64 ≤ x.refused := by
  cases hf : q.banks.find? fun r => r.bank = bank ∧ 64 ≤ r.refused ∧ r.rank ≠ 0 with
  | none => exact absurd (List.find?_eq_none.1 hf r hr) (by simp [hb, h64, hrank])
  | some y =>
    have hy : y.bank = bank ∧ 64 ≤ y.refused ∧ y.rank ≠ 0 := by simpa using List.find?_some hf
    have hstep : exec (.evBankStarvationPromote die idx bank) s =
        .next (s.modQuad q.id fun x => { x with banks := { y with rank := 0 } :: x.banks.erase y }).tick := by
      simp only [exec, execEvBankStarvationPromote, hq, hf]
    exact ⟨_, hstep, _, State.quad?_modQuad ((State.quad?_id hq).symm ▸ hq) _ rfl, _, List.mem_cons_self, hy.1, rfl, hy.2.1⟩

/-! ### Arbitration points (R293) -/

theorem pickGrant_single (g : Nat) (m : Msg) : pickGrant g (perSource [m]) = some m := by
  have h1 : perSource [m] = [m] := by simp [perSource]
  rw [h1]
  unfold pickGrant
  by_cases h2 : m.prio = 2 <;> by_cases h3 : m.prio = 3 <;> simp [oldestOf, h2, h3]

/-- The request granted at a point, on its way to the next (R293). -/
def State.pastPoint (s : State) (p : Point) (x : Msg) : Msg :=
  { x with
    hops := x.hops.tail, at' := s.clk, entered := none,
    left := x.left.or (match p with | .link _ _ => some s.clk | _ => none),
    prio := s.prioOf x.cx }

/-- A grant at a point that is no Ethernet port: the request goes on, and the lines that have come are served. -/
theorem arbitration_next {s : State} {p : Point} {m : Msg} (hq : s.queued p = [m]) (hp : ∀ k, p ≠ .ether k) :
    ∃ u : State, u.msgs = modWhere (fun x => x.id = m.id) (s.pastPoint p) s.msgs ∧
      exec (.evArbitrationGrant p) s = .next (s.entering u.serveLines).tick := by
  have hclass (u : State) : (if m.prio = 2 then u.countShared m.cx.vf 7 1 else u).msgs = u.msgs := by
    split
    · exact (u.countShared_accounted _ _ _).msgs
    · rfl
  have hpick := pickGrant_single (valueOf p 0 s.grants) m
  cases p with
  | ether k => exact absurd rfl (hp k)
  | link a b =>
    simp only [exec, execEvArbitrationGrant, State.barrierNext, hq, hpick, Bool.false_eq_true, if_false]
    refine ⟨_, ?_, rfl⟩
    exact (State.countShared_accounted _ m.cx.vf 2 1).msgs.trans (hclass _)
  | _ =>
    simp only [exec, execEvArbitrationGrant, State.barrierNext, hq, hpick, Bool.false_eq_true, if_false]
    refine ⟨_, ?_, rfl⟩
    exact hclass _

/-- A line request served leaves every message with another number. -/
theorem lineServed_msg? {u : State} {n : Nat} {x y : Msg} (h : u.msg? n = some y) (hx : x.id ≠ n) :
    (u.lineServed x).msg? n = some y := by
  have hdrop : ((u.chargeEdge x).dropMsg x.id).msgs.find? (fun z => decide (z.id = n)) = some y := by
    have hkeep (l : List Msg) : (l.filter fun z => decide (z.id ≠ x.id)).find? (fun z => decide (z.id = n)) =
        l.find? (fun z => decide (z.id = n)) := by
      rw [List.find?_filter]
      congr 1
      funext z
      by_cases e : z.id = n
      · simp [e, Ne.symm hx]
      · simp [e]
    exact (hkeep _).trans ((congrArg (List.find? _) (u.chargeEdge_accounted x).msgs).trans h)
  unfold State.lineServed
  dsimp only
  split
  · split
    · exact hdrop
    · obtain ⟨r, -, -, -, -, hr⟩ := ((u.chargeEdge x).dropMsg x.id).send_accounted x.cx x.dst x.src 1 .lineBack []
      refine (congrArg (List.find? _) hr.msgs).trans ?_
      rw [List.find?_append, hdrop]
      rfl
  · exact hdrop

theorem foldl_lineServed_msg? {n : Nat} {y : Msg} : ∀ (xs : List Msg) {u : State}, u.msg? n = some y → (∀ x ∈ xs, x.id ≠ n) →
    (xs.foldl State.lineServed u).msg? n = some y
  | [], _, h, _ => h
  | x :: r, _, h, hx => foldl_lineServed_msg? r (lineServed_msg? h (hx x List.mem_cons_self)) fun z hz => hx z
      (List.mem_cons_of_mem x hz)

theorem serveLines_msg? {u : State} {n : Nat} {y : Msg} (h : u.msg? n = some y)
    (hx : ∀ x ∈ u.msgs, x.body.isLine = true → x.id ≠ n) :
    u.serveLines.msg? n = some y := by
  refine foldl_lineServed_msg? _ h fun x hmem => ?_
  obtain ⟨hin, hline⟩ := List.mem_filter.1 hmem
  simp only [Bool.and_eq_true] at hline
  exact hx x hin hline.1.1

/-- Entering a queue changes of a message only the clock of entry. -/
theorem entering_msg? (s : State) {u : State} {n : Nat} {y : Msg} (h : u.msg? n = some y) :
    ∃ e, (s.entering u).msg? n = some { y with entered := e } := by
  unfold State.msg? at h
  simp only [State.msg?, State.entering, List.find?_map]
  have hid : ((fun z : Msg => decide (z.id = n)) ∘ fun m : Msg =>
      if (m.entered.isNone && u.stands m && !s.stands m) = true then { m with entered := some s.clk } else m) =
        fun z : Msg => decide (z.id = n) := by
    funext z
    dsimp only [Function.comp]
    split <;> rfl
  rw [hid, h, Option.map_some]
  split
  · exact ⟨_, rfl⟩
  · exact ⟨y.entered, rfl⟩

/-- ARBITRATION_GRANT (R293), at any point but an Ethernet port: the one request passes it with its class of that clock. -/
theorem arbitration_passes {s : State} {p : Point} {m : Msg} (hq : s.queued p = [m]) (hm : s.msg? m.id = some m)
    (hall : ∀ x ∈ s.msgs, x.id = m.id → x = m) (hp : ∀ k, p ≠ .ether k) :
    Completes (exec (.evArbitrationGrant p) s) fun t => (∀ w, m.body ≠ .line w) → m.body ≠ .lineBack →
      ∃ m' : Msg, t.msg? m.id = some m' ∧ m'.hops = m.hops.tail ∧ m'.at' = s.clk ∧ m'.prio = s.prioOf m.cx := by
  obtain ⟨u, hu, hstep⟩ := arbitration_next hq hp
  refine ⟨_, hstep, fun hline hback => ?_⟩
  have hfirst : u.msg? m.id = some (s.pastPoint p m) := (congrArg (List.find? _) hu).trans
      (find?_modWhere (by simp [State.pastPoint]) hm)
  have hserved : u.serveLines.msg? m.id = some (s.pastPoint p m) := by
    refine serveLines_msg? hfirst fun x hx hl hid => ?_
    rw [hu] at hx
    obtain ⟨y, hy, e⟩ := List.mem_map.1 hx
    have hyid : y.id = m.id := by
      rw [← hid, ← e]
      split <;> rfl
    have hbody : x.body = m.body := by
      rw [← e, ← hall y hy hyid]
      split <;> rfl
    rw [hbody] at hl
    unfold MsgBody.isLine at hl
    split at hl
    · exact hline _ ‹_›
    · exact hback ‹_›
    · exact absurd hl (by decide)
  obtain ⟨e, he⟩ := entering_msg? s hserved
  exact ⟨_, he, rfl, rfl, rfl⟩

/-- At an Ethernet port the barrier packet that came first goes out, else the one request. -/
theorem arbitration_ether_completes {s : State} {k : Nat} {m : Msg} (hq : s.queued (.ether k) = [m])
    (hup : s.portUp k = true) :
    ∃ t, exec (.evArbitrationGrant (.ether k)) s = .next t := by
  have hpick := pickGrant_single (valueOf (.ether k) 0 s.grants) m
  simp only [exec, execEvArbitrationGrant, hup, hq, hpick, Bool.not_true, Bool.false_eq_true, if_false]
  cases s.barrierNext (.ether k) with
  | some x => exact ⟨_, rfl⟩
  | none => exact ⟨_, rfl⟩

theorem arbitration_completes {s : State} {p : Point} {m : Msg} (hq : s.queued p = [m]) (hm : s.msg? m.id = some m)
    (hall : ∀ x ∈ s.msgs, x.id = m.id → x = m) (hup : ∀ k, p = .ether k → s.portUp k = true) :
    Completes (exec (.evArbitrationGrant p) s) fun t => (∀ k, p ≠ .ether k) → (∀ w, m.body ≠ .line w) → m.body ≠ .lineBack →
      ∃ m' : Msg, t.msg? m.id = some m' ∧ m'.hops = m.hops.tail ∧ m'.at' = s.clk ∧ m'.prio = s.prioOf m.cx := by
  by_cases h : ∃ k, p = .ether k
  · obtain ⟨k, rfl⟩ := h
    obtain ⟨t, ht⟩ := arbitration_ether_completes hq (hup k rfl)
    exact ⟨t, ht, fun hp => absurd rfl (hp k)⟩
  · have hp (k : Nat) (e : p = .ether k) : False := h ⟨k, e⟩
    obtain ⟨t, ht, hpast⟩ := arbitration_passes hq hm hall hp
    exact ⟨t, ht, fun _ => hpast⟩

/-! ### Walks (R329, R331) -/

/-- The quads, and the owners of memory, are the same. -/
def SameQuads (s t : State) : Prop := t.quads = s.quads ∧ t.owners = s.owners

section
variable {s t u : State}

theorem SameQuads.trans (h : SameQuads s t) (g : SameQuads t u) : SameQuads s u := ⟨g.1.trans h.1, g.2.trans h.2⟩

theorem SameQuads.foldl {α : Type} {f : State → α → State} (hf : ∀ s a, SameQuads s (f s a)) :
    ∀ (xs : List α) (s : State), SameQuads s (xs.foldl f s)
  | [], _ => ⟨rfl, rfl⟩
  | x :: r, s => (hf s x).trans (SameQuads.foldl hf r (f s x))

theorem Inspected.sameQuads (h : Inspected s t) : SameQuads s t := ⟨h.quads, h.owners⟩

theorem SameQuads.granted (h : SameQuads s t) (vf pa size : Nat) : t.granted vf pa size = s.granted vf pa size := by
  unfold State.granted
  rw [h.2]
end

theorem State.lineAccess_sameQuads (s : State) (u : Node) (cx : CtxId) (o : Nat) (w : Bool) :
    SameQuads s (s.lineAccess u cx o w) := by
  have h1 := (s.cacheAccess_accounted cx o w).inspected.trans (State.checkLine_inspected _ o)
  obtain ⟨r, -, -, -, -, hr⟩ := ((s.cacheAccess cx o w).checkLine o).send_accounted cx u (.mdie (bitsOf o 39 37)) 0 (.line w)
    [.stackPort (bitsOf o 39 37)]
  exact h1.sameQuads.trans ⟨hr.quads, hr.owners⟩

theorem State.walkAccess_sameQuads (s : State) (u : XUnit) (cx : CtxId) (ea : Nat) (w : Bool) :
    SameQuads s (s.walkAccess u cx ea w) :=
  (s.charge_accounted _ _ _ _ _).inspected.sameQuads.trans (State.lineAccess_sameQuads _ _ _ _ _)

theorem walkFrom_size_pos {s : State} {va : Nat} {l : Leaf} : ∀ {levels : List (Nat × Nat × Nat)} {table : Nat},
    walkFrom s va levels table = .ok l → 0 < l.size
  | [], _, h => nomatch h
  | (level, lo, n) :: rest, table, h => by
    unfold walkFrom at h
    dsimp only at h
    split at h
    · cases h
    · split at h
      · cases h
      · split at h
        · split at h
          · cases h
          · cases h
            exact Nat.two_pow_pos lo
        · split at h
          · cases h
          · exact walkFrom_size_pos h

/-- The leaf a walk finds is a page with an address in it. -/
theorem walkTouch_some {s s1 : State} {touch : Nat → Bool → State → State} {c : Machine.Context} {va : Nat} {k : Kind}
    {l : Leaf}
    (h : s.walkTouch touch c va k = (s1, some l)) : 0 < l.size := by
  unfold State.walkTouch at h
  extract_lets s2 at h
  split at h
  · exact nomatch congrArg Prod.snd h
  · rename_i l2 e
    have hl := congrArg Prod.snd h
    dsimp only at hl
    split at hl
    · cases hl
    · obtain rfl := Option.some.inj hl
      exact walkFrom_size_pos e

section
variable {s s1 : State} {touch : Nat → Bool → State → State} {c : Machine.Context} {va : Nat} {k : Kind}
  (ht : ∀ ea w s, SameQuads s (touch ea w s))
include ht

theorem walkTouch_sameQuads (s : State) : SameQuads s (s.walkTouch touch c va k).1 := by
  unfold State.walkTouch
  extract_lets s1
  have h1 : SameQuads s s1 := SameQuads.foldl (fun s ea => ht ea false s) _ s
  clear_value s1
  split
  · exact h1
  · dsimp only
    split
    · exact h1.trans (ht _ _ _)
    · exact h1

/-- A walk that finds no leaf a TLB may hold leaves a state in which it finds none that is granted and whole. -/
theorem walkTouch_none (h : s.walkTouch touch c va k = (s1, none)) {l : Leaf}
    (hl : walkFrom s1 va walkLevels c.root = .ok l) :
    s1.granted c.id.vf (bitsOf l.entry 51 12 * 4096) l.size = false ∨ bitOf l.entry 7 = true := by
  unfold State.walkTouch at h
  extract_lets s2 at h
  have h2 : SameQuads s s2 := SameQuads.foldl (fun s ea => ht ea false s) _ s
  clear_value s2
  split at h
  · rename_i e
    obtain ⟨rfl, -⟩ := Prod.mk.inj h
    rw [e] at hl
    cases hl
  · rename_i l2 e
    dsimp only at h
    rw [← h2.granted] at h
    cases hg : s2.granted c.id.vf (bitsOf l2.entry 51 12 * 4096) l2.size with
    | false =>
      simp only [hg, Bool.false_and, Bool.false_eq_true, if_false, Prod.mk.injEq] at h
      obtain ⟨rfl, -⟩ := h
      rw [e] at hl
      cases hl
      exact .inl hg
    | true =>
      cases h7 : bitOf l2.entry 7 with
      | false => simp [hg, h7] at h
      | true =>
        simp only [Leaf.admits, hg, h7, Bool.not_true, Bool.false_and, Bool.and_false, Bool.false_eq_true, if_false,
            Prod.mk.injEq] at h
        obtain ⟨rfl, -⟩ := h
        rw [e] at hl
        cases hl
        exact .inr h7
end

/-- A translation that succeeds found a leaf that is granted and whole, and changed no quad. -/
theorem walkVa_ok {s s' : State} {c : Machine.Context} {va pa : Nat} {k : Kind} (h : walkVa s c va k = (s', .ok pa)) :
    s'.quads = s.quads ∧ ∃ l, walkFrom s va walkLevels c.root = .ok l ∧
      s.granted c.id.vf (bitsOf l.entry 51 12 * 4096) l.size = true ∧ bitOf l.entry 7 = false := by
  unfold walkVa at h
  split at h
  · cases h
  · rename_i l e
    dsimp only at h
    split at h
    · cases h
    · rename_i hg
      split at h
      · cases h
      · rename_i h7
        split at h
        · cases h
        · split at h
          · cases h
            exact ⟨rfl, l, e, by simpa using hg, by simpa using h7⟩
          · cases h

/-- The page's entry stands first in the quad's TLB. -/
def HoldsFirst (s : State) (q : QuadId) (cx : CtxId) (va : Nat) : Prop :=
  ∃ (q' : Quad) (y : TlbEntry) (rest : List TlbEntry), s.quad? q = some q' ∧ q'.tlb = y :: rest ∧ y.cx = cx ∧ y.va ≤ va ∧
    va < y.va + y.size

theorem fillOwn_holdsFirst {s : State} {q : Quad} (hq : s.quad? q.id = some q) {t : TlbEntry} {cx : CtxId} {va : Nat}
    (hcx : t.cx = cx) (h1 : t.va ≤ va) (h2 : va < t.va + t.size) : HoldsFirst (s.fillOwn (.quad q.id) t) q.id cx va :=
  ⟨_, t, _, State.quad?_modQuad hq _ rfl, rfl, hcx, h1, h2⟩

/-- A translation that misses the quad's TLB and succeeds fills it. -/
theorem translateBy_fills {s s' : State} {q : Quad} {c : Machine.Context} {va pa : Nat} {k : Kind}
    (hq : s.quad? q.id = some q)
    (ha : c.aperture? va = none) (hva : va < 2 ^ 57) (hmiss : (q.tlb.any fun t => t.hits c.id va k) = false)
    (h : translateBy s (.quad q.id) c va 1 k = (s', .ok pa)) : HoldsFirst s' q.id c.id va := by
  have hlow : ¬ 2 ^ 57 ≤ va := by omega
  have hown : ((XUnit.quad q.id).own s).any (fun t => t.hits c.id va k) = false := by
    simpa only [XUnit.own, hq, Option.map_some, Option.getD_some] using hmiss
  unfold translateBy at h
  split at h
  · cases h
  · unfold translate at h
    rw [if_neg hlow, ha] at h
    dsimp only at h
    obtain ⟨hquads, l, hl, hg, h7⟩ := walkVa_ok h
    suffices hfirst : HoldsFirst (s.touchTlb (.quad q.id) c va k) q.id c.id va by
      obtain ⟨q', y, rest, hq', hy⟩ := hfirst
      exact ⟨q', y, rest, (quad?_congr hquads q.id).trans hq', hy⟩
    have hwalk := fun ea w s => State.walkAccess_sameQuads s (.quad q.id) c.id ea w
    have hcount := (s.countShared_accounted c.id.vf 6 1).inspected.sameQuads
    revert hl hg
    unfold State.touchTlb
    rw [if_neg (by simpa only [ha, Option.isSome_none, hown, Bool.or_false, Bool.false_or, decide_eq_true_eq] using hlow),
        if_neg nofun]
    intro hl hg
    split
    · rename_i t e
      have hhit : t.hits c.id va k = true := by simpa using List.find?_some e
      simp only [TlbEntry.hits, Bool.and_eq_true, decide_eq_true_eq] at hhit
      obtain ⟨⟨⟨hcx, hlo⟩, hhi⟩, -⟩ := hhit
      exact fillOwn_holdsFirst hq hcx hlo hhi
    · rename_i e
      rw [e] at hl hg
      dsimp only at hl hg
      split
      · rename_i s1 e1
        rw [e1] at hl hg
        obtain h | h := walkTouch_none hwalk e1 hl
        · exact absurd (h.symm.trans hg) Bool.false_ne_true
        · exact absurd (h7.symm.trans h) Bool.false_ne_true
      · rename_i s1 l1 e1
        have hsame := hcount.trans (congrArg Prod.fst e1 ▸ walkTouch_sameQuads hwalk _)
        have hpos := walkTouch_some e1
        have hq1 : s1.quad? q.id = some q := (quad?_congr hsame.1 q.id).trans hq
        exact fillOwn_holdsFirst (s := s1.fillDie _ _) hq1 rfl (Nat.div_mul_le_self _ _) (Nat.lt_div_mul_add hpos)

/-- TLB_WALK (R329, R331). -/
theorem tlbWalk_completes {s : State} {n va : Nat} {kind : Kind} {i : Inst} {q : Quad} {c : Machine.Context}
    (hi : s.inst? n = some i)
    (hq : s.quad? i.frame.quad = some q) (hc : s.ctx? i.frame.strand.cx = some c) (hmay : s.mayCommit i = true)
        (hclear : s.pathsClear)
    (hneed : i.farNeeds.find? (fun (va, k) => (c.aperture? va).isNone && va < 2 ^ 57 &&
        !(q.tlb.any fun t => t.hits c.id va k)) =
      some (va, kind)) :
    Completes (exec (.evTlbWalk n) s) fun t => ∀ (s' : State) (pa : Nat), translateBy s (.quad q.id) c va 1 kind =
        (s', .ok pa) →
      HoldsFirst t q.id c.id va := by
  have hfound := List.find?_some hneed
  simp only [Bool.and_eq_true, Option.isNone_iff_eq_none, decide_eq_true_eq, Bool.not_eq_true'] at hfound
  obtain ⟨⟨ha, hva⟩, hmiss⟩ := hfound
  have hq' : s.quad? q.id = some q := State.quad?_id hq ▸ hq
  have hstep : exec (.evTlbWalk n) s = match translateBy s (.quad q.id) c va 1 kind with
      | (s1, .breach pa) => .next (s1.breach c.id 0 pa 0).tick
      | (s1, _) => .next s1.tick := by
    simp only [exec, execEvTlbWalk, hi, hq, hc, hneed, hmay, Bool.not_true, Bool.false_eq_true, if_false,
        State.inOrder_of_clear hclear] <;> rfl
  cases hr : translateBy s (.quad q.id) c va 1 kind with
  | mk s1 x =>
    rw [hr] at hstep
    cases x with
    | breach pa => exact ⟨_, hstep, fun _ _ e => nomatch congrArg Prod.snd e⟩
    | fault code d => exact ⟨_, hstep, fun _ _ e => nomatch congrArg Prod.snd e⟩
    | ok pa =>
      have hfirst := translateBy_fills hq' ha hva hmiss hr
      exact ⟨_, hstep, fun _ _ _ => hfirst⟩

end Sys2Proof.Machine
end

section
/-!
PROOFS. The statements of 01_machine.md on homes and on Endom commands.
-/

namespace Sys2Proof.Proofs

open Sys2Proof Sys2Proof.Machine

/-! ### Homes -/

/-- Settles O44: each clause is the step's own law, and what a step charges and counts beside it touches nothing the clause
speaks of. -/
theorem homeSteps : Obligations.HomeSteps := by
  unfold Obligations.HomeSteps
  intro s hmem
  refine ⟨?_, ?_, ?_, ?_, ?_, ?_, ?_, ?_, ?_, ?_⟩
  · intro n e m a harr _ hspecs hd hs hv _ o old met answered
    have h := farAccess_completes hmem harr hspecs hd hs hv
    have hold : BitVec.ofNat (8 * a.n) (s.readNat (a.pa % 2 ^ 46) a.n) = old := congrArg _ (readNat_foldr s o a.n)
    have hmet : s.metAt m.dst (a.pa % 2 ^ 46) a.n = met := by
      unfold met State.metAt
      cases m.dst <;> rfl
    dsimp only at h
    rw [hold, hmet] at h
    exact h
  · exact fun n m a q x harr hd hs hv hx => postedAtVault_completes harr hd hs hv hx
  · intro die idx n q w hq hw hb ho
    obtain ⟨t, ht, h⟩ := farWaiting_completes hmem hq hw hb ho
    exact ⟨t, ht, fun a ha hspecs _ hn _ =>
      let ⟨hsent, hout, hplain⟩ := h a ha hspecs hn
      ⟨hsent, hout, fun hop hmark _ => hplain hop hmark⟩⟩
  · exact fun n p m harr => postedAck_completes harr
  · exact fun n en m v poison e q harr he hq hc => farReply_completes harr he hq hc
  · exact fun n en m v poison e q hm hb hr he hq hlen => replyResend_completes hm hb hr he hq hlen
  · exact fun die idx bank q r hq hr hb h => bankArbitration_completes hq hr hb h
  · exact fun die idx bank q r hq hr hb h64 hrank => bankPromote_completes hq hr hb h64 hrank
  · exact fun n va kind i q c hi hq hc hmay hclear hneed => tlbWalk_completes hi hq hc hmay hclear hneed
  · exact fun p m hq hm hall hup => arbitration_completes hq hm hall hup

/-! ### A status written over a memory that is not canonical -/

/-- SET_COUNTING of function 64, which does not exist: answered 0x05 at host address 2^40, behind the HDM range of reset. -/
def countingOf64 : KCmd := { id := 1, vf := 0, from' := none, words := [0x12, 2 ^ 40, 0, 64], phase := .ready, dispatched := true }

/-- Reset, with that command held by K and one address of host memory listed twice: the canonical form (notes/assumptions 1)
lists each address once. -/
def listedTwice : State := { State.reset with hostMem := [(2 ^ 40 + 1, 7), (2 ^ 40 + 1, 7)], kcmds := [countingOf64] }

theorem listedTwice_lastRead : LastRead listedTwice countingOf64 := .inr ⟨_, rfl, .inr rfl⟩

theorem listedTwice_performs : Performs listedTwice 1 0x12 countingOf64 :=
  ⟨rfl, rfl, rfl, rfl, fun _ _ => nofun, fun _ hx => absurd hx List.not_mem_nil⟩

theorem exec_listedTwice : exec (.evSetCounting 1) listedTwice = .next (listedTwice.finishK countingOf64 0x05 0).tick := rfl

/-- The status's second byte is zero, which takes the first listing out and leaves the second. -/
theorem finishK_hostByte : (listedTwice.finishK countingOf64 0x05 0).tick.hostByte (2 ^ 40 + 1) = 7 := by decide +kernel

theorem finishK_kWriting : (listedTwice.finishK countingOf64 0x05 0).tick.kWriting countingOf64 = false := by decide +kernel

/-- Refutes O54: it speaks of every state, those whose memories are not canonical among them, and its clause on SET_COUNTING
says that the status of a refusal stands where the record names. Where host memory lists an address twice, the zero bytes of
the status do not read back. -/
theorem not_adminCommandSteps : ¬ Obligations.AdminCommandSteps := by
  unfold Obligations.AdminCommandSteps
  intro h
  obtain ⟨-, -, -, -, -, -, -, hcount⟩ := h listedTwice 1 countingOf64 listedTwice_lastRead
  obtain ⟨t, ht, hno, -⟩ := hcount listedTwice_performs
  obtain rfl := Host.Outcome.next.inj (exec_listedTwice.symm.trans ht)
  obtain ⟨-, hread⟩ | ⟨hwriting, -⟩ := hno (by decide)
  · have hbyte : some ((listedTwice.finishK countingOf64 0x05 0).tick.hostByte (2 ^ 40 + 1)) = some 0 := congrArg (·[1]?) (hread rfl)
    rw [finishK_hostByte] at hbyte
    exact absurd hbyte (by decide)
  · exact absurd hwriting (by rw [finishK_kWriting]; decide)

end Sys2Proof.Proofs
end

section
/-!
PROOFS. What a fired slot runs and what a near load reads (02_execution_model.md, 10_memory_instructions.md): the lemmas of
the statements that follow them.
-/

namespace Sys2Proof.Machine

/-! ### The instruction at a fired slot (R32, R66, R69) -/

/-- A slot's four bytes in memory order are the slot (R7). -/
theorem slotOfBytes_extract (w : Slot) :
    slotOfBytes (w.extractLsb' 0 8) (w.extractLsb' 8 8) (w.extractLsb' 16 8) (w.extractLsb' 24 8) = w := by
  unfold slotOfBytes
  ext k hk
  simp only [BitVec.getElem_append, BitVec.getElem_extractLsb']
  grind

/-- What an instance's body holds at a slot is what its bytes from there on decode to. -/
theorem instrAt?_eq_decode (i : Inst) (k : Nat) :
    i.instrAt? k = (decode ((i.body.drop k).flatMap bytesOfSlot)).toOption.map (·.1) := by
  unfold Inst.instrAt?
  rw [← List.head?_drop, ← List.head?_drop, Nat.add_comm k 1, Nat.add_comm 1 k, ← List.drop_drop]
  rcases i.body.drop k with _ | ⟨w, _ | ⟨w', ws⟩⟩
  · rfl
  · simp only [List.flatMap_cons, List.flatMap_nil, bytesOfSlot, List.append_nil, decode, slotOfBytes_extract,
      List.head?_cons, List.drop_succ_cons, List.drop_zero, List.head?_nil]
    cases decodeWords w none with
    | ok x => rfl
    | error e =>
      dsimp only
      split
      · rename_i heq
        cases heq
      · rfl
      · rfl
  · simp only [List.flatMap_cons, bytesOfSlot, List.cons_append, List.nil_append, decode, slotOfBytes_extract,
      List.head?_cons, List.drop_succ_cons, List.drop_zero]
    cases decodeWords w (some w') with
    | ok x => rfl
    | error e => rfl

/-- The oldest lane's step runs what the bytes at its slot decode to. -/
theorem step_of_lane {s : State} {l : Lane} {ls : List Lane} {i : Inst} (hl : s.lanes = l :: ls) (hi : s.inst? l.inst = some i) :
    step s = match (decode ((i.body.drop l.slot).flatMap bytesOfSlot)).toOption with
      | some (ins, _) => exec ins s
      | none => .refused .notAnInstruction := by
  have hf : s.fetched? = i.instrAt? l.slot := by simp only [State.fetched?, hl, hi, Option.bind_some]
  unfold step
  simp only [hl, hf, instrAt?_eq_decode]
  cases (decode ((i.body.drop l.slot).flatMap bytesOfSlot)).toOption <;> rfl

/-! ### Immediates and loaded words (R7, R70, R114) -/

theorem sextWord_toNat {w : Nat} (x : BitVec w) : sextWord x.toNat w = x.signExtend 64 := by
  rw [sextWord, intWord, signedOf_toNat]
  rfl

/-- base + sext(field) × scale is that sum of words (R70). -/
theorem addrPlus_toNat (a : Word) {w : Nat} (x : BitVec w) (k : Nat) :
    addrPlus a.toNat w x.toNat k = (a + x.signExtend 64 * BitVec.ofNat 64 k).toNat := by
  have hsum : a + x.signExtend 64 * BitVec.ofNat 64 k = BitVec.ofInt 64 (a.toNat + x.toInt * k) := by
    rw [BitVec.ofInt_add, BitVec.ofInt_mul, BitVec.ofInt_natCast, BitVec.ofInt_natCast, BitVec.ofNat_toNat,
      BitVec.setWidth_eq]
    rfl
  rw [addrPlus, lowBits, signedOf_toNat, hsum, BitVec.toNat_ofInt]

/-- Bytes read as a number keep their places. -/
theorem extract_leNat {bs : List Byte} {k : Nat} (hk : k < bs.length) :
    (BitVec.ofNat (8 * bs.length) (leNat bs)).extractLsb' (8 * k) 8 = bs[k] := by
  have h : k < (leBytes bs.length (leNat bs)).length := by rwa [leBytes_leNat]
  rw [← leBytes_extract hk (leNat bs) h]
  simp only [leBytes_leNat]

/-- The word of a load: its bytes as a number, sign- or zero-extended (R206). -/
def loadedWord (signed : Bool) (bs : List Byte) : Word :=
  if signed then sextWord (leNat bs) (8 * bs.length) else toWord (leNat bs)

section
variable {signed : Bool} {bs : List Byte} (h : bs.length ≤ 8)
include h

theorem loadedWord_setWidth : (loadedWord signed bs).setWidth (8 * bs.length) = BitVec.ofNat _ (leNat bs) := by
  have hw : 8 * bs.length ≤ 64 := by omega
  have hlt : leNat bs < 2 ^ (8 * bs.length) := by
    have := leNat_lt bs
    rwa [show (256 : Nat) = 2 ^ 8 from rfl, ← Nat.pow_mul] at this
  have hnat : leNat bs = (BitVec.ofNat (8 * bs.length) (leNat bs)).toNat := by rw [BitVec.toNat_ofNat, Nat.mod_eq_of_lt hlt]
  cases signed with
  | true =>
    rw [loadedWord, if_pos rfl]
    rw [hnat, sextWord_toNat, ← hnat]
    ext k hk
    have hk' : k < 64 := by omega
    rw [BitVec.getElem_setWidth, BitVec.getLsbD_signExtend, decide_eq_true hk', Bool.true_and, if_pos hk,
      BitVec.getLsbD_eq_getElem hk]
  | false =>
    rw [loadedWord, if_neg Bool.false_ne_true, toWord]
    ext k hk
    have hk' : k < 64 := by omega
    rw [BitVec.getElem_setWidth, BitVec.getLsbD_ofNat, ← BitVec.getLsbD_eq_getElem hk, BitVec.getLsbD_ofNat,
      decide_eq_true hk', decide_eq_true hk]

theorem loadedWord_extended : loadedWord signed bs =
    if signed then ((loadedWord signed bs).setWidth (8 * bs.length)).signExtend 64
    else ((loadedWord signed bs).setWidth (8 * bs.length)).setWidth 64 := by
  rw [loadedWord_setWidth h]
  have hlt : leNat bs < 2 ^ (8 * bs.length) := by
    have := leNat_lt bs
    rwa [show (256 : Nat) = 2 ^ 8 from rfl, ← Nat.pow_mul] at this
  have hnat : (BitVec.ofNat (8 * bs.length) (leNat bs)).toNat = leNat bs := by rw [BitVec.toNat_ofNat, Nat.mod_eq_of_lt hlt]
  unfold loadedWord
  split
  · rw [← sextWord_toNat, hnat]
  · apply BitVec.eq_of_toNat_eq
    rw [BitVec.toNat_setWidth, hnat, toWord, BitVec.toNat_ofNat]

theorem loadedWord_byte {k : Nat} (hk : k < bs.length) : (loadedWord signed bs).extractLsb' (8 * k) 8 = bs[k] := by
  rw [← extract_leNat hk, ← loadedWord_setWidth h (signed := signed)]
  ext j hj
  have : 8 * k + j < 8 * bs.length := by omega
  simp_all
end

/-! ### Near loads (R57, R191, R204, R206) -/

/-- Nothing earlier that writes meets the bytes: no conflict (R191). -/
theorem Quad.loadConflict_of_clear {q : Quad} {ea n : Nat} (h : q.clearOfWrites ea n) : q.loadConflict ea n = none := by
  obtain ⟨he, hw⟩ := h
  unfold Quad.loadConflict
  split
  · rename_i c hfound
    obtain ⟨e, hm, hsome⟩ := List.exists_of_findSome?_eq_some hfound
    cases e with
    | pending c k rd wr => simp [Interval.hits, he c k rd wr hm] at hsome
    | reserved | report => cases hsome
  · rw [Option.map_eq_none_iff, List.find?_eq_none]
    intro w hm
    cases hwr : w.a.write with
    | true => simp [hw w hm hwr]
    | false => simp

theorem State.nearBytes_snd (s : State) (i : Inst) (ea n : Nat) :
    (s.nearBytes i ea n).2 = s.nearRead i.frame.strand i.frame.quad ea n := by
  unfold State.nearBytes State.nearRead
  split <;> rfl

theorem State.nearBytes_length (s : State) (i : Inst) (ea n : Nat) : (s.nearBytes i ea n).1.length = n := by
  unfold State.nearBytes
  split
  · simp
  · exact memBytes_length _ _ _

/-- The bytes a near load finds: the buffer's of a younger iteration, else the vault's (R57, R206). -/
theorem State.nearBytes_getElem (s : State) (i : Inst) (ea n k : Nat) (hk : k < (s.nearBytes i ea n).1.length) :
    (s.nearBytes i ea n).1[k] = if s.nonOldest i.frame.strand then s.specByte i.frame.strand i.frame.quad (ea + k)
      else s.byteAt (vaultBase i.frame.quad + ea + k) := by
  unfold State.nearBytes State.byteAt memBytes at *
  split
  · simp [*]
  · simp [*]

theorem nonOldest_congr {s t : State} (h : t.contexts = s.contexts) (st : Strand) : t.nonOldest st = s.nonOldest st := by
  unfold State.nonOldest
  rw [space?_congr h]

/-- The lanes do not matter to the poison a near load meets. -/
theorem State.nearPoisoned_nearRead_issued (s : State) (st : Strand) (q : QuadId) (ea n : Nat) :
    (s.issued.nearRead st q ea n).nearPoisoned st q ea n = (s.nearRead st q ea n).nearPoisoned st q ea n := by
  have hold : s.issued.nonOldest st = s.nonOldest st := rfl
  unfold State.nearRead
  rw [hold]
  split
  · rfl
  · rename_i h
    have hscrub (u : State) (hu : u.contexts = s.contexts) : (u.scrub (vaultBase q + ea) n).nonOldest st = false := by
      have hcx := (u.scrub_inspected (vaultBase q + ea) n).congr State.contexts
      rw [nonOldest_congr (hcx.trans hu)]
      simpa using h
    unfold State.nearPoisoned
    rw [hscrub s rfl, hscrub s.issued rfl, if_neg Bool.false_ne_true, if_neg Bool.false_ne_true]
    exact poisoned_congr (scrub_poison (s := s) (u := s.issued) rfl rfl _ _) _ _

theorem nearCheck_eq_none {top ea n : Nat} (h : ea + n ≤ top) (ha : ea % n = 0) : nearCheck top ea n = none := by
  rw [nearCheck, if_neg (by omega), if_neg (by simpa using ha)]

/-- A near load that passes every check sends its word, and reads (R206). -/
theorem nearLoad_sends {f : FmtL} {s : State} {l : Lane} {i : Inst} {a : Word} {q : Quad} {n : Nat} {signed : Bool}
    (hf : Fires s f.pr l i) (ha : One l a) (hq : s.quad? i.frame.quad = some q) (htop : loadAddr f n a + n ≤ s.tileTop q)
    (hal : loadAddr f n a % n = 0) (hc : q.clearOfWrites (loadAddr f n a) n)
    (hp : (s.nearRead i.frame.strand i.frame.quad (loadAddr f n a) n).nearPoisoned i.frame.strand i.frame.quad
      (loadAddr f n a) n = false) :
    nearLoad n signed f s = .next ((s.issued.nearRead i.frame.strand i.frame.quad (loadAddr f n a) n).deliver l.inst l.slot
      (.val (loadedWord signed (s.nearBytes i (loadAddr f n a) n).1)) [f.t0]) := by
  have hea : addrPlus a.toNat 7 f.imm7.toNat n = loadAddr f n a := addrPlus_toNat a f.imm7 n
  have htop' : s.issued.topOf i = s.tileTop q := by
    rw [State.topOf, show s.issued.quad? i.frame.quad = some q from hq]
    rfl
  have hconf : (s.issued.quad? i.frame.quad).bind (fun q => q.loadConflict (loadAddr f n a) n) = none := by
    rw [show s.issued.quad? i.frame.quad = some q from hq]
    exact Quad.loadConflict_of_clear hc
  have hbytes : (s.issued.nearBytes i (loadAddr f n a) n).1 = (s.nearBytes i (loadAddr f n a) n).1 := by
    unfold State.nearBytes
    rw [show s.issued.nonOldest i.frame.strand = s.nonOldest i.frame.strand from rfl]
    split <;> rfl
  have hpois : (s.issued.nearRead i.frame.strand i.frame.quad (loadAddr f n a) n).nearPoisoned i.frame.strand i.frame.quad
      (loadAddr f n a) n = false := (s.nearPoisoned_nearRead_issued ..).trans hp
  unfold nearLoad
  rw [firing_fires hf, Operands.one?, ha]
  dsimp only
  rw [hea, htop', nearCheck_eq_none htop hal, hconf]
  dsimp only
  rw [State.nearBytes_snd, hpois, hbytes, loadedWord, State.nearBytes_length]
  rfl

end Sys2Proof.Machine
end

section
/-!
PROOFS. The statements of 02_execution_model.md on the step, second exits and near loads, and on circuits and spaces.
-/

namespace Sys2Proof.Proofs

open Sys2Proof Sys2Proof.Machine

/-! ### The step, second exits, near loads -/

/-- Settles O56: a lane's instruction is what its slot's bytes decode to, and with no lane the agenda comes first. -/
theorem stepRunsDecoded : Obligations.StepRunsDecoded := by
  unfold Obligations.StepRunsDecoded
  intro s
  refine ⟨?_, ?_, ?_, ?_⟩
  · intro l ls i ins rest hl hi hd
    rw [step_of_lane hl hi, hd]; rfl
  · intro l ls i e hl hi hd
    rw [step_of_lane hl hi, hd]; rfl
  · intro ins more hl ha
    simp only [step, hl, stepDevice, ha]
  · intro l ls hl hi
    simp only [step, hl, State.fetched?, hi, Option.bind_none]

/-- Settles O31: every form of exit goes through one of the four exit forms, which look at the exits fired before they do
anything of their own. -/
theorem secondExitFaults : Obligations.SecondExitFaults := by
  unfold Obligations.SecondExitFaults
  intro s l i he multi
  have h0 {pr : BitVec 2} (h : Fires s pr l i) (k : Lane → Inst → State → Out) : exit0 s pr k = multi :=
    (exit0_fires h k).trans (onceExit_second he _)
  have h1 {pr : BitVec 2} {a : Word} (h : Fires s pr l i) (ha : One l a) (k : Lane → Inst → Word → State → Out) :
      exit1 s pr k = multi :=
    (exit1_fires h ha k).trans (onceExit_second he _)
  have h2 {pr : BitVec 2} {a b : Word} (h : Fires s pr l i) (hab : Two l a b) (k : Lane → Inst → Word → Word → State → Out) :
      exit2 s pr k = multi :=
    (exit2_fires h hab k).trans (onceExit_second he _)
  have h3 {a b x : Word} (h : Fires s 0 l i) (hx : Three l a b x) (k : Lane → Inst → Word → Word → Word → State → Out) :
      exit3 s k = multi :=
    (exit3_fires h hx k).trans (onceExit_second he _)
  simp only [List.forall_mem_cons, List.not_mem_nil, false_implies, implies_true, and_true]
  refine ⟨fun f h => ⟨h0 h _, h0 h _, h0 h _⟩, fun f a h ha => ⟨h1 h ha _, h1 h ha _, h1 h ha _⟩, fun f h => h0 h _,
    fun f h => ⟨⟨h0 h _, h0 h _, h0 h _⟩, fun a ha => ⟨h1 h ha _, h1 h ha _, h1 h ha _, h1 h ha _⟩,
      fun a b hab => ⟨h2 h hab _, h2 h hab _, h2 h hab _, h2 h hab _, h2 h hab _, h2 h hab _, h2 h hab _, h2 h hab _,
        h2 h hab _, h2 h hab _⟩⟩, fun f a b x h hx => h3 h hx _⟩

/-- Settles O22: the seven forms are one, `nearLoad`, at a width and with an extension. -/
theorem nearLoadResults : Obligations.NearLoadResults := by
  unfold Obligations.NearLoadResults
  intro f s l i a q hf ha hq p hp n ea st extended htop hal hc hpois
  have hforms : ∀ p ∈ [(Instr.ldd f, 8, false), (.ldw f, 4, false), (.ldws f, 4, true), (.ldh f, 2, false),
      (.ldhs f, 2, true), (.ldb f, 1, false), (.ldbs f, 1, true)], exec p.1 s = nearLoad p.2.1 p.2.2 f s ∧ p.2.1 ≤ 8 := by
    simp only [List.forall_mem_cons, List.not_mem_nil, false_implies, implies_true, and_true]
    exact ⟨⟨rfl, by decide⟩, ⟨rfl, by decide⟩, ⟨rfl, by decide⟩, ⟨rfl, by decide⟩, ⟨rfl, by decide⟩, ⟨rfl, by decide⟩,
      ⟨rfl, by decide⟩⟩
  obtain ⟨hexec, hn⟩ := hforms p hp
  have hlen : (s.nearBytes i ea n).1.length = n := s.nearBytes_length i ea n
  have hbyte (k : Nat) (hk : k < n) : (loadedWord p.2.2 (s.nearBytes i ea n).1).extractLsb' (8 * k) 8 =
      if s.nonOldest st then s.specByte st i.frame.quad (ea + k) else s.byteAt (vaultBase i.frame.quad + ea + k) := by
    rw [loadedWord_byte (by rw [hlen]; exact hn) (by rwa [hlen])]
    exact s.nearBytes_getElem i ea n k _
  refine ⟨loadedWord p.2.2 (s.nearBytes i ea n).1, hexec.trans (nearLoad_sends hf ha hq htop hal hc hpois), ?_, ?_, ?_⟩
  · have h := loadedWord_extended (signed := p.2.2) (bs := (s.nearBytes i ea n).1) (by rw [hlen]; exact hn)
    rw [hlen] at h
    exact h
  · intro hold k hk
    rw [hbyte k hk, hold]; rfl
  · intro hold k hk
    rw [hbyte k hk, hold]; rfl

/-! ### A violation at a border whose packet has the next identity -/

/-- A context with one circuit, from its logical die 0 to its logical die 1. -/
def borderContext : Context :=
  { Context.initial ⟨0, 0⟩ with
    image := some { code := [], regions := [], tagspaces := [], circuits := [⟨0, 0, 0, 1, 0, 0⟩], hdata := 0, hbm := [],
                    recorded := none } }

/-- A token on that circuit under a tag of logical die 0, which may not pass (R321). -/
def strayToken : Msg :=
  { id := 0, cx := ⟨0, 0⟩, src := .quad ⟨0, 0⟩, dst := .quad ⟨0, 0⟩, cls := 8, prio := 1, hops := [], at' := 0, left := none,
    entered := none, refused := false, via := none, body := .token 0 0 0 false }

/-- Reset, with that context and that token. The token's identity is the one the next packet takes, and the event ring of the
physical function lies in HBM: HDMBASE and the ring's base are 0 (R386, R387). -/
def atBorder : State := { State.reset with contexts := [borderContext], msgs := [strayToken] }

/-- The state after the refusal. -/
def refusedAtBorder : State := ((atBorder.land 0).breach ⟨0, 0⟩ 0 0 0).tick

theorem arrives_strayToken : Arrives atBorder 0 strayToken (.token 0 0 0 false) := ⟨rfl, rfl, by decide +kernel⟩

theorem exec_atBorder : exec (.evBorderCrossing 0) atBorder = .next refusedAtBorder := rfl

/-- K's access to the event ring is a packet, and has the identity the token had (R18, R293). -/
theorem refusedAtBorder_msg : (refusedAtBorder.msg? 0).isSome = true := by decide +kernel

/-- Refutes O46: its clause on borders says of every token that is refused that no message of its identity is left. It speaks of
every state, those among them in which a packet stands under the identity that the next one takes. The record of the violation goes to
the physical function's event ring; where that ring lies in HBM, K's access to it is a packet under that identity. -/
theorem not_circuitAndSpaceSteps : ¬ Obligations.CircuitAndSpaceSteps := by
  unfold Obligations.CircuitAndSpaceSteps
  intro h
  obtain ⟨-, hborder, -⟩ := h atBorder
  obtain ⟨t, ht, -, hbad⟩ := hborder 0 0 0 0 strayToken borderContext ⟨0, 0, 0, 1, 0, 0⟩ arrives_strayToken rfl rfl (by decide)
  obtain rfl := Host.Outcome.next.inj (exec_atBorder.symm.trans ht)
  obtain ⟨hgone, -⟩ := hbad fun hgood => absurd hgood.2.1 (by decide)
  exact absurd refusedAtBorder_msg (by rw [hgone]; decide)

end Sys2Proof.Proofs
end

section
/-!
PROOFS. What is left of a state when memory and the books are taken away: its core. An access of a unit, the storing of a
record, a trace record and an event to the host leave the core as it is (01_machine.md, 09_memory_model.md, 15_isolation.md).
-/

namespace Sys2Proof.Machine

/-! ### The core of a state -/

/-- A quad without its TLB and banks and without its counts and logs. -/
def Quad.bare (q : Quad) : Quad :=
  { q with tlb := [], banks := [], counters := [], seqs := [], hist := [], lostMatch := 0, traced := 0, dropped := 0,
           logged := 0, firstLost := none, relights := 0 }

/-- The body of a message that carries a strand's frame. -/
def MsgBody.isFrame : MsgBody → Bool
  | .frame _ _ => true
  | _ => false

/-- A state without memory and its marks, the books, TLBs and banks, the packets that carry no frame, the events to the host,
and the identities to come. -/
def State.core (s : State) : State :=
  { s with mem := [], poison := [], weak := [], corrected := [], broken := [], badLines := [], cached := [], hostMem := [],
           lanterns := [], dieCharged := [], links := [], shared := [], fresh := 0, tlbs := [], windows := [], posted := [],
           quads := s.quads.map Quad.bare, msgs := s.msgs.filter (·.body.isFrame), nextId := 0 }

section
variable {s t : State}

theorem foldl_core {α : Type} {f : State → α → State} (hf : ∀ s a, (f s a).core = s.core) :
    ∀ (xs : List α) (s : State), (xs.foldl f s).core = s.core
  | [], _ => rfl
  | x :: r, s => (foldl_core hf r (f s x)).trans (hf s x)

theorem Inspected.core (h : Inspected s t) : t.core = s.core := h.congr State.core
theorem Accounted.core (h : Accounted s t) : t.core = s.core := h.congr State.core

/-- A change of what the core leaves out of a quad. -/
theorem State.modQuad_core (s : State) (q : QuadId) {f : Quad → Quad} (hf : ∀ x, (f x).bare = x.bare) :
    (s.modQuad q f).core = s.core := by
  have hmap : (modWhere (fun x : Quad => decide (x.id = q)) f s.quads).map Quad.bare = s.quads.map Quad.bare := by
    rw [modWhere, List.map_map]
    refine List.map_congr_left fun x _ => ?_
    simp only [Function.comp_apply]
    split
    · exact hf x
    · rfl
  exact congrArg (fun qs => { s.core with quads := qs }) hmap

theorem State.send_core (s : State) (cx : CtxId) (src dst : Node) (cls : Nat) {body : MsgBody} (last : List Point)
    (h : body.isFrame = false) : (s.send cx src dst cls body last).core = s.core := by
  obtain ⟨r, -, -, -, hb, hr⟩ := s.send_accounted cx src dst cls body last
  have hmsgs : (s.msgs ++ [r]).filter (·.body.isFrame) = s.msgs.filter (·.body.isFrame) := by simp [hb, h]
  exact hr.core.trans (congrArg (fun ms => { s.core with msgs := ms }) hmsgs)
end

section
variable (s : State)

@[simp] theorem State.tick_core : s.tick.core = { s.core with clk := s.clk + 1 } := rfl
@[simp] theorem State.charge_core (l : Lantern) (p : Payer) (k n d : Nat) : (s.charge l p k n d).core = s.core := rfl
@[simp] theorem State.countShared_core (vf i n : Nat) : (s.countShared vf i n).core = s.core :=
  (s.countShared_accounted vf i n).core
@[simp] theorem State.scrub_core (o n : Nat) : (s.scrub o n).core = s.core := (s.scrub_inspected o n).core
@[simp] theorem State.bankReq_core (q : QuadId) (r o n : Nat) : (s.bankReq q r o n).core = s.core :=
  s.modQuad_core q fun _ => rfl
@[simp] theorem State.count_core (q : QuadId) (i n : Nat) : (s.count q i n).core = s.core := s.modQuad_core q fun _ => rfl

/-! ### A unit's accesses (R17, R18, R25) -/

@[simp] theorem State.lineAccess_core (u : Node) (cx : CtxId) (o : Nat) (w : Bool) : (s.lineAccess u cx o w).core = s.core :=
  (State.send_core _ _ _ _ _ _ rfl).trans
    ((State.checkLine_inspected _ o).core.trans (s.cacheAccess_accounted cx o w).core)

@[simp] theorem State.rangeAccess_core (u : Node) (cx : CtxId) (rank o n : Nat) (w : Bool) :
    (s.rangeAccess u cx rank o n w).core = s.core := by
  unfold State.rangeAccess
  split
  · exact (State.bankReq_core _ _ _ _ _).trans (s.scrub_core o n)
  · exact foldl_core (fun s l => s.lineAccess_core u cx l w) _ s

@[simp] theorem State.walkAccess_core (u : XUnit) (cx : CtxId) (ea : Nat) (w : Bool) :
    (s.walkAccess u cx ea w).core = s.core :=
  State.lineAccess_core _ _ _ _ _

@[simp] theorem State.fillOwn_core (u : XUnit) (t : TlbEntry) : (s.fillOwn u t).core = s.core := by
  unfold State.fillOwn
  split
  · exact s.modQuad_core _ fun _ => rfl
  · rfl
  · rfl

@[simp] theorem State.fillDie_core (u : XUnit) (t : TlbEntry) : (s.fillDie u t).core = s.core := rfl

theorem State.walkTouch_core {touch : Nat → Bool → State → State} (ht : ∀ ea w s, (touch ea w s).core = s.core)
    (c : Context) (va : Nat) (k : Kind) : (s.walkTouch touch c va k).1.core = s.core := by
  unfold State.walkTouch
  grind [foldl_core]

@[simp] theorem State.touchTlb_core (u : XUnit) (c : Context) (va : Nat) (k : Kind) : (s.touchTlb u c va k).core = s.core := by
  unfold State.touchTlb
  split
  · rfl
  · split
    · exact s.walkTouch_core (fun ea w s => s.lineAccess_core .k c.id ea w) c va k
    · split
      · exact s.fillOwn_core u _
      · have h1 := ((s.countShared c.id.vf 6 1).walkTouch_core (fun ea w s => s.walkAccess_core u c.id ea w) c va k).trans
          (s.countShared_core c.id.vf 6 1)
        split
        · rename_i e
          rw [e] at h1
          exact h1
        · rename_i e
          rw [e] at h1
          exact (State.fillOwn_core _ u _).trans h1

theorem setAD_core (w : Bool) (l : Leaf) : (setAD w l s).core = s.core := rfl

@[simp] theorem walkVa_core (c : Context) (va : Nat) (k : Kind) : (walkVa s c va k).1.core = s.core := by
  unfold walkVa
  grind [setAD_core]

@[simp] theorem translate_core (c : Context) (va n : Nat) (k : Kind) : (translate s c va n k).1.core = s.core := by
  unfold translate
  grind [walkVa_core]

@[simp] theorem translateBy_core (u : XUnit) (c : Context) (va n : Nat) (k : Kind) :
    (translateBy s u c va n k).1.core = s.core := by
  unfold translateBy
  grind [translate_core, State.touchTlb_core]

@[simp] theorem State.remoteRead_core (u : Node) (cx : CtxId) (va pa n : Nat) :
    (s.remoteRead u cx va pa n).1.core = s.core :=
  foldl_core (fun s _ => s.send_core _ _ _ _ _ rfl) _ s

@[simp] theorem State.readPhys_core (u : Node) (cx : CtxId) (va pa n : Nat) : (s.readPhys u cx va pa n).1.core = s.core := by
  unfold State.readPhys
  grind [State.rangeAccess_core, State.remoteRead_core]

theorem State.write_core (a : Nat) (bs : List Byte) : (s.write a bs).core = s.core := rfl

@[simp] theorem State.putPhys_core (u : Node) (cx : CtxId) (va pa : Nat) (bs : List Byte) :
    (s.putPhys u cx va pa bs).core = s.core := by
  unfold State.putPhys
  split
  · exact (State.write_core _ _ _).trans (s.rangeAccess_core _ _ _ _ _ _)
  · exact foldl_core (fun s _ => s.send_core _ _ _ _ _ rfl) _ s

theorem writeVaAs_core {t : State} {k : Kind} {u : XUnit} {c : Context} {va : Nat} {bs : List Byte}
    (h : writeVaAs k s u c va bs = some t) : t.core = s.core := by
  unfold writeVaAs at h
  grind [translateBy_core, State.putPhys_core]

/-- A write that finds no page leaves the state that stood before it. -/
theorem writeVaAs_getD_core (k : Kind) (u : XUnit) (c : Context) (va : Nat) (bs : List Byte) :
    ((writeVaAs k s u c va bs).getD s).core = s.core := by
  cases h : writeVaAs k s u c va bs with
  | none => rfl
  | some t => exact writeVaAs_core s h

@[simp] theorem State.readVa_core (u : XUnit) (c : Context) (va n : Nat) : (s.readVa u c va n).1.core = s.core := by
  unfold State.readVa
  grind [translateBy_core, State.readPhys_core]

/-! ### Records, traces, events (R51, R356, R387) -/

@[simp] theorem State.emberBanks_core (e : Ember) : (s.emberBanks e).core = s.core := by
  unfold State.emberBanks
  split
  · exact s.bankReq_core _ _ _ _
  · rfl

@[simp] theorem State.storeBy_core (u : XUnit) (e : Ember) : (s.storeBy u e).core = s.core := by
  unfold State.storeBy
  split
  · rfl
  · split
    · rfl
    · exact writeVaAs_getD_core s _ _ _ _ _

@[simp] theorem State.storeEmber_core (e : Ember) : (s.storeEmber e).core = s.core := s.storeBy_core _ e

@[simp] theorem State.readRecord_core (e : Ember) : (s.readRecord e).1.core = s.core := by
  unfold State.readRecord
  grind [State.readVa_core, State.emberBanks_core]

@[simp] theorem xlatePieces_core (u : XUnit) (c : Context) : ∀ (ps : List (Nat × List Byte)) (s : State),
    (xlatePieces u c ps s).1.core = s.core
  | [], _ => rfl
  | (va, bs) :: r, s => by
    have ih := xlatePieces_core u c r
    unfold xlatePieces
    grind [translateBy_core]

theorem State.posted_core (ps : List Posted) : ({ s with posted := ps } : State).core = s.core := rfl

@[simp] theorem State.tracePost_core (c : Context) (q : QuadId) (va pa : Nat) (bs : List Byte) :
    (s.tracePost c q va pa bs).core = s.core :=
  foldl_core (fun s _ => (State.send_core _ _ _ _ _ _ (by exact rfl)).trans (s.posted_core _)) _ s

@[simp] theorem State.traceWrite_core (c : Context) (q : QuadId) (va : Nat) (bs : List Byte) :
    (s.traceWrite c q va bs).1.core = s.core := by
  unfold State.traceWrite
  grind [xlatePieces_core, foldl_core, State.tracePost_core]

@[simp] theorem State.traceCounts_core (c : Context) (base : Nat) (q : QuadId) : (s.traceCounts c base q).core = s.core := by
  unfold State.traceCounts
  grind [State.traceWrite_core]

theorem State.dropped_core (c : Context) (base : Nat) (q : QuadId) :
    ((s.modQuad q fun y => { y with dropped := y.dropped + 1 }).traceCounts c base q).core = s.core :=
  (State.traceCounts_core _ c base q).trans (s.modQuad_core q fun _ => rfl)

theorem State.traced_core (c : Context) (base : Nat) (q : QuadId) :
    ((s.modQuad q fun y => { y with traced := y.traced + 1 }).traceCounts c base q).core = s.core :=
  (State.traceCounts_core _ c base q).trans (s.modQuad_core q fun _ => rfl)

@[simp] theorem State.traceRec_core (cx : CtxId) (q : QuadId) (el k u i sl t b : Nat) (p : Word) :
    (s.traceRec cx q el k u i sl t b p).core = s.core := by
  unfold State.traceRec
  split
  · split
    · rfl
    · extract_lets base w0 bytes at' drop
      have hdrop (s : State) : (drop s).core = s.core := s.dropped_core _ base q
      clear_value drop
      split
      · exact hdrop s
      · split
        · rename_i s' e
          exact (s'.traced_core _ base q).trans (congrArg (·.1.core) e.symm |>.trans (s.traceWrite_core _ q at' bytes))
        · rename_i s' e
          exact (hdrop s').trans (congrArg (·.1.core) e.symm |>.trans (s.traceWrite_core _ q at' bytes))
  · rfl

@[simp] theorem State.traceFault_core (cx : CtxId) (f : FaultRec) : (s.traceFault cx f).core = s.core := by
  unfold State.traceFault
  split
  · exact s.traceRec_core _ _ _ _ _ _ _ _ _ _
  · rfl

@[simp] theorem State.hostTouch_core (hpa n : Nat) (w : Bool) : (s.hostTouch hpa n w).core = s.core := by
  unfold State.hostTouch
  generalize s.hdmPart hpa n = ab
  split
  exact (apply_ite State.core ..).trans ((ite_congr rfl (fun _ => s.rangeAccess_core _ _ _ _ _ _) fun _ => rfl).trans (ite_self _))

theorem State.hostMem_core (m : List Host.Cell) : ({ s with hostMem := m } : State).core = s.core := rfl

@[simp] theorem State.hostWrite_core (hpa : Nat) (bs : List Byte) : (s.hostWrite hpa bs).core = s.core := by
  unfold State.hostWrite
  generalize s.hdmPart hpa bs.length = ab
  split
  refine (State.hostMem_core _ _).trans ?_
  split
  · exact (State.write_core _ _ _).trans (s.hostTouch_core _ _ _)
  · rfl

theorem State.windows_core (ws : List Window) : ({ s with windows := ws } : State).core = s.core := rfl

@[simp] theorem State.event_core (vf m o c code type addr data : Nat) : (s.event vf m o c code type addr data).core = s.core := by
  unfold State.event
  split
  · rfl
  · extract_lets n w0 s1
    split
    · exact s.windows_core _
    · exact (s1.windows_core _).trans (s.hostWrite_core _ _)
end

end Sys2Proof.Machine
end

section
/-!
PROOFS. Embers deposited, frames written and faults queued, by what they leave of the core (01_machine.md).
-/

namespace Sys2Proof.Machine

/-- The ember of a strand whose registers are all live at a block: of an abandonment or a fault (R39, R365). -/
def fullRecord (id : Nat) (st : Strand) (q : QuadId) (elem block : Nat) (regs : List Word) (reason : Nat) (wait : Wait)
    (p : Pool) (a seq : Nat) : Ember :=
  { id := id, strand := st, quad := q, elem := elem, live := 0xFFFFFFFF, regs := regs, exit := 0, reply := 0,
    reason := reason, seq := seq, cont := block, source := 0, pkg := 0, home := 0, width := 0, op := 0,
    block := block, pool := p, addr := a, size := 320, wait := wait, value := none }

/-- A fault among those K holds for a context (R368, R369). -/
def Context.faulted (c : Context) (f : FaultRec) : Context :=
  if f.kind = 2 ∧ 256 ≤ (c.faults.filter (·.kind = 2)).length then { c with lost := min 0xFFFF (c.lost + 1) }
  else { c with faults := c.faults ++ [f] }

section
variable (s : State)

@[simp] theorem State.nextSeq_core (q : QuadId) (home source : Nat) : (s.nextSeq q home source).2.core = s.core :=
  s.modQuad_core q fun _ => rfl

/-- An ember deposited: numbered, and added. -/
theorem State.depositBy_core (u : XUnit) (e : Ember) :
    (s.depositBy u e).core =
      { s.core with embers := s.core.embers ++ [{ e with seq := (s.nextSeq e.quad e.home e.source).1 }] } := by
  have h : (((s.nextSeq e.quad e.home e.source).2.emberBanks e).storeBy u
      { e with seq := (s.nextSeq e.quad e.home e.source).1 }).core = s.core :=
    (State.storeBy_core _ _ _).trans ((State.emberBanks_core _ _).trans (s.nextSeq_core _ _ _))
  rw [← h]
  rfl

/-- Where the record of such an ember lies, if there is room for it (R39, R51). -/
def State.fullPlace (st : Strand) (q : QuadId) (reason : Nat) : Option (Pool × Nat × Nat) :=
  if reason = 0x86 then some (.image, 0, 320)
  else
    match st.handler with
    | some k => some (.slot k, 0, 320)
    | none => s.findSpace st.cx q 320 []

section
variable {s} {st : Strand} {q : QuadId} {elem block : Nat} {regs : List Word} {reason : Nat} {wait : Wait}

theorem State.fullEmber_placed {p : Pool} {a n : Nat} (h : s.fullPlace st q reason = some (p, a, n)) :
    s.fullEmber st q elem block regs reason wait = (s.nextId, true,
      { s with nextId := s.nextId + 1 }.deposit (fullRecord s.nextId st q elem block regs reason wait p a 0)) := by
  unfold State.fullEmber
  extract_lets e place
  have hplace : place = some (p, a, n) := h
  rw [hplace]
  rfl

theorem State.fullEmber_unplaced (h : s.fullPlace st q reason = none) :
    s.fullEmber st q elem block regs reason wait = (s.nextId, false,
      { s with nextId := s.nextId + 1 }.deposit
        (fullRecord s.nextId st q elem block regs reason wait (.frameArea q) 0 0)) := by
  unfold State.fullEmber
  extract_lets e place
  have hplace : place = none := h
  rw [hplace]
  rfl

theorem State.fullRecord_core (p : Pool) (a : Nat) : ∃ n,
    ({ s with nextId := s.nextId + 1 }.deposit (fullRecord s.nextId st q elem block regs reason wait p a 0)).core =
      { s.core with embers := s.core.embers ++ [fullRecord s.nextId st q elem block regs reason wait p a n] } :=
  ⟨_, State.depositBy_core { s with nextId := s.nextId + 1 } (.quad q) _⟩

theorem State.fullEmber_core : ∃ e, (s.fullEmber st q elem block regs reason wait).2.2.core =
    { s.core with embers := s.core.embers ++ [e] } := by
  cases h : s.fullPlace st q reason with
  | none =>
    rw [State.fullEmber_unplaced h]
    exact ⟨_, (State.fullRecord_core (.frameArea q) 0).choose_spec⟩
  | some x =>
    rw [State.fullEmber_placed h]
    exact ⟨_, (State.fullRecord_core x.1 x.2.1).choose_spec⟩
end

/-- A fault queued at K, whatever is traced of it. -/
theorem State.queueFault_core (cx : CtxId) (f : FaultRec) : (s.queueFault cx f).core = s.core.modCtx cx (·.faulted f) :=
  congrArg (fun t : State => t.modCtx cx (·.faulted f)) (s.traceFault_core cx f)

/-- The fields of the core that only device steps change: policy, ownership, quads enabled and listed, seals, K's commands,
commits under way. -/
def State.policy :=
  (s.functions, s.owners, s.enabled, s.marked, s.badQuads, s.seals, s.kcmds, s.commits)

variable {s} in
theorem State.policy_of_core {t : State} (h : s.core = t) : s.policy = t.policy := h ▸ rfl

@[simp] theorem State.modInst_policy (n : Nat) (f : Inst → Inst) : (s.modInst n f).policy = s.policy := rfl
@[simp] theorem State.modCtx_policy (cx : CtxId) (f : Context → Context) : (s.modCtx cx f).policy = s.policy := rfl
@[simp] theorem State.modQuad_policy (q : QuadId) (f : Quad → Quad) : (s.modQuad q f).policy = s.policy := rfl
@[simp] theorem State.modEmber_policy (n : Nat) (f : Ember → Ember) : (s.modEmber n f).policy = s.policy := rfl
@[simp] theorem State.dropInst_policy (n : Nat) : (s.dropInst n).policy = s.policy := rfl
@[simp] theorem State.untake_policy (i : Inst) : (s.untake i).policy = s.policy := rfl
@[simp] theorem State.settleEnergy_policy (i : Inst) : (s.settleEnergy i).policy = s.policy := rfl
@[simp] theorem State.countReplay_policy (q : QuadId) (reason : Nat) : (s.countReplay q reason).policy = s.policy := rfl

@[simp] theorem State.queueFault_policy (cx : CtxId) (f : FaultRec) : (s.queueFault cx f).policy = s.policy :=
  (State.policy_of_core (s.queueFault_core cx f)).trans rfl

@[simp] theorem State.fullEmber_policy (st : Strand) (q : QuadId) (elem block : Nat) (regs : List Word) (reason : Nat)
    (wait : Wait) : (s.fullEmber st q elem block regs reason wait).2.2.policy = s.policy := by
  obtain ⟨e, h⟩ := State.fullEmber_core (s := s) (st := st) (q := q) (elem := elem) (block := block) (regs := regs)
    (reason := reason) (wait := wait)
  exact (State.policy_of_core h).trans rfl

@[simp] theorem State.takeFault_policy (i : Inst) (code : FaultCode) (slot : Option Nat) (d a : Nat) :
    (s.takeFault i code slot d a).policy = s.policy := by
  unfold State.takeFault
  extract_lets cx r s1 s2
  have h1 : s1.policy = s.policy := by
    unfold s1
    split <;> simp
  split <;> simp [s2, h1]

theorem State.reEmber_core (n : Nat) (f : Ember → Ember) : (s.reEmber n f).core = s.core.modEmber n f := by
  unfold State.reEmber
  dsimp only
  split
  · exact (State.storeEmber_core _ _).trans (State.emberBanks_core _ _)
  · rfl

@[simp] theorem State.reEmber_policy (n : Nat) (f : Ember → Ember) : (s.reEmber n f).policy = s.policy :=
  (State.policy_of_core (s.reEmber_core n f)).trans rfl

@[simp] theorem State.emberFault_policy (e : Ember) (code : FaultCode) (d b a : Nat) :
    (s.emberFault e code d b a).policy = s.policy :=
  (State.queueFault_policy _ _ _).trans (s.reEmber_policy _ _)

@[simp] theorem State.overflowed_policy (n : Nat) : (s.overflowed n).policy = s.policy := by
  unfold State.overflowed
  split
  · exact (State.emberFault_policy _ _ _ _ _ _).trans (s.modCtx_policy _ _)
  · rfl

@[simp] theorem State.abandon_policy (i : Inst) (reason : Nat) (wait : Wait) : (s.abandon i reason wait).policy = s.policy := by
  unfold State.abandon
  extract_lets cx q s0 s1 st
  have h0 : s0.policy = s.policy := (State.policy_of_core (s.traceRec_core _ _ _ _ _ _ _ _ _ _)).trans rfl
  split
  dsimp only
  split <;> simp [s1, h0]
end

end Sys2Proof.Machine
end

section
/-!
PROOFS. No instruction that fires changes what only device steps change (15_isolation.md R316, R324), and what a value
instruction leaves unchanged (02_execution_model.md R32, R33; 03_formats.md R80).
-/

namespace Sys2Proof.Machine

/-! ### The policy an outcome leaves -/

/-- An outcome that goes on leaves what only device steps change as it was in `s`. -/
def Polite (s : State) (o : Out) : Prop := ∀ t, o = .next t → t.policy = s.policy

section
variable {s u : State}

@[simp] theorem polite_next {t : State} : Polite s (.next t) ↔ t.policy = s.policy :=
  ⟨fun h => h t rfl, fun h _ e => Host.Outcome.next.inj e ▸ h⟩
@[simp] theorem polite_refused (r : Refusal) : Polite s (.refused r) := fun _ h => nomatch h

@[simp] theorem polite_ite {c : Prop} [Decidable c] {a b : Out} :
    Polite s (if c then a else b) ↔ (c → Polite s a) ∧ (¬c → Polite s b) := by
  split <;> simp [*]

theorem Polite.trans {o : Out} (h : Polite u o) (hu : u.policy = s.policy) : Polite s o := fun t e => (h t e).trans hu

@[simp] theorem State.deliver_policy (n slot : Nat) (v : Tok) (ts : List (BitVec 9)) :
    (s.deliver n slot v ts).policy = s.policy := by
  have h := (State.deliver_delivered n slot v ts s).outside
  unfold State.sameOutside at h
  rw [h]
  rfl

@[simp] theorem State.orFlags_policy (n fl : Nat) : (s.orFlags n fl).policy = s.policy := rfl
@[simp] theorem State.resolveLsid_policy (n k : Nat) : (s.resolveLsid n k).policy = s.policy := rfl
@[simp] theorem State.buffer_policy (n slot k : Nat) (e : Effect) : (s.buffer n slot k e).policy = s.policy := rfl
@[simp] theorem State.readLines_policy (st : Strand) (a n : Nat) : (s.readLines st a n).policy = s.policy := rfl
@[simp] theorem State.addResv_policy (n : Nat) (r : TagResv) : (s.addResv n r).policy = s.policy := rfl
@[simp] theorem State.useResv_policy (n b k : Nat) : (s.useResv n b k).policy = s.policy := rfl
@[simp] theorem State.offQueue_policy (cx : CtxId) (p : Bool) (k sid : Nat) : (s.offQueue cx p k sid).policy = s.policy := rfl
@[simp] theorem State.reserveNumber_policy (st : Strand) (d n b k : Nat) :
    (s.reserveNumber st d n b k).2.policy = s.policy := rfl
@[simp] theorem State.reserveIter_policy (st : Strand) (sp it b k : Nat) :
    (s.reserveIter st sp it b k).2.policy = s.policy := rfl

@[simp] theorem State.scrub_policy (o n : Nat) : (s.scrub o n).policy = s.policy :=
  (State.policy_of_core (s.scrub_core o n)).trans rfl

@[simp] theorem State.nearBytes_policy (i : Inst) (ea n : Nat) : (s.nearBytes i ea n).2.policy = s.policy := by
  unfold State.nearBytes
  dsimp only
  split <;> simp

@[simp] theorem State.scrubBlock_policy (i : Inst) (a : Word) (n : Nat) : (s.scrubBlock i a n).policy = s.policy := by
  unfold State.scrubBlock
  split <;> simp

/-! ### The shapes of a firing -/

variable {pr : BitVec 2} {ts : List (BitVec 9)} {n : Nat}

theorem firing_polite {k : Lane → Inst → State → Out} (hk : ∀ l i u, Polite u (k l i u)) : Polite s (firing s pr k) := by
  intro t e
  obtain ⟨l, i, -, -, ⟨-, rfl⟩ | ⟨-, h⟩⟩ := firing_next e
  · rfl
  · exact hk l i s.issued t h

theorem onceExit_polite {l : Lane} {i : Inst} {k : State → Out} (hk : Polite s (k s)) : Polite s (onceExit s l i k) := by
  unfold onceExit
  split
  · exact hk
  · simp

@[simp] theorem fireExit_polite (l : Lane) (n : Nat) (op : ExitOp) : Polite s (fireExit s l n op) := polite_next.2 rfl

theorem effect1_polite {k : Lane → Inst → Word → State → Out} (hk : ∀ l i a u, Polite u (k l i a u)) :
    Polite s (effect1 s pr n k) :=
  firing_polite fun l i u => by split <;> simp [hk]

theorem effect2_polite {k : Lane → Inst → Word → Word → State → Out} (hk : ∀ l i a b u, Polite u (k l i a b u)) :
    Polite s (effect2 s pr n k) :=
  firing_polite fun l i u => by split <;> simp [hk]

theorem exit0_polite {k : Lane → Inst → State → Out} (hk : ∀ l i u, Polite u (k l i u)) : Polite s (exit0 s pr k) :=
  firing_polite fun l i u => onceExit_polite (hk l i u)

theorem exit1_polite {k : Lane → Inst → Word → State → Out} (hk : ∀ l i a u, Polite u (k l i a u)) :
    Polite s (exit1 s pr k) :=
  firing_polite fun l i u => by
    split
    · simp
    · simp
    · exact onceExit_polite (hk l i _ u)

theorem exit2_polite {k : Lane → Inst → Word → Word → State → Out} (hk : ∀ l i a b u, Polite u (k l i a b u)) :
    Polite s (exit2 s pr k) :=
  firing_polite fun l i u => by
    split
    · simp
    · simp
    · exact onceExit_polite (hk l i _ _ u)

theorem exit3_polite {k : Lane → Inst → Word → Word → Word → State → Out} (hk : ∀ l i a b c u, Polite u (k l i a b c u)) :
    Polite s (exit3 s k) :=
  firing_polite fun l i u => by
    split
    · simp
    · simp
    · exact onceExit_polite (hk l i _ _ _ u)
end

/-! ### Memory, control and system instructions -/

section
variable {s : State} (op n d : Nat)

theorem nearLoad_polite (signed : Bool) (f : FmtL) : Polite s (nearLoad n signed f s) :=
  firing_polite fun l i u => by
    dsimp only
    repeat' split
    all_goals simp

theorem nearEffect_polite (f : FmtS) (e : Nat → Word → Effect) : Polite s (nearEffect n d f s e) :=
  effect2_polite fun l i a b u => by
    dsimp only
    repeat' split
    all_goals simp

theorem farLoad_polite (acq : Bool) (f : FmtX) : Polite s (farLoad op acq f s) := exit1_polite fun l i a u => by simp

theorem farAtomic_polite (r : Rmw) (f : FmtX) : Polite s (farAtomic op n r f s) := exit2_polite fun l i a b u => by simp

theorem farPosted_polite (f : FmtE) (e : Nat → Word → Effect) : Polite s (farPosted n d f s e) :=
  effect2_polite fun l i a b u => by simp

theorem branchTo_polite (f : FmtG) : Polite s (branchTo n f s) := exit1_polite fun l i a u => by simp

theorem execFacas_polite (f : FmtX) : Polite s (execFacas f s) := exit3_polite fun l i a b x u => by simp

theorem execFence_polite (f : FmtS) : Polite s (execFence f s) :=
  polite_ite.2 ⟨fun _ => effect1_polite fun l i a u => by simp, fun _ => firing_polite fun l i u => by simp⟩

theorem execXmit_polite (f : FmtE) : Polite s (execXmit f s) := effect1_polite fun l i a u => by simp

theorem execTsalloc_polite (f : FmtI) : Polite s (execTsalloc f s) :=
  firing_polite fun l i u => by
    dsimp only
    repeat' split
    all_goals simp

theorem execTagnew_polite (f : FmtI) : Polite s (execTagnew f s) :=
  firing_polite fun l i u => by
    dsimp only
    repeat' split
    all_goals simp

theorem execTsfree_polite (f : FmtS) : Polite s (execTsfree f s) :=
  polite_ite.2 ⟨fun _ => effect1_polite fun l i a u => by simp, fun _ => firing_polite fun l i u => by simp⟩

theorem execTagrel_polite (f : FmtS) : Polite s (execTagrel f s) := effect1_polite fun l i a u => by simp

theorem execSpawn_polite (f : FmtE) : Polite s (execSpawn f s) := effect1_polite fun l i a u => by simp

theorem execSpawnr_polite (f : FmtE) : Polite s (execSpawnr f s) := effect2_polite fun l i a b u => by simp

theorem execJoinOp_polite (f : FmtX) : Polite s (execJoinOp f s) := exit1_polite fun l i a u => by simp

theorem execBararr_polite (f : FmtS) : Polite s (execBararr f s) :=
  polite_ite.2 ⟨fun _ => effect1_polite fun l i a u => by simp, fun _ => firing_polite fun l i u => by simp⟩

theorem execBarwait_polite (f : FmtX) : Polite s (execBarwait f s) := exit0_polite fun l i u => by simp

theorem execBarsync_polite (f : FmtX) : Polite s (execBarsync f s) := exit0_polite fun l i u => by simp

theorem execWaitOp_polite (f : FmtX) : Polite s (execWaitOp f s) := exit1_polite fun l i a u => by simp

theorem State.readBlock_policy {l : Lane} {i : Inst} {a : Word} {t : State} (h : s.readBlock l i a n = .error t) :
    t.policy = s.policy := by
  unfold State.readBlock at h
  repeat' split at h
  all_goals cases h
  all_goals simp

theorem fireCommand_polite (f : FmtE) (check : BlockCheck) (l : Lane) (i : Inst) (a v : Word) :
    Polite s (fireCommand op n f check l i a v s) := by
  unfold fireCommand
  split
  · split
    · rename_i t h
      split at h
      · cases h
      · exact polite_next.2 (State.readBlock_policy n h)
    · dsimp only
      split
      · simp
      · split
        · simp
        · exact polite_next.2 ((State.deliver_policy _ _ _ _).trans (s.scrubBlock_policy i a n))
  · simp

theorem command1_polite (f : FmtE) (check : BlockCheck) : Polite s (command1 op n f s check) :=
  firing_polite fun l i u => by
    split
    · simp
    · simp
    · exact fireCommand_polite _ _ _ _ _ _ _ _

theorem execSparam_polite (f : FmtE) : Polite s (execSparam f s) :=
  firing_polite fun l i u => by
    split
    · simp
    · simp
    · exact fireCommand_polite _ _ _ _ _ _ _ _

theorem execHquery_polite (f : FmtE) : Polite s (execHquery f s) := firing_polite fun l i u => by split <;> simp

theorem execRsquery_polite (f : FmtE) : Polite s (execRsquery f s) := firing_polite fun l i u => by split <;> simp

theorem execNstore_polite (f : FmtS) : Polite s (execNstore f s) := firing_polite fun l i u => by simp

theorem execSrd_polite (f : FmtI) : Polite s (execSrd f s) := firing_polite fun l i u => by simp

theorem execClk_polite (f : FmtG) : Polite s (execClk f s) := firing_polite fun l i u => by simp

theorem execEnrd_polite (f : FmtG) : Polite s (execEnrd f s) := firing_polite fun l i u => by simp

theorem execPerfrd_polite (f : FmtI) : Polite s (execPerfrd f s) := firing_polite fun l i u => by simp

theorem execTrace_polite (f : FmtS) : Polite s (execTrace f s) := effect1_polite fun l i a u => by simp

theorem execSwr_polite (f : FmtI) : Polite s (execSwr f s) := firing_polite fun l i u => by split <;> simp

theorem execBkpt_polite (f : FmtG) : Polite s (execBkpt f s) := firing_polite fun l i u => by simp

theorem execAssert_polite (f : FmtG) : Polite s (execAssert f s) := firing_polite fun l i u => by split <;> simp

theorem execSnuff_polite (f : FmtG) : Polite s (execSnuff f s) := firing_polite fun l i u => by split <;> simp

theorem execFwcall_polite (f : FmtG) : Polite s (execFwcall f s) :=
  firing_polite fun l i u => by
    split
    · simp
    · simp
    · refine polite_ite.2 ⟨fun _ => by simp, fun _ => ?_⟩
      split
      · rename_i t h
        exact polite_next.2 (State.readBlock_policy 64 h)
      · dsimp only
        split <;> simp

theorem execRetag_polite (f : FmtG) : Polite s (execRetag f s) := firing_polite fun l i u => by split <;> simp
end

end Sys2Proof.Machine
end

section
namespace Sys2Proof.Machine

/-! ### Value instructions -/

/-- What a value instruction leaves of the state, with flags only where it is a float form: the lane is taken, and
of its instance nothing but the statuses, the write buffer, the tokens and the flags changes. -/
structure ValueStep (float : Bool) (s t : State) (l : Lane) (i : Inst) : Prop where
  lanes : t.lanes = s.lanes.tail
  outside : s.sameOutside t
  others : s.sameInsts t l.inst
  own : ∃ j, t.inst? l.inst = some j ∧
    j = { i with slots := j.slots, wbuf := j.wbuf, flying := j.flying, flags := j.flags } ∧
    (float = false → j.flags = i.flags) ∧ ∀ b, i.flags.testBit b = true → j.flags.testBit b = true

/-- An outcome that goes on is that of a value instruction. -/
def IsValue (float : Bool) (s : State) (o : Out) : Prop :=
  ∀ t, o = .next t → ∃ l i, s.lanes.head? = some l ∧ s.inst? l.inst = some i ∧ ValueStep float s t l i

/-- A value instruction that does not absorb its operands sets flags, none if it is no float form, and delivers a result. -/
def Delivers (float : Bool) (u : State) (l : Lane) (o : Out) : Prop :=
  ∀ t, o = .next t → ∃ fl v ts, (float = false → fl = 0) ∧ t = (u.orFlags l.inst fl).deliver l.inst l.slot v ts

section
variable {float : Bool} {s t : State} {l : Lane} {i : Inst}

theorem IsValue.polite {o : Out} (h : IsValue float s o) : Polite s o := by
  intro t e
  obtain ⟨l, i, -, -, hv⟩ := h t e
  have h := hv.outside
  unfold State.sameOutside at h
  rw [h]
  rfl

theorem delivers_refused (r : Refusal) : Delivers float s l (.refused r) := fun _ h => nomatch h

theorem delivers_flags (fl : Nat) (v : Tok) (ts : List (BitVec 9)) (h : float = false → fl = 0) :
    Delivers float s l (.next ((s.orFlags l.inst fl).deliver l.inst l.slot v ts)) :=
  fun _ e => ⟨fl, v, ts, h, (Host.Outcome.next.inj e).symm⟩

theorem delivers_next (v : Tok) (ts : List (BitVec 9)) : Delivers float s l (.next (s.deliver l.inst l.slot v ts)) :=
  fun _ e => ⟨0, v, ts, fun _ => rfl, by rw [s.orFlags_zero]; exact (Host.Outcome.next.inj e).symm⟩

/-- Operands absorbed: only the slot's status changes. -/
theorem ValueStep.absorb (hi : s.inst? l.inst = some i) (slot : Nat) (st : SlotStatus) :
    ValueStep float s (s.issued.modInst l.inst fun x => x.setStatus slot st) l i where
  lanes := rfl
  outside := rfl
  others := s.issued.sameInsts_modInst l.inst _ fun _ => rfl
  own := ⟨_, State.inst?_modInst (s := s.issued) _ hi fun _ => rfl, rfl, fun _ => rfl, fun _ => id⟩

theorem ValueStep.deliver (hi : s.inst? l.inst = some i) {fl : Nat} (v : Tok) (ts : List (BitVec 9))
    (hf : float = false → fl = 0) :
    ValueStep float s ((s.issued.orFlags l.inst fl).deliver l.inst l.slot v ts) l i := by
  have hflags : (s.issued.orFlags l.inst fl).inst? l.inst = some { i with flags := i.flags ||| fl } :=
    State.inst?_modInst (s := s.issued) _ hi fun _ => rfl
  have hd := State.deliver_delivered l.inst l.slot v ts (s.issued.orFlags l.inst fl)
  obtain ⟨j, hj, ej⟩ := hd.own _ hflags
  refine ⟨hd.lanes, ?_, hd.others.trans (s.issued.sameInsts_modInst l.inst _ fun _ => rfl), j, hj, ?_, ?_, ?_⟩
  · have := hd.outside
    unfold State.sameOutside at this ⊢
    rw [this]
    rfl
  · rw [ej]
  · intro h
    rw [ej, hf h]
    exact Nat.or_zero _
  · intro b hb
    rw [ej]
    simp [Nat.testBit_or, hb]

theorem firing_isValue {pr : BitVec 2} {k : Lane → Inst → State → Out} (hk : ∀ l i u, Delivers float u l (k l i u)) :
    IsValue float s (firing s pr k) := by
  intro t e
  obtain ⟨l, i, hl, hi, ⟨-, rfl⟩ | ⟨-, h⟩⟩ := firing_next e
  · exact ⟨l, i, hl, hi, .absorb hi _ _⟩
  · obtain ⟨fl, v, ts, hf, rfl⟩ := hk l i s.issued t h
    exact ⟨l, i, hl, hi, .deliver hi v ts hf⟩

variable {pr : BitVec 2} {ts : List (BitVec 9)}

theorem value0_isValue (f : Lane → Inst → Tok) : IsValue float s (value0 s pr ts f) :=
  firing_isValue fun _ _ _ => delivers_next _ _

theorem value1_isValue {f : Lane → Inst → Word → Word × Nat} (hf : float = false → ∀ l i a, (f l i a).2 = 0) :
    IsValue float s (value1 s pr ts f) :=
  firing_isValue fun l i u => by
    split
    · exact delivers_refused _
    · exact delivers_next _ _
    · exact delivers_flags _ _ _ fun h => hf h _ _ _

theorem value2_isValue {f : Lane → Inst → Word → Word → Word × Nat} (hf : float = false → ∀ l i a b, (f l i a b).2 = 0) :
    IsValue float s (value2 s pr ts f) :=
  firing_isValue fun l i u => by
    split
    · exact delivers_refused _
    · exact delivers_next _ _
    · exact delivers_flags _ _ _ fun h => hf h _ _ _ _

theorem value3_isValue {f : Lane → Inst → Word → Word → Word → Word × Nat}
    (hf : float = false → ∀ l i a b x, (f l i a b x).2 = 0) : IsValue float s (value3 s ts f) :=
  firing_isValue fun l i u => by
    split
    · exact delivers_refused _
    · exact delivers_next _ _
    · exact delivers_flags _ _ _ fun h => hf h _ _ _ _ _

theorem intOne_isValue (f : FmtG) (v : Nat → Nat → Nat) : IsValue false s (intOne f s v) :=
  value1_isValue fun _ _ _ _ => rfl

theorem intTwo_isValue (f : FmtG) (v : Nat → Nat → Nat → Nat) : IsValue false s (intTwo f s v) :=
  value2_isValue fun _ _ _ _ _ => rfl

theorem intThree_isValue (f : FmtG) (v : Nat → Nat → Nat → Nat → Nat) : IsValue false s (intThree f s v) :=
  value3_isValue fun _ _ _ _ _ _ => rfl

theorem intImm_isValue (f : FmtI) (v : Nat → Nat → Nat → Nat) : IsValue false s (intImm f s v) :=
  value1_isValue fun _ _ _ _ => rfl

theorem predTwo_isValue (f : FmtG) (v : Bool → Bool → Bool) : IsValue false s (predTwo f s v) :=
  value2_isValue fun _ _ _ _ _ => rfl

theorem execSteer_isValue (f : FmtG) : IsValue false s (execSteer f s) :=
  firing_isValue fun l i u => by
    split
    · exact delivers_refused _
    · exact delivers_next _ _
    · exact delivers_next _ _

theorem execMerge_isValue (f : FmtG) : IsValue false s (execMerge f s) :=
  firing_isValue fun l i u => by
    split
    · exact delivers_refused _
    · exact delivers_next _ _

theorem fltOne_isValue (f : FmtG) (v : Nat → Nat → Nat × Nat) : IsValue true s (fltOne f s v) := value1_isValue nofun

theorem fltTwo_isValue (f : FmtG) (v : Nat → Nat → Nat → Nat × Nat) : IsValue true s (fltTwo f s v) := value2_isValue nofun

theorem fltThree_isValue (f : FmtG) (v : Nat → Nat → Nat → Nat → Nat × Nat) : IsValue true s (fltThree f s v) :=
  value3_isValue nofun

theorem convert_isValue (f : FmtI) (v : Nat → Nat → Nat → Nat → Nat × Nat) : IsValue true s (convert f s v) :=
  value1_isValue nofun

theorem execNullOp_isValue (f : FmtG) : IsValue false s (execNullOp f s) := value0_isValue _

theorem execMovi_isValue (f : FmtI) : IsValue false s (execMovi f s) := value0_isValue _

theorem execRdc_isValue (f : FmtR) : IsValue false s (execRdc f s) := value0_isValue _

theorem execTagof_isValue (f : FmtG) : IsValue false s (execTagof f s) := value0_isValue _

theorem execGenc_isValue (f : FmtC) : IsValue false s (execGenc f s) := value0_isValue _

theorem execPnot_isValue (f : FmtG) : IsValue false s (execPnot f s) := value1_isValue fun _ _ _ _ => rfl

theorem execFan_isValue (f : FmtF) : IsValue false s (execFan f s) := value1_isValue fun _ _ _ _ => rfl

theorem execInlet_isValue (f : FmtR) : IsValue false s (execInlet f s) := value1_isValue fun _ _ _ _ => rfl

theorem execAppc_isValue (f : FmtC) : IsValue false s (execAppc f s) := value1_isValue fun _ _ _ _ => rfl

theorem execMxscl_isValue (f : FmtI) : IsValue true s (execMxscl f s) := convert_isValue f _

theorem execFrnd_isValue (f : FmtI) : IsValue true s (execFrnd f s) := value1_isValue nofun

end

/-! ### Every instruction that fires -/

theorem exec_polite {s : State} (ins : Instr) (h : ins.form.isSome) : Polite s (exec ins s) := by
  cases ins with
  | add f | sub f | mul f | mulhs f | mulhu f | divs f | divu f | rems f | remu f | andOp f | orOp f | xorOp f
  | andn f | orn f | shl f | shr f | sar f | rol f | ror f | mins f | minu f | maxs f | maxu f | absd f | teq f
  | tne f | tlts f | tles f | tltu f | tleu f | tgts f | tges f | tgtu f | tgeu f =>
    exact (intTwo_isValue f _).polite
  | neg f | abs f | notOp f | clz f | ctz f | popc f | brev f | bswap f | sext f | zext f | mov f =>
    exact (intOne_isValue f _).polite
  | nullOp f => exact (execNullOp_isValue f).polite
  | bfx f | bfxs f | bfi f | sel f | madd f | fsh f => exact (intThree_isValue f _).polite
  | addi f | muli f | andi f | ori f | xori f | shli f | shri f | sari f | roli f | minsi f | maxsi f | teqi f
  | tnei f | tltsi f | tlesi f | tltui f | tleui f | tgtsi f | tgesi f =>
    exact (intImm_isValue f _).polite
  | movi f => exact (execMovi_isValue f).polite
  | pand f | por f | pxor f => exact (predTwo_isValue f _).polite
  | pnot f => exact (execPnot_isValue f).polite
  | steer f => exact (execSteer_isValue f).polite
  | merge f => exact (execMerge_isValue f).polite
  | fan f => exact (execFan_isValue f).polite
  | rdc f => exact (execRdc_isValue f).polite
  | tagof f => exact (execTagof_isValue f).polite
  | retag f => exact execRetag_polite f
  | fadd f | fsub f | fmul f | fdiv f | fmin f | fmax f | fminm f | fmaxm f | fcpys f | fscale f | fteq f | ftne f
  | ftlt f | ftle f | ftun f | ftord f =>
    exact (fltTwo_isValue f _).polite
  | fabs f | fneg f | fsqrt f | frcp f | frsq f | ex2 f | lg2 f | sinp f | cosp f | tanh f | fclass f | ffrac f =>
    exact (fltOne_isValue f _).polite
  | frnd f => exact (execFrnd_isValue f).polite
  | ffma f | ffms f | fnfma f | fnfms f => exact (fltThree_isValue f _).polite
  | fcvt f | fcvts f | fcvtu f | scvtf f | ucvtf f | mxq f => exact (convert_isValue f _).polite
  | mxscl f => exact (execMxscl_isValue f).polite
  | ldd f | ldw f | ldws f | ldh f | ldhs f | ldb f | ldbs f => exact nearLoad_polite _ _ f
  | std f => exact show Polite s (execStd f s) from nearEffect_polite _ _ f _
  | stw f => exact show Polite s (execStw f s) from nearEffect_polite _ _ f _
  | sth f => exact show Polite s (execSth f s) from nearEffect_polite _ _ f _
  | stb f => exact show Polite s (execStb f s) from nearEffect_polite _ _ f _
  | nstore f => exact execNstore_polite f
  | aadd f => exact show Polite s (execAadd f s) from nearEffect_polite _ _ f _
  | amins f => exact show Polite s (execAmins f s) from nearEffect_polite _ _ f _
  | aminu f => exact show Polite s (execAminu f s) from nearEffect_polite _ _ f _
  | amaxs f => exact show Polite s (execAmaxs f s) from nearEffect_polite _ _ f _
  | amaxu f => exact show Polite s (execAmaxu f s) from nearEffect_polite _ _ f _
  | aand f => exact show Polite s (execAand f s) from nearEffect_polite _ _ f _
  | aor f => exact show Polite s (execAor f s) from nearEffect_polite _ _ f _
  | axor f => exact show Polite s (execAxor f s) from nearEffect_polite _ _ f _
  | afadd f => exact show Polite s (execAfadd f s) from nearEffect_polite _ _ f _
  | fld f | flda f => exact farLoad_polite _ _ f
  | fst f => exact show Polite s (execFst f s) from farPosted_polite _ _ f _
  | fstr f => exact show Polite s (execFstr f s) from farPosted_polite _ _ f _
  | faadd f | famins f | faminu f | famaxs f | famaxu f | faand f | faor f | faxor f | faxchg f | fafadd f =>
    exact farAtomic_polite _ _ _ f
  | facas f => exact execFacas_polite f
  | fence f => exact execFence_polite f
  | xmit f => exact execXmit_polite f
  | inlet f => exact (execInlet_isValue f).polite
  | fradd f => exact show Polite s (execFradd f s) from farPosted_polite _ _ f _
  | frfadd f => exact show Polite s (execFrfadd f s) from farPosted_polite _ _ f _
  | br f | call f | endStrand f | yieldOp f | trap f => exact exit0_polite fun _ _ _ => fireExit_polite _ _ _
  | bri f | calli f | ret f => exact branchTo_polite _ f
  | tsalloc f => exact execTsalloc_polite f
  | tsfree f => exact execTsfree_polite f
  | tagnew f => exact execTagnew_polite f
  | tagrel f => exact execTagrel_polite f
  | spawn f => exact execSpawn_polite f
  | spawnr f => exact execSpawnr_polite f
  | joinOp f => exact execJoinOp_polite f
  | bararr f => exact execBararr_polite f
  | barwait f => exact execBarwait_polite f
  | barsync f => exact execBarsync_polite f
  | waitOp f => exact execWaitOp_polite f
  | scopy f | sgather f | sscatter f | sfill f | mxcfg f | mxrun f | mxldacc f | mxstacc f | vmap f | vred f
  | wincfg f | winrun f | decode f | coll f | stok f | toks f =>
    exact command1_polite _ _ f _
  | sparam f => exact execSparam_polite f
  | mxrel f => exact firing_polite fun _ _ _ => fireCommand_polite _ _ _ _ _ _ _ _
  | hquery f => exact execHquery_polite f
  | rsquery f => exact execRsquery_polite f
  | srd f => exact execSrd_polite f
  | swr f => exact execSwr_polite f
  | bkpt f => exact execBkpt_polite f
  | enrd f => exact execEnrd_polite f
  | perfrd f => exact execPerfrd_polite f
  | trace f => exact execTrace_polite f
  | clk f => exact execClk_polite f
  | snuff f => exact execSnuff_polite f
  | fwcall f => exact execFwcall_polite f
  | assert f => exact execAssert_polite f
  | genc f => exact (execGenc_isValue f).polite
  | appc f => exact (execAppc_isValue f).polite
  | _ => cases h

end Sys2Proof.Machine

namespace Sys2Proof.Proofs
open Sys2Proof Sys2Proof.Machine

/-- Settles O55: a value form only sets flags and delivers (or absorbs); no shape of firing touches what device steps change. -/
theorem valueFrame : Obligations.ValueFrame := by
  intro s t l i hl hi
  extract_lets keeps
  have hkeeps (ins : Instr) (float : Bool) (h : IsValue float s (exec ins s)) : keeps ins float := by
    intro e
    obtain ⟨l', i', hl', hi', hv⟩ := h t e
    cases hl.symm.trans hl'
    cases hi.symm.trans hi'
    obtain ⟨j, hj, ej, hf, hb⟩ := hv.own
    exact ⟨hv.lanes, hv.outside, hv.others, j, hj, by rw [ej], by rw [ej], by rw [ej], by rw [ej], by rw [ej], by rw [ej],
      by rw [ej], hf, hb⟩
  refine ⟨fun f => ⟨fun ins h => hkeeps ins false ?_, fun ins h => hkeeps ins true ?_, ?_⟩,
    fun f => ⟨fun ins h => hkeeps ins false ?_, fun ins h => hkeeps ins true ?_⟩,
    fun f => ⟨hkeeps _ _ (execGenc_isValue f), hkeeps _ _ (execAppc_isValue f)⟩,
    fun f => ⟨hkeeps _ _ (execRdc_isValue f), hkeeps _ _ (execInlet_isValue f)⟩,
    fun f => hkeeps _ _ (execFan_isValue f), fun ins hform e => ?_⟩
  · revert ins h
    iterate 34 refine List.forall_mem_cons.2 ⟨intTwo_isValue f _, ?_⟩
    iterate 11 refine List.forall_mem_cons.2 ⟨intOne_isValue f _, ?_⟩
    iterate 6 refine List.forall_mem_cons.2 ⟨intThree_isValue f _, ?_⟩
    iterate 3 refine List.forall_mem_cons.2 ⟨predTwo_isValue f _, ?_⟩
    refine List.forall_mem_cons.2 ⟨execPnot_isValue f, ?_⟩
    refine List.forall_mem_cons.2 ⟨execSteer_isValue f, ?_⟩
    refine List.forall_mem_cons.2 ⟨execNullOp_isValue f, ?_⟩
    refine List.forall_mem_cons.2 ⟨execTagof_isValue f, ?_⟩
    refine List.forall_mem_cons.2 ⟨execMerge_isValue f, ?_⟩
    exact List.forall_mem_nil _
  · revert ins h
    iterate 10 refine List.forall_mem_cons.2 ⟨fltTwo_isValue f _, ?_⟩
    iterate 12 refine List.forall_mem_cons.2 ⟨fltOne_isValue f _, ?_⟩
    iterate 4 refine List.forall_mem_cons.2 ⟨fltThree_isValue f _, ?_⟩
    iterate 6 refine List.forall_mem_cons.2 ⟨fltTwo_isValue f _, ?_⟩
    exact List.forall_mem_nil _
  · rintro ⟨v, hv⟩
    refine hkeeps _ _ fun t e => ?_
    cases hv.symm.trans e
    have h := ValueStep.deliver (float := false) hi (fl := 0) v [f.t0, f.t1] fun _ => rfl
    rw [State.orFlags_zero] at h
    exact ⟨l, i, hl, hi, h⟩
  · revert ins h
    iterate 19 refine List.forall_mem_cons.2 ⟨intImm_isValue f _, ?_⟩
    refine List.forall_mem_cons.2 ⟨execMovi_isValue f, ?_⟩
    exact List.forall_mem_nil _
  · revert ins h
    refine List.forall_mem_cons.2 ⟨execFrnd_isValue f, ?_⟩
    iterate 5 refine List.forall_mem_cons.2 ⟨convert_isValue f _, ?_⟩
    refine List.forall_mem_cons.2 ⟨execMxscl_isValue f, ?_⟩
    refine List.forall_mem_cons.2 ⟨convert_isValue f _, ?_⟩
    exact List.forall_mem_nil _
  · have h := exec_polite ins hform t e
    simpa [State.policy] using h

end Sys2Proof.Proofs
end

section
/-!
PROOFS. Abandonment (02_execution_model.md R39, R40): the ember it leaves, and nothing else but the count.
-/

namespace Sys2Proof.Machine

/-! ### Reading a quad through the core -/

section
variable {s t : State}

theorem State.core_quad? (s : State) (q : QuadId) : s.core.quad? q = (s.quad? q).map Quad.bare := by
  unfold State.quad? State.core
  rw [List.find?_map]
  rfl

/-- A quad of a state with the same quads in its core has the same fields but for its books. -/
theorem State.quad?_of_core {q : QuadId} {x : Quad} (h : t.core.quads = s.core.quads) (hx : s.quad? q = some x) :
    ∃ y, t.quad? q = some y ∧ y.bare = x.bare := by
  have hq : (t.quad? q).map Quad.bare = some x.bare := by
    rw [← t.core_quad? q, quad?_congr h q, s.core_quad? q, hx]
    rfl
  simpa using hq

/-- The context and the logical die a quad is of. -/
def Quad.site (q : Quad) : CtxId × Nat := (q.cx, q.ldie)

theorem State.quad?_modQuad_map {α : Type} {g : Quad → α} {f : Quad → Quad} (hf : ∀ x, (f x).id = x.id)
    (hg : ∀ x, g (f x) = g x) (q r : QuadId) : ((s.modQuad q f).quad? r).map g = (s.quad? r).map g := by
  unfold State.quad? State.modQuad modWhere
  rw [List.find?_map, Option.map_map]
  have hid : (fun x : Quad => decide (x.id = r)) ∘ (fun x => if decide (x.id = q) then f x else x) =
      fun x => decide (x.id = r) := by
    funext x
    simp only [Function.comp_apply]
    split
    · rw [hf]
    · rfl
  rw [hid]
  refine Option.map_congr fun x _ => ?_
  simp only [Function.comp_apply]
  split
  · exact hg x
  · rfl

/-- Space for a record depends on the embers, the commits, the contexts, and where the quad is. -/
theorem State.findSpace_congr (hq : ∀ q, (t.quad? q).map Quad.site = (s.quad? q).map Quad.site)
    (hc : t.contexts = s.contexts) (he : t.embers = s.embers) (hm : t.commits = s.commits) (cx : CtxId) (q : QuadId) (n : Nat)
    (taken : List (Pool × Nat × Nat)) : t.findSpace cx q n taken = s.findSpace cx q n taken := by
  have hctx (c : CtxId) : t.ctx? c = s.ctx? c := congrArg (List.find? _) hc
  have hused (p : Pool) : t.poolUsed cx p = s.poolUsed cx p := by
    unfold State.poolUsed
    rw [he, hm]
  have hsize (x : Quad) : t.vaultPoolSize x = s.vaultPoolSize x := by
    unfold State.vaultPoolSize
    rw [hctx]
  have hsite (r : State) (used : List (Nat × Nat)) : ((r.quad? q).bind fun x => firstFit (s.vaultPoolSize x) n used) =
      ((r.quad? q).map Quad.site).bind fun x =>
        firstFit ((((s.ctx? x.1).bind (·.decl? x.2)).map (·.embersKiB * 1024)).getD 0) n used := by
    rw [Option.bind_map]
    rfl
  unfold State.findSpace
  simp only [hused, hsize, hsite, hq, hctx]

theorem State.findSpace_size {cx : CtxId} {q : QuadId} {n : Nat} {taken : List (Pool × Nat × Nat)} {x : Pool × Nat × Nat}
    (h : s.findSpace cx q n taken = some x) : x.2.2 = n := by
  unfold State.findSpace at h
  dsimp only at h
  split at h
  · cases h
    rfl
  · obtain ⟨a, -, rfl⟩ := Option.map_eq_some_iff.1 h
    rfl

/-! ### An instance that leaves -/

theorem Quad.addSpilled_bare (q : Quad) (b k n : Nat) : (q.addSpilled b k n).bare = q.bare := rfl

theorem Quad.addOwed_bare (q : Quad) (i : Inst) : (q.addOwed i).bare = q.bare := by
  unfold Quad.addOwed
  induction i.slots generalizing q with
  | nil => rfl
  | cons x xs ih =>
    refine (ih _).trans ?_
    dsimp only
    split
    · exact q.addSpilled_bare ..
    · rfl

theorem State.settleEnergy_core (s : State) (i : Inst) : (s.settleEnergy i).core = s.core :=
  (State.modQuad_core _ _ fun q => q.addOwed_bare i).trans rfl

/-- A change of what the core keeps of a quad. -/
theorem State.modQuad_core_bare (s : State) (q : QuadId) {f g : Quad → Quad} (hf : ∀ x, (f x).bare = g x.bare) :
    (s.modQuad q f).core = s.core.modQuad q g := by
  have hmap : (modWhere (fun x : Quad => decide (x.id = q)) f s.quads).map Quad.bare =
      modWhere (fun x : Quad => decide (x.id = q)) g (s.quads.map Quad.bare) := by
    rw [modWhere, modWhere, List.map_map, List.map_map]
    refine List.map_congr_left fun x _ => ?_
    simp only [Function.comp_apply, apply_ite Quad.bare, hf]
    rfl
  exact congrArg (fun qs => { s.core with quads := qs }) hmap

/-- One more in %replay (R40). -/
def Quad.replayed (q : Quad) : Quad := { q with replay := q.replay + 1 }

theorem State.countReplay_core (s : State) (q : QuadId) (reason : Nat) :
    (s.countReplay q reason).core = s.core.modQuad q Quad.replayed :=
  s.modQuad_core_bare q fun _ => rfl

/-- The strand an abandonment leaves. -/
def Inst.refused (i : Inst) (s : State) (reason : Nat) (wait : Wait) : Strand := (i.strandAfter s).refuse reason wait

/-- What an abandonment leaves of a core before its ember is deposited: one more in %replay, and the instance gone. -/
def State.left (s : State) (i : Inst) : State := ((s.modQuad i.frame.quad Quad.replayed).untake i).dropInst i.id

theorem Strand.refuse_keeps (st : Strand) (reason : Nat) (wait : Wait) :
    (st.refuse reason wait).sid = st.sid ∧ (st.refuse reason wait).tag = st.tag ∧
      (st.refuse reason wait).cx = st.cx ∧ (st.refuse reason wait).handler = st.handler ∧
      (reason ≤ 0x83 → (st.refuse reason wait).refusals = st.refusals + 1) := by
  unfold Strand.refuse
  by_cases h : reason ≤ 0x83
  · simp [h]
  · simp [h]

/-- The core an abandonment with room for its record leaves. -/
theorem State.abandon_core (s : State) (i : Inst) {reason : Nat} (wait : Wait) (hr : reason ≠ 0x87) {p : Pool} {a n : Nat}
    (hp : s.fullPlace (i.refused s reason wait) i.frame.quad reason = some (p, a, n)) :
    ∃ id seq, (s.abandon i reason wait).core = { s.core.left i with embers := s.core.embers ++
      [fullRecord id (i.refused s reason wait) i.frame.quad i.frame.elem i.addr i.frame.regs reason wait p a seq] } := by
  unfold State.abandon
  extract_lets cx q s0 s1 st
  have h1 : s1.core = s.core.left i := by
    have h0 : s0.core = s.core := s.traceRec_core ..
    have hc : ((s0.countReplay q reason).settleEnergy i).core = s.core.modQuad q Quad.replayed :=
      (State.settleEnergy_core _ i).trans ((s0.countReplay_core q reason).trans (by rw [h0]))
    exact congrArg (fun t : State => (t.untake i).dropInst i.id) hc
  have hfind (cx : CtxId) (q' : QuadId) : s1.findSpace cx q' 320 [] = s.findSpace cx q' 320 [] := by
    have hc : s1.contexts = s.contexts := (congrArg State.contexts h1 :)
    have he : s1.embers = s.embers := (congrArg State.embers h1 :)
    have hm : s1.commits = s.commits := (congrArg State.commits h1 :)
    refine State.findSpace_congr (fun r => ?_) hc he hm _ _ _ _
    have hs (t : State) : (t.quad? r).map Quad.site = (t.core.quad? r).map Quad.site := by
      rw [t.core_quad?, Option.map_map]
      rfl
    rw [hs s1, hs s, h1]
    exact State.quad?_modQuad_map (s := s.core) (f := Quad.replayed) (fun _ => rfl) (fun _ => rfl) _ _
  have hplace : s1.fullPlace st q reason = some (p, a, n) := by
    rw [← hp]
    unfold State.fullPlace
    rw [hfind]
    rfl
  split
  rename_i block regs hpair
  obtain ⟨rfl, rfl⟩ : i.addr = block ∧ i.frame.regs = regs := by
    split at hpair
    · exact absurd rfl hr
    · exact Prod.mk.inj hpair
  rw [State.fullEmber_placed hplace]
  obtain ⟨seq, h⟩ := State.fullRecord_core (s := s1) (st := st) (q := q) (elem := i.frame.elem) (block := i.addr)
    (regs := i.frame.regs) (reason := reason) (wait := wait) p a
  refine ⟨s1.nextId, seq, h.trans ?_⟩
  rw [h1]
  rfl
end
end Sys2Proof.Machine

namespace Sys2Proof.Proofs
open Sys2Proof Sys2Proof.Machine

/-- Settles O40: the core an abandonment leaves, read field by field. -/
theorem abandonment : Obligations.Abandonment := by
  intro s i c q reason wait hr hi hc hq hh htrace hspace t st
  obtain ⟨hsid, htag, hcx, hhandler, hcount⟩ := (i.strandAfter s).refuse_keeps reason wait
  have hplace : ∃ p a, s.fullPlace (i.refused s reason wait) i.frame.quad reason = some (p, a, 320) ∧
      (reason = 0x86 → p = .image) ∧ (reason ≠ 0x86 → s.findSpace st.cx i.frame.quad 320 [] = some (p, a, 320)) := by
    unfold State.fullPlace
    by_cases h : reason = 0x86
    · exact ⟨.image, 0, if_pos h, fun _ => rfl, fun hn => absurd h hn⟩
    · obtain ⟨⟨p, a, n⟩, hx⟩ := Option.isSome_iff_exists.1 (hspace.resolve_left h)
      obtain rfl : n = 320 := State.findSpace_size hx
      refine ⟨p, a, ?_, fun hy => absurd hy h, fun _ => hx⟩
      have hnone : (i.refused s reason wait).handler = none := hhandler.trans hh
      have hcx' : (i.refused s reason wait).cx = i.frame.strand.cx := hcx
      rw [if_neg h, hnone, hcx']
      exact hx
  obtain ⟨p, a, hp, himage, hfound⟩ := hplace
  obtain ⟨id, seq, ht⟩ := s.abandon_core i wait hr hp
  have hquads : t.core.quads = (s.modQuad i.frame.quad Quad.replayed).core.quads := by
    rw [s.modQuad_core_bare i.frame.quad (g := Quad.replayed) fun _ => rfl, ht]
    rfl
  obtain ⟨x, hx, ex⟩ := State.quad?_of_core hquads (State.quad?_modQuad hq Quad.replayed rfl)
  have hembers : t.embers = _ := (congrArg State.embers ht :)
  have hinsts : t.insts = s.insts.filter (fun j => j.id ≠ i.id) := (congrArg State.insts ht :)
  have hframes : t.frames = s.frames := (congrArg State.frames ht :)
  have hcommits : t.commits = s.commits := (congrArg State.commits ht :)
  have hctx : t.contexts = s.contexts := (congrArg State.contexts ht :)
  have hreplay : x.replay = q.replay + 1 := (congrArg Quad.replay ex :)
  have hcur : t.ctx? st.cx = some c := (congrArg (List.find? _) hctx).trans hc
  exact ⟨_, x, hembers, hsid, htag, rfl, rfl, rfl, rfl, rfl, rfl, himage, hfound, hcount, hx, hreplay, hinsts, hframes,
    hcommits, hcur⟩

end Sys2Proof.Proofs
end

section
/-!
PROOFS. Matching, issue, fetch and start (03_formats.md R75, R77; 13_progress.md R290-R292).
-/

namespace Sys2Proof.Machine

/-! ### The ready queue filled (R291) -/

/-- A slot's state with its status made ready, if it is among some slots of instances. -/
def SlotState.readied (ps : List (Nat × Nat)) (n : Nat) (x : SlotState) : SlotState :=
  if (n, x.slot) ∈ ps then { x with status := .ready } else x

/-- An instance with some slots made ready. -/
def Inst.readied (ps : List (Nat × Nat)) (i : Inst) : Inst := { i with slots := i.slots.map (·.readied ps i.id) }

@[simp] theorem SlotState.readied_slot (ps : List (Nat × Nat)) (n : Nat) (x : SlotState) : (x.readied ps n).slot = x.slot := by
  unfold SlotState.readied
  split <;> rfl

@[simp] theorem SlotState.readied_ops (ps : List (Nat × Nat)) (n : Nat) (x : SlotState) : (x.readied ps n).ops = x.ops := by
  unfold SlotState.readied
  split <;> rfl

theorem SlotState.readied_status (ps : List (Nat × Nat)) (n : Nat) (x : SlotState) :
    (x.readied ps n).status = x.status ∨ ((x.readied ps n).status = .ready ∧ (n, x.slot) ∈ ps) := by
  unfold SlotState.readied
  split
  · exact .inr ⟨rfl, ‹_›⟩
  · exact .inl rfl

theorem Inst.readied_nil (i : Inst) : i.readied [] = i := by
  have h (x : SlotState) : x.readied [] i.id = x := by simp [SlotState.readied]
  simp [Inst.readied, h]

/-- One slot made ready, then others. -/
theorem Inst.readied_cons (p : Nat × Nat) (ps : List (Nat × Nat)) (i : Inst) :
    i.readied (p :: ps) = (if i.id = p.1 then i.setStatus p.2 .ready else i).readied ps := by
  unfold Inst.readied
  split
  · rename_i h
    simp only [Inst.setStatus, modWhere, List.map_map]
    congr 1
    refine List.map_congr_left fun x _ => ?_
    simp only [Function.comp_apply, SlotState.readied, List.mem_cons, Prod.ext_iff, h, true_and]
    by_cases hx : x.slot = p.2 <;> simp [hx]
  · rename_i h
    congr 1
    refine List.map_congr_left fun x _ => ?_
    simp [SlotState.readied, List.mem_cons, Prod.ext_iff, h]

theorem State.foldl_ready (ps : List (Nat × Nat)) (s : State) :
    ps.foldl (fun s p => s.modInst p.1 fun i => i.setStatus p.2 .ready) s = { s with insts := s.insts.map (·.readied ps) } := by
  induction ps generalizing s with
  | nil =>
    have hinsts : s.insts.map (·.readied []) = s.insts := by simp [Inst.readied_nil]
    exact congrArg (fun is => { s with insts := is }) hinsts.symm
  | cons p ps ih =>
    have hinsts : (s.modInst p.1 fun i => i.setStatus p.2 .ready).insts.map (·.readied ps) =
        s.insts.map (·.readied (p :: ps)) := by
      simp only [State.modInst, modWhere, List.map_map]
      refine List.map_congr_left fun i _ => ?_
      simp only [Function.comp_apply, decide_eq_true_eq, Inst.readied_cons]
    exact (ih _).trans (congrArg (fun is => { s with insts := is }) hinsts)

theorem mem_insertBy {α : Type} {le : α → α → Bool} {x y : α} : ∀ {xs : List α}, y ∈ insertBy le x xs ↔ y = x ∨ y ∈ xs
  | [] => by simp [insertBy]
  | z :: r => by
    unfold insertBy
    split
    · simp
    · simp only [List.mem_cons, mem_insertBy (xs := r)]
      tauto

theorem mem_sortBy {α : Type} {le : α → α → Bool} {y : α} : ∀ {xs : List α}, y ∈ sortBy le xs ↔ y ∈ xs
  | [] => Iff.rfl
  | x :: r => by
    unfold sortBy
    rw [mem_insertBy, mem_sortBy, List.mem_cons]

theorem State.mem_resident {s : State} {q : QuadId} {elem : Nat} {i : Inst} :
    i ∈ s.resident q elem ↔ i ∈ s.insts ∧ i.frame.quad = q ∧ i.frame.elem = elem ∧ i.held = false := by
  unfold State.resident
  rw [mem_sortBy, List.mem_filter]
  simp

/-- The slots that enter the ready queue are marked ones of instances there are; nothing else changes. -/
theorem State.fillQueue_eq (s : State) (q : QuadId) (elem : Nat) :
    ∃ ps : List (Nat × Nat), (∀ p ∈ ps, ∃ i ∈ s.insts, p.1 = i.id ∧ p.2 ∈ i.markedSlots) ∧
      s.fillQueue q elem = { s with insts := s.insts.map (·.readied ps) } := by
  refine ⟨_, fun p hp => ?_, State.foldl_ready _ s⟩
  obtain ⟨i, hi, hp⟩ := List.mem_flatMap.1 (List.mem_of_mem_take hp)
  obtain ⟨k, hk, rfl⟩ := List.mem_map.1 hp
  exact ⟨i, (State.mem_resident.1 hi).1, rfl, hk⟩

theorem Inst.find?_map_readied (ps : List (Nat × Nat)) (n : Nat) (xs : List Inst) :
    (xs.map (·.readied ps)).find? (fun x => decide (x.id = n)) = (xs.find? fun x => decide (x.id = n)).map (·.readied ps) := by
  rw [List.find?_map]
  rfl

theorem Inst.readied_find? (ps : List (Nat × Nat)) (i : Inst) (k : Nat) :
    (i.readied ps).slots.find? (fun x => decide (x.slot = k)) =
      (i.slots.find? fun x => decide (x.slot = k)).map (·.readied ps i.id) := by
  unfold Inst.readied
  rw [List.find?_map]
  congr 2
  funext x
  simp

/-! ### A token taken (R75, R77, R134) -/

theorem portsOfInstr_op_eq (ins : Instr) : (portsOfInstr ins).op = 0x085 ↔ ∃ f, ins = .merge f := by
  cases ins with
  | merge f => exact iff_of_true rfl ⟨f, rfl⟩
  | _ => exact iff_of_false (Nat.ne_of_beq_eq_false rfl) fun h => h.elim fun _ e => Instr.noConfusion e

/-- What a token taken at a free port makes of a slot, and how many tokens MERGE drops. -/
structure Taken (ins : Instr) (o : Operands) (y : SlotState) (n : Nat) : Prop where
  wait : matchOf (portsOfInstr ins) (prOf ins) o = .wait → y.status = .idle
  fire : matchOf (portsOfInstr ins) (prOf ins) o = .fire → y.status = .marked
  absorb : matchOf (portsOfInstr ins) (prOf ins) o = .absorb → ∃ a b, y.status = .absorbed a b true
  plain : (∀ f, ins ≠ .merge f) → y.ops = o ∧ n = 0
  merge : (∃ f, ins = .merge f) → ∀ w : Word, o.third = some (.val w) → y.ops.third = o.third ∧
    (w.getLsbD 0 = true → y.ops.left = o.left ∧ y.ops.right = none ∧ n = if o.right.isSome then 1 else 0) ∧
    (w.getLsbD 0 = false → y.ops.right = o.right ∧ y.ops.left = none ∧ n = if o.left.isSome then 1 else 0)

section
variable {i : Inst} {clk : Nat} {st : SlotState} {ins : Instr} {p : Port} {t : Tok}

theorem Inst.takeToken_full (h : st.status ∈ [.fired, .ready, .marked] ∨ (st.status = .idle ∧ (st.ops.get p).isSome)) :
    i.takeToken clk st ins p t = i.drop 1 := by
  unfold Inst.takeToken
  rcases h with h | ⟨h, hp⟩
  · simp only [List.mem_cons, List.not_mem_nil, or_false] at h
    rcases h with h | h | h <;> simp [h]
  · simp [h, hp]

theorem mergeMatch_ne_absorb (o : Operands) : mergeMatch o ≠ .absorb := by
  unfold mergeMatch
  repeat' split
  all_goals decide

theorem mergeKeep_val {o : Operands} {w : Word} (h : o.third = some (.val w)) :
    (mergeKeep o).third = o.third ∧
    (w.getLsbD 0 = true → (mergeKeep o).left = o.left ∧ (mergeKeep o).right = none ∧
      mergeDrops o = if o.right.isSome then 1 else 0) ∧
    (w.getLsbD 0 = false → (mergeKeep o).right = o.right ∧ (mergeKeep o).left = none ∧
      mergeDrops o = if o.left.isSome then 1 else 0) := by
  have hbit : w.bit 0 = w.getLsbD 0 := by
    simp [Word.bit, bitOf, BitVec.getLsbD, Nat.testBit_zero, beq_eq_decide]
  unfold mergeKeep mergeDrops
  simp only [h, hbit]
  cases w.getLsbD 0 <;> simp

/-- The operands a slot keeps of a token at a free port, and the tokens dropped there. -/
def keptOps (ins : Instr) (o : Operands) : Operands := if (portsOfInstr ins).op == 0x085 then mergeKeep o else o
def keptDrops (ins : Instr) (o : Operands) : Nat := if (portsOfInstr ins).op == 0x085 then mergeDrops o else 0

theorem kept_of_ne_merge (h : ∀ f, ins ≠ .merge f) (o : Operands) : keptOps ins o = o ∧ keptDrops ins o = 0 := by
  have hop : (portsOfInstr ins).op ≠ 0x085 := fun he => by
    obtain ⟨f, hf⟩ := (portsOfInstr_op_eq ins).1 he
    exact h f hf
  simp [keptOps, keptDrops, hop]

theorem matchOf_merge_ne_absorb (f : FmtG) (pr : BitVec 2) (o : Operands) :
    matchOf (portsOfInstr (.merge f)) pr o ≠ .absorb :=
  mergeMatch_ne_absorb o

/-- A slot that keeps what it keeps, with the status its match gives it. -/
theorem taken_of_kept {o : Operands} {y : SlotState} {n : Nat} (hy : y.ops = keptOps ins o)
    (hn : matchOf (portsOfInstr ins) (prOf ins) o ≠ .absorb → n = keptDrops ins o)
    (ha : matchOf (portsOfInstr ins) (prOf ins) o = .absorb → n = 0)
    (wait : matchOf (portsOfInstr ins) (prOf ins) o = .wait → y.status = .idle)
    (fire : matchOf (portsOfInstr ins) (prOf ins) o = .fire → y.status = .marked)
    (absorb : matchOf (portsOfInstr ins) (prOf ins) o = .absorb → ∃ a b, y.status = .absorbed a b true) :
    Taken ins o y n where
  wait := wait
  fire := fire
  absorb := absorb
  plain hf := by
    obtain ⟨hops, hdrops⟩ := kept_of_ne_merge hf o
    refine ⟨hy.trans hops, ?_⟩
    by_cases hm : matchOf (portsOfInstr ins) (prOf ins) o = .absorb
    · exact ha hm
    · exact (hn hm).trans hdrops
  merge hf w hw := by
    obtain ⟨f, rfl⟩ := hf
    rw [hy, hn (matchOf_merge_ne_absorb f _ o)]
    exact mergeKeep_val hw

theorem Inst.takeToken_free (h : st.status = .idle) (hp : st.ops.get p = none) : ∃ y n,
    i.takeToken clk st ins p t =
      { i with slots := modWhere (fun z => z.slot = st.slot) (fun _ => y) i.slots, drops := i.drops + n } ∧
    y.slot = st.slot ∧ Taken ins (st.ops.set p t) y n := by
  obtain ⟨slot, ops, status, since, spilled, owed⟩ := st
  obtain rfl : status = .idle := h
  let st : SlotState := ⟨slot, ops, .idle, since, spilled, owed⟩
  let x : SlotState := { st with ops := keptOps ins (st.ops.set p t), first := some (st.first.getD clk) }
  unfold Inst.takeToken
  simp only [hp, Option.isSome_none, Bool.false_eq_true, if_false]
  split
  · rename_i hm
    refine ⟨x, keptDrops ins (st.ops.set p t), rfl, rfl, taken_of_kept rfl (fun _ => rfl) ?_ (fun _ => rfl) ?_ ?_⟩
    all_goals
      intro e
      cases hm.symm.trans e
  · rename_i hm
    refine ⟨{ x with status := .marked }, keptDrops ins (st.ops.set p t), rfl, rfl,
      taken_of_kept rfl (fun _ => rfl) ?_ ?_ (fun _ => rfl) ?_⟩
    all_goals
      intro e
      cases hm.symm.trans e
  · rename_i hm
    refine ⟨{ x with status := .absorbed (st.ops.set p t).left.isSome (st.ops.set p t).right.isSome true }, 0, rfl, rfl,
      taken_of_kept rfl (fun hn => absurd hm hn) (fun _ => rfl) ?_ ?_ fun _ => ⟨_, _, rfl⟩⟩
    all_goals
      intro e
      cases hm.symm.trans e
end

end Sys2Proof.Machine
end

section
namespace Sys2Proof.Machine

/-! ### TOKEN_ARRIVAL -/

section
variable {s : State} {i : Inst} {st : SlotState} {ins : Instr} {p : Port} {t : Tok}

theorem State.spill_keeps : (s.spill i st ins p t).1.insts = s.insts ∧ (s.spill i st ins p t).1.flying = s.flying ∧
    (s.spill i st ins p t).2.slot = st.slot ∧ (s.spill i st ins p t).2.status = st.status ∧
    (s.spill i st ins p t).2.ops = st.ops := by
  unfold State.spill
  dsimp only
  repeat' split
  all_goals exact ⟨rfl, rfl, rfl, rfl, rfl⟩

theorem State.profile_keeps {j : Inst} : (s.profile i j st ins).insts = s.insts ∧ (s.profile i j st ins).flying = s.flying := by
  unfold State.profile
  repeat' split
  all_goals exact ⟨rfl, rfl⟩

theorem Inst.takeToken_keeps (i : Inst) (clk : Nat) (st : SlotState) (ins : Instr) (p : Port) (t : Tok) :
    (i.takeToken clk st ins p t).id = i.id ∧ (i.takeToken clk st ins p t).flying = i.flying := by
  unfold Inst.takeToken
  dsimp only
  repeat' split
  all_goals exact ⟨rfl, rfl⟩

theorem State.inst?_put {n : Nat} {j : Inst} (hi : s.inst? n = some i) (hj : j.id = n) :
    (s.modInst n fun _ => j).inst? n = some j :=
  find?_modWhere (p := fun y : Inst => decide (y.id = n)) (f := fun _ => j) (decide_eq_true hj) hi

/-- An instance of a state put in place of all of its identity, among them the slots marked as its own. -/
theorem mem_modWhere_const {n : Nat} {j x : Inst} {xs : List Inst} (h : x ∈ modWhere (fun y => decide (y.id = n)) (fun _ => j) xs)
    (hx : x.id = n) : x = j := by
  obtain ⟨y, -, rfl⟩ := List.mem_map.1 h
  by_cases hy : y.id = n
  · simp [hy]
  · simp [hy] at hx

/-- The queue filled after an instance was put in place of another: the instance with some of its marked slots ready. -/
theorem State.fillQueue_put {n : Nat} {j : Inst} (hi : s.inst? n = some i) (hj : j.id = n) {u : State}
    (hu : u.insts = modWhere (fun x => decide (x.id = n)) (fun _ => j) s.insts) (q : QuadId) (elem : Nat) :
    ∃ ps, (u.fillQueue q elem).inst? n = some (j.readied ps) ∧ (u.fillQueue q elem).flying = u.flying ∧
      ∀ k, (j.id, k) ∈ ps → k ∈ j.markedSlots := by
  obtain ⟨ps, hps, hfill⟩ := u.fillQueue_eq q elem
  refine ⟨ps, ?_, by rw [hfill], fun k hk => ?_⟩
  · rw [hfill]
    unfold State.inst?
    dsimp only
    rw [Inst.find?_map_readied, hu, find?_modWhere (x := i) (decide_eq_true hj) hi]
    rfl
  · obtain ⟨x, hx, hid, hk⟩ := hps _ hk
    rw [hu] at hx
    rwa [mem_modWhere_const hx (hid.symm.trans hj)] at hk

theorem Inst.readied_ops (ps : List (Nat × Nat)) (j : Inst) (k : Nat) :
    ((j.readied ps).slots.find? fun x => decide (x.slot = k)).map (·.ops) =
      (j.slots.find? fun x => decide (x.slot = k)).map (·.ops) := by
  rw [Inst.readied_find?, Option.map_map]
  congr 1
  funext x
  exact x.readied_ops ps j.id

/-- A slot put in place of all of its number, then made ready if it is marked. -/
theorem Inst.readied_put {ps : List (Nat × Nat)} {j : Inst} {y : SlotState} {x : SlotState} {xs : List SlotState} {k : Nat}
    (hps : ∀ k, (j.id, k) ∈ ps → k ∈ j.markedSlots) (hx : xs.find? (fun z => decide (z.slot = k)) = some x) (hy : y.slot = k)
    (hj : j.slots = modWhere (fun z => decide (z.slot = k)) (fun _ => y) xs) :
    ∃ z, (j.readied ps).slots.find? (fun z => decide (z.slot = k)) = some z ∧ z.ops = y.ops ∧
      (z.status = y.status ∨ (z.status = .ready ∧ y.status = .marked)) := by
  refine ⟨y.readied ps j.id, ?_, y.readied_ops ps j.id, ?_⟩
  · rw [Inst.readied_find?, hj, find?_modWhere (x := x) (by simpa using hy) hx]
    rfl
  · refine (y.readied_status ps j.id).imp_right fun ⟨hr, hm⟩ => ⟨hr, ?_⟩
    obtain ⟨z, hz, hzs⟩ := List.mem_map.1 (hps _ hm)
    obtain ⟨hz, hmarked⟩ := List.mem_filter.1 hz
    rw [hj] at hz
    obtain ⟨w, -, rfl⟩ := List.mem_map.1 hz
    by_cases hw : w.slot = k
    · simpa [hw] using hmarked
    · simp only [hw, decide_false, Bool.false_eq_true, if_false] at hzs
      exact absurd (hzs.trans hy) hw
end

/-- What TOKEN_ARRIVAL leaves of the instance the token goes to (R75, R77, R134). -/
theorem tokenArrival_completes {s : State} {n : Nat} {t : Flying} {i : Inst} {q : Quad}
    (ht : s.flying.find? (·.id = n) = some t) (hi : s.inst? t.inst = some i) (hheld : i.held = false)
    (hq : s.quad? i.frame.quad = some q) (hruns : s.quadRuns q = true)
    (hfirst : ∀ x ∈ s.flying, x.inst = t.inst → x.slot = t.slot → x.port = t.port → t.from' ≤ x.from') :
    Completes (exec (.evTokenArrival n) s) fun s' => s'.flying = s.flying.filter (·.id ≠ n) ∧
      ∃ j : Inst, s'.inst? t.inst = some j ∧ j.flying = i.flying.filter (· ≠ n) ∧
        ∀ (x : SlotState) (ins : Instr), i.slots.find? (·.slot = t.slot) = some x → i.instrAt? t.slot = some ins →
          (x.status ∈ [.fired, .ready, .marked] ∨ (x.status = .idle ∧ (x.ops.get t.port).isSome) → j.drops = i.drops + 1 ∧
            ∀ k, (j.slots.find? (·.slot = k)).map (·.ops) = (i.slots.find? (·.slot = k)).map (·.ops)) ∧
          (x.status = .idle → x.ops.get t.port = none → ∃ (y z : SlotState) (d : Nat),
            j.slots.find? (·.slot = t.slot) = some z ∧ z.ops = y.ops ∧
            (z.status = y.status ∨ (z.status = .ready ∧ y.status = .marked)) ∧ j.drops = i.drops + d ∧
            Taken ins (x.ops.set t.port t.tok) y d) := by
  have hid : i.id = t.inst := by simpa using List.find?_some hi
  have hguard : (i.held || ((s.quad? i.frame.quad).map s.quadRuns) == some false ||
      (s.flying.any fun x => x.inst = t.inst ∧ x.slot = t.slot ∧ x.port = t.port ∧ x.from' < t.from')) = false := by
    simp only [hheld, hq, hruns, Option.map_some, Bool.false_or, Bool.or_eq_false_iff, List.any_eq_false, decide_eq_true_eq]
    exact ⟨rfl, fun x hx ⟨h1, h2, h3, h4⟩ => absurd h4 (Nat.not_lt.2 (hfirst x hx h1 h2 h3))⟩
  show Completes (execEvTokenArrival n s) _
  unfold execEvTokenArrival
  simp only [ht, hi, hguard, Bool.false_eq_true, if_false]
  split
  · rename_i x ins hx hins
    obtain ⟨hinsts, hflying, hslot, hstatus, hops⟩ := State.spill_keeps
      (s := { s with flying := s.flying.filter (·.id ≠ n) }) (i := i) (st := x) (ins := ins) (p := t.port) (t := t.tok)
    generalize State.spill _ i x ins t.port t.tok = r at hinsts hflying hslot hstatus hops
    obtain ⟨s2, st'⟩ := r
    dsimp only at hinsts hflying hslot hstatus hops ⊢
    have hxslot : x.slot = t.slot := by simpa using List.find?_some hx
    let i0 : Inst := { i with flying := i.flying.filter (· ≠ n) }
    obtain ⟨hjid, hjfly⟩ := i0.takeToken_keeps s.clk st' ins t.port t.tok
    replace hjid := hjid.trans hid
    generalize hj : i0.takeToken s.clk st' ins t.port t.tok = j at hjid hjfly ⊢
    have hp := State.profile_keeps (s := s2.modInst t.inst fun _ => j) (i := i) (j := j) (st := st') (ins := ins)
    obtain ⟨ps, hinst, hfly, hmarked⟩ := State.fillQueue_put hi hjid
      (u := (s2.modInst t.inst fun _ => j).profile i j st' ins)
      (by rw [hp.1]; show modWhere _ _ s2.insts = _; rw [hinsts]) i.frame.quad i.frame.elem
    refine ⟨_, rfl, (hfly.trans hp.2).trans hflying, j.readied ps, hinst, hjfly, fun x' ins' hx' hins' => ?_⟩
    cases hx.symm.trans hx'
    cases hins.symm.trans hins'
    refine ⟨fun hfull => ?_, fun hidle hport => ?_⟩
    · rw [← hstatus, ← hops] at hfull
      rw [Inst.takeToken_full hfull] at hj
      subst hj
      exact ⟨rfl, fun k => Inst.readied_ops ps _ k⟩
    · rw [← hstatus] at hidle
      rw [← hops] at hport
      obtain ⟨y, d, htake, hyslot, htaken⟩ := Inst.takeToken_free (i := i0) (clk := s.clk) (ins := ins) (t := t.tok)
        hidle hport
      rw [hj] at htake
      obtain ⟨z, hz, hzops, hzs⟩ := Inst.readied_put (xs := i.slots) hmarked hx (hyslot.trans (hslot.trans hxslot))
        (by rw [htake]; show modWhere _ _ i0.slots = _; rw [hslot, hxslot])
      refine ⟨y, z, d, hz, hzops, hzs, ?_, hops ▸ htaken⟩
      show j.drops = _
      rw [htake]
  · rename_i hnone
    refine ⟨_, rfl, rfl, ({ i with flying := i.flying.filter (· ≠ n) } : Inst).drop 1, State.inst?_put hi hid, rfl, fun x ins hx hins => ?_⟩
    exact absurd hins (hnone x ins hx)

end Sys2Proof.Machine
end

section
namespace Sys2Proof.Machine

/-! ### ELEMENT_ISSUE (R291, R292) -/

theorem pairwise_insertBy {α : Type} {key : α → Nat} {x : α} : ∀ {xs : List α}, xs.Pairwise (fun a b => key a ≤ key b) →
    (insertBy (fun a b => decide (key a ≤ key b)) x xs).Pairwise fun a b => key a ≤ key b
  | [], _ => List.pairwise_singleton _ _
  | y :: r, h => by
    obtain ⟨hy, hr⟩ := List.pairwise_cons.1 h
    unfold insertBy
    split
    · rename_i hle
      replace hle : key x ≤ key y := by simpa using hle
      refine List.pairwise_cons.2 ⟨fun z hz => ?_, h⟩
      rcases List.mem_cons.1 hz with rfl | hz
      · exact hle
      · exact hle.trans (hy z hz)
    · rename_i hle
      replace hle : key y < key x := by simpa using hle
      refine List.pairwise_cons.2 ⟨fun z hz => ?_, pairwise_insertBy hr⟩
      rcases mem_insertBy.1 hz with rfl | hz
      · exact hle.le
      · exact hy z hz

theorem pairwise_sortBy {α : Type} (key : α → Nat) : ∀ xs : List α,
    (sortBy (fun a b => decide (key a ≤ key b)) xs).Pairwise fun a b => key a ≤ key b
  | [] => List.Pairwise.nil
  | _ :: r => pairwise_insertBy (pairwise_sortBy key r)

/-- The first of a sorted list with a property, when every other with it is later. -/
theorem find?_sorted {α : Type} {key : α → Nat} {xs : List α} (hs : xs.Pairwise fun a b => key a ≤ key b) {p : α → Bool} {b : α}
    (hb : b ∈ xs) (hp : p b = true) (hmin : ∀ a ∈ xs, p a = true → key b < key a ∨ a = b) :
    ∃ before after, xs = before ++ b :: after ∧ ∀ a ∈ before, p a = false := by
  obtain ⟨b', hb'⟩ := Option.isSome_iff_exists.1 (List.find?_isSome.2 ⟨b, hb, hp⟩)
  obtain ⟨hp', before, after, rfl, hbefore⟩ := List.find?_eq_some_iff_append.1 hb'
  rcases hmin b' (by simp) hp' with hlt | rfl
  · have hafter : b ∈ after := by
      rcases List.mem_append.1 hb with h | h
      · exact absurd hp (by simpa using hbefore b h)
      · refine (List.mem_cons.1 h).resolve_left fun e => ?_
        exact absurd hlt (by simp [e])
    obtain ⟨-, hs', -⟩ := List.pairwise_append.1 hs
    exact absurd ((List.pairwise_cons.1 hs').1 b hafter) (Nat.not_le.2 hlt)
  · exact ⟨before, after, rfl, by simpa using hbefore⟩

theorem selectLanes_eq {before after : List Inst} {b : Inst} {n : Nat} (hbefore : ∀ a ∈ before, a.readySlots = [])
    (hn : n ∈ b.readySlots) (hmin : ∀ k ∈ b.readySlots, n ≤ k) : ∃ more : List (Inst × Nat),
    selectLanes (before ++ b :: after) = (b, n) :: more ∧ (b.header.gather = false → more = []) ∧ more.length ≤ 7 ∧
      ∀ p ∈ more, p.2 = n ∧ p.1 ∈ after ∧ p.1.addr = b.addr := by
  have hfind : (before ++ b :: after).find? (fun i => !i.readySlots.isEmpty) = some b := by
    refine List.find?_eq_some_iff_append.2 ⟨?_, before, after, rfl, fun a ha => ?_⟩
    · simpa using List.ne_nil_of_mem hn
    · simp [hbefore a ha]
  have hleast : b.readySlots.min? = some n := List.min?_eq_some_iff.2 ⟨hn, hmin⟩
  unfold selectLanes
  rw [hfind]
  dsimp only
  rw [hleast]
  dsimp only
  split
  · have hnone : before.filter (fun j => decide (j.addr = b.addr ∧ j.body = b.body ∧ j.readySlots.contains n = true ∧
        b.age ≤ j.age)) = [] := by
      refine List.filter_eq_nil_iff.2 fun a ha => ?_
      simp [hbefore a ha]
    rw [List.filter_append, hnone, List.nil_append, List.filter_cons_of_pos (by simpa using hn), List.take_succ_cons,
      List.map_cons]
    refine ⟨_, rfl, fun hg => absurd ‹b.header.gather = true› (by simp [hg]), ?_, fun p hp => ?_⟩
    · simp
    · obtain ⟨j, hj, rfl⟩ := List.mem_map.1 hp
      obtain ⟨hafter, hj⟩ := List.mem_filter.1 (List.mem_of_mem_take hj)
      simp only [decide_eq_true_eq] at hj
      exact ⟨rfl, hafter, hj.1⟩
  · exact ⟨[], rfl, fun _ => rfl, by simp, by simp⟩

/-- The lane of an instance's slot that leaves the ready queue. -/
def laneOf (p : Inst × Nat) : Lane := ⟨p.1.id, p.2, ((p.1.slots.find? (·.slot = p.2)).map (·.ops)).getD default⟩

theorem State.foldl_startLane_lanes : ∀ (ps : List (Inst × Nat)) (s : State),
    (ps.foldl (fun s p => s.startLane p) s).lanes = s.lanes ++ ps.map laneOf
  | [], s => by simp
  | p :: ps, s => by
    rw [List.foldl_cons, State.foldl_startLane_lanes ps, List.map_cons]
    show (s.lanes ++ [laneOf p]) ++ _ = _
    simp

theorem State.fillQueue_lanes (s : State) (q : QuadId) (elem : Nat) : (s.fillQueue q elem).lanes = s.lanes := by
  obtain ⟨ps, -, h⟩ := s.fillQueue_eq q elem
  rw [h]

theorem State.count_lanes (s : State) (q : QuadId) (i n : Nat) : (s.count q i n).lanes = s.lanes := rfl

/-- What an element's issue starts (R292). -/
theorem elementIssue_completes {s : State} {die idx elem : Nat} {q : Quad} {b : Inst} {n : Nat} (hq : QuadAt s die idx q)
    (hb : b ∈ (s.fillQueue q.id elem).resident q.id elem) (hn : n ∈ b.readySlots) (hmin : ∀ k ∈ b.readySlots, n ≤ k)
    (hold : ∀ j ∈ (s.fillQueue q.id elem).resident q.id elem, j.readySlots ≠ [] → b.age < j.age ∨ j = b) :
    Completes (exec (.evElementIssue die idx elem) s) fun s' => ∃ (first : Lane) (more : List Lane),
      s'.lanes = s.lanes ++ first :: more ∧ first.inst = b.id ∧ first.slot = n ∧ (b.header.gather = false → more = []) ∧
      more.length ≤ 7 ∧
      ∀ l ∈ more, l.slot = n ∧ ∃ j ∈ (s.fillQueue q.id elem).insts, l.inst = j.id ∧ j.addr = b.addr := by
  obtain ⟨hquad, hruns⟩ := hq
  have hsorted : ((s.fillQueue q.id elem).resident q.id elem).Pairwise fun a b : Inst => a.age ≤ b.age :=
    pairwise_sortBy (fun i : Inst => i.age) _
  obtain ⟨before, after, hsplit, hbefore⟩ := find?_sorted hsorted (p := fun i => !i.readySlots.isEmpty) hb
    (by simpa using List.ne_nil_of_mem hn) fun a ha hr => hold a ha (by simpa using hr)
  obtain ⟨more, hls, hgather, hlen, hmore⟩ := selectLanes_eq (after := after)
    (fun a ha => by simpa using hbefore a ha) hn hmin
  rw [← hsplit] at hls
  show Completes (execEvElementIssue die idx elem s) _
  unfold execEvElementIssue
  simp only [hquad, hls, hruns, List.isEmpty_cons, Bool.not_true, Bool.or_false, Bool.false_eq_true, if_false]
  refine ⟨_, rfl, laneOf (b, n), more.map laneOf, ?_, rfl, rfl, fun hg => by rw [hgather hg]; rfl, by simpa using hlen, ?_⟩
  · rw [State.tick_lanes, State.count_lanes, State.count_lanes, State.modQuad_lanes, State.fillQueue_lanes,
      State.foldl_startLane_lanes, State.fillQueue_lanes, List.map_cons]
  · intro l hl
    obtain ⟨p, hp, rfl⟩ := List.mem_map.1 hl
    obtain ⟨hslot, hafter, haddr⟩ := hmore p hp
    refine ⟨hslot, p.1, (State.mem_resident (q := q.id) (elem := elem)).1 ?_ |>.1, rfl, haddr⟩
    rw [hsplit]
    simp [hafter]

/-! ### BLOCK_FETCH and BLOCK_INSTANCE_START (R68, R290) -/

theorem fetchLines_core (u : XUnit) (c : Context) : ∀ (n va : Nat) (s : State), (fetchLines u c va n s).1.core = s.core
  | 0, _, _ => rfl
  | n + 1, va, s => by
    have ht := translateBy_core s u c va 1 .fetch
    unfold fetchLines
    split
    · rename_i e
      rwa [e] at ht
    · rename_i e
      rwa [e] at ht
    · rename_i s1 pa e
      rw [e] at ht
      dsimp only
      split
      · rfl
      · have hc : (if pa / 2 ^ 46 = s1.pkgNo then
            s1.charge (homeLantern pa (s1.homeOf pa)) (.ctx c.id) (classFar 0 8) 1 (s1.homeOf pa).die else s1).core =
            s.core := by
          split
          · exact (State.charge_core _ _ _ _ _ _).trans ht
          · exact ht
        generalize (if pa / 2 ^ 46 = s1.pkgNo then
            s1.charge (homeLantern pa (s1.homeOf pa)) (.ctx c.id) (classFar 0 8) 1 (s1.homeOf pa).die else s1) = s2 at hc ⊢
        have hr := (s2.readPhys_core u.node c.id va pa 64).trans hc
        split
        · exact hr
        · have ih := (fetchLines_core u c n (va + 64) _).trans hr
          split
          · rename_i e4
            rwa [e4] at ih
          · rename_i e4
            rwa [e4] at ih

theorem fetchBlock_core (u : XUnit) (s : State) (c : Context) (va : Nat) : (fetchBlock u s c va).1.core = s.core := by
  have h1 := fetchLines_core u c 1 va s
  unfold fetchBlock
  split
  · rename_i s1 bs e
    rw [e] at h1
    dsimp only
    have h2 := (fetchLines_core u c ((16 * (bitsOf (fetchBlock.fieldAt' bs) 8 4 + 2) + 63) / 64 - 1) (va + 64) s1).trans h1
    split
    · rename_i e2
      rwa [e2] at h2
    · exact h2
  · exact h1

theorem evictFor_fits {busy : Nat → Bool} {elem need : Nat} {ms : List Mapped} (h : mappedSlots elem ms + need ≤ 4096) :
    ∀ n, evictFor busy elem need n ms = ms
  | 0 => rfl
  | _ + 1 => by rw [evictFor, if_pos h]

/-- A fetched block that passes its checks is mapped (R68). -/
theorem blockFetch_completes {s s1 : State} {die idx elem : Nat} {q : Quad} {f : Frame} {c : Context} {bs : List Byte}
    {h : Header} (hq : QuadAt s die idx q) (hf : s.nextStart? q elem = some f) (hc : s.ctx? q.cx = some c)
    (hm : q.mapped? elem f.block = none) (hp : f.strand.pend = none)
    (hfetch : fetchBlock (.quad q.id) s c f.block = (s1, .ok bs)) (hclear : s.pathsClear)
    (hcheck : checkBlock (leNat (bs.take 8)) (leNat ((bs.drop 8).take 8))
      (slotsOf (4 * (bitsOf (leNat (bs.take 8)) 8 4 + 1)) (bs.drop 16)) = .ok h)
    (hfits : mappedSlots elem q.mapped + (slotsOf (4 * (bitsOf (leNat (bs.take 8)) 8 4 + 1)) (bs.drop 16)).length ≤ 4096) :
    Completes (exec (.evBlockFetch die idx elem) s) fun s' => ∃ (q' : Quad) (m : Mapped), s'.quad? q.id = some q' ∧
      m ∈ q'.mapped ∧ m.elem = elem ∧ m.addr = f.block ∧ m.header = h ∧
      m.body = slotsOf (4 * (bitsOf (leNat (bs.take 8)) 8 4 + 1)) (bs.drop 16) := by
  obtain ⟨hquad, hruns⟩ := hq
  have hquad' : s.quad? q.id = some q := by rwa [State.quad?_id hquad]
  have hcore := fetchBlock_core (.quad q.id) s c f.block
  rw [hfetch] at hcore
  obtain ⟨y, hy, -⟩ := State.quad?_of_core (congrArg State.quads hcore) hquad'
  show Completes (execEvBlockFetch die idx elem s) _
  unfold execEvBlockFetch
  simp only [hquad, hf, hc, hruns, hm, hp, State.overtakes_of_clear hclear, hfetch, hcheck, evictFor_fits hfits,
    Nat.not_lt.2 hfits, Bool.not_true, Option.isSome_none, Bool.or_false, Bool.false_eq_true, if_false]
  exact ⟨_, rfl, _, ⟨elem, f.block, h, _, s1.clk⟩, State.quad?_modQuad hy _ rfl,
    List.mem_append_right _ (List.mem_singleton_self _), rfl, rfl, rfl, rfl⟩

/-- The earliest start request of an element becomes an instance (R290). -/
theorem instanceStart_completes {s : State} {die idx elem : Nat} {q : Quad} {f : Frame} {m : Mapped} (hq : QuadAt s die idx q)
    (hf : s.nextStart? q elem = some f) (hp : f.strand.pend = none) (hm : q.mapped? elem f.block = some m)
    (hfits : s.matchUsed q.id + m.body.length ≤ s.matchCapacity q) :
    Completes (exec (.evBlockInstanceStart die idx elem) s) fun s' => ∃ (ps : List (Nat × Nat)) (fr : Frame) (toks : List FifoTok)
        (age : Nat), fr.regs = f.regs ∧ fr.strand.tag = f.strand.tag ∧ fr.strand.sid = f.strand.sid ∧
      s'.insts = (s.insts ++ [mkInst s q fr m toks age]).map (·.readied ps) ∧
      s'.frames = s.frames.filter (fun x => x.strand.sid ≠ f.strand.sid) := by
  obtain ⟨hquad, hruns⟩ := hq
  show Completes (execEvBlockInstanceStart die idx elem s) _
  unfold execEvBlockInstanceStart
  simp only [hquad, hruns, hf, hp, hm, Nat.not_lt.2 hfits, Bool.not_true, Bool.false_eq_true, if_false]
  refine ⟨_, rfl, ?_⟩
  generalize hs2 : State.modQuad _ _ _ = s2
  obtain ⟨ps, -, hfill⟩ := s2.fillQueue_eq q.id elem
  refine ⟨ps, { f with strand := { f.strand with pend := none, after := [] } },
    (inletSlots m.body).filterMap fun n => s.fifoHead? f n, (q.ages[elem]?).getD 0 + 1, rfl, rfl, rfl, ?_, ?_⟩
  · show ((s2.fillQueue q.id elem).count q.id 0 1).tick.insts = _
    rw [hfill, ← hs2]
    rfl
  · show ((s2.fillQueue q.id elem).count q.id 0 1).tick.frames = _
    rw [hfill, ← hs2]
    rfl

/-- An instance at rest whose conditions are unmet takes BLOCK_STARVED (R36). -/
theorem blockStarved_eq {s : State} {n : Nat} {i : Inst} {q : Quad} (hi : s.inst? n = some i) (hheld : i.held = false)
    (hq : s.quad? i.frame.quad = some q) (hruns : s.quadRuns q = true) (hfly : i.flying = []) (hready : i.readySlots = [])
    (hmarked : i.markedSlots = []) (hlanes : ∀ l ∈ s.lanes, l.inst ≠ i.id)
    (hunmet : i.exitMet = false ∨ i.effectsMet = false ∨ i.writesMet = false) :
    exec (.evBlockStarved n) s = .next (s.takeFault i .blockStarved none 0 0).tick := by
  have hany : s.lanes.any (fun l => decide (l.inst = i.id)) = false := by simpa using hlanes
  have hmet : (i.exitMet && i.effectsMet && i.writesMet) = false := by
    rcases hunmet with h | h | h <;> simp [h]
  show execEvBlockStarved n s = _
  unfold execEvBlockStarved State.quiet
  simp [hi, hheld, hq, hruns, hfly, hready, hmarked, hany, hmet]

end Sys2Proof.Machine

namespace Sys2Proof.Proofs
open Sys2Proof Sys2Proof.Machine

/-- Settles O41: one completion for each of the five steps. -/
theorem dataflowSteps : Obligations.DataflowSteps := by
  intro s
  refine ⟨?_, ?_, ?_, ?_, ?_⟩
  · intro n t i q ht hi hheld hq hruns hfirst
    obtain ⟨s', hs, hfly, j, hj, hjfly, hslot⟩ := tokenArrival_completes ht hi hheld hq hruns hfirst
    refine ⟨s', hs, hfly, j, hj, hjfly, fun x ins hx hins => ?_⟩
    obtain ⟨hfull, hfree⟩ := hslot x ins hx hins
    refine ⟨hfull, fun hidle hport => ?_⟩
    obtain ⟨y, z, d, hz, hops, hstatus, hdrops, htaken⟩ := hfree hidle hport
    have hkept {st : SlotStatus} (h : y.status = st) (hne : st ≠ .marked) : z.status = st :=
      hstatus.elim (·.trans h) fun hm => absurd (h.symm.trans hm.2) hne
    refine ⟨z, hz, fun hm => hkept (htaken.wait hm) (by decide), fun hm => ?_, fun hm => ?_, fun hf => ?_, fun hf w hw => ?_⟩
    · exact hstatus.imp (·.trans (htaken.fire hm)) (·.1)
    · obtain ⟨a, b', hy⟩ := htaken.absorb hm
      exact ⟨a, b', hkept hy nofun⟩
    · obtain ⟨hplain, hnone⟩ := htaken.plain hf
      exact ⟨hops.trans hplain, by rw [hdrops, hnone]; rfl⟩
    · rw [hops, hdrops]
      obtain ⟨hthird, hleft, hright⟩ := htaken.merge hf w hw
      refine ⟨hthird, fun hb => ?_, fun hb => ?_⟩
      · obtain ⟨h1, h2, h3⟩ := hleft hb
        exact ⟨h1, h2, by rw [h3]⟩
      · obtain ⟨h1, h2, h3⟩ := hright hb
        exact ⟨h1, h2, by rw [h3]⟩
  · intro die idx elem q b n hq u ready hb hn hmin hold
    have hmem (j : Inst) : ready j ↔ j ∈ u.resident q.id elem ∧ j.readySlots ≠ [] := by
      rw [State.mem_resident]
      simp only [ready]
      tauto
    exact elementIssue_completes hq ((hmem b).1 hb).1 hn hmin fun j hj hr => hold j ((hmem j).2 ⟨hj, hr⟩)
  · intro die idx elem q f c s1 bs h hq hf hc hm hp hfetch hclear body hcheck hfits
    exact blockFetch_completes hq hf hc hm hp hfetch hclear hcheck hfits
  · intro die idx elem q f m hq hf hp hm hfits
    obtain ⟨s', hs, ps, fr, toks, age, hregs, htag, hsid, hinsts, hframes⟩ := instanceStart_completes hq hf hp hm hfits
    refine ⟨s', hs, (mkInst s q fr m toks age).readied ps, ?_, ?_, hframes, hregs, htag, hsid,
      rfl, rfl, rfl, rfl, rfl, rfl, rfl, rfl, rfl, rfl, rfl⟩
    · rw [hinsts]
      simp
    · rw [hinsts]
      simp
  · intro n i q hi hheld hq hruns hfly hready hmarked hlanes hunmet
    exact blockStarved_eq hi hheld hq hruns hfly hready hmarked hlanes hunmet

end Sys2Proof.Proofs
end

section
/-!
PROOFS. The lamplighter's steps: what its operations leave of the core, records that fail their CHECK, frames that are made of
embers (02_execution_model.md R43, R44, R52; 13_progress.md R295, R296, R302, R303).
-/

namespace Sys2Proof.Machine

/-! ### Operations of the lamplighter on the core -/

section
variable (s : State)

theorem State.frameBanks_core (q : QuadId) : (s.frameBanks q).core = s.core := s.bankReq_core ..

theorem State.logRelight_core (cx : CtxId) (q : QuadId) (e : Ember) : (s.logRelight cx q e).core = s.core := by
  have hw (s : State) (c : Context) (va : Nat) (bs : List Byte) : ((writeVa s (.quad q) c va bs).getD s).core = s.core :=
    writeVaAs_getD_core s .write _ c va bs
  unfold State.logRelight
  split
  · rename_i c x _ _
    split
    · rfl
    · extract_lets size base s0 lose w0
      have h0 : s0.core = s.core := s.modQuad_core q fun _ => rfl
      have hmark (s : State) : (s.modQuad q fun y => { y with firstLost := some x.relights }).core = s.core :=
        s.modQuad_core q fun _ => rfl
      have hlog (s : State) : (s.modQuad q fun y => { y with logged := y.logged + 1 }).core = s.core :=
        s.modQuad_core q fun _ => rfl
      have hlose : (lose s0).core = s.core := (hmark _).trans ((hw _ _ _ _).trans h0)
      split
      · exact h0
      · split
        · exact hlose
        · split
          · rename_i s1 hs1
            exact (hlog _).trans ((hw _ _ _ _).trans ((writeVaAs_core _ hs1).trans h0))
          · exact hlose
  · rfl

theorem State.countLink_core (l : LinkEnd) (i n : Nat) : (s.countLink l i n).core = s.core :=
  (s.countLink_accounted l i n).core

theorem State.crossNow_core (cx : CtxId) (a b : QuadId) : (s.crossNow cx a b).core = s.core :=
  foldl_core (fun s l => (State.charge_core _ _ _ _ _ _).trans (s.countLink_core l 1 1)) _ s

theorem State.land_core {n : Nat} {m : Msg} (h : s.msg? n = some m) : (s.land n).core = (s.dropMsg n).core :=
  (State.land_accounted h).core
end

/-! ### Records that fail their CHECK (R52, R374, R375) -/

theorem badNodeHit_count (held : Bool) (old x y hop dir elem : Nat) :
    badNodeHit held old x y hop dir elem / 2 ^ 32 = min (2 ^ 32 - 1) (old / 2 ^ 32 + 1) := by
  unfold badNodeHit
  dsimp only
  split <;> omega

theorem badNodeHit_held (old x y hop dir elem : Nat) : badNodeHit true old x y hop dir elem % 2 ^ 16 = old % 2 ^ 16 := by
  unfold badNodeHit
  simp only [Bool.not_true, Bool.false_eq_true, if_false]
  omega

theorem mem_sortedInsert (a : Nat) : ∀ xs : List Nat, a ∈ sortedInsert a xs
  | [] => List.mem_singleton_self a
  | k :: r => by
    unfold sortedInsert
    split
    · exact List.mem_cons_self
    · split
      · rename_i h
        exact h ▸ List.mem_cons_self
      · exact List.mem_cons_of_mem _ (mem_sortedInsert a r)

/-- A context that a parity failure damages, and freezes when it runs (R375). -/
def Context.parityHit (c : Context) : Context :=
  { c with damaged := true,
           run := match c.run with | .running => .freezing | .stopped => .freezing | .cutting _ false => .freezing | r => r }

/-- A parity failure, up to the core: a report, a count, and the context damaged. -/
theorem State.parityFail_core (s : State) (cx : CtxId) (q : QuadId) (hop dir elem addr : Nat) :
    (s.parityFail cx q hop dir elem addr).core = ({ s.core with
      badNode := modAt q.die (fun r => badNodeHit (s.badHeld.contains q.die) r (q.idx % 10) (q.idx / 10) hop dir elem) s.badNode,
      badHeld := sortedInsert q.die s.badHeld } : State).modCtx cx Context.parityHit :=
  congrArg (fun t : State => t.modCtx cx Context.parityHit) (State.event_core _ _ _ _ _ _ _ _ _)

theorem State.ctx?_modCtx {s : State} {cx : CtxId} {c : Context} (h : s.ctx? cx = some c) (f : Context → Context)
    (hf : (f c).id = c.id) : (s.modCtx cx f).ctx? cx = some (f c) := by
  have hid : c.id = cx := by simpa using List.find?_some h
  exact find?_modWhere (p := fun y : Context => decide (y.id = cx)) (decide_eq_true (hf.trans hid)) h

/-- What a record lost leaves, of a state that has read it. -/
theorem recordLost_spec {s s1 : State} {q : QuadId} {c : Context} {e : Ember} (hembers : s1.embers = s.embers)
    (hframes : s1.frames = s.frames) (hnode : s1.badNode = s.badNode) (hheld : s1.badHeld = s.badHeld)
    (hctx : s1.contexts = s.contexts) (hc : s.ctx? e.strand.cx = some c) :
    RecordLost s (s1.recordLost q e).tick q.die c e := by
  have hcore := State.parityFail_core { s1 with embers := s1.embers.filter (·.id ≠ e.id) } e.strand.cx q 5 0 0 (s1.poolAddr e)
  have hid : c.id = e.strand.cx := by simpa using List.find?_some hc
  have he : (s1.recordLost q e).tick.embers = s1.embers.filter (·.id ≠ e.id) := (congrArg State.embers hcore :)
  have hf : (s1.recordLost q e).tick.frames = s1.frames := (congrArg State.frames hcore :)
  have hb : (s1.recordLost q e).tick.badHeld = sortedInsert q.die s1.badHeld := (congrArg State.badHeld hcore :)
  have hn : (s1.recordLost q e).tick.badNode = modAt q.die (fun r => badNodeHit (s1.badHeld.contains q.die) r (q.idx % 10)
    (q.idx / 10) 5 0 0) s1.badNode := (congrArg State.badNode hcore :)
  have hc1 : s1.ctx? e.strand.cx = some c := (congrArg (List.find? _) hctx).trans hc
  have hcx : (s1.recordLost q e).tick.ctx? e.strand.cx = some c.parityHit :=
    (congrArg (State.ctx? · e.strand.cx) hcore :).trans (State.ctx?_modCtx (s := s1) hc1 _ rfl)
  refine ⟨he.trans (by rw [hembers]), hf.trans hframes, hb ▸ mem_sortedInsert _ _, ⟨_, hid ▸ hcx, rfl, fun hr => ?_⟩,
    fun r hr => ⟨badNodeHit (s.badHeld.contains q.die) r (q.idx % 10) (q.idx / 10) 5 0 0, ?_, badNodeHit_count .., fun hin => ?_⟩⟩
  · simp [Context.parityHit, hr]
  · rw [hn, hnode, hheld, modAt, List.getElem?_modify_eq, hr]
    rfl
  · have hcontains : s.badHeld.contains q.die = true := by simpa using hin
    rw [hcontains]
    exact badNodeHit_held _ _ _ _ _ _

/-! ### A frame made of an ember (R43, R44) -/

theorem Ember.relitRegs_length (e : Ember) : e.relitRegs.length = 32 := by
  unfold Ember.relitRegs
  dsimp only
  split
  · split <;> simp
  · simp

theorem Ember.relitRegs_get (e : Ember) {r : Nat} (hr : r < 32) : e.relitRegs[r]? = some (
    if e.value.isSome ∧ e.op ≠ 0x14C ∧ e.op ≠ 0x151 ∧ r = e.reply then e.value.getD 0
    else if bitOf e.live r then (e.regs[r]?).getD 0 else 0) := by
  unfold Ember.relitRegs
  cases hv : e.value with
  | none => simp [hr]
  | some v =>
    by_cases hop : e.op = 0x14C ∨ e.op = 0x151
    · rcases hop with h | h <;> simp [h, hr]
    · obtain ⟨h1, h2⟩ := not_or.1 hop
      by_cases he : r = e.reply
      · subst he
        simp [h1, h2, hr]
      · simp [h1, h2, hr, he, Ne.symm he]

/-- The frame a relight makes. -/
def relitFrame (s : State) (e : Ember) (q : QuadId) (elem : Nat) : Frame :=
  { strand := e.strand.relit s.clk, quad := q, elem := elem, block := e.cont, regs := e.relitRegs, status := .waiting,
    order := s.nextId }

theorem Strand.relit_keeps (st : Strand) (clk : Nat) : (st.relit clk).tag = st.tag ∧ (st.relit clk).sid = st.sid := by
  unfold Strand.relit
  split <;> exact ⟨rfl, rfl⟩

theorem State.beginIter_core (s : State) (e : Ember) (q : QuadId) :
    (s.beginIter e q).core = { s.core with specs := (s.beginIter e q).specs } := by
  unfold State.beginIter
  dsimp only
  split <;> rfl

/-- The ember of a relight is no more, and its frame is where it goes. -/
theorem State.writeFrame_spec {s s1 : State} {src : QuadId} {e : Ember} {q : QuadId} {elem : Nat}
    (hframes : s1.frames = s.frames) :
    FrameSent s (s1.writeFrame src e q elem).tick src q (relitFrame s1 e q elem) ∧
      (s1.writeFrame src e q elem).tick.embers = s1.embers.filter (·.id ≠ e.id) ∧
      (s1.writeFrame src e q elem).tick.core.quads = s1.core.quads := by
  unfold State.writeFrame
  extract_lets f s0 s2
  have h2 : s2.core = { s1.core with specs := s0.specs, embers := s1.embers.filter (·.id ≠ e.id) } :=
    congrArg (fun t : State => { t with embers := s1.embers.filter (·.id ≠ e.id) }) (s1.beginIter_core e q)
  have hs2 : s2.frames = s1.frames ∧ s2.embers = s1.embers.filter (·.id ≠ e.id) ∧ s2.core.quads = s1.core.quads :=
    ⟨(congrArg State.frames h2 :), (congrArg State.embers h2 :), (congrArg State.quads h2 :)⟩
  clear_value s2
  obtain ⟨hf, he, hquads⟩ := hs2
  split
  · rename_i hsrc
    have hb := s2.frameBanks_core q
    have hbe : (s2.frameBanks q).embers = s2.embers := (congrArg State.embers hb :)
    have hbq : (s2.frameBanks q).core.quads = s2.core.quads := congrArg State.quads hb
    refine ⟨⟨fun _ => ?_, fun h => absurd hsrc h⟩, hbe.trans he, hbq.trans hquads⟩
    show s1.frames ++ [f] = s.frames ++ [f]
    rw [hframes]
  · rename_i hsrc
    obtain ⟨r, -, hrs, hrd, hrb, hr⟩ := s2.send_accounted e.strand.cx (.quad src) (.quad q) 8 (.frame f true) []
    have hrf : (s2.send e.strand.cx (.quad src) (.quad q) 8 (.frame f true) []).frames = s2.frames :=
      (Accounted.congr State.frames hr).trans rfl
    have hre : (s2.send e.strand.cx (.quad src) (.quad q) 8 (.frame f true) []).embers = s2.embers :=
      (Accounted.embers hr).trans rfl
    have hrq : (s2.send e.strand.cx (.quad src) (.quad q) 8 (.frame f true) []).core.quads = s2.core.quads :=
      (congrArg State.quads (Accounted.core hr) :)
    have hmem : r ∈ (s2.send e.strand.cx (.quad src) (.quad q) 8 (.frame f true) []).msgs := by
      rw [Accounted.msgs hr]
      simp
    exact ⟨⟨fun h => absurd h hsrc, fun _ => ⟨hrf.trans (hf.trans hframes), r, hmem, hrs, hrd, hrb⟩⟩,
      hre.trans he, hrq.trans hquads⟩

/-! ### Room for a frame (R42) -/

/-- Packets that carry frames are counted in the core. -/
theorem State.countP_msgs (u : State) {p : Msg → Bool} (hp : ∀ m, m.body.isFrame = false → p m = false) :
    u.msgs.countP p = u.core.msgs.countP p := by
  show _ = List.countP _ (u.msgs.filter _)
  rw [List.countP_filter]
  refine List.countP_congr fun m _ => ?_
  cases hm : m.body.isFrame with
  | true => simp
  | false => simp [hp m hm]

/-- Frames of a quad's frame area in use, counted among the parts of a state that hold them. -/
theorem State.framesUsed_congr {s t : State} (hf : t.frames = s.frames) (hi : t.insts = s.insts) (hm : t.commits = s.commits)
    (hmsgs : t.core.msgs.Sublist s.core.msgs) {q : QuadId}
    (he : t.embers.countP (·.pool = .frameArea q) ≤ s.embers.countP (·.pool = .frameArea q)) :
    t.framesUsed q ≤ s.framesUsed q := by
  unfold State.framesUsed
  rw [t.countP_msgs, s.countP_msgs, hf, hi, hm]
  · exact Nat.add_le_add (Nat.add_le_add_left he _) hmsgs.countP_le
  all_goals
    intro m hm
    split
    · rename_i hb
      rw [hb] at hm
      cases hm
    · rfl

theorem State.frameFree_mono {s t : State} (hq : ∀ q, (t.quad? q).map Quad.site = (s.quad? q).map Quad.site)
    (hc : ∀ cx d, (t.ctx? cx).bind (·.decl? d) = (s.ctx? cx).bind (·.decl? d)) {q : QuadId}
    (hu : t.framesUsed q ≤ s.framesUsed q) (h : s.frameFree q = true) : t.frameFree q = true := by
  have hdecl (u : State) (hu : ∀ cx d, (u.ctx? cx).bind (·.decl? d) = (s.ctx? cx).bind (·.decl? d)) :
      ((u.quad? q).bind fun x => (u.ctx? x.cx).bind (·.decl? x.ldie)) =
        ((u.quad? q).map Quad.site).bind fun x => (s.ctx? x.1).bind (·.decl? x.2) := by
    rw [Option.bind_map]
    simp only [hu]
    rfl
  unfold State.frameFree at h ⊢
  rw [hdecl t hc, hq, ← hdecl s fun _ _ => rfl]
  split at h
  · simp only [decide_eq_true_eq] at h ⊢
    omega
  · cases h

/-- A state that differs from another in its core only by what a quad keeps beside its place. -/
structure State.Beside (s t : State) : Prop where
  frames : t.frames = s.frames
  embers : t.embers = s.embers
  insts : t.insts = s.insts
  commits : t.commits = s.commits
  contexts : t.contexts = s.contexts
  msgs : t.core.msgs = s.core.msgs
  badNode : t.badNode = s.badNode
  badHeld : t.badHeld = s.badHeld
  sites : ∀ q, (t.quad? q).map Quad.site = (s.quad? q).map Quad.site

section
variable {s t u : State}

theorem State.site_core (s : State) (q : QuadId) : (s.core.quad? q).map Quad.site = (s.quad? q).map Quad.site := by
  rw [s.core_quad?, Option.map_map]
  rfl

theorem State.Beside.of_core (h : t.core = s.core) : s.Beside t where
  frames := (congrArg State.frames h :)
  embers := (congrArg State.embers h :)
  insts := (congrArg State.insts h :)
  commits := (congrArg State.commits h :)
  contexts := (congrArg State.contexts h :)
  msgs := congrArg State.msgs h
  badNode := (congrArg State.badNode h :)
  badHeld := (congrArg State.badHeld h :)
  sites q := by rw [← t.site_core, ← s.site_core, h]

theorem State.Beside.modQuad (h : s.Beside t) (q : QuadId) {f : Quad → Quad} (hid : ∀ x, (f x).id = x.id)
    (hsite : ∀ x, (f x).site = x.site) : s.Beside (t.modQuad q f) where
  frames := h.frames
  embers := h.embers
  insts := h.insts
  commits := h.commits
  contexts := h.contexts
  msgs := h.msgs
  badNode := h.badNode
  badHeld := h.badHeld
  sites r := (State.quad?_modQuad_map hid hsite q r).trans (h.sites r)

theorem State.Beside.frameFree (h : s.Beside t) {q : QuadId} (hf : s.frameFree q = true) : t.frameFree q = true :=
  State.frameFree_mono h.sites (fun cx _ => by rw [State.ctx?, h.contexts]; rfl)
    (State.framesUsed_congr h.frames h.insts h.commits (h.msgs ▸ List.Sublist.refl _) (by rw [h.embers])) hf

theorem State.Beside.recordLost (h : s.Beside t) {q : QuadId} {c : Context} {e : Ember} (hc : s.ctx? e.strand.cx = some c) :
    RecordLost s (t.recordLost q e).tick q.die c e :=
  recordLost_spec h.embers h.frames h.badNode h.badHeld h.contexts hc

theorem State.recordLost_quads (q : QuadId) (e : Ember) : (s.recordLost q e).tick.core.quads = s.core.quads :=
  (congrArg State.quads (State.parityFail_core { s with embers := s.embers.filter (·.id ≠ e.id) } e.strand.cx q 5 0 0
    (s.poolAddr e)) :)
end

end Sys2Proof.Machine
end

section
namespace Sys2Proof.Machine

/-! ### LAMPLIGHTER_RELIGHT (R43, R44, R296) -/

theorem State.map_quad?_core {α : Type} {s t : State} {g : Quad → α} (hg : ∀ x : Quad, g x.bare = g x)
    (h : t.core = s.core) (q : QuadId) : (t.quad? q).map g = (s.quad? q).map g := by
  have hcore (u : State) : (u.quad? q).map g = (u.core.quad? q).map g := by
    rw [u.core_quad?, Option.map_map]
    exact Option.map_congr fun x _ => (hg x).symm
  rw [hcore t, hcore s, h]

/-- A relight to a quad with a free frame writes the frame there, of a state with the same frames and embers. -/
theorem State.relight_placed {s : State} {q p : QuadId} {c : Context} {e : Ember} {el : Nat}
    (hplace : c.placeOf? (tagLdie e.strand.tag) e.cont e.strand.tag = some (p, el)) (hfree : s.frameFree p = true)
    (hwait : (s.quad? p).map (·.frameWait) = some []) :
    ∃ s2 : State, s.relight q c e = s2.writeFrame q e p el ∧ s2.frames = s.frames ∧ s2.embers = s.embers := by
  obtain ⟨x, hx, hnil⟩ := Option.map_eq_some_iff.1 hwait
  have hlog := s.logRelight_core c.id q e
  have htrace := State.traceRec_core (((s.logRelight c.id q e).replayed c.id q).count q 0x0D 1) c.id p el 3 e.reason 0 0
    e.strand.tag e.cont (toWord e.seq)
  have hf : (((s.logRelight c.id q e).replayed c.id q).count q 0x0D 1).frames = s.frames := (congrArg State.frames hlog :)
  have he : (((s.logRelight c.id q e).replayed c.id q).count q 0x0D 1).embers = s.embers := (congrArg State.embers hlog :)
  refine ⟨(((s.logRelight c.id q e).replayed c.id q).count q 0x0D 1).traceRec c.id p el 3 e.reason 0 0 e.strand.tag e.cont
    (toWord e.seq), ?_, (congrArg State.frames htrace :).trans hf, (congrArg State.embers htrace :).trans he⟩
  unfold State.relight
  simp only [hplace, hfree, hx, hnil, Option.map_some, List.isEmpty_nil, Bool.not_true, Option.getD_some, Bool.not_false,
    Bool.and_self, if_true]

theorem lamplighterRelight_completes {s : State} {die idx : Nat} {q : Quad} {c : Context} {e : Ember}
    (hq : QuadAt s die idx q) (hc : s.ctx? q.cx = some c) (hreplay : c.toReplay q.id = []) (hhead : q.ready.head? = some e.id)
    (he : s.ember? e.id = some e) (hdue : e.strand.due = none) (hclear : s.recordGood e = true → s.pathsClear) :
    Completes (exec (.evLamplighterRelight die idx) s) fun t =>
      (s.recordGood e = false → e.strand.cx = q.cx → RecordLost s t die c e) ∧
      (s.recordGood e = true → e.isRangeSeed = false → ∀ (p : QuadId) (el : Nat) (x : Quad),
        c.placeOf? (tagLdie e.strand.tag) e.cont e.strand.tag = some (p, el) → s.quad? p = some x → x.frameWait = [] →
        s.frameFree p = true → t.embers = s.embers.filter (fun y => y.id ≠ e.id) ∧
          ∃ f : Frame, FrameSent s t q.id p f ∧ f.quad = p ∧ f.elem = el ∧ f.block = e.cont ∧ f.strand.tag = e.strand.tag ∧
            f.strand.sid = e.strand.sid ∧ f.regs = e.relitRegs) := by
  obtain ⟨hquad, hruns⟩ := hq
  have hid : q.id = ⟨die, idx⟩ := State.quad?_id hquad
  have hcands : (((if (c.toReplay q.id).isEmpty then q.ready.take 1 else q.ready).filterMap s.ember?).find?
      (c.logAdmits q.id)) = some e := by
    obtain ⟨r, hr⟩ := List.head?_eq_some_iff.1 hhead
    simp [hreplay, hr, he, Context.logAdmits]
  let s1 := (s.readRecord e).1.modQuad q.id fun x => { x with ready := x.ready.erase e.id }
  have hread := s.readRecord_core e
  have hbeside : s.Beside s1 := (State.Beside.of_core hread).modQuad q.id (fun _ => rfl) fun _ => rfl
  have hexec : exec (.evLamplighterRelight die idx) s = if !s.recordGood e then .next (s1.recordLost q.id e).tick
      else if e.isRangeSeed then s.inOrder "LAMPLIGHTER_RELIGHT" (.next (s1.takeRange q.id c e).tick)
      else s.inOrder "LAMPLIGHTER_RELIGHT" (.next (s1.relight q.id c e).tick) := by
    show execEvLamplighterRelight die idx s = _
    unfold execEvLamplighterRelight
    simp only [hquad, hc, hcands, hruns, hdue, Option.isSome_none, Bool.not_true, Bool.or_false, Bool.false_eq_true, if_false]
    rfl
  rw [hexec]
  cases hgood : s.recordGood e with
  | false =>
    refine ⟨_, rfl, fun _ hcx => ?_, nofun⟩
    have hlost := hbeside.recordLost (q := q.id) (hcx ▸ hc)
    rwa [hid] at hlost ⊢
  | true =>
    simp only [Bool.not_true, Bool.false_eq_true, if_false, State.inOrder_of_clear (hclear hgood)]
    cases hseed : e.isRangeSeed with
    | true => exact ⟨_, rfl, nofun, fun _ h => nomatch h⟩
    | false =>
      refine ⟨_, rfl, nofun, fun _ _ p el x hplace hx hnil hfree => ?_⟩
      have hwait : (s1.quad? p).map (·.frameWait) = some [] := by
        have h1 : (s1.quad? p).map (·.frameWait) = ((s.readRecord e).1.quad? p).map (·.frameWait) :=
          State.quad?_modQuad_map (f := fun x : Quad => { x with ready := x.ready.erase e.id }) (g := Quad.frameWait)
            (fun _ => rfl) (fun _ => rfl) _ _
        rw [h1, State.map_quad?_core (fun _ => rfl) hread, hx, ← hnil]
        rfl
      obtain ⟨s2, hs2, hf2, he2⟩ := State.relight_placed hplace (hbeside.frameFree hfree) hwait (q := q.id)
      obtain ⟨hsent, hembers, -⟩ := State.writeFrame_spec (s := s) (s1 := s2) (src := q.id) (e := e) (q := p) (elem := el)
        (hf2.trans hbeside.frames)
      obtain ⟨htag, hsid⟩ := e.strand.relit_keeps s2.clk
      rw [hs2]
      refine ⟨hembers.trans (by rw [he2, hbeside.embers]), _, hsent, rfl, rfl, rfl, htag, hsid, rfl⟩

/-! ### FRAME_WAIT_GRANT (R296) -/

theorem State.recordLost_embers (s : State) (q : QuadId) (e : Ember) :
    (s.recordLost q e).tick.embers = s.embers.filter (·.id ≠ e.id) :=
  (congrArg State.embers (State.parityFail_core { s with embers := s.embers.filter (·.id ≠ e.id) } e.strand.cx q 5 0 0
    (s.poolAddr e)) :)

theorem frameWaitGrant_completes {s : State} {die idx : Nat} {q : Quad} {c : Context} {e : Ember} {rest : List Nat}
    (hq : QuadAt s die idx q) (hc : s.ctx? q.cx = some c) (hwait : q.frameWait = e.id :: rest)
    (he : s.ember? e.id = some e) (hfree : s.frameFree q.id = true) (hclear : s.recordGood e = true → s.pathsClear) :
    Completes (exec (.evFrameWaitGrant die idx) s) fun t =>
      (∃ q' : Quad, t.quad? q.id = some q' ∧ q'.frameWait = rest) ∧ t.embers = s.embers.filter (fun y => y.id ≠ e.id) ∧
      (s.recordGood e = false → e.strand.cx = q.cx → RecordLost s t die c e) ∧
      (s.recordGood e = true → ∃ f : Frame, FrameSent s t e.quad q.id f ∧ f.quad = q.id ∧ f.block = e.cont ∧
        f.strand.tag = e.strand.tag ∧ f.regs = e.relitRegs) := by
  obtain ⟨hquad, hruns⟩ := hq
  have hid : q.id = ⟨die, idx⟩ := State.quad?_id hquad
  have hquad' : s.quad? q.id = some q := hid ▸ hquad
  let el := ((c.placeOf? (tagLdie e.strand.tag) e.cont e.strand.tag).map (·.2)).getD e.elem
  let s1 := (s.readRecord e).1.modQuad q.id fun x => { x with frameWait := x.frameWait.tail }
  have hread := s.readRecord_core e
  have hbeside : s.Beside s1 := (State.Beside.of_core hread).modQuad q.id (fun _ => rfl) fun _ => rfl
  have hexec : exec (.evFrameWaitGrant die idx) s = if !s.recordGood e then .next (s1.recordLost q.id e).tick
      else s.inOrder "FRAME_WAIT_GRANT" (.next (s1.writeFrame e.quad e q.id el).tick) := by
    show execEvFrameWaitGrant die idx s = _
    unfold execEvFrameWaitGrant
    simp only [hquad, hc, hwait, List.head?_cons, Option.bind_some, he, hruns, hfree, Bool.not_true, Bool.or_false,
      Bool.false_eq_true, if_false]
    rfl
  have hq1 : ∃ y, s1.quad? q.id = some y ∧ y.frameWait = rest := by
    obtain ⟨y, hy, ey⟩ := State.quad?_of_core (congrArg State.quads hread) hquad'
    have hyw : y.frameWait = e.id :: rest := (congrArg Quad.frameWait ey :).trans hwait
    exact ⟨_, State.quad?_modQuad hy _ rfl, by rw [hyw]; rfl⟩
  have hwaits {t : State} (ht : t.core.quads = s1.core.quads) : ∃ q', t.quad? q.id = some q' ∧ q'.frameWait = rest := by
    obtain ⟨y, hy, hyw⟩ := hq1
    obtain ⟨z, hz, ez⟩ := State.quad?_of_core ht hy
    exact ⟨z, hz, (congrArg Quad.frameWait ez :).trans hyw⟩
  rw [hexec]
  cases hgood : s.recordGood e with
  | false =>
    have hembers := s1.recordLost_embers q.id e
    refine ⟨_, rfl, hwaits (s1.recordLost_quads q.id e), hembers.trans (by rw [hbeside.embers]), fun _ hcx => ?_, nofun⟩
    have hlost := hbeside.recordLost (q := q.id) (hcx ▸ hc)
    rwa [hid] at hlost ⊢
  | true =>
    obtain ⟨hsent, hembers, hquads⟩ := State.writeFrame_spec (s := s) (s1 := s1) (src := e.quad) (e := e) (q := q.id)
      (elem := el) hbeside.frames
    simp only [Bool.not_true, Bool.false_eq_true, if_false, State.inOrder_of_clear (hclear hgood)]
    exact ⟨_, rfl, hwaits hquads, hembers.trans (by rw [hbeside.embers]), nofun,
      fun _ => ⟨_, hsent, rfl, rfl, (e.strand.relit_keeps s1.clk).1, rfl⟩⟩

/-! ### EMBER_READY (R295) -/

theorem emberReady_completes {s : State} {n : Nat} {e : Ember} {q : Quad} {rest : List Nat} (he : s.ember? n = some e)
    (hq : s.quad? e.quad = some q) (hcleared : q.cleared = n :: rest) (hroom : q.ready.length < 4096)
    (hwait : e.wait = .nothing) (hdue : e.strand.due = none) :
    Completes (exec (.evEmberReady n) s) fun t => ∃ q' : Quad, t.quad? e.quad = some q' ∧ q'.cleared = rest ∧
      q'.ready = q.ready ++ [n] := by
  have hid : q.id = e.quad := State.quad?_id hq
  have hfull : q.readyFull = false :=
    Bool.eq_false_iff.2 fun h => absurd (Quad.readyFull_iff.1 h).1 (Nat.not_le.2 hroom)
  show Completes (execEvEmberReady n s) _
  unfold execEvEmberReady
  simp only [he, hq, hcleared, hfull, hwait, hdue, List.head?_cons, bne_self_eq_false, Option.isSome_none, Bool.or_false,
    Bool.false_eq_true, if_false, hid]
  exact ⟨_, rfl, _, State.quad?_modQuad hq _ rfl, by rw [hcleared]; rfl, rfl⟩

/-! ### FRAME_MOVE_ARRIVAL (R43) -/

theorem frameMoveArrival_completes {s : State} {n : Nat} {m : Msg} {f : Frame} {held : Bool} {q : Quad}
    (h : Arrives s n m (.frame f held)) (hq : s.quad? f.quad = some q) (hrec : s.recorder m = none) :
    Completes (exec (.evFrameMoveArrival n) s) fun t =>
      (held = true ∨ (s.frameFree q.id = true ∧ q.frameWait = []) → ∃ f' : Frame, t.frames = s.frames ++ [f'] ∧
        f'.strand = f.strand ∧ f'.regs = f.regs ∧ f'.block = f.block ∧ f'.quad = f.quad) ∧
      (held = false → s.frameFree q.id = false ∨ q.frameWait ≠ [] → f.strand.handler = none →
        (s.findSpace f.strand.cx f.quad 320 []).isSome → ∃ (e : Ember) (q' : Quad), t.embers = s.embers ++ [e] ∧
          e.reason = 0x88 ∧ e.cont = f.block ∧ e.regs = f.regs ∧ e.live = 0xFFFFFFFF ∧ e.wait = .frameOf f.quad ∧
          t.frames = s.frames ∧ t.quad? q.id = some q' ∧ q'.frameWait = q.frameWait ++ [e.id]) := by
  obtain ⟨hm, hb, harr⟩ := h
  have hid : q.id = f.quad := State.quad?_id hq
  have hq' : s.quad? q.id = some q := hid ▸ hq
  have hland := s.land_core hm
  have hlandf : (s.land n).frames = s.frames := (congrArg State.frames hland :)
  show Completes (execEvFrameMoveArrival n s) _
  unfold execEvFrameMoveArrival
  simp only [hm, hb, hq, harr, hrec, Bool.not_true, Bool.false_eq_true, if_false]
  split
  · rename_i hroom
    refine ⟨_, rfl, fun _ => ⟨{ f with order := (s.land n).nextId }, by rw [← hlandf]; rfl, rfl, rfl, rfl, rfl⟩,
      fun hh hfull => ?_⟩
    rcases hfull with h | h <;> simp [hh, h] at hroom
  · rename_i hroom
    let s2 := ((s.land n).traceRec q.cx q.id f.elem 5 0x88 0 0 f.strand.tag f.block 0).countReplay q.id 0x88
    have h2 : s2.core = ((s.dropMsg n).modQuad q.id Quad.replayed).core := by
      rw [State.countReplay_core, State.traceRec_core, hland, State.modQuad_core_bare _ _ (g := Quad.replayed) fun _ => rfl]
    have hembers : s2.embers = s.embers := (congrArg State.embers h2 :)
    have hcommits : s2.commits = s.commits := (congrArg State.commits h2 :)
    have hcontexts : s2.contexts = s.contexts := (congrArg State.contexts h2 :)
    have hframes : s2.frames = s.frames := (congrArg State.frames h2 :)
    have hsites (r : QuadId) : (s2.quad? r).map Quad.site = (s.quad? r).map Quad.site := by
      rw [State.map_quad?_core (fun _ => rfl) h2]
      exact State.quad?_modQuad_map (s := s.dropMsg n) (f := Quad.replayed) (fun _ => rfl) (fun _ => rfl) _ _
    obtain ⟨y, hy, ey⟩ := State.quad?_of_core (congrArg State.quads h2)
      (State.quad?_modQuad (s := s.dropMsg n) hq' Quad.replayed rfl)
    have hyw : y.frameWait = q.frameWait := (congrArg Quad.frameWait ey :)
    have hplace (x : Pool × Nat × Nat) (hh : f.strand.handler = none) (hx : s.findSpace f.strand.cx f.quad 320 [] = some x) :
        s2.fullPlace (f.strand.refuse 0x88 .nothing) q.id 0x88 = some x := by
      obtain ⟨-, -, hcx, hhandler, -⟩ := f.strand.refuse_keeps 0x88 .nothing
      rw [State.fullPlace, if_neg (by decide), hhandler, hh, hcx, hid, ← hx]
      exact State.findSpace_congr hsites hcontexts hembers hcommits _ _ _ _
    have hnoroom : ¬(held = true ∨ (s.frameFree q.id = true ∧ q.frameWait = [])) := by simpa using hroom
    show Completes (match s2.fullEmber (f.strand.refuse 0x88 .nothing) q.id f.elem f.block f.regs 0x88 (.frameOf q.id) with
      | (e, placed, s3) =>
        if placed then .next (s3.modQuad q.id fun x => { x with frameWait := x.frameWait ++ [e] }).tick
        else .next (s3.overflowed e).tick) _
    clear_value s2
    cases hp : s2.fullPlace (f.strand.refuse 0x88 .nothing) q.id 0x88 with
    | none =>
      rw [State.fullEmber_unplaced hp]
      refine ⟨_, rfl, fun h => absurd h hnoroom, fun _ _ hh hs => ?_⟩
      obtain ⟨x, hx⟩ := Option.isSome_iff_exists.1 hs
      cases hp.symm.trans (hplace x hh hx)
    | some x =>
      obtain ⟨p, a, w⟩ := x
      rw [State.fullEmber_placed hp]
      obtain ⟨k, hdep⟩ := State.fullRecord_core (s := s2) (st := f.strand.refuse 0x88 .nothing) (q := q.id) (elem := f.elem)
        (block := f.block) (regs := f.regs) (reason := 0x88) (wait := .frameOf q.id) p a
      generalize State.deposit _ _ = u at hdep ⊢
      obtain ⟨z, hz, ez⟩ := State.quad?_of_core (s := s2) (t := u) (congrArg State.quads hdep :) hy
      have hzw : z.frameWait = q.frameWait := (congrArg Quad.frameWait ez :).trans hyw
      have hde : u.embers = s2.embers ++ _ := (congrArg State.embers hdep :)
      rw [hembers] at hde
      have hdf : u.frames = s2.frames := (congrArg State.frames hdep :)
      refine ⟨_, rfl, fun h => absurd h hnoroom, fun _ _ _ _ => ⟨_, _, hde, rfl, rfl, rfl, rfl, congrArg Wait.frameOf hid,
        hdf.trans hframes, State.quad?_modQuad hz _ rfl, ?_⟩⟩
      show z.frameWait ++ [s2.nextId] = q.frameWait ++ [s2.nextId]
      rw [hzw]

/-! ### Refusals and reservations of lines (R302, R303) -/

theorem Strand.refuse_counted (st : Strand) {reason : Nat} (w : Wait) (h : reason ≤ 0x83) :
    (st.refuse reason w).refusals = st.refusals + 1 ∧ ((st.refuse reason w).refusals < 64 → (st.refuse reason w).due = none) ∧
      (64 ≤ (st.refuse reason w).refusals → (st.refuse reason w).due = w.resv) := by
  have hr : (st.refuse reason w).refusals = st.refusals + 1 := by simp [Strand.refuse, h]
  have hd : (st.refuse reason w).due = if 64 ≤ st.refusals + 1 then w.resv else none := by simp [Strand.refuse, h]
  rw [hr, hd]
  exact ⟨rfl, fun hlt => if_neg (Nat.not_le.2 hlt), fun hle => if_pos hle⟩

theorem Strand.refuse_uncounted (st : Strand) {reason : Nat} (w : Wait) (h : 0x83 < reason) :
    (st.refuse reason w).refusals = st.refusals ∧ (st.refuse reason w).due = st.due := by
  simp [Strand.refuse, Nat.not_le.2 h]

theorem Strand.expire_sid (st : Strand) (n clk : Nat) : (st.expire n clk).sid = st.sid := by
  unfold Strand.expire
  split
  · split <;> rfl
  · rfl

theorem Strand.expire_lines {st : Strand} {n clk k : Nat} {q : QuadId} {lo hi : Nat} (hs : st.sid = n) (hk : k ≤ clk) :
    (st.expire n clk).resv ≠ some (.lines q lo hi (some k)) := by
  unfold Strand.expire
  split
  · rename_i t ht
    split
    · simp
    · rename_i hno
      rw [ht]
      intro e
      cases e
      exact hno ⟨hs, hk⟩
  · rename_i hno
    exact hno _ _ _ _

theorem reservationTimeout_completes {s : State} {n : Nat} {f : Frame} {q : QuadId} {lo hi k : Nat} (hf : f ∈ s.frames)
    (hs : f.strand.sid = n) (hr : f.strand.resv = some (.lines q lo hi (some k))) (hk : k ≤ s.clk) :
    Completes (exec (.evReservationTimeout n) s) fun t =>
      ∀ g ∈ t.frames, g.strand.sid = n → g.strand.resv ≠ some (.lines q lo hi (some k)) := by
  have hany : (s.strands.any fun st => st.expire n s.clk != st) = true := by
    refine List.any_eq_true.2 ⟨f.strand, ?_, ?_⟩
    · unfold State.strands
      simp only [List.mem_append, List.mem_map]
      exact .inl (.inl (.inl (.inr ⟨f, hf, rfl⟩)))
    · rw [bne_iff_ne]
      intro e
      exact Strand.expire_lines hs hk (e ▸ hr)
  show Completes (execEvReservationTimeout n s) _
  unfold execEvReservationTimeout
  rw [if_pos hany]
  refine ⟨_, rfl, fun g hg hsid => ?_⟩
  obtain ⟨g', hg', rfl⟩ := List.mem_map.1 hg
  exact Strand.expire_lines ((g'.strand.expire_sid n s.clk).symm.trans hsid) hk

end Sys2Proof.Machine
end

section
/-!
PROOFS. A range split: the parts it leaves pending and the strand its first part becomes (02_execution_model.md R55;
13_progress.md R297).
-/

namespace Sys2Proof.Machine

/-! ### The cuts of a range -/

/-- The end of what `j` halvings leave of a range. -/
def cutAt (lo hi j : Nat) : Nat := lo + (hi - lo) / 2 ^ j

theorem cutAt_zero {lo hi : Nat} (h : lo ≤ hi) : cutAt lo hi 0 = hi := by
  unfold cutAt
  omega

theorem cutAt_half (lo hi j : Nat) : cutAt lo (lo + (hi - lo) / 2) j = cutAt lo hi (j + 1) := by
  unfold cutAt
  rw [Nat.add_sub_cancel_left, Nat.div_div_eq_div_mul, ← Nat.pow_succ']

theorem splitParts_eq {g lo : Nat} : ∀ {n k hi : Nat}, k ≤ n → lo ≤ hi → (hi - lo) / 2 ^ k ≤ g →
    (∀ j < k, g < (hi - lo) / 2 ^ j) →
    splitParts g n lo hi = ((List.range k).map fun j => (cutAt lo hi (j + 1), cutAt lo hi j), cutAt lo hi k)
  | 0, k, hi, hk, hle, _, _ => by
    obtain rfl := Nat.le_zero.1 hk
    rw [cutAt_zero hle]
    rfl
  | n + 1, 0, hi, _, hle, hg, _ => by
    have hstop : hi - lo ≤ g := by simpa using hg
    rw [splitParts, if_pos hstop, cutAt_zero hle]
    rfl
  | n + 1, k + 1, hi, hk, hle, hg, hbig => by
    have hmore : ¬ hi - lo ≤ g := Nat.not_le.2 (by simpa only [Nat.pow_zero, Nat.div_one] using hbig 0 (Nat.succ_pos k))
    have hcut : cutAt lo hi 1 = lo + (hi - lo) / 2 := rfl
    have hhalf (j : Nat) : (lo + (hi - lo) / 2 - lo) / 2 ^ j = (hi - lo) / 2 ^ (j + 1) := by
      rw [Nat.add_sub_cancel_left, Nat.div_div_eq_div_mul, ← Nat.pow_succ']
    have ih := splitParts_eq (n := n) (k := k) (hi := lo + (hi - lo) / 2) (Nat.le_of_succ_le_succ hk) (Nat.le_add_right _ _)
      ((hhalf k).trans_le hg) fun j hj => (hbig (j + 1) (Nat.succ_lt_succ hj)).trans_eq (hhalf j).symm
    simp only [cutAt_half] at ih
    rw [splitParts, if_neg hmore, ih, List.range_succ_eq_map]
    simp [Function.comp_def, cutAt_zero hle, hcut]

/-- A range of at most 2¹⁶ iterations is at its grain after at most 16 halvings. -/
theorem halvings_le {n g k : Nat} (hn : n ≤ 2 ^ 16) (hg : 1 ≤ g) (hbig : ∀ j < k, g < n / 2 ^ j) : k ≤ 16 := by
  by_contra hk
  have h16 := hbig 16 (by omega)
  omega

theorem cutAt_lt {lo hi g k j : Nat} (hhi : hi ≤ 2 ^ 16) (hbig : ∀ j < k, g < (hi - lo) / 2 ^ j) (hj : j < k) :
    cutAt lo hi (j + 1) < 65536 := by
  have h0 := hbig j hj
  have hle : (hi - lo) / 2 ^ j ≤ hi - lo := Nat.div_le_self _ _
  have hhalf : cutAt lo hi (j + 1) = lo + (hi - lo) / 2 ^ j / 2 := by
    rw [cutAt, Nat.pow_succ, Nat.div_div_eq_div_mul]
  omega

/-! ### The records of the parts -/

section
variable {s t : State}

theorem State.findSpace_pool {cx : CtxId} {q : QuadId} {n : Nat} {taken : List (Pool × Nat × Nat)} {x : Pool × Nat × Nat}
    (h : s.findSpace cx q n taken = some x) (p : QuadId) : x.1 ≠ .frameArea p := by
  unfold State.findSpace at h
  dsimp only at h
  split at h
  · cases h
    nofun
  · obtain ⟨a, -, rfl⟩ := Option.map_eq_some_iff.1 h
    nofun

/-- Space found for a split: as many records as asked for, in a vault's pool or in HBM. -/
theorem splitSpaces_spec {cx : CtxId} {q : QuadId} : ∀ {n : Nat} {got more : List (Pool × Nat × Nat)},
    splitSpaces s cx q n got = some more → more.length = got.length + n ∧
      ((∀ x ∈ got, ∀ p, x.1 ≠ .frameArea p) → ∀ x ∈ more, ∀ p, x.1 ≠ .frameArea p)
  | 0, got, more, h => by
    cases h
    exact ⟨rfl, id⟩
  | n + 1, got, more, h => by
    unfold splitSpaces at h
    split at h
    · rename_i x hx
      obtain ⟨hlen, hpool⟩ := splitSpaces_spec h
      refine ⟨by rw [hlen, List.length_append]; simp; omega, fun hgot => hpool fun y hy => ?_⟩
      rcases List.mem_append.1 hy with hy | hy
      · exact hgot y hy
      · rw [List.mem_singleton.1 hy]
        exact State.findSpace_pool hx
    · cases h

/-- The embers of the parts of a split, numbered from `n`. -/
def rangeParts (e : Ember) (n : Nat) (parts : List (Nat × Nat)) (spaces : List (Pool × Nat × Nat)) : List Ember :=
  (List.zip (List.range' n parts.length) (List.zip parts spaces)).map fun (m, (p, sp)) => partEmber e m p.1 p.2 sp

theorem rangeParts_get {e : Ember} {n j : Nat} {parts : List (Nat × Nat)} {spaces : List (Pool × Nat × Nat)}
    {p : Nat × Nat} {sp : Pool × Nat × Nat} (hp : parts[j]? = some p) (hsp : spaces[j]? = some sp) :
    (rangeParts e n parts spaces)[j]? = some (partEmber e (n + j) p.1 p.2 sp) := by
  have hj : j < parts.length := (List.getElem?_eq_some_iff.1 hp).1
  have hzip : (List.zip (List.range' n parts.length) (List.zip parts spaces))[j]? = some (n + j, p, sp) :=
    List.getElem?_zip_eq_some.2 ⟨by simp [hj], List.getElem?_zip_eq_some.2 ⟨hp, hsp⟩⟩
  rw [rangeParts, List.getElem?_map, hzip]
  rfl

/-- An ember but for its number among the deposits. -/
def Ember.unnumbered (e : Ember) : Ember := { e with seq := 0 }

theorem deposits_core : ∀ (ps : List Ember) (s : State), ∃ es : List Ember,
    (ps.foldl State.deposit s).core = { s.core with embers := s.embers ++ es } ∧
      es.map Ember.unnumbered = ps.map Ember.unnumbered
  | [], s => ⟨[], by simp [State.core], rfl⟩
  | p :: ps, s => by
    obtain ⟨es, hcore, hes⟩ := deposits_core ps (s.deposit p)
    obtain ⟨x, hx, hxp⟩ : ∃ x : Ember, (s.deposit p).core = { s.core with embers := s.embers ++ [x] } ∧
        x.unnumbered = p.unnumbered := ⟨_, s.depositBy_core (.quad p.quad) p, rfl⟩
    have he : (s.deposit p).embers = s.embers ++ [x] := (congrArg State.embers hx :)
    refine ⟨x :: es, hcore.trans ?_, congrArg₂ List.cons hxp hes⟩
    rw [he, List.append_assoc]
    exact congrArg (fun t : State => { t with embers := s.embers ++ ([x] ++ es) }) hx

/-! ### JOINs relit when a space's items grow again (R278) -/

theorem State.relitJoins_core (s : State) (cx : CtxId) (space : Nat) : ∃ ms : List Msg, ms.Sublist s.core.msgs ∧
    (s.relitJoins cx space).core = { s.core with msgs := ms } := by
  unfold State.relitJoins
  generalize s.joinsReady cx space = xs
  induction xs generalizing s with
  | nil => exact ⟨_, List.Sublist.refl _, rfl⟩
  | cons x xs ih =>
    obtain ⟨m, en⟩ := x
    obtain ⟨ms, hms, hcore⟩ := ih ((s.dropMsg m.id).send m.cx .k m.src 1 (.reply en 0 none))
    have hsend := (s.dropMsg m.id).send_core m.cx .k m.src 1 (body := .reply en 0 none) [] rfl
    rw [hsend] at hms hcore
    refine ⟨ms, hms.trans ?_, hcore⟩
    exact List.filter_sublist.filter _

/-! ### The state a split leaves its first part in -/

/-- A split, its first part not relit yet. -/
def State.rangeSplit (s : State) (q : QuadId) (c : Context) (e : Ember) (parts : List (Nat × Nat)) (hi : Nat)
    (more : List (Pool × Nat × Nat)) : State :=
  let me := s.nextId + parts.length
  let s0 := s.crossNow c.id e.poolQuad q
  let s1 := { s0 with nextId := me + 1, embers := s.embers.filter (·.id ≠ e.id) }
  let s2 := (rangeParts e s.nextId parts ((e.pool, e.addr, e.size) :: more)).foldl State.deposit s1
  let s3 := (s2.countItem c.id (tagSpace e.strand.tag) parts.length).count q 0x0E (if parts.isEmpty then 0 else 1)
  { s3 with embers := s3.embers ++ [firstStrand e me (tagIter e.strand.tag) hi parts.isEmpty] }

theorem State.takeRange_split {q : QuadId} {c : Context} {e : Ember} {parts : List (Nat × Nat)} {hi : Nat}
    {more : List (Pool × Nat × Nat)}
    (hparts : splitParts (Word.bits ((e.regs[1]?).getD 0) 47 32 + 1) 17 (tagIter e.strand.tag)
      (Word.bits ((e.regs[1]?).getD 0) 16 0) = (parts, hi))
    (hmore : splitSpaces s c.id e.poolQuad (parts.length - 1) [] = some more) :
    s.takeRange q c e = (s.rangeSplit q c e parts hi more).relight q c
      (firstStrand e (s.nextId + parts.length) (tagIter e.strand.tag) hi parts.isEmpty) := by
  unfold State.takeRange
  simp only [hparts, hmore]
  rfl

theorem State.rangeSplit_core (s : State) (q : QuadId) (c : Context) (e : Ember) (parts : List (Nat × Nat)) (hi : Nat)
    (more : List (Pool × Nat × Nat)) : ∃ (es : List Ember) (ms : List Msg), ms.Sublist s.core.msgs ∧
      es.map Ember.unnumbered =
        (rangeParts e s.nextId parts ((e.pool, e.addr, e.size) :: more)).map Ember.unnumbered ∧
      (s.rangeSplit q c e parts hi more).core = ({ s.core with
        msgs := ms,
        embers := s.embers.filter (·.id ≠ e.id) ++ es ++
          [firstStrand e (s.nextId + parts.length) (tagIter e.strand.tag) hi parts.isEmpty] } : State).modSpace c.id
            (tagSpace e.strand.tag) fun p => { p with live := p.live + parts.length } := by
  have hcross := s.crossNow_core c.id e.poolQuad q
  unfold State.rangeSplit
  extract_lets me s0 s1 s2 s3
  have h1 : s1.core = { s.core with embers := s.embers.filter (·.id ≠ e.id) } :=
    congrArg (fun t : State => { t with embers := s.embers.filter (·.id ≠ e.id) }) hcross
  obtain ⟨es, h2, hes⟩ := deposits_core (rangeParts e s.nextId parts ((e.pool, e.addr, e.size) :: more)) s1
  obtain ⟨ms, hms, h3⟩ := s2.relitJoins_core c.id (tagSpace e.strand.tag)
  have hc2 : s2.core = { s.core with embers := s.embers.filter (·.id ≠ e.id) ++ es } :=
    h2.trans (congrArg (fun t : State => { t with embers := s.embers.filter (fun x : Ember => x.id ≠ e.id) ++ es }) h1)
  rw [hc2] at hms h3
  have hc3 : s3.core = ({ s.core with embers := s.embers.filter (·.id ≠ e.id) ++ es, msgs := ms } : State).modSpace c.id
      (tagSpace e.strand.tag) fun p => { p with live := p.live + parts.length } :=
    (State.count_core _ _ _ _).trans (congrArg (fun t : State => t.modSpace c.id
      (tagSpace e.strand.tag) fun p => { p with live := p.live + parts.length }) h3)
  have he3 : s3.embers = s.embers.filter (·.id ≠ e.id) ++ es := (congrArg State.embers hc3 :)
  refine ⟨es, ms, hms, hes, ?_⟩
  rw [← he3]
  exact congrArg (fun t : State => { t with embers := s3.embers ++
    [firstStrand e me (tagIter e.strand.tag) hi parts.isEmpty] }) hc3
end

end Sys2Proof.Machine
end

section
namespace Sys2Proof.Machine

/-! ### What a relight leaves of the other embers -/

/-- Every ember with another identity stays as it is. -/
def State.KeepsOthers (s t : State) (n : Nat) : Prop := ∀ x ∈ s.embers, x.id ≠ n → x ∈ t.embers

section
variable {s t u : State} {n : Nat}

theorem State.KeepsOthers.trans (h1 : s.KeepsOthers t n) (h2 : t.KeepsOthers u n) : s.KeepsOthers u n :=
  fun x hx hn => h2 x (h1 x hx hn) hn

theorem State.KeepsOthers.of_core (h : t.core = s.core) : s.KeepsOthers t n :=
  fun x hx _ => by
    have he : t.embers = s.embers := (congrArg State.embers h :)
    rwa [he]

theorem State.modEmber_keepsOthers (s : State) (n : Nat) (f : Ember → Ember) : s.KeepsOthers (s.modEmber n f) n := by
  intro x hx hn
  have h : (if decide (x.id = n) then f x else x) = x := if_neg (by simpa using hn)
  exact List.mem_map.2 ⟨x, hx, h⟩

theorem State.reEmber_keepsOthers (s : State) (n : Nat) (f : Ember → Ember) : s.KeepsOthers (s.reEmber n f) n := by
  have h : (s.reEmber n f).embers = (s.modEmber n f).embers := (congrArg State.embers (s.reEmber_core n f) :)
  intro x hx hn
  rw [h]
  exact s.modEmber_keepsOthers n f x hx hn

theorem State.emberFault_keepsOthers (s : State) (e : Ember) (code : FaultCode) (d b a : Nat) :
    s.KeepsOthers (s.emberFault e code d b a) e.id := by
  unfold State.emberFault
  extract_lets s1
  have h1 : s.KeepsOthers s1 e.id := s.reEmber_keepsOthers e.id _
  clear_value s1
  refine h1.trans fun x hx _ => ?_
  generalize FaultRec.mk .. = r
  have h : (s1.queueFault e.strand.cx r).embers = s1.embers := (congrArg State.embers (s1.queueFault_core e.strand.cx r) :)
  rwa [h]

theorem State.overflowed_keepsOthers (s : State) (n : Nat) : s.KeepsOthers (s.overflowed n) n := by
  unfold State.overflowed
  split
  · rename_i e he
    rw [← State.ember?_id he]
    exact State.emberFault_keepsOthers (s.modCtx e.strand.cx _) e _ _ _ _
  · exact fun _ hx _ => hx

theorem State.widen_keepsOthers (s : State) (e : Ember) : s.KeepsOthers (s.widen e).1 e.id := by
  unfold State.widen
  split
  · exact fun _ hx _ => hx
  · exact fun _ hx _ => hx
  · exact fun _ hx _ => hx
  · split
    · exact fun _ hx _ => hx
    · split
      · exact s.modEmber_keepsOthers _ _
      · exact s.modEmber_keepsOthers _ _

theorem State.refuseFrame_keepsOthers (s : State) (e : Ember) (p : QuadId) : s.KeepsOthers (s.refuseFrame e p) e.id := by
  unfold State.refuseFrame
  extract_lets wait queued
  have hq (s : State) : s.KeepsOthers (queued s) e.id := s.reEmber_keepsOthers e.id wait
  clear_value queued
  have hroom (s : State) : s.KeepsOthers (if emberSize e.live ≤ e.size then queued s else
      match s.findSpace e.strand.cx e.quad (emberSize e.live) [] with
      | some (p, a, n) => queued (s.modEmber e.id fun x => { x with pool := p, addr := a, size := n })
      | none => (s.modEmber e.id fun x => { x with pool := .frameArea e.quad, size := emberSize e.live }).overflowed e.id)
      e.id := by
    split
    · exact hq s
    · split
      · exact (s.modEmber_keepsOthers e.id _).trans (hq _)
      · exact (s.modEmber_keepsOthers e.id _).trans (State.overflowed_keepsOthers _ _)
  split
  · exact hroom s
  · exact hroom s
  · exact hq s

theorem State.relight_keepsOthers (s : State) (q : QuadId) (c : Context) (e : Ember) :
    s.KeepsOthers (s.relight q c e) e.id := by
  unfold State.relight
  split
  · extract_lets bare
    have hw := (s.modEmber_keepsOthers e.id bare).trans (State.widen_keepsOthers _ e)
    split
    · rename_i s1 h
      rw [h] at hw
      exact hw.trans (s1.emberFault_keepsOthers e _ _ _ _)
    · rename_i s1 h
      rw [h] at hw
      exact hw.trans (s1.overflowed_keepsOthers e.id)
  · rename_i p el _
    extract_lets s1 s2 waiting
    have h1 : s1.embers = s.embers := (congrArg State.embers (s.logRelight_core c.id q e) :)
    have htrace := State.traceRec_core s1 c.id p el 3 e.reason 0 0 e.strand.tag e.cont (toWord e.seq)
    have h2 : s2.embers = s.embers := (congrArg State.embers htrace :).trans h1
    have hs2 : s.KeepsOthers s2 e.id := fun x hx _ => h2 ▸ hx
    clear_value s2
    split
    · refine hs2.trans fun x hx hn => ?_
      obtain ⟨-, he, -⟩ := State.writeFrame_spec (s := s2) (s1 := s2) (src := q) (e := e) (q := p) (elem := el) rfl
      have he' : (s2.writeFrame q e p el).embers = s2.embers.filter (·.id ≠ e.id) := he
      rw [he', List.mem_filter]
      exact ⟨hx, by simpa using hn⟩
    · refine hs2.trans (State.KeepsOthers.trans (t := (s2.countReplay q 0x88).traceRec c.id q e.elem 5 0x88 0 0 e.strand.tag
        e.cont 0) (fun x hx _ => ?_) (State.refuseFrame_keepsOthers _ e p))
      have h3 := (State.traceRec_core (s2.countReplay q 0x88) c.id q e.elem 5 0x88 0 0 e.strand.tag e.cont 0).trans
        (s2.countReplay_core q 0x88)
      generalize State.traceRec .. = u at h3 ⊢
      have he : u.embers = s2.embers := (congrArg State.embers h3 :)
      rwa [he]
end

end Sys2Proof.Machine
end

section
namespace Sys2Proof.Machine

/-! ### Room for the first part's frame (R42, R55) -/

section
variable {s : State}

theorem State.ctx?_modCtx_bind {α : Type} {g : Context → Option α} {f : Context → Context} (hf : ∀ c, (f c).id = c.id)
    (hg : ∀ c, g (f c) = g c) (cx r : CtxId) : ((s.modCtx cx f).ctx? r).bind g = (s.ctx? r).bind g := by
  unfold State.ctx? State.modCtx modWhere
  rw [List.find?_map, Option.bind_map]
  have hid : (fun x : Context => decide (x.id = r)) ∘ (fun x => if decide (x.id = cx) then f x else x) =
      fun x => decide (x.id = r) := by
    funext x
    simp only [Function.comp_apply]
    split
    · rw [hf]
    · rfl
  rw [hid]
  refine Option.bind_congr fun x _ => ?_
  simp only [Function.comp_apply]
  split
  · exact hg x
  · rfl

/-- An ember of a list is counted beside those with another identity. -/
theorem countP_others {e : Ember} {xs : List Ember} (he : e ∈ xs) (p : Ember → Bool) :
    (xs.filter (·.id ≠ e.id)).countP p + [e].countP p ≤ xs.countP p := by
  have hsub : [e].Sublist (xs.filter fun x => !decide (x.id ≠ e.id)) :=
    List.singleton_sublist.2 (List.mem_filter.2 ⟨he, by simp⟩)
  have hsplit := List.countP_eq_countP_filter_add xs p fun x => decide (x.id ≠ e.id)
  have hle := hsub.countP_le (p := p)
  omega

theorem rangeParts_pool {e x : Ember} {n : Nat} {parts : List (Nat × Nat)} {spaces : List (Pool × Nat × Nat)}
    (hx : x ∈ rangeParts e n parts spaces) : ∃ sp ∈ spaces, x.pool = sp.1 := by
  obtain ⟨⟨m, p, sp⟩, hm, rfl⟩ := List.mem_map.1 hx
  exact ⟨sp, (List.of_mem_zip (List.of_mem_zip hm).2).2, rfl⟩

/-- The parts of a split and its first strand hold a frame area's slot at most once, in place of the range. -/
theorem splitEmbers_countP {e : Ember} {es : List Ember} {n me lo hi : Nat} {parts : List (Nat × Nat)}
    {more : List (Pool × Nat × Nat)} (hes : es.map Ember.unnumbered =
      (rangeParts e n parts ((e.pool, e.addr, e.size) :: more)).map Ember.unnumbered)
    (hmore : ∀ x ∈ more, ∀ p, x.1 ≠ .frameArea p) (p : QuadId) :
    (es ++ [firstStrand e me lo hi parts.isEmpty]).countP (·.pool = .frameArea p) ≤ [e].countP (·.pool = .frameArea p) := by
  have hcount (xs : List Ember) : xs.countP (·.pool = .frameArea p) =
      (xs.map Ember.unnumbered).countP (·.pool = .frameArea p) := by
    rw [List.countP_map]
    rfl
  rw [List.countP_append, hcount es, hes, ← hcount]
  cases parts with
  | nil => simp [rangeParts, firstStrand]
  | cons a as =>
    have hcons : rangeParts e n (a :: as) ((e.pool, e.addr, e.size) :: more) =
        partEmber e n a.1 a.2 (e.pool, e.addr, e.size) :: rangeParts e (n + 1) as more := rfl
    have hrest : (rangeParts e (n + 1) as more).countP (·.pool = .frameArea p) = 0 := by
      rw [List.countP_eq_zero]
      intro x hx
      obtain ⟨sp, hsp, hpool⟩ := rangeParts_pool hx
      simp [hpool, hmore sp hsp p]
    simp [hcons, hrest, List.countP_cons, partEmber, firstStrand]

theorem State.rangeSplit_frameFree {q p : QuadId} {c : Context} {e : Ember} {parts : List (Nat × Nat)} {hi : Nat}
    {more : List (Pool × Nat × Nat)} (he : e ∈ s.embers) (hmore : ∀ x ∈ more, ∀ p, x.1 ≠ .frameArea p)
    (h : s.frameFree p = true) : (s.rangeSplit q c e parts hi more).frameFree p = true := by
  obtain ⟨es, ms, hms, hes, hcore⟩ := s.rangeSplit_core q c e parts hi more
  generalize s.rangeSplit q c e parts hi more = t at hcore
  have hembers : t.embers = s.embers.filter (·.id ≠ e.id) ++ es ++
      [firstStrand e (s.nextId + parts.length) (tagIter e.strand.tag) hi parts.isEmpty] := (congrArg State.embers hcore :)
  refine State.frameFree_mono (fun r => ?_) (fun cx d => ?_) (State.framesUsed_congr ?_ ?_ ?_ ?_ ?_) h
  · rw [← t.site_core, hcore, ← s.site_core]
    rfl
  · exact (congrArg (fun u : State => (u.ctx? cx).bind (·.decl? d)) hcore :).trans
      (State.ctx?_modCtx_bind (s := s) (f := fun x => { x with
        spaces := modWhere (fun p => p.num = tagSpace e.strand.tag) (fun p => { p with live := p.live + parts.length }) x.spaces })
        (fun _ => rfl) (fun _ => rfl) c.id cx)
  · exact (congrArg State.frames hcore :)
  · exact (congrArg State.insts hcore :)
  · exact (congrArg State.commits hcore :)
  · rw [hcore]
    exact hms
  · have hsplit := splitEmbers_countP (me := s.nextId + parts.length) (lo := tagIter e.strand.tag) (hi := hi) hes hmore p
    have hothers := countP_others he (·.pool = .frameArea p)
    rw [hembers, List.append_assoc, List.countP_append]
    omega

/-! ### RANGE_SPLIT (R55, R297) -/

theorem State.rangeFor_mem {q : Quad} {c : Context} {e : Ember} (h : s.rangeFor q c = some e) : e ∈ s.embers := by
  have hmem := List.mem_of_find?_eq_some h
  have hranges {r : QuadId} (h : e ∈ s.ranges r) : e ∈ s.embers := (List.mem_filter.1 h).1
  rcases List.mem_append.1 hmem with h | h
  · exact hranges h
  · obtain ⟨r, -, hr⟩ := List.mem_flatMap.1 h
    exact hranges hr

theorem State.poolAddr_core {t : State} (h : t.core = s.core) (e : Ember) : t.poolAddr e = s.poolAddr e := by
  have hc : t.contexts = s.contexts := (congrArg State.contexts h :)
  have hq (c : Context) (q : QuadId) : ((t.quad? q).map fun x => c.emberBase x.ldie) = (s.quad? q).map fun x => c.emberBase x.ldie :=
    State.map_quad?_core (fun _ => rfl) h q
  unfold State.poolAddr
  simp only [State.ctx?, hc, hq]

theorem rangeSplit_completes {die idx : Nat} {q : Quad} {c : Context} {e : Ember} (hq : QuadAt s die idx q)
    (hc : s.ctx? q.cx = some c) (hrange : s.rangeFor q c = some e) (hready : q.ready = [] ∨ c.toReplay q.id ≠ [])
    (hidle : s.idleElement q.id = true) (hclear : s.recordGood e = true → s.pathsClear) :
    Completes (exec (.evRangeSplit die idx) s) fun t =>
      (s.recordGood e = false → e.strand.cx = q.cx → RecordLost s t die c e) ∧
      (s.recordGood e = true → t = ((s.readRecord e).1.takeRange q.id c e).tick) := by
  obtain ⟨hquad, hruns⟩ := hq
  have hid : q.id = ⟨die, idx⟩ := State.quad?_id hquad
  have hbusy : (!q.ready.isEmpty && (c.toReplay q.id).isEmpty) = false := by
    rcases hready with h | h <;> simp [h]
  have hread := s.readRecord_core e
  show Completes (execEvRangeSplit die idx s) _
  unfold execEvRangeSplit
  simp only [hquad, hc, Option.bind_some, hrange, hbusy, hidle, hruns, Bool.not_true, Bool.or_false, Bool.false_eq_true,
    if_false]
  cases hgood : s.recordGood e with
  | false =>
    refine ⟨_, rfl, fun _ hcx => ?_, nofun⟩
    have hlost := (State.Beside.of_core hread).recordLost (q := q.id) (hcx ▸ hc)
    rwa [hid] at hlost ⊢
  | true =>
    simp only [Bool.not_true, Bool.false_eq_true, if_false, State.inOrder_of_clear (hclear hgood)]
    exact ⟨_, rfl, nofun, fun _ => rfl⟩

/-- Pools that cannot hold the parts: the range waits as a fault of EMBER_OVERFLOW. -/
theorem State.takeRange_full {q : QuadId} {c : Context} {e : Ember} (he : e ∈ s.embers) (hc : s.ctx? c.id = some c)
    {parts : List (Nat × Nat)} {hi : Nat}
    (hparts : splitParts (Word.bits ((e.regs[1]?).getD 0) 47 32 + 1) 17 (tagIter e.strand.tag)
      (Word.bits ((e.regs[1]?).getD 0) 16 0) = (parts, hi))
    (hfull : splitSpaces s c.id e.poolQuad (parts.length - 1) [] = none) :
    (s.takeRange q c e).frames = s.frames ∧
      (∃ e' ∈ (s.takeRange q c e).embers, e'.id = e.id ∧ e'.wait = .fault ∧ e'.regs = e.regs ∧ e'.strand.tag = e.strand.tag) ∧
      ∃ (c' : Context) (r : FaultRec), (s.takeRange q c e).ctx? c.id = some c' ∧ c'.faults = c.faults ++ [r] ∧
        r.code = .emberOverflow ∧ r.kind = 1 ∧ r.unit = 7 ∧ r.addr = s.poolAddr e ∧ c'.overflow = c.overflow + 1 := by
  let s1 := (s.modEmber e.id fun x => { x with wait := .fault }).modCtx c.id fun c => { c with overflow := c.overflow + 1 }
  obtain ⟨r, htake, hcode, hkind, hunit, haddr⟩ : ∃ r : FaultRec, s.takeRange q c e = s1.queueFault c.id r ∧
      r.code = .emberOverflow ∧ r.kind = 1 ∧ r.unit = 7 ∧ r.addr = s.poolAddr e := by
    unfold State.takeRange
    simp only [hparts, hfull]
    exact ⟨_, rfl, rfl, rfl, rfl, rfl⟩
  rw [htake]
  have hcore := s1.queueFault_core c.id r
  generalize s1.queueFault c.id r = t at hcore
  have hembers : t.embers = (s.modEmber e.id fun x => { x with wait := .fault }).embers := (congrArg State.embers hcore :)
  have hmem : ({ e with wait := .fault } : Ember) ∈ t.embers := by
    rw [hembers]
    exact List.mem_map.2 ⟨e, he, if_pos (decide_eq_true rfl)⟩
  have h1 : s1.ctx? c.id = some { c with overflow := c.overflow + 1 } := State.ctx?_modCtx (s := s) hc _ rfl
  have hfid : ({ c with overflow := c.overflow + 1 }.faulted r : Context).id = c.id := by
    unfold Context.faulted
    split <;> rfl
  have h2 : t.ctx? c.id = some ({ c with overflow := c.overflow + 1 }.faulted r : Context) :=
    (congrArg (State.ctx? · c.id) hcore :).trans (State.ctx?_modCtx (s := s1) h1 _ hfid)
  have hk : ¬ (r.kind = 2 ∧ 256 ≤ (c.faults.filter (·.kind = 2)).length) := fun h => absurd (hkind.symm.trans h.1) (by decide)
  exact ⟨(congrArg State.frames hcore :), ⟨_, hmem, rfl, rfl, rfl, rfl⟩, _, r, h2,
    congrArg Context.faults (if_neg hk), hcode, hkind, hunit, haddr, congrArg Context.overflow (if_neg hk)⟩
end

end Sys2Proof.Machine
end

section
namespace Sys2Proof.Machine

section
variable {s : State} {q : QuadId} {c : Context} {e : Ember} {k : Nat} {more : List (Pool × Nat × Nat)}

/-- The end of what `j` halvings leave of an ember's range, which ends at `hi`. -/
def Ember.cut (e : Ember) (hi j : Nat) : Nat := cutAt (tagIter e.strand.tag) hi j

/-- The parts of the range that `k` halvings leave pending. -/
def Ember.cutParts (e : Ember) (hi k : Nat) : List (Nat × Nat) := (List.range k).map fun j => (e.cut hi (j + 1), e.cut hi j)

@[simp] theorem Ember.cutParts_length (e : Ember) (hi k : Nat) : (e.cutParts hi k).length = k := by simp [Ember.cutParts]

theorem Ember.cutParts_get (e : Ember) (hi : Nat) {j : Nat} (hj : j < k) :
    (e.cutParts hi k)[j]? = some (e.cut hi (j + 1), e.cut hi j) := by
  simp [Ember.cutParts, hj]

/-- A range at its grain, as the fields of its word say it, is cut into the parts of its halvings. -/
theorem Ember.splitParts_eq {e : Ember} {w : Word} (hw : (e.regs[1]?).getD 0 = w) (hhi : (w.setWidth 17).toNat ≤ 2 ^ 16)
    (hg : ((w.setWidth 17).toNat - tagIter e.strand.tag) / 2 ^ k ≤ (w.extractLsb' 32 16).toNat + 1)
    (hbig : ∀ j < k, (w.extractLsb' 32 16).toNat + 1 < ((w.setWidth 17).toNat - tagIter e.strand.tag) / 2 ^ j)
    (hle : tagIter e.strand.tag ≤ (w.setWidth 17).toNat) :
    splitParts (Word.bits ((e.regs[1]?).getD 0) 47 32 + 1) 17 (tagIter e.strand.tag) (Word.bits ((e.regs[1]?).getD 0) 16 0) =
      (e.cutParts (w.setWidth 17).toNat k, e.cut (w.setWidth 17).toNat k) := by
  have hgrain : Word.bits w 47 32 = (w.extractLsb' 32 16).toNat := by
    rw [BitVec.extractLsb'_toNat, Nat.shiftRight_eq_div_pow]
    rfl
  have hend : Word.bits w 16 0 = (w.setWidth 17).toNat := by
    rw [BitVec.toNat_setWidth, Word.bits, bitsOf, Nat.pow_zero, Nat.div_one]
  have hk := halvings_le (by omega) (Nat.le_add_left 1 _) hbig
  rw [hw, hgrain, hend]
  exact Machine.splitParts_eq (by omega) hle hg hbig

theorem partEmber_iter (e : Ember) (id hi : Nat) {lo : Nat} (hlo : lo < 65536) (sp : Pool × Nat × Nat) :
    tagIter (partEmber e id lo hi sp).strand.tag = lo := by
  show tagIter (e.strand.tag / 65536 * 65536 + lo) = lo
  simp only [tagIter, bitsOf]
  omega

theorem partWord_end (w : Word) (hi : Nat) : (partWord w hi).setWidth 17 = BitVec.ofNat 17 hi := by
  apply BitVec.eq_of_toNat_eq
  simp only [partWord, toWord, BitVec.toNat_setWidth, BitVec.toNat_ofNat]
  omega

/-- The parts a split leaves pending, the first at the range's own record. -/
theorem State.takeRange_parts {hi : Nat}
    (hparts : splitParts (Word.bits ((e.regs[1]?).getD 0) 47 32 + 1) 17 (tagIter e.strand.tag)
      (Word.bits ((e.regs[1]?).getD 0) 16 0) = (e.cutParts hi k, e.cut hi k))
    (hmore : splitSpaces s c.id e.poolQuad (k - 1) [] = some more) {j : Nat} (hj : j < k)
    (hlt : e.cut hi (j + 1) < 65536) :
    ∃ x ∈ (s.takeRange q c e).embers, x.reason = 0x8A ∧ x.wait = .range ∧ x.cont = e.cont ∧ x.live = 2 ∧
      tagIter x.strand.tag = e.cut hi (j + 1) ∧
      ((x.regs[1]?).getD 0).setWidth 17 = BitVec.ofNat 17 (e.cut hi j) ∧
      (j = 0 → (x.pool, x.addr, x.size) = (e.pool, e.addr, e.size)) ∧
      (0 < j → more[j - 1]? = some (x.pool, x.addr, x.size)) := by
  rw [State.takeRange_split hparts (by rw [Ember.cutParts_length]; exact hmore)]
  have hkeeps := State.relight_keepsOthers (s.rangeSplit q c e (e.cutParts hi k)
    (e.cut hi k) more) q c (firstStrand e (s.nextId + (e.cutParts hi k).length)
      (tagIter e.strand.tag) (e.cut hi k) (e.cutParts hi k).isEmpty)
  obtain ⟨es, ms, -, hes, hcore⟩ := s.rangeSplit_core q c e (e.cutParts hi k)
    (e.cut hi k) more
  obtain ⟨sp, hsp, hown, hnew⟩ : ∃ sp, ((e.pool, e.addr, e.size) :: more)[j]? = some sp ∧
      (j = 0 → sp = (e.pool, e.addr, e.size)) ∧ (0 < j → more[j - 1]? = some sp) := by
    cases j with
    | zero => exact ⟨_, rfl, fun _ => rfl, nofun⟩
    | succ i =>
      have hlen := (splitSpaces_spec hmore).1
      have hi' : i < more.length := by rw [hlen, List.length_nil]; omega
      exact ⟨_, List.getElem?_eq_getElem hi', nofun, fun _ => List.getElem?_eq_getElem hi'⟩
  have hpart := List.mem_of_getElem? (rangeParts_get (e := e) (n := s.nextId) (e.cutParts_get hi hj) hsp)
  obtain ⟨x, hx, hxp⟩ := List.mem_map.1 (hes ▸ List.mem_map_of_mem hpart)
  generalize s.rangeSplit q c e _ _ more = u at hcore hkeeps ⊢
  have hembers : u.embers = s.embers.filter (·.id ≠ e.id) ++ es ++ [_] := (congrArg State.embers hcore :)
  have hxu : x ∈ u.embers := hembers ▸ List.mem_append_left _ (List.mem_append_right _ hx)
  have hid : x.id = s.nextId + j := (congrArg Ember.id hxp :)
  have hne : x.id ≠ s.nextId + (e.cutParts hi k).length := by
    rw [hid, Ember.cutParts_length]
    omega
  have hregs : x.regs = regsWith [(1, partWord ((e.regs[1]?).getD 0) (e.cut hi j))] :=
    (congrArg Ember.regs hxp :)
  have hpool : (x.pool, x.addr, x.size) = sp := (congrArg (fun y : Ember => (y.pool, y.addr, y.size)) hxp :)
  refine ⟨x, hkeeps x hxu hne, (congrArg Ember.reason hxp :), (congrArg Ember.wait hxp :), (congrArg Ember.cont hxp :),
    (congrArg Ember.live hxp :), ?_, ?_, fun h => hpool.trans (hown h), fun h => hpool ▸ hnew h⟩
  · exact (congrArg (fun y : Ember => tagIter y.strand.tag) hxp :).trans (partEmber_iter e (s.nextId + j) (e.cut hi j) hlt sp)
  · rw [hregs]
    exact partWord_end _ _

/-- The frame a split's first part becomes: c0 and c1 are its ends. -/
theorem State.takeRange_frame {s0 : State} {hi : Nat}
    (hparts : splitParts (Word.bits ((e.regs[1]?).getD 0) 47 32 + 1) 17 (tagIter e.strand.tag)
      (Word.bits ((e.regs[1]?).getD 0) 16 0) = (e.cutParts hi k, e.cut hi k))
    (hmore : splitSpaces s c.id e.poolQuad (k - 1) [] = some more) (he : e ∈ s.embers) (hval : e.value = none)
    (hframes : s.frames = s0.frames) {p : QuadId} {el : Nat}
    (hplace : c.placeOf? (tagLdie e.strand.tag) e.cont e.strand.tag = some (p, el))
    (hwait : (s.quad? p).map (·.frameWait) = some []) (hfree : s.frameFree p = true) :
    ∃ f : Frame, FrameSent s0 (s.takeRange q c e).tick q p f ∧ f.quad = p ∧ f.block = e.cont ∧
      f.strand.tag = e.strand.tag ∧ f.regs[0]? = some (BitVec.ofNat 64 (tagIter e.strand.tag)) ∧
      f.regs[1]? = some (BitVec.ofNat 64 (e.cut hi k)) := by
  rw [State.takeRange_split hparts (by rw [Ember.cutParts_length]; exact hmore)]
  have hfree' := State.rangeSplit_frameFree (q := q) (c := c) (parts := e.cutParts hi k)
    (hi := e.cut hi k) he ((splitSpaces_spec hmore).2 nofun) hfree
  obtain ⟨es, ms, -, -, hcore⟩ := s.rangeSplit_core q c e (e.cutParts hi k)
    (e.cut hi k) more
  let first := firstStrand e (s.nextId + (e.cutParts hi k).length) (tagIter e.strand.tag)
    (e.cut hi k) (e.cutParts hi k).isEmpty
  have hnone : first.value = none := hval
  have hlive : first.live = 3 := rfl
  have hregs : first.regs = regsWith [(0, toWord (tagIter e.strand.tag)), (1, toWord (e.cut hi k))] := rfl
  generalize s.rangeSplit q c e _ _ more = u at hcore hfree' ⊢
  have hwait' : (u.quad? p).map (·.frameWait) = some [] := by
    obtain ⟨x, hx, hnil⟩ := Option.map_eq_some_iff.1 hwait
    obtain ⟨y, hy, eyx⟩ := State.quad?_of_core (s := s) (congrArg State.quads hcore :) hx
    rw [hy]
    exact congrArg some ((congrArg Quad.frameWait eyx :).trans hnil)
  obtain ⟨s2, hs2, hf2, -⟩ := State.relight_placed (s := u) (q := q) (e := first) hplace hfree' hwait'
  have huf : u.frames = s.frames := (congrArg State.frames hcore :)
  obtain ⟨hsent, -, -⟩ := State.writeFrame_spec (s := s0) (s1 := s2) (src := q) (e := first) (q := p) (elem := el)
    (hf2.trans (huf.trans hframes))
  rw [hs2]
  have hget (r : Nat) (hr : r < 32) : first.relitRegs[r]? = some (if bitOf 3 r then (first.regs[r]?).getD 0 else 0) := by
    rw [first.relitRegs_get hr, hnone, hlive]
    rfl
  refine ⟨_, hsent, rfl, rfl, (first.strand.relit_keeps s2.clk).1, ?_, ?_⟩
  · exact (hget 0 (by decide)).trans (by rw [hregs]; rfl)
  · exact (hget 1 (by decide)).trans (by rw [hregs]; rfl)
end

end Sys2Proof.Machine
end

section
/-!
PROOFS. Reservations given and served: what they change of the embers' strands (13_progress.md R302, R303).
-/

namespace Sys2Proof.Machine

/-! ### Reservations given to strands -/

/-- The embers' identities and strands. -/
def State.roll (s : State) : List (Nat × Strand) := s.embers.map fun e => (e.id, e.strand)

/-- The contexts' identities. -/
def State.ctxIds (s : State) : List CtxId := s.contexts.map (·.id)

/-- Strands of embers may have got or lost reservations, those due excepted; embers and contexts are the same. -/
def State.Granting (s t : State) : Prop :=
  t.ctxIds = s.ctxIds ∧ ∃ f : Strand → Strand, (∀ st, (f st).sid = st.sid ∧ (f st).due = st.due) ∧
    t.roll = s.roll.map fun x => (x.1, f x.2)

section
variable {s t u : State}

theorem State.roll_find? (s : State) (n : Nat) :
    s.roll.find? (·.1 = n) = (s.ember? n).map fun e => (e.id, e.strand) := by
  unfold State.roll State.ember?
  rw [List.find?_map]
  rfl

theorem State.Granting.of_roll (h : t.roll = s.roll) (hc : t.ctxIds = s.ctxIds) : s.Granting t :=
  ⟨hc, id, fun _ => ⟨rfl, rfl⟩, by rw [h]; simp⟩

theorem State.Granting.trans (h1 : s.Granting t) (h2 : t.Granting u) : s.Granting u := by
  obtain ⟨hcs, f, hf, hs⟩ := h1
  obtain ⟨hct, g, hg, ht⟩ := h2
  refine ⟨hct.trans hcs, g ∘ f, fun st => ⟨(hg _).1.trans (hf st).1, (hg _).2.trans (hf st).2⟩, ?_⟩
  rw [ht, hs, List.map_map]
  rfl

theorem State.Granting.foldl {α : Type} {f : State → α → State} (hf : ∀ (s : State) (a : α), s.Granting (f s a)) :
    ∀ (xs : List α) (s : State), s.Granting (xs.foldl f s)
  | [], _ => .of_roll rfl rfl
  | x :: r, s => (hf s x).trans (State.Granting.foldl hf r (f s x))

/-- An ember whose place in the roll is known. -/
theorem State.ember?_of_roll {n m : Nat} {st : Strand} (h : s.roll.find? (·.1 = n) = some (m, st)) :
    ∃ e, s.ember? n = some e ∧ e.strand = st := by
  rw [s.roll_find? n] at h
  obtain ⟨e, he, hst⟩ := Option.map_eq_some_iff.1 h
  exact ⟨e, he, (Prod.mk.inj hst).2⟩

theorem State.roll_find?_map {n : Nat} {e : Ember} {f : Strand → Strand} (he : s.ember? n = some e)
    (h : t.roll = s.roll.map fun x => (x.1, f x.2)) : ∃ e', t.ember? n = some e' ∧ e'.strand = f e.strand := by
  refine State.ember?_of_roll (m := e.id) ?_
  rw [h, List.find?_map]
  have hfind := s.roll_find? n
  rw [he] at hfind
  exact congrArg (Option.map fun x : Nat × Strand => (x.1, f x.2)) hfind

theorem State.Granting.ember? {n : Nat} {e : Ember} (h : s.Granting t) (he : s.ember? n = some e) :
    ∃ e', t.ember? n = some e' ∧ e'.strand.sid = e.strand.sid ∧ e'.strand.due = e.strand.due := by
  obtain ⟨-, f, hf, hroll⟩ := h
  obtain ⟨e', he', hst⟩ := State.roll_find?_map he hroll
  exact ⟨e', he', hst ▸ hf e.strand⟩

theorem State.Granting.ctx? {cx : CtxId} {c : Context} (h : s.Granting t) (hc : s.ctx? cx = some c) : ∃ c', t.ctx? cx = some c' := by
  have hids (u : State) : (u.ctx? cx).map (·.id) = u.ctxIds.find? (· = cx) := by
    unfold State.ctxIds State.ctx?
    rw [List.find?_map]
    rfl
  have hmap : (t.ctx? cx).map (·.id) = some c.id := by
    rw [hids t, h.1, ← hids s, hc]
    rfl
  obtain ⟨c', hc', -⟩ := Option.map_eq_some_iff.1 hmap
  exact ⟨c', hc'⟩
end

section
variable (s : State)

@[simp] theorem State.wakeWhere_roll (p : Ember → Bool) : (s.wakeWhere p).roll = s.roll := by
  unfold State.wakeWhere
  generalize s.embers.filter p = es
  induction es generalizing s with
  | nil => rfl
  | cons e es ih =>
    refine (ih _).trans ?_
    show (modWhere (fun x : Ember => decide (x.id = e.id)) (fun x => { x with wait := .nothing }) s.embers).map _ = _
    rw [modWhere, List.map_map]
    refine List.map_congr_left fun x _ => ?_
    simp only [Function.comp_apply]
    split <;> rfl

@[simp] theorem State.wakeWhere_ctx? (p : Ember → Bool) (cx : CtxId) : (s.wakeWhere p).ctx? cx = s.ctx? cx := by
  rw [s.wakeWhere_eq p]
  rfl

theorem State.wakeWhere_granting (p : Ember → Bool) : s.Granting (s.wakeWhere p) :=
  .of_roll (s.wakeWhere_roll p) (by rw [s.wakeWhere_eq p]; rfl)

theorem State.modCtx_granting (cx : CtxId) {f : Context → Context} (hf : ∀ c, (f c).id = c.id) : s.Granting (s.modCtx cx f) := by
  refine .of_roll rfl ?_
  show (s.contexts.map _).map _ = _
  rw [List.map_map]
  refine List.map_congr_left fun c _ => ?_
  simp only [Function.comp_apply]
  split
  · exact hf c
  · rfl

theorem State.offQueue_granting (cx : CtxId) (pool : Bool) (key sid : Nat) : s.Granting (s.offQueue cx pool key sid) :=
  s.modCtx_granting cx fun c => by cases pool <;> rfl

/-- A strand as the head of a reservation queue leaves it. -/
def Strand.granted (cx : CtxId) (sid : Nat) (r : TagResv) (st : Strand) : Strand :=
  if st.sid = sid ∧ st.cx = cx then { st with tagResv := st.tagResv ++ [r], resv := none } else st

theorem State.granted1_roll (cx : CtxId) (sid : Nat) (r : TagResv) :
    (s.granted1 cx sid r).roll = s.roll.map fun x => (x.1, x.2.granted cx sid r) := by
  refine (State.wakeWhere_roll _ _).trans ?_
  show (s.embers.map _).map _ = (s.embers.map _).map _
  rw [List.map_map, List.map_map]
  rfl

theorem State.granted1_granting (cx : CtxId) (sid : Nat) (r : TagResv) : s.Granting (s.granted1 cx sid r) :=
  have hctx : (s.granted1 cx sid r).ctxIds = s.ctxIds := by
    unfold State.granted1
    refine (State.wakeWhere_granting _ _).1.trans ?_
    show (s.contexts.map _).map _ = _
    rw [List.map_map]
    rfl
  ⟨hctx, _, fun st => by unfold Strand.granted; split <;> exact ⟨rfl, rfl⟩, s.granted1_roll cx sid r⟩

theorem State.servePool_granting (cx : CtxId) (d : Nat) : ∀ (fuel : Nat) (s : State), s.Granting (s.servePool cx d fuel)
  | 0, _ => .of_roll rfl rfl
  | fuel + 1, s => by
    have off (sid : Nat) : s.Granting ((s.offQueue cx true d sid).servePool cx d fuel) :=
      (s.offQueue_granting cx true d sid).trans (State.servePool_granting cx d fuel _)
    unfold State.servePool
    split
    · rename_i sid num _ _
      split
      · rename_i st _
        split
        · rename_i block slot _
          have hnumber : s.Granting (s.reserveNumber st d num block slot).2 := s.modCtx_granting st.cx fun _ => rfl
          exact hnumber.trans ((State.offQueue_granting _ cx true d sid).trans ((State.granted1_granting _ cx sid _).trans
            (State.servePool_granting cx d fuel _)))
        · exact off sid
      · exact off sid
    · exact .of_roll rfl rfl

theorem State.serveIter_granting (cx : CtxId) (n : Nat) : ∀ (fuel : Nat) (s : State), s.Granting (s.serveIter cx n fuel)
  | 0, _ => .of_roll rfl rfl
  | fuel + 1, s => by
    have off (sid : Nat) : s.Granting ((s.offQueue cx false n sid).serveIter cx n fuel) :=
      (s.offQueue_granting cx false n sid).trans (State.serveIter_granting cx n fuel _)
    unfold State.serveIter
    split
    · rename_i sid it _ _
      split
      · rename_i st _
        split
        · rename_i block slot _
          have hiter : s.Granting (s.reserveIter st n it block slot).2 := s.modCtx_granting st.cx fun _ => rfl
          exact hiter.trans ((State.offQueue_granting _ cx false n sid).trans ((State.granted1_granting _ cx sid _).trans
            (State.serveIter_granting cx n fuel _)))
        · exact off sid
      · exact off sid
    · exact .of_roll rfl rfl

theorem State.wakePool_granting (cx : CtxId) (d : Nat) : s.Granting (s.wakePool cx d) := by
  unfold State.wakePool
  extract_lets queue s1
  have h1 : s.Granting s1 := State.servePool_granting cx d _ s
  split
  · exact h1.trans (s1.wakeWhere_granting _)
  · exact h1

theorem State.wakeIter_granting (cx : CtxId) (n : Nat) : s.Granting (s.wakeIter cx n) := by
  unfold State.wakeIter
  extract_lets queue s1
  have h1 : s.Granting s1 := State.serveIter_granting cx n _ s
  split
  · exact h1.trans (s1.wakeWhere_granting _)
  · exact h1

theorem State.entryFreed_granting (q : QuadId) : s.Granting (s.entryFreed q) :=
  have hquad : s.Granting (s.modQuad q fun x => x.grantEntries 130) := .of_roll rfl rfl
  hquad.trans (State.wakeWhere_granting _ _)

theorem State.endEntries_granting (sid : Nat) : s.Granting (s.endEntries sid) :=
  have hfold (t : State) (qs : List QuadId) : t.Granting (qs.foldl State.entryFreed t) :=
    State.Granting.foldl State.entryFreed_granting qs t
  hfold { s with quads := s.quads.map _ } _

theorem State.leaveQueues_granting (cx : CtxId) (sid : Nat) : s.Granting (s.leaveQueues cx sid) := by
  unfold State.leaveQueues
  split
  · exact .of_roll rfl rfl
  · extract_lets s1 s2
    have h2 : s1.Granting s2 := State.Granting.foldl (fun s d => s.wakePool_granting cx d) _ s1
    have h1 : s.Granting s1 := s.modCtx_granting cx fun _ => rfl
    exact (h1.trans h2).trans (State.Granting.foldl (fun s n => s.wakeIter_granting cx n) _ s2)

theorem State.dropResv_granting (st : Strand) : s.Granting (s.dropResv st) := by
  unfold State.dropResv
  split
  · exact s.endEntries_granting _
  · exact s.leaveQueues_granting _ _
  · exact s.leaveQueues_granting _ _
  · exact .of_roll rfl rfl

theorem State.askEntries_keeps (sid : Nat) (want : List (QuadId × Nat × Nat)) :
    (s.askEntries sid want).roll = s.roll ∧ (s.askEntries sid want).ctxIds = s.ctxIds := by
  unfold State.askEntries
  generalize sortBy _ want = ws
  induction ws generalizing s with
  | nil => exact ⟨rfl, rfl⟩
  | cons w ws ih => exact ih _

/-- A strand at the end of a pool's reservation queue. -/
def State.enterPool (cx : CtxId) (d sid : Nat) : State := s.modCtx cx fun c => { c with poolQueue := c.poolQueue ++ [(d, sid)] }

/-- A strand at the end of a space's reservation queue. -/
def State.enterIter (cx : CtxId) (m sid : Nat) : State := s.modCtx cx fun c => { c with iterQueue := c.iterQueue ++ [(m, sid)] }

theorem State.enterPool_granting (cx : CtxId) (d sid : Nat) : s.Granting (s.enterPool cx d sid) :=
  s.modCtx_granting cx fun _ => rfl

theorem State.enterIter_granting (cx : CtxId) (m sid : Nat) : s.Granting (s.enterIter cx m sid) :=
  s.modCtx_granting cx fun _ => rfl

/-- A strand given the reservation due to it. -/
def Strand.given (r : Resv) (st : Strand) : Strand := { st with resv := some r, due := none }

/-- A reservation given, no queue entered yet. -/
def State.given (e : Ember) (r : Resv) : State :=
  (s.modEmber e.id fun x => { x with strand := x.strand.given r }).count e.quad 0x15 1

theorem State.giveResv_granting (e : Ember) (r : Resv) : ((s.dropResv e.strand).given e r).Granting (s.giveResv e r) := by
  cases r with
  | pool d b k => exact (State.enterPool_granting _ e.strand.cx d e.strand.sid).trans (State.wakePool_granting _ e.strand.cx d)
  | iter m b k => exact (State.enterIter_granting _ e.strand.cx m e.strand.sid).trans (State.wakeIter_granting _ e.strand.cx m)
  | entries want =>
    obtain ⟨hroll, hctx⟩ := ((s.dropResv e.strand).given e (.entries want)).askEntries_keeps e.strand.sid want
    exact .of_roll hroll hctx
  | lines q lo hi u => exact .of_roll rfl rfl
end

end Sys2Proof.Machine
end

section
namespace Sys2Proof.Machine

/-! ### REFUSAL_COUNT_LIMIT (R302, R303) -/

section
variable {s t : State} {n : Nat} {e : Ember} {r : Resv}

theorem State.given_ember? (he : s.ember? n = some e) (st : Ember) (hid : st.id = n) :
    (s.given st r).ember? n = some { e with strand := e.strand.given r } := by
  subst hid
  exact State.ember?_modEmber he _ rfl

/-- What every reservation given leaves of its strand. -/
theorem State.giveResv_strand (he : s.ember? n = some e) : ∃ e', (s.giveResv e r).ember? n = some e' ∧
    e'.strand.due = none ∧ e'.strand.sid = e.strand.sid ∧
    ((∃ q lo hi u, r = .lines q lo hi u) ∨ (∃ want, r = .entries want) → e'.strand.resv = some r) := by
  obtain ⟨e0, he0, hsid0, -⟩ := (s.dropResv_granting e.strand).ember? he
  have he1 := State.given_ember? (r := r) he0 e (State.ember?_id he)
  have hgive := (s.giveResv_granting e r).ember? he1
  cases r with
  | pool d b k =>
    obtain ⟨e', he', hsid, hdue⟩ := hgive
    exact ⟨e', he', hdue, hsid.trans hsid0, by simp⟩
  | iter m b k =>
    obtain ⟨e', he', hsid, hdue⟩ := hgive
    exact ⟨e', he', hdue, hsid.trans hsid0, by simp⟩
  | entries want =>
    obtain ⟨e', he', hst⟩ := State.roll_find?_map (f := id) he1
      ((((s.dropResv e.strand).given e (.entries want)).askEntries_keeps e.strand.sid want).1.trans (by simp))
    exact ⟨e', he', by rw [hst]; rfl, by rw [hst]; exact hsid0, fun _ => by rw [hst]; rfl⟩
  | lines q lo hi u => exact ⟨_, he1, rfl, hsid0, fun _ => rfl⟩

theorem State.giveResv_ctx? {cx : CtxId} {c : Context} (e : Ember) (r : Resv) (hc : s.ctx? cx = some c) :
    ∃ c', (s.giveResv e r).ctx? cx = some c' := by
  obtain ⟨c1, hc1⟩ := (s.dropResv_granting e.strand).ctx? hc
  exact (s.giveResv_granting e r).ctx? hc1

/-! ### The strand that enters a queue -/

theorem find?_eq_of_unique {α : Type} {p : α → Bool} {a : α} {xs : List α} (ha : a ∈ xs) (hp : p a = true)
    (h : ∀ b ∈ xs, p b = true → b = a) : xs.find? p = some a := by
  obtain ⟨b, hb⟩ := Option.isSome_iff_exists.1 (List.find?_isSome.2 ⟨a, ha, hp⟩)
  rw [hb, h b (List.mem_of_find?_eq_some hb) (List.find?_some hb)]

theorem State.strands_find? {st : Strand} {p : Strand → Bool} (h : (s.embers.map (·.strand)).find? p = some st) :
    s.strands.find? p = some st := by
  unfold State.strands
  simp only [List.append_assoc]
  rw [List.find?_append, h]
  rfl

/-- The strand of an ember that alone has its number is found as it has been given its reservation. -/
theorem State.given_strand? (he : s.ember? n = some e)
    (huniq : ∀ x ∈ s.embers, x.strand.sid = e.strand.sid → x = e) {t : State} (ht : t.embers = (s.given e r).embers) :
    (t.strands.find? fun st => st.sid = e.strand.sid ∧ st.cx = e.strand.cx) = some (e.strand.given r) := by
  have hmem : e ∈ s.embers := List.mem_of_find?_eq_some he
  refine State.strands_find? (find?_eq_of_unique ?_ (by simp [Strand.given]) fun st hst hp => ?_)
  · rw [ht]
    exact List.mem_map.2 ⟨{ e with strand := e.strand.given r }, List.mem_map.2 ⟨e, hmem, if_pos (decide_eq_true rfl)⟩, rfl⟩
  · rw [ht] at hst
    obtain ⟨y, hy, rfl⟩ := List.mem_map.1 hst
    obtain ⟨x, hx, rfl⟩ := List.mem_map.1 hy
    have hsid : x.strand.sid = e.strand.sid := by
      have h1 := (of_decide_eq_true hp).1
      split at h1
      · exact h1
      · exact h1
    rw [huniq x hx hsid]
    exact congrArg Ember.strand (if_pos (decide_eq_true rfl))

/-! ### Numbers and iterations granted -/

/-- A context whose fault slots' strands have been changed. -/
def Context.mapSlots (f : Strand → Strand) (c : Context) : Context :=
  { c with ringSlots := c.ringSlots.map fun x => { x with ember := x.ember.map fun e => { e with strand := f e.strand } } }

theorem State.granted1_ctx? (s : State) (cx : CtxId) (sid : Nat) (x : TagResv) (d : CtxId) :
    (s.granted1 cx sid x).ctx? d = (s.ctx? d).map (Context.mapSlots (Strand.granted cx sid x)) := by
  refine (State.wakeWhere_ctx? _ _ _).trans ?_
  exact List.find?_map

theorem State.space?_of_ctx {cx : CtxId} {c : Context} (h : s.ctx? cx = some c) (m : Nat) :
    s.space? cx m = c.spaces.find? (·.num = m) := by
  unfold State.space?
  rw [h]
  rfl

theorem Strand.granted_given (st : Strand) (x : TagResv) :
    (st.given r).granted st.cx st.sid x = { st with tagResv := st.tagResv ++ [x], resv := none, due := none } :=
  if_pos ⟨rfl, rfl⟩

theorem mkTag_space (l c g i : Nat) {m : Nat} (h : m < 64) : tagSpace (mkTag l c m g i) = m := by
  unfold tagSpace mkTag bitsOf
  omega

theorem mkTag_gen (l c m i : Nat) {g : Nat} (h : g < 16) : tagGen (mkTag l c m g i) = g := by
  unfold tagGen mkTag bitsOf
  omega

theorem tagIter_add (t : Nat) {i : Nat} (h : i < 65536) : tagIter (t / 65536 * 65536 + i) = i := by
  unfold tagIter bitsOf
  omega

theorem Space.freeIter?_lt {p : Space} {i : Nat} (h : p.freeIter? = some i) : i < 2 ^ p.k := by
  have hmem := (List.min?_eq_some_iff.1 h).1
  have := (List.mem_filter.1 hmem).2
  simp only [Bool.and_eq_true, decide_eq_true_eq] at this
  exact this.1.1

/-- A queue keeps the entries of the other keys when one leaves that was last in it. -/
theorem queue_filter_last {xs : List (Nat × Nat)} {d sid : Nat} (h : ∀ y ∈ xs, y.1 ≠ d) :
    (xs ++ [(d, sid)]).filter (· ≠ (d, sid)) = xs := by
  have hkeep : xs.filter (· ≠ (d, sid)) = xs :=
    List.filter_eq_self.2 fun y hy => decide_eq_true fun e => h y hy (congrArg Prod.fst e)
  rw [List.filter_append, hkeep]
  simp

theorem queue_of_last {xs : List (Nat × Nat)} {d sid : Nat} (h : ∀ y ∈ xs, y.1 ≠ d) :
    (xs ++ [(d, sid)]).filter (·.1 = d) = [(d, sid)] := by
  rw [List.filter_append, List.filter_eq_nil_iff.2 fun y hy => by simpa using h y hy]
  simp
end

end Sys2Proof.Machine
end

section
namespace Sys2Proof.Machine

section
variable {s : State} {cx : CtxId} {c : Context}

/-! ### Numbers and iterations reserved -/

theorem State.modSpace_ctx? (h : s.ctx? cx = some c) (m : Nat) (f : Space → Space) :
    (s.modSpace cx m f).ctx? cx = some { c with spaces := modWhere (fun p => p.num = m) f c.spaces } :=
  State.ctx?_modCtx h (fun x => { x with spaces := modWhere (fun p => p.num = m) f x.spaces }) rfl

theorem State.reserveNumber_spec {st : Strand} (d b k : Nat) {m : Nat} {p : Space} (hc : s.ctx? st.cx = some c)
    (hp : c.spaces.find? (·.num = m) = some p) (hm : m < 64) :
    (∃ f : Space → Space, (s.reserveNumber st d m b k).2.ctx? st.cx =
      some { c with spaces := modWhere (fun p => p.num = m) f c.spaces } ∧ (f p).num = p.num ∧ (f p).reserved = true) ∧
      ∃ x : TagResv, (s.reserveNumber st d m b k).1 = x ∧ x.block = b ∧ x.slot = k ∧ x.fresh = true ∧ tagSpace x.tag = m ∧
        tagGen x.tag = (p.gen + 1) % 16 := by
  have hgen : (((s.space? st.cx m).map (·.gen)).getD 0 + 1) % 16 = (p.gen + 1) % 16 := by
    rw [State.space?_of_ctx hc, hp]
    rfl
  exact ⟨⟨_, State.modSpace_ctx? hc m _, rfl, rfl⟩, _, rfl, rfl, rfl, rfl, mkTag_space _ _ _ _ hm,
    (mkTag_gen _ _ _ _ (Nat.mod_lt _ (by decide))).trans hgen⟩

theorem State.reserveIter_spec {st : Strand} (b k : Nat) {m it : Nat} {p : Space} (hc : s.ctx? st.cx = some c)
    (hit : it < 65536) :
    (∃ f : Space → Space, (s.reserveIter st m it b k).2.ctx? st.cx =
      some { c with spaces := modWhere (fun p => p.num = m) f c.spaces } ∧ (f p).num = p.num ∧
        (f p).resvIters = p.resvIters ++ [it]) ∧
      ∃ x : TagResv, (s.reserveIter st m it b k).1 = x ∧ x.block = b ∧ x.slot = k ∧ x.fresh = false ∧ tagIter x.tag = it :=
  ⟨⟨_, State.modSpace_ctx? hc m _, rfl, rfl⟩, _, rfl, rfl, rfl, rfl, tagIter_add _ hit⟩

/-! ### The queue of a pool -/

theorem State.servePool_none {d : Nat} (h : s.freePool? cx d = none) (fuel : Nat) : s.servePool cx d fuel = s := by
  cases fuel with
  | zero => rfl
  | succ fuel =>
    unfold State.servePool
    rw [h]
    cases (s.ctx? cx).bind fun c => (c.poolQueue.find? (·.1 = d)).map (·.2) <;> rfl

theorem State.wakePool_none {d : Nat} (h : s.freePool? cx d = none) : s.wakePool cx d = s := by
  unfold State.wakePool
  simp [State.servePool_none h, h]

/-- A free number goes to the one strand that waits for it. -/
theorem State.wakePool_one {d sid num b k d' : Nat} {st : Strand} (hc : s.ctx? cx = some c)
    (hq : c.poolQueue.filter (·.1 = d) = [(d, sid)]) (hfree : s.freePool? cx d = some num)
    (hst : (s.strands.find? fun st => st.sid = sid ∧ st.cx = cx) = some st) (hresv : st.resv = some (.pool d' b k)) :
    (s.wakePool cx d).roll = s.roll.map (fun x => (x.1, x.2.granted cx sid (s.reserveNumber st d num b k).1)) ∧
      (s.wakePool cx d).ctx? cx = (((s.reserveNumber st d num b k).2.offQueue cx true d sid).ctx? cx).map
        (Context.mapSlots (Strand.granted cx sid (s.reserveNumber st d num b k).1)) := by
  have hfind : c.poolQueue.find? (·.1 = d) = some (d, sid) := by
    rw [← List.head?_filter, hq]
    rfl
  have hserve : s.servePool cx d 1 = ((s.reserveNumber st d num b k).2.offQueue cx true d sid).granted1 cx sid
      (s.reserveNumber st d num b k).1 := by
    unfold State.servePool
    simp only [hc, Option.bind_some, hfind, Option.map_some, hfree, hst, hresv]
    rfl
  have hroll := State.granted1_roll ((s.reserveNumber st d num b k).2.offQueue cx true d sid) cx sid
    (s.reserveNumber st d num b k).1
  have hctx := State.granted1_ctx? ((s.reserveNumber st d num b k).2.offQueue cx true d sid) cx sid
    (s.reserveNumber st d num b k).1 cx
  unfold State.wakePool
  simp only [hc, Option.map_some, Option.getD_some, hq, List.length_singleton, hserve]
  split
  · exact ⟨(State.wakeWhere_roll _ _).trans hroll, (State.wakeWhere_ctx? _ _ _).trans hctx⟩
  · exact ⟨hroll, hctx⟩

theorem State.enterPool_ctx? (hc : s.ctx? cx = some c) (d sid : Nat) :
    (s.enterPool cx d sid).ctx? cx = some { c with poolQueue := c.poolQueue ++ [(d, sid)] } :=
  State.ctx?_modCtx hc (fun c => { c with poolQueue := c.poolQueue ++ [(d, sid)] }) rfl

theorem State.enterPool_freePool? (hc : s.ctx? cx = some c) (d sid : Nat) :
    (s.enterPool cx d sid).freePool? cx d = s.freePool? cx d := by
  unfold State.freePool?
  rw [State.enterPool_ctx? hc, hc]
  rfl

variable {n : Nat} {e : Ember} {d b k : Nat}

/-- A strand that holds no reservation enters a pool's queue. -/
theorem State.giveResv_pool (hnone : e.strand.resv = none) : s.giveResv e (.pool d b k) =
    ((s.given e (.pool d b k)).enterPool e.strand.cx d e.strand.sid).wakePool e.strand.cx d := by
  have hdrop : s.dropResv e.strand = s := by
    unfold State.dropResv
    rw [hnone]
  unfold State.giveResv
  rw [hdrop]
  rfl

theorem State.giveResv_pool_waits (he : s.ember? n = some e) (hnone : e.strand.resv = none) (hc : s.ctx? e.strand.cx = some c)
    (hfree : s.freePool? e.strand.cx d = none) :
    (∃ e', (s.giveResv e (.pool d b k)).ember? n = some e' ∧ e'.strand.resv = some (.pool d b k)) ∧
      ∃ c', (s.giveResv e (.pool d b k)).ctx? e.strand.cx = some c' ∧ c'.poolQueue = c.poolQueue ++ [(d, e.strand.sid)] := by
  have hc' := State.enterPool_ctx? (s := s.given e (.pool d b k)) hc d e.strand.sid
  have hfree' : ((s.given e (.pool d b k)).enterPool e.strand.cx d e.strand.sid).freePool? e.strand.cx d = none :=
    (State.enterPool_freePool? (s := s.given e (.pool d b k)) hc d e.strand.sid).trans hfree
  rw [State.giveResv_pool hnone, State.wakePool_none hfree']
  exact ⟨⟨_, State.given_ember? he e (State.ember?_id he), rfl⟩, _, hc', rfl⟩

theorem State.giveResv_pool_granted (he : s.ember? n = some e) (hnone : e.strand.resv = none)
    (huniq : ∀ x ∈ s.embers, x.strand.sid = e.strand.sid → x = e) (hc : s.ctx? e.strand.cx = some c) {num : Nat} {p : Space}
    (hfree : s.freePool? e.strand.cx d = some num) (hnum : num < 64) (hp : s.space? e.strand.cx num = some p)
    (hq : ∀ y ∈ c.poolQueue, y.1 ≠ d) :
    (∃ e', (s.giveResv e (.pool d b k)).ember? n = some e' ∧ e'.strand.resv = none ∧
      ∃ x : TagResv, e'.strand.tagResv = e.strand.tagResv ++ [x] ∧ x.block = b ∧ x.slot = k ∧ x.fresh = true ∧
        tagSpace x.tag = num ∧ tagGen x.tag = (p.gen + 1) % 16) ∧
      (∃ c', (s.giveResv e (.pool d b k)).ctx? e.strand.cx = some c' ∧ c'.poolQueue = c.poolQueue) ∧
      ∃ p', (s.giveResv e (.pool d b k)).space? e.strand.cx num = some p' ∧ p'.reserved = true := by
  rw [State.giveResv_pool hnone]
  let s1 := s.given e (.pool d b k)
  let s2 := s1.enterPool e.strand.cx d e.strand.sid
  have hc2 : s2.ctx? e.strand.cx = some { c with poolQueue := c.poolQueue ++ [(d, e.strand.sid)] } :=
    State.enterPool_ctx? (s := s1) hc d e.strand.sid
  have hfree2 : s2.freePool? e.strand.cx d = some num :=
    (State.enterPool_freePool? (s := s1) hc d e.strand.sid).trans hfree
  have hst := State.given_strand? (r := .pool d b k) he huniq (t := s2) rfl
  obtain ⟨hroll, hctx⟩ := State.wakePool_one hc2 (queue_of_last hq) hfree2 hst rfl
  have hspaces : c.spaces.find? (·.num = num) = some p := (State.space?_of_ctx hc num).symm.trans hp
  obtain ⟨⟨f, hc3, hnumf, hresvf⟩, x, hx, hxs⟩ :=
    s2.reserveNumber_spec (st := e.strand.given (.pool d b k)) d b k hc2 hspaces hnum
  have hc4 := State.ctx?_modCtx hc3 (fun c => { c with poolQueue := c.poolQueue.filter (· ≠ (d, e.strand.sid)) }) rfl
  rw [hx] at hroll hctx
  have hc5 := hctx.trans (congrArg (Option.map _) hc4)
  obtain ⟨e', he', hstrand⟩ := State.roll_find?_map (State.given_ember? (r := .pool d b k) he e (State.ember?_id he)) hroll
  have hgranted := hstrand.trans (Strand.granted_given e.strand x)
  have hpnum : p.num = num := by simpa using List.find?_some hspaces
  refine ⟨⟨e', he', by rw [hgranted], x, by rw [hgranted], hxs⟩, ⟨_, hc5, queue_filter_last hq⟩, f p, ?_, hresvf⟩
  rw [State.space?_of_ctx hc5]
  exact find?_modWhere (p := fun y : Space => decide (y.num = num)) (decide_eq_true (hnumf.trans hpnum)) hspaces

/-- What a strand given a reservation of a number has, and the queue it entered. -/
theorem State.giveResv_pool_outcome {e' : Ember} (he : s.ember? n = some e) (hnone : e.strand.resv = none)
    (huniq : ∀ x ∈ s.embers, x.strand.sid = e.strand.sid → x = e) (hc : s.ctx? e.strand.cx = some c)
    (he' : (s.giveResv e (.pool d b k)).ember? n = some e') :
    ∃ c', (s.giveResv e (.pool d b k)).ctx? e.strand.cx = some c' ∧
      (s.freePool? e.strand.cx d = none → e'.strand.resv = some (.pool d b k) ∧
        c'.poolQueue = c.poolQueue ++ [(d, e.strand.sid)]) ∧
      ∀ (num : Nat) (p : Space), s.freePool? e.strand.cx d = some num → num < 64 → s.space? e.strand.cx num = some p →
        (∀ y ∈ c.poolQueue, y.1 ≠ d) → e'.strand.resv = none ∧ c'.poolQueue = c.poolQueue ∧
        (∃ x : TagResv, e'.strand.tagResv = e.strand.tagResv ++ [x] ∧ x.block = b ∧ x.slot = k ∧ x.fresh = true ∧
          tagSpace x.tag = num ∧ tagGen x.tag = (p.gen + 1) % 16) ∧
        ∃ p', (s.giveResv e (.pool d b k)).space? e.strand.cx num = some p' ∧ p'.reserved = true := by
  obtain ⟨c', hc'⟩ := State.giveResv_ctx? e (.pool d b k) hc
  refine ⟨c', hc', fun hfree => ?_, fun num p hfree hnum hp hq => ?_⟩
  · obtain ⟨⟨e2, he2, hresv⟩, c2, hc2, hqueue⟩ := State.giveResv_pool_waits (b := b) (k := k) he hnone hc hfree
    obtain rfl := Option.some.inj (he'.symm.trans he2)
    obtain rfl := Option.some.inj (hc'.symm.trans hc2)
    exact ⟨hresv, hqueue⟩
  · obtain ⟨⟨e2, he2, hresv, htag⟩, ⟨c2, hc2, hqueue⟩, hspace⟩ :=
      State.giveResv_pool_granted (b := b) (k := k) he hnone huniq hc hfree hnum hp hq
    obtain rfl := Option.some.inj (he'.symm.trans he2)
    obtain rfl := Option.some.inj (hc'.symm.trans hc2)
    exact ⟨hresv, hqueue, htag, hspace⟩

/-! ### The queue of a space -/

theorem State.serveIter_none {m : Nat} (h : (s.space? cx m).bind (·.freeIter?) = none) (fuel : Nat) :
    s.serveIter cx m fuel = s := by
  cases fuel with
  | zero => rfl
  | succ fuel =>
    unfold State.serveIter
    rw [h]
    cases (s.ctx? cx).bind fun c => (c.iterQueue.find? (·.1 = m)).map (·.2) <;> rfl

theorem State.wakeIter_none {m : Nat} (h : (s.space? cx m).bind (·.freeIter?) = none) : s.wakeIter cx m = s := by
  unfold State.wakeIter
  simp [State.serveIter_none h, h]

/-- A free iteration goes to the one strand that waits for it. -/
theorem State.wakeIter_one {m sid it b k m' : Nat} {st : Strand} (hc : s.ctx? cx = some c)
    (hq : c.iterQueue.filter (·.1 = m) = [(m, sid)]) (hfree : (s.space? cx m).bind (·.freeIter?) = some it)
    (hst : (s.strands.find? fun st => st.sid = sid ∧ st.cx = cx) = some st) (hresv : st.resv = some (.iter m' b k)) :
    (s.wakeIter cx m).roll = s.roll.map (fun x => (x.1, x.2.granted cx sid (s.reserveIter st m it b k).1)) ∧
      (s.wakeIter cx m).ctx? cx = (((s.reserveIter st m it b k).2.offQueue cx false m sid).ctx? cx).map
        (Context.mapSlots (Strand.granted cx sid (s.reserveIter st m it b k).1)) := by
  have hfind : c.iterQueue.find? (·.1 = m) = some (m, sid) := by
    rw [← List.head?_filter, hq]
    rfl
  have hserve : s.serveIter cx m 1 = ((s.reserveIter st m it b k).2.offQueue cx false m sid).granted1 cx sid
      (s.reserveIter st m it b k).1 := by
    unfold State.serveIter
    simp only [hc, Option.bind_some, hfind, Option.map_some, hfree, hst, hresv]
    rfl
  have hroll := State.granted1_roll ((s.reserveIter st m it b k).2.offQueue cx false m sid) cx sid
    (s.reserveIter st m it b k).1
  have hctx := State.granted1_ctx? ((s.reserveIter st m it b k).2.offQueue cx false m sid) cx sid
    (s.reserveIter st m it b k).1 cx
  unfold State.wakeIter
  simp only [hc, Option.map_some, Option.getD_some, hq, List.length_singleton, hserve]
  split
  · exact ⟨(State.wakeWhere_roll _ _).trans hroll, (State.wakeWhere_ctx? _ _ _).trans hctx⟩
  · exact ⟨hroll, hctx⟩

theorem State.enterIter_ctx? (hc : s.ctx? cx = some c) (m sid : Nat) :
    (s.enterIter cx m sid).ctx? cx = some { c with iterQueue := c.iterQueue ++ [(m, sid)] } :=
  State.ctx?_modCtx hc (fun c => { c with iterQueue := c.iterQueue ++ [(m, sid)] }) rfl

variable {m : Nat} {p : Space}

/-- A strand that holds no reservation enters a space's queue. -/
theorem State.giveResv_iter (hnone : e.strand.resv = none) : s.giveResv e (.iter m b k) =
    ((s.given e (.iter m b k)).enterIter e.strand.cx m e.strand.sid).wakeIter e.strand.cx m := by
  have hdrop : s.dropResv e.strand = s := by
    unfold State.dropResv
    rw [hnone]
  unfold State.giveResv
  rw [hdrop]
  rfl

theorem State.giveResv_iter_waits (he : s.ember? n = some e) (hnone : e.strand.resv = none) (hc : s.ctx? e.strand.cx = some c)
    (hp : s.space? e.strand.cx m = some p) (hfree : p.freeIter? = none) :
    (∃ e', (s.giveResv e (.iter m b k)).ember? n = some e' ∧ e'.strand.resv = some (.iter m b k)) ∧
      ∃ c', (s.giveResv e (.iter m b k)).ctx? e.strand.cx = some c' ∧ c'.iterQueue = c.iterQueue ++ [(m, e.strand.sid)] := by
  have hc' := State.enterIter_ctx? (s := s.given e (.iter m b k)) hc m e.strand.sid
  have hfree' : (((s.given e (.iter m b k)).enterIter e.strand.cx m e.strand.sid).space? e.strand.cx m).bind (·.freeIter?) =
      none := by
    rw [State.space?_of_ctx hc']
    exact (congrArg (Option.bind · Space.freeIter?) ((State.space?_of_ctx hc m).symm.trans hp)).trans hfree
  rw [State.giveResv_iter hnone, State.wakeIter_none hfree']
  exact ⟨⟨_, State.given_ember? he e (State.ember?_id he), rfl⟩, _, hc', rfl⟩

theorem State.giveResv_iter_granted (he : s.ember? n = some e) (hnone : e.strand.resv = none)
    (huniq : ∀ x ∈ s.embers, x.strand.sid = e.strand.sid → x = e) (hc : s.ctx? e.strand.cx = some c) {it : Nat}
    (hp : s.space? e.strand.cx m = some p) (hfree : p.freeIter? = some it) (hk : p.k ≤ 16)
    (hq : ∀ y ∈ c.iterQueue, y.1 ≠ m) :
    (∃ e', (s.giveResv e (.iter m b k)).ember? n = some e' ∧ e'.strand.resv = none ∧
      ∃ x : TagResv, e'.strand.tagResv = e.strand.tagResv ++ [x] ∧ x.block = b ∧ x.slot = k ∧ x.fresh = false ∧
        tagIter x.tag = it) ∧
      (∃ c', (s.giveResv e (.iter m b k)).ctx? e.strand.cx = some c' ∧ c'.iterQueue = c.iterQueue) ∧
      ∃ p', (s.giveResv e (.iter m b k)).space? e.strand.cx m = some p' ∧ p'.resvIters = p.resvIters ++ [it] := by
  rw [State.giveResv_iter hnone]
  let s1 := s.given e (.iter m b k)
  let s2 := s1.enterIter e.strand.cx m e.strand.sid
  have hc2 : s2.ctx? e.strand.cx = some { c with iterQueue := c.iterQueue ++ [(m, e.strand.sid)] } :=
    State.enterIter_ctx? (s := s1) hc m e.strand.sid
  have hspaces : c.spaces.find? (·.num = m) = some p := (State.space?_of_ctx hc m).symm.trans hp
  have hfree2 : (s2.space? e.strand.cx m).bind (·.freeIter?) = some it := by
    rw [State.space?_of_ctx hc2]
    exact (congrArg (Option.bind · Space.freeIter?) hspaces).trans hfree
  have hst := State.given_strand? (r := .iter m b k) he huniq (t := s2) rfl
  obtain ⟨hroll, hctx⟩ := State.wakeIter_one hc2 (queue_of_last hq) hfree2 hst rfl
  have hit : it < 65536 := (Space.freeIter?_lt hfree).trans_le (Nat.pow_le_pow_right (by decide) hk)
  obtain ⟨⟨f, hc3, hnumf, hresvf⟩, x, hx, hxs⟩ :=
    s2.reserveIter_spec (st := e.strand.given (.iter m b k)) (p := p) (m := m) b k hc2 hit
  have hc4 := State.ctx?_modCtx hc3 (fun c => { c with iterQueue := c.iterQueue.filter (· ≠ (m, e.strand.sid)) }) rfl
  rw [hx] at hroll hctx
  have hc5 := hctx.trans (congrArg (Option.map _) hc4)
  obtain ⟨e', he', hstrand⟩ := State.roll_find?_map (State.given_ember? (r := .iter m b k) he e (State.ember?_id he)) hroll
  have hgranted := hstrand.trans (Strand.granted_given e.strand x)
  have hpnum : p.num = m := by simpa using List.find?_some hspaces
  refine ⟨⟨e', he', by rw [hgranted], x, by rw [hgranted], hxs⟩, ⟨_, hc5, queue_filter_last hq⟩, f p, ?_, hresvf⟩
  rw [State.space?_of_ctx hc5]
  exact find?_modWhere (p := fun y : Space => decide (y.num = m)) (decide_eq_true (hnumf.trans hpnum)) hspaces

/-- What a strand given a reservation of an iteration has, and the queue it entered. -/
theorem State.giveResv_iter_outcome {e' : Ember} (he : s.ember? n = some e) (hnone : e.strand.resv = none)
    (huniq : ∀ x ∈ s.embers, x.strand.sid = e.strand.sid → x = e) (hc : s.ctx? e.strand.cx = some c)
    (hp : s.space? e.strand.cx m = some p) (he' : (s.giveResv e (.iter m b k)).ember? n = some e') :
    ∃ c', (s.giveResv e (.iter m b k)).ctx? e.strand.cx = some c' ∧
      (p.freeIter? = none → e'.strand.resv = some (.iter m b k) ∧ c'.iterQueue = c.iterQueue ++ [(m, e.strand.sid)]) ∧
      ∀ it : Nat, p.freeIter? = some it → p.k ≤ 16 → (∀ y ∈ c.iterQueue, y.1 ≠ m) → e'.strand.resv = none ∧
        c'.iterQueue = c.iterQueue ∧
        (∃ x : TagResv, e'.strand.tagResv = e.strand.tagResv ++ [x] ∧ x.block = b ∧ x.slot = k ∧ x.fresh = false ∧
          tagIter x.tag = it) ∧
        ∃ p', (s.giveResv e (.iter m b k)).space? e.strand.cx m = some p' ∧ p'.resvIters = p.resvIters ++ [it] := by
  obtain ⟨c', hc'⟩ := State.giveResv_ctx? e (.iter m b k) hc
  refine ⟨c', hc', fun hfree => ?_, fun it hfree hk hq => ?_⟩
  · obtain ⟨⟨e2, he2, hresv⟩, c2, hc2, hqueue⟩ := State.giveResv_iter_waits (b := b) (k := k) he hnone hc hp hfree
    obtain rfl := Option.some.inj (he'.symm.trans he2)
    obtain rfl := Option.some.inj (hc'.symm.trans hc2)
    exact ⟨hresv, hqueue⟩
  · obtain ⟨⟨e2, he2, hresv, htag⟩, ⟨c2, hc2, hqueue⟩, hspace⟩ :=
      State.giveResv_iter_granted (b := b) (k := k) he hnone huniq hc hp hfree hk hq
    obtain rfl := Option.some.inj (he'.symm.trans he2)
    obtain rfl := Option.some.inj (hc'.symm.trans hc2)
    exact ⟨hresv, hqueue, htag, hspace⟩

/-! ### REFUSAL_COUNT_LIMIT (R302, R303) -/

theorem refusalCountLimit_exec (he : s.ember? n = some e) {r : Resv} (hdue : e.strand.due = some r) :
    exec (.evRefusalCountLimit n) s = .next (s.giveResv e r).tick := by
  show execEvRefusalCountLimit n s = _
  unfold execEvRefusalCountLimit
  simp only [he, hdue]
end

end Sys2Proof.Machine
end

section
namespace Sys2Proof.Proofs
open Sys2Proof Sys2Proof.Machine

/-- Settles O45, a clause at a time: the steps of the lamplighter and of reservations. -/
theorem lamplighterSteps : Obligations.LamplighterSteps := by
  unfold Obligations.LamplighterSteps
  intro s
  refine ⟨?_, ?_, ?_, ?_, ?_, ?_, ?_, ?_⟩
  · intro die idx q c e hq hc hreplay hhead he hdue hclear
    obtain ⟨t, ht, hlost, hsent⟩ := lamplighterRelight_completes hq hc hreplay hhead he hdue hclear
    refine ⟨t, ht, hlost, fun hgood hseed _ _ p el x hplace hx hnil hfree => ?_⟩
    obtain ⟨hembers, f, hf, hquad, helem, hblock, htag, hsid, hregs⟩ := hsent hgood hseed p el x hplace hx hnil hfree
    exact ⟨hembers, f, hf, hquad, helem, hblock, htag, hsid, hregs ▸ e.relitRegs_length,
      fun r hr => hregs ▸ e.relitRegs_get hr⟩
  · intro die idx q c e hq hc hrange hready hidle hclear
    obtain ⟨t, ht, hlost, htaken⟩ := rangeSplit_completes hq hc hrange hready hidle hclear
    refine ⟨t, ht, hlost, ?_⟩
    intro w lo hi g cut k hgood hval hhi hg hbig hle
    obtain rfl := htaken hgood
    have hread := s.readRecord_core e
    have hcid : c.id = q.cx := by simpa using List.find?_some hc
    have hembers : (s.readRecord e).1.embers = s.embers := (congrArg State.embers hread :)
    have hframes : (s.readRecord e).1.frames = s.frames := (congrArg State.frames hread :)
    have hmem : e ∈ (s.readRecord e).1.embers := hembers ▸ State.rangeFor_mem hrange
    have hctx : (s.readRecord e).1.ctx? c.id = some c := (congrArg (State.ctx? · c.id) hread :).trans (hcid ▸ hc)
    have hparts := Ember.splitParts_eq (e := e) (w := w) (k := k) rfl hhi hg hbig hle
    refine ⟨fun hnone => ?_, fun more hmore => ⟨fun j hj => ?_, fun p el x hplace hx hnil hfree _ _ => ?_⟩⟩
    · obtain ⟨hf, hwait, c', r, hc', hfaults, hcode, hkind, hunit, haddr, hover⟩ :=
        State.takeRange_full (q := q.id) hmem hctx hparts (by rwa [Ember.cutParts_length])
      exact ⟨hf.trans hframes, hwait, c', r, hc', hfaults, hcode, hkind, hunit, haddr.trans (State.poolAddr_core hread e), hover⟩
    · exact State.takeRange_parts hparts hmore hj (cutAt_lt hhi hbig hj)
    · have hwait : ((s.readRecord e).1.quad? p).map (·.frameWait) = some [] := by
        rw [State.map_quad?_core (fun _ => rfl) hread, hx, ← hnil]
        rfl
      exact State.takeRange_frame hparts hmore hmem hval hframes hplace hwait ((State.Beside.of_core hread).frameFree hfree)
  · intro die idx q c e rest hq hc hwait he hfree hclear
    exact frameWaitGrant_completes hq hc hwait he hfree hclear
  · intro n e q rest he hq hcleared hroom hwait hdue
    exact emberReady_completes he hq hcleared hroom hwait hdue
  · intro n m f held q h hq hrec
    obtain ⟨t, ht, hfills, hwaits⟩ := frameMoveArrival_completes h hq hrec
    exact ⟨t, ht, hfills, fun hheld hfull _ _ _ hhandler hspace => hwaits hheld hfull hhandler hspace⟩
  · intro n e r he hdue
    obtain ⟨e', he', hdue', hsid', hgiven⟩ := State.giveResv_strand (r := r) he
    refine ⟨_, refusalCountLimit_exec he hdue, e', he', hdue', hsid', hgiven, ?_⟩
    intro hnone huniq c cx sid hc
    refine ⟨?_, ?_⟩
    · rintro d b k rfl
      exact State.giveResv_pool_outcome he hnone huniq hc he'
    · rintro m b k p rfl hp
      exact State.giveResv_iter_outcome he hnone huniq hc hp he'
  · intro st reason w
    exact ⟨st.refuse_counted w, st.refuse_uncounted w⟩
  · intro n f q lo hi k hf hs hr hk
    exact reservationTimeout_completes hf hs hr hk

end Sys2Proof.Proofs
end

section
/-!
PROOFS. Encoding and decoding (03_formats.md R69 to R73; 04_opcode_map.md R93, R95).
-/

namespace Sys2Proof.Proofs
open Sys2Proof Sys2Proof.Machine

/-- APPC with every field all ones: predicated on 1, appending 0xFFFF, its target port 11 of slot 127. -/
def appcOnes : Instr := .appc ⟨3, 0xFFFF, 0x1FF⟩

theorem appcOnes_wellFormed : appcOnes.WellFormed := by decide

theorem encodeBytes_appcOnes : encodeBytes appcOnes = [0xFF, 0xFF, 0xFF, 0xFF] := by decide

theorem decode_ones : decode [0xFF, 0xFF, 0xFF, 0xFF] = .error (.illegalWord 1) := rfl

/-- Refutes O58: R93 admits every field of this APPC, but its word is the one of all ones, which R95's check 1 makes illegal
before its format is looked at ("the all-ones word would otherwise decode as APPC"). -/
theorem not_decodeEncode : ¬ Obligations.DecodeEncode := by
  unfold Obligations.DecodeEncode
  rintro ⟨hround, -⟩
  have h := hround appcOnes [] appcOnes_wellFormed rfl
  rw [encodeBytes_appcOnes, List.append_nil, decode_ones] at h
  cases h

end Sys2Proof.Proofs
end

section
/-!
PROOFS. What a result does at one target (03_formats.md R73, R80, R81).
-/

namespace Sys2Proof.Machine

section
variable {r slot : Nat} {v : Option Word}

/-- A write of one register leaves what is buffered for another (R81). -/
theorem find?_resolveWrite_ne {k : Nat} (hk : k ≠ r) (ws : List (Nat × Nat × Option Word)) :
    (resolveWrite r slot v ws).find? (·.1 = k) = ws.find? (·.1 = k) := by
  induction ws with
  | nil => simp [resolveWrite, hk.symm]
  | cons x ws ih =>
    obtain ⟨k', s, old⟩ := x
    unfold resolveWrite
    split
    · rename_i h
      subst h
      split
      · rfl
      · simp [hk.symm]
      · split
        · simp [hk.symm]
        · rfl
    · simp [List.find?_cons, ih]

theorem find?_resolveWrite_none {ws : List (Nat × Nat × Option Word)} (h : ws.find? (·.1 = r) = none) :
    (resolveWrite r slot v ws).find? (·.1 = r) = some (r, slot, v) := by
  induction ws with
  | nil => simp [resolveWrite]
  | cons x ws ih =>
    obtain ⟨k, s, old⟩ := x
    obtain ⟨hk, hws⟩ : k ≠ r ∧ ws.find? (·.1 = r) = none := by
      simpa using h
    simp [resolveWrite, hk, ih hws]

theorem find?_resolveWrite_some {ws : List (Nat × Nat × Option Word)} {s0 : Nat} {old : Option Word}
    (h : ws.find? (·.1 = r) = some (r, s0, old)) : (resolveWrite r slot v ws).find? (·.1 = r) =
      some (if v = none ∨ (old.isSome ∧ slot < s0) then (r, s0, old) else (r, slot, v)) := by
  induction ws with
  | nil => cases h
  | cons x ws ih =>
    obtain ⟨k, s, o⟩ := x
    by_cases hk : k = r
    · subst hk
      obtain ⟨rfl, rfl⟩ : s = s0 ∧ o = old := by simpa using h
      cases v with
      | none => simp [resolveWrite]
      | some a =>
        cases o with
        | none => simp [resolveWrite]
        | some b =>
          by_cases hs : slot < s
          · simp [resolveWrite, hs, Nat.not_le.2 hs]
          · simp [resolveWrite, hs, Nat.not_lt.1 hs]
    · have hws : ws.find? (·.1 = r) = some (r, s0, old) := by simpa [hk] using h
      simp [resolveWrite, hk, ih hws]
end

theorem Tok.value?_eq_none {v : Tok} : v.value? = none ↔ v = .null := by cases v <;> simp [Tok.value?]

/-! ### The fields of a target (R73) -/

section
variable (p : BitVec 2) (k : BitVec 7)

theorem target_toNat : (p ++ k).toNat = p.toNat * 128 + k.toNat := by
  rw [BitVec.toNat_append, ← Nat.shiftLeft_add_eq_or_of_lt k.isLt, Nat.shiftLeft_eq]

theorem target_slot : (p ++ k).toNat % 128 = k.toNat := by
  have hk := k.isLt
  rw [target_toNat]
  omega

theorem portOf_target : portOf (p ++ k).toNat =
    if p = 0 then none else some (if p = 1 then .left else if p = 2 then .right else .third) := by
  have hk := k.isLt
  have hp : (p ++ k).toNat / 128 = p.toNat := by
    rw [target_toNat]
    omega
  rw [portOf, hp]
  clear hp hk
  revert p
  decide
end

/-- PORT 00 of a register is the write buffer (R80, R81). -/
theorem State.deliver1_register (s : State) (n slot : Nat) (v : Tok) {r : BitVec 7} (hr : r ≠ 0) :
    s.deliver1 n slot v (0#2 ++ r) = s.modInst n fun i => { i with wbuf := resolveWrite r.toNat slot v.value? i.wbuf } := by
  have ht : (0#2 ++ r).toNat ≠ 0 := by
    rw [target_toNat]
    simpa [← BitVec.toNat_inj] using hr
  rw [State.deliver1, if_neg ht, portOf_target, target_slot]
  rfl

/-- Any other port is a token in flight (R80). -/
theorem State.deliver1_port (s : State) (n slot : Nat) (v : Tok) {p : BitVec 2} (k : BitVec 7) (hp : p ≠ 0) :
    s.deliver1 n slot v (p ++ k) =
      { s.modInst n (fun i => { i with flying := i.flying ++ [s.nextId] }) with
        nextId := s.nextId + 1, flying := s.flying ++ [⟨s.nextId, n, slot, k.toNat,
          if p = 1 then .left else if p = 2 then .right else .third, v⟩] } := by
  have ht : (p ++ k).toNat ≠ 0 := by
    have : p.toNat ≠ 0 := by simpa [← BitVec.toNat_inj] using hp
    rw [target_toNat]
    omega
  rw [State.deliver1, if_neg ht, portOf_target, if_neg hp, target_slot]

end Sys2Proof.Machine

namespace Sys2Proof.Proofs
open Sys2Proof Sys2Proof.Machine

/-- Settles O21: the three kinds of target. Where both values come from one slot (T0 and T1 of one instruction naming one
register), which R81 does not order, the later one stays: the model's choice (notes/assumptions 97). -/
theorem tokenDelivery : Obligations.TokenDelivery := by
  unfold Obligations.TokenDelivery
  refine ⟨fun s n slot v => rfl, fun s n slot v r hr => ?_, fun s n slot v k p hp => s.deliver1_port n slot v k hp⟩
  refine ⟨resolveWrite r.toNat slot v.value?, s.deliver1_register n slot v hr, fun ws =>
    ⟨fun k hk => find?_resolveWrite_ne hk ws, find?_resolveWrite_none, fun s0 old h => ?_⟩⟩
  simpa only [Tok.value?_eq_none] using find?_resolveWrite_some (slot := slot) (v := v.value?) h

end Sys2Proof.Proofs
end

section
/-!
PROOFS. Far loads and atomics fire as exits (03_formats.md R70; 10_memory_instructions.md R213).
-/

namespace Sys2Proof.Machine

/-! ### The width of an access (R213) -/

theorem sizeOf_eq (x : BitVec 3) : sizeOf x = widthBits x / 8 := by
  revert x; decide

theorem floatSize_eq (x : BitVec 3) : floatSize x = fltWidth x / 8 := by
  revert x; decide

theorem addrPlus_mod (a w x k : Nat) : addrPlus (a % 2 ^ 64) w x k = addrPlus a w x k := by
  rw [addrPlus, Int.natCast_mod]
  exact congrArg Int.toNat (Int.emod_add_emod ..)

theorem contOf_eq (f : FmtX) (a : Nat) : contOf f a = blockFrom a f.off18 := by
  rw [contOf, ← addrPlus_mod, ← BitVec.toNat_ofNat, addrPlus_toNat]
  rfl

theorem addrPlus_imm14 (f : FmtX) (a : Word) : addrPlus a.toNat 14 f.imm14.toNat 1 = exitAddr f a := by
  rw [addrPlus_toNat, exitAddr, show BitVec.ofNat 64 1 = 1#64 from rfl, BitVec.mul_one]

/-- How a far access at an X format's address fires: as an exit, or with ALIGN off a multiple of `n` (R213). -/
def FarExit (s : State) (l : Lane) (i : Inst) (f : FmtX) (a : Word) (o : Out) (op : FarOp) (code n detail : Nat) : Prop :=
  (exitAddr f a % n = 0 → o = exits s l f.exit.toNat (.far op code (blockFrom i.addr f.off18) f.dst.toNat)) ∧
  (exitAddr f a % n ≠ 0 → o = .next (s.issued.takeFault i .align (some l.slot) detail (exitAddr f a)))

section
variable {s : State} {l : Lane} {i : Inst} {f : FmtX} {a b x : Word} {op n : Nat}

theorem farExit_ite (far : FarOp) (detail : Nat) : FarExit s l i f a
    (if exitAddr f a % n ≠ 0 then .next (s.issued.takeFault i .align (some l.slot) detail (exitAddr f a))
      else fireExit s.issued l f.exit.toNat (.far far op (contOf f i.addr) f.dst.toNat)) far op n detail :=
  ⟨fun h => by rw [if_neg (not_not_intro h), contOf_eq, fireExit_exits], fun h => if_pos h⟩

theorem farLoad_farExit (hf : Fires s f.pr l i) (ha : One l a) (he : i.exits = []) (acq : Bool) :
    FarExit s l i f a (farLoad op acq f s) (.load acq (exitAddr f a) (widthBits f.xop / 8)) op (widthBits f.xop / 8) 0 := by
  rw [farLoad, exit1_fires hf ha, onceExit_first he, addrPlus_imm14, sizeOf_eq]
  exact farExit_ite _ _

theorem farAtomic_farExit (hf : Fires s f.pr l i) (hab : Two l a b) (he : i.exits = []) (r : Rmw) :
    FarExit s l i f a (farAtomic op n r f s) (.rmw r (exitAddr f a) n b 0) op n 2 := by
  rw [farAtomic, exit2_fires hf hab, onceExit_first he, addrPlus_imm14]
  exact farExit_ite _ _

theorem execFacas_farExit (hf : Fires s 0 l i) (hx : Three l a b x) (he : i.exits = []) :
    FarExit s l i f a (execFacas f s) (.rmw .cas (exitAddr f a) (widthBits f.xop / 8) b x) 0x12D (widthBits f.xop / 8) 2 := by
  rw [execFacas, exit3_fires hf hx, onceExit_first he, addrPlus_imm14, sizeOf_eq]
  exact farExit_ite _ _
end
end Sys2Proof.Machine

namespace Sys2Proof.Proofs
open Sys2Proof Sys2Proof.Machine

/-- Settles O25: a far load, a far atomic and FACAS are three forms of one exit. -/
theorem farExits : Obligations.FarExits := by
  unfold Obligations.FarExits
  intro f s l i a he va n m cont fires
  have hload (acq : Bool) (op : Nat) (hf : Fires s f.pr l i) (ha : One l a) :
      FarExit s l i f a (farLoad op acq f s) (.load acq va n) op n 0 := farLoad_farExit hf ha he acq
  have hatomic (op k : Nat) (r : Rmw) {b : Word} (hf : Fires s f.pr l i) (hab : Two l a b) :
      FarExit s l i f a (farAtomic op k r f s) (.rmw r va k b 0) op k 2 := farAtomic_farExit hf hab he r
  have hn : Machine.sizeOf f.xop = n := sizeOf_eq f.xop
  have hm : floatSize f.xop = m := floatSize_eq f.xop
  refine ⟨fun hf ha => ⟨hload _ _ hf ha, hload _ _ hf ha⟩, fun b hf hab => ?_, fun b x hf hx => execFacas_farExit hf hx he⟩
  rw [← hn, ← hm]
  exact ⟨hatomic _ _ _ hf hab, hatomic _ _ _ hf hab, hatomic _ _ _ hf hab, hatomic _ _ _ hf hab, hatomic _ _ _ hf hab,
    hatomic _ _ _ hf hab, hatomic _ _ _ hf hab, hatomic _ _ _ hf hab, hatomic _ _ _ hf hab, hatomic _ _ _ hf hab⟩

end Sys2Proof.Proofs
end

section
/-!
PROOFS. Taking a fault (03_formats.md R82; 16_system_instructions.md R353; 17_recovery.md R365, R367, R368).
-/

namespace Sys2Proof.Machine

section
variable {s : State} {i : Inst} {c : Context} {code : FaultCode} {slot : Option Nat} {detail addr : Nat}

theorem Context.stopsOn_eq_true :
    c.stopsOn code = true ↔ c.params.handler = 0 ∨ bitOf c.params.stopMask code.num = true := by
  simp [Context.stopsOn, or_comm]

/-- A strand-kind fault is never dropped (R369). -/
theorem Context.faulted_strand {f : FaultRec} (h : f.kind = 0) : c.faulted f = { c with faults := c.faults ++ [f] } :=
  if_neg (by simp [h])

/-- The ember of all registers is deposited with its record, or without one where both pools are full (R39). -/
theorem State.fullEmber_record (s : State) (st : Strand) (q : QuadId) (elem block : Nat) (regs : List Word) (reason : Nat)
    (wait : Wait) : ∃ p a seq, (s.fullEmber st q elem block regs reason wait).1 = s.nextId ∧
      (s.fullEmber st q elem block regs reason wait).2.2.core = { s.core with
        embers := s.core.embers ++ [fullRecord s.nextId st q elem block regs reason wait p a seq] } := by
  cases h : s.fullPlace st q reason with
  | none =>
    rw [State.fullEmber_unplaced h]
    exact ⟨_, _, _, rfl, (State.fullRecord_core (.frameArea q) 0).choose_spec⟩
  | some x =>
    rw [State.fullEmber_placed h]
    exact ⟨_, _, _, rfl, (State.fullRecord_core x.1 x.2.1).choose_spec⟩

variable (hne : code ≠ .emberOverflow) (hc : s.ctx? i.frame.strand.cx = some c)
include hne hc

/-- The core a fault leaves that stops its context: the instance held, the fault queued (R353). -/
theorem State.takeFault_core_of_stops (hstop : c.stopsOn code = true) : (s.takeFault i code slot detail addr).core =
    (s.core.modInst i.id fun x => { x with held := true }).modCtx i.frame.strand.cx
      (·.faulted (i.faultRec s code slot detail addr)) := by
  unfold State.takeFault
  extract_lets cx r s1 s2
  have hs1 : s1 = s := if_neg hne
  rw [if_pos (by rw [hs1, hc]; exact hstop), State.queueFault_core, hs1]
  rfl

/-- The core any other fault leaves: the instance gone, its strand an ember, the fault queued with it (R365). -/
theorem State.takeFault_core_of_goes (hgo : c.stopsOn code = false) : ∃ id p a seq,
    (s.takeFault i code slot detail addr).core =
      { (s.core.untake i).dropInst i.id with embers := s.core.embers ++ [fullRecord id (i.strandAfter s) i.frame.quad
          i.frame.elem i.addr i.frame.regs code.num .fault p a seq] }.modCtx i.frame.strand.cx
        (·.faulted { i.faultRec s code slot detail addr with ember := some id }) := by
  unfold State.takeFault
  extract_lets cx r s1 s2
  have hs1 : s1 = s := if_neg hne
  have hs2 : s2.core = (s.core.untake i).dropInst i.id := by
    have h : (s1.settleEnergy i).core = s.core := (s1.settleEnergy_core i).trans (congrArg State.core hs1)
    exact congrArg (fun t : State => (t.untake i).dropInst i.id) h
  obtain ⟨p, a, seq, hfst, hember⟩ := s2.fullEmber_record (i.strandAfter s) i.frame.quad i.frame.elem i.addr i.frame.regs
    code.num .fault
  refine ⟨s2.nextId, p, a, seq, ?_⟩
  rw [if_neg (by rw [hs1, hc]; exact ne_true_of_eq_false hgo)]
  dsimp only
  rw [State.queueFault_core, hember, hfst, hs2]
  rfl
end
end Sys2Proof.Machine

namespace Sys2Proof.Proofs
open Sys2Proof Sys2Proof.Machine

/-- Settles O39: the core the fault leaves, read field by field, where it stops the context and where it does not. -/
theorem takingAFault : Obligations.TakingAFault := by
  unfold Obligations.TakingAFault
  intro s i c code slot detail addr hi hc hne t st
  have hctx {r : FaultRec} (hr : r.kind = 0) (ht : t.contexts = (s.modCtx st.cx (·.faulted r)).contexts) :
      t.ctx? st.cx = some { c with faults := c.faults ++ [r] } := by
    rw [State.ctx?, ht, ← Context.faulted_strand hr]
    exact State.ctx?_modCtx hc (·.faulted r) (by rw [Context.faulted_strand hr])
  cases hstop : c.stopsOn code with
  | true =>
    have ht : t.core = _ := s.takeFault_core_of_stops hne hc hstop
    have hcur := hctx (r := i.faultRec s code slot detail addr) rfl (congrArg State.contexts ht :)
    have hinst : t.inst? i.id = some { i with held := true } :=
      (congrArg (State.inst? · i.id) ht :).trans (State.inst?_modInst (s := s) _ hi fun _ => rfl)
    have hembers : t.embers = s.embers := (congrArg State.embers ht :)
    have hflying : t.flying = s.flying := (congrArg State.flying ht :)
    have hframes : t.frames = s.frames := (congrArg State.frames ht :)
    have hcommits : t.commits = s.commits := (congrArg State.commits ht :)
    refine ⟨_, _, hcur, rfl, rfl, rfl, rfl, rfl, rfl, rfl, rfl, hframes, hcommits, fun hh hm => ?_,
      fun _ => ⟨rfl, hinst, hembers, hflying⟩⟩
    rcases Context.stopsOn_eq_true.1 hstop with h | h
    · exact absurd h hh
    · exact absurd (h.symm.trans hm) (by decide)
  | false =>
    obtain ⟨id, p, a, seq, ht⟩ : ∃ id p a seq, t.core = _ := s.takeFault_core_of_goes hne hc hstop
    have hcur := hctx (r := { i.faultRec s code slot detail addr with ember := some id }) rfl (congrArg State.contexts ht :)
    have hembers : t.embers = _ := (congrArg State.embers ht :)
    have hinsts : t.insts = s.insts.filter (fun j => j.id ≠ i.id) := (congrArg State.insts ht :)
    have hflying : t.flying = s.flying.filter (fun k => k.inst ≠ i.id) := (congrArg State.flying ht :)
    have hframes : t.frames = s.frames := (congrArg State.frames ht :)
    have hcommits : t.commits = s.commits := (congrArg State.commits ht :)
    refine ⟨_, _, hcur, rfl, rfl, rfl, rfl, rfl, rfl, rfl, rfl, hframes, hcommits,
      fun _ _ => ⟨_, hembers, rfl, rfl, rfl, rfl, rfl, rfl, rfl, rfl, rfl, rfl, rfl, rfl, hinsts, hflying⟩, fun h => ?_⟩
    exact absurd (Context.stopsOn_eq_true.2 h) (by simp [hstop])

end Sys2Proof.Proofs
end

section
/-!
PROOFS. Predicates that do not match, and nulls (03_formats.md R77, R81).
-/

namespace Sys2Proof.Machine

/-! ### A predicate that does not match -/

/-- An outcome is that of a lane fired under a pr field, before anything else is looked at (R76). -/
def FiresAs (s : State) (pr : BitVec 2) (o : Out) : Prop := ∃ k, o = firing s pr k

section
variable {s : State} {pr : BitVec 2} {ts : List (BitVec 9)} {lsid op n : Nat}

theorem FiresAs.absorbs {o : Out} {l : Lane} {i : Inst} (h : FiresAs s pr o) (hl : s.lanes.head? = some l)
    (hi : s.inst? l.inst = some i) (hp : predicate pr l.ops.third = some false) :
    o = .next (s.issued.modInst l.inst fun i => i.setStatus l.slot (.absorbed l.ops.left.isSome l.ops.right.isSome true)) := by
  obtain ⟨k, rfl⟩ := h
  exact firing_absorbs hl hi hp k

theorem value0_firesAs (f : Lane → Inst → Tok) : FiresAs s pr (value0 s pr ts f) := ⟨_, rfl⟩
theorem value1_firesAs (f : Lane → Inst → Word → Word × Nat) : FiresAs s pr (value1 s pr ts f) := ⟨_, rfl⟩
theorem value2_firesAs (f : Lane → Inst → Word → Word → Word × Nat) : FiresAs s pr (value2 s pr ts f) := ⟨_, rfl⟩
theorem effect1_firesAs (k : Lane → Inst → Word → State → Out) : FiresAs s pr (effect1 s pr lsid k) := ⟨_, rfl⟩
theorem effect2_firesAs (k : Lane → Inst → Word → Word → State → Out) : FiresAs s pr (effect2 s pr lsid k) := ⟨_, rfl⟩
theorem exit0_firesAs (k : Lane → Inst → State → Out) : FiresAs s pr (exit0 s pr k) := ⟨_, rfl⟩
theorem exit1_firesAs (k : Lane → Inst → Word → State → Out) : FiresAs s pr (exit1 s pr k) := ⟨_, rfl⟩
theorem exit2_firesAs (k : Lane → Inst → Word → Word → State → Out) : FiresAs s pr (exit2 s pr k) := ⟨_, rfl⟩
theorem nearLoad_firesAs (signed : Bool) (f : FmtL) : FiresAs s f.pr (nearLoad n signed f s) := ⟨_, rfl⟩
theorem nearEffect_firesAs (detail : Nat) (f : FmtS) (e : Nat → Word → Effect) : FiresAs s f.pr (nearEffect n detail f s e) :=
  effect2_firesAs _
theorem farPosted_firesAs (detail : Nat) (f : FmtE) (e : Nat → Word → Effect) : FiresAs s f.pr (farPosted n detail f s e) :=
  effect2_firesAs _
theorem command1_firesAs (f : FmtE) (check : BlockCheck) : FiresAs s f.pr (command1 op n f s check) := ⟨_, rfl⟩

/-- A form that is never predicated has pr 00 (R78). -/
theorem value3_firesAs (h : pr = 0) (f : Lane → Inst → Word → Word → Word → Word × Nat) : FiresAs s pr (value3 s ts f) :=
  h ▸ ⟨_, rfl⟩
theorem exit3_firesAs (h : pr = 0) (k : Lane → Inst → Word → Word → Word → State → Out) : FiresAs s pr (exit3 s k) := h ▸ ⟨_, rfl⟩
theorem execMerge_firesAs {f : FmtG} (h : f.pr = 0) : FiresAs s f.pr (execMerge f s) := h ▸ ⟨_, rfl⟩

theorem pr_of_wf {p : Bool} (h : (pr == 0 && p) = true) : pr = 0 := beq_iff_eq.1 (Bool.and_elim_left h)

/-- FENCE, TSFREE and BARARR fire with an operand or without one (R218, R269, R282). -/
theorem firesAs_ite {c : Prop} [Decidable c] {a b : Out} (ha : FiresAs s pr a) (hb : FiresAs s pr b) :
    FiresAs s pr (if c then a else b) := by
  split
  · exact ha
  · exact hb

/-- Every form fires a lane under its own pr field. -/
theorem exec_firesAs {ins : Instr} {op : Nat} {fl : Fields} (hwf : ins.WellFormed) (h : ins.form = some (op, fl)) :
    FiresAs s fl.pr (exec ins s) := by
  cases ins with
  | add f | sub f | mul f | mulhs f | mulhu f | divs f | divu f | rems f | remu f | andOp f | orOp f | xorOp f
  | andn f | orn f | shl f | shr f | sar f | rol f | ror f | mins f | minu f | maxs f | maxu f | absd f | teq f
  | tne f | tlts f | tles f | tltu f | tleu f | tgts f | tges f | tgtu f | tgeu f | pand f | por f | pxor f
  | fadd f | fsub f | fmul f | fdiv f | fmin f | fmax f | fminm f | fmaxm f | fcpys f | fscale f | fteq f | ftne f
  | ftlt f | ftle f | ftun f | ftord f =>
    cases h
    exact value2_firesAs (pr := f.pr) _
  | neg f | abs f | notOp f | clz f | ctz f | popc f | brev f | bswap f | sext f | zext f | mov f | pnot f
  | fabs f | fneg f | fsqrt f | frcp f | frsq f | ex2 f | lg2 f | sinp f | cosp f | tanh f | fclass f | ffrac f
  | addi f | muli f | andi f | ori f | xori f | shli f | shri f | sari f | roli f | minsi f | maxsi f | teqi f
  | tnei f | tltsi f | tlesi f | tltui f | tleui f | tgtsi f | tgesi f | frnd f | fcvt f | fcvts f | fcvtu f | scvtf f
  | ucvtf f | mxscl f | mxq f | fan f | appc f =>
    cases h
    exact value1_firesAs (pr := f.pr) _
  | inlet f =>
    cases h
    exact value1_firesAs (pr := 0) _
  | rdc f =>
    cases h
    exact value0_firesAs (pr := 0) _
  | nullOp f | movi f | tagof f | genc f =>
    cases h
    exact value0_firesAs (pr := f.pr) _
  | bfx f | bfxs f | bfi f | sel f | madd f | fsh f | ffma f | ffms f | fnfma f | fnfms f =>
    cases h
    exact value3_firesAs (pr_of_wf (pr := f.pr) hwf) _
  | merge f =>
    cases h
    exact execMerge_firesAs (pr_of_wf hwf)
  | facas f =>
    cases h
    exact show FiresAs s f.pr (execFacas f s) from exit3_firesAs (pr_of_wf (Bool.and_elim_left hwf)) _
  | ldd f | ldw f | ldws f | ldh f | ldhs f | ldb f | ldbs f =>
    cases h
    exact nearLoad_firesAs _ f
  | spawnr f => cases h; exact show FiresAs s f.pr (execSpawnr f s) from effect2_firesAs _
  | std f => cases h; exact show FiresAs s f.pr (execStd f s) from nearEffect_firesAs _ f _
  | stw f => cases h; exact show FiresAs s f.pr (execStw f s) from nearEffect_firesAs _ f _
  | sth f => cases h; exact show FiresAs s f.pr (execSth f s) from nearEffect_firesAs _ f _
  | stb f => cases h; exact show FiresAs s f.pr (execStb f s) from nearEffect_firesAs _ f _
  | aadd f => cases h; exact show FiresAs s f.pr (execAadd f s) from nearEffect_firesAs _ f _
  | amins f => cases h; exact show FiresAs s f.pr (execAmins f s) from nearEffect_firesAs _ f _
  | aminu f => cases h; exact show FiresAs s f.pr (execAminu f s) from nearEffect_firesAs _ f _
  | amaxs f => cases h; exact show FiresAs s f.pr (execAmaxs f s) from nearEffect_firesAs _ f _
  | amaxu f => cases h; exact show FiresAs s f.pr (execAmaxu f s) from nearEffect_firesAs _ f _
  | aand f => cases h; exact show FiresAs s f.pr (execAand f s) from nearEffect_firesAs _ f _
  | aor f => cases h; exact show FiresAs s f.pr (execAor f s) from nearEffect_firesAs _ f _
  | axor f => cases h; exact show FiresAs s f.pr (execAxor f s) from nearEffect_firesAs _ f _
  | afadd f => cases h; exact show FiresAs s f.pr (execAfadd f s) from nearEffect_firesAs _ f _
  | fst f => cases h; exact show FiresAs s f.pr (execFst f s) from farPosted_firesAs _ f _
  | fstr f => cases h; exact show FiresAs s f.pr (execFstr f s) from farPosted_firesAs _ f _
  | fradd f => cases h; exact show FiresAs s f.pr (execFradd f s) from farPosted_firesAs _ f _
  | frfadd f => cases h; exact show FiresAs s f.pr (execFrfadd f s) from farPosted_firesAs _ f _
  | xmit f => cases h; exact show FiresAs s f.pr (execXmit f s) from effect1_firesAs _
  | spawn f => cases h; exact show FiresAs s f.pr (execSpawn f s) from effect1_firesAs _
  | tagrel f => cases h; exact show FiresAs s f.pr (execTagrel f s) from effect1_firesAs _
  | trace f => cases h; exact show FiresAs s f.pr (execTrace f s) from effect1_firesAs _
  | fld f | flda f | bri f | calli f | ret f | joinOp f | waitOp f =>
    cases h
    exact exit1_firesAs (pr := f.pr) _
  | faadd f | famins f | faminu f | famaxs f | famaxu f | faand f | faor f | faxor f | faxchg f | fafadd f =>
    cases h
    exact exit2_firesAs (pr := f.pr) _
  | br f | call f | endStrand f | yieldOp f | trap f | barwait f | barsync f =>
    cases h
    exact exit0_firesAs (pr := f.pr) _
  | scopy f | sgather f | sscatter f | sfill f | mxcfg f | mxrun f | mxldacc f | mxstacc f | vmap f | vred f
  | wincfg f | winrun f | decode f | coll f | stok f | toks f =>
    cases h
    exact command1_firesAs f _
  | fence f | tsfree f | bararr f =>
    cases h
    exact firesAs_ite (effect1_firesAs (pr := f.pr) _) ⟨_, rfl⟩
  | steer f => cases h; exact show FiresAs s f.pr (execSteer f s) from ⟨_, rfl⟩
  | retag f => cases h; exact show FiresAs s f.pr (execRetag f s) from ⟨_, rfl⟩
  | nstore f => cases h; exact show FiresAs s f.pr (execNstore f s) from ⟨_, rfl⟩
  | tsalloc f => cases h; exact show FiresAs s f.pr (execTsalloc f s) from ⟨_, rfl⟩
  | tagnew f => cases h; exact show FiresAs s f.pr (execTagnew f s) from ⟨_, rfl⟩
  | sparam f => cases h; exact show FiresAs s f.pr (execSparam f s) from ⟨_, rfl⟩
  | mxrel f => cases h; exact show FiresAs s f.pr (execMxrel f s) from ⟨_, rfl⟩
  | hquery f => cases h; exact show FiresAs s f.pr (execHquery f s) from ⟨_, rfl⟩
  | rsquery f => cases h; exact show FiresAs s f.pr (execRsquery f s) from ⟨_, rfl⟩
  | srd f => cases h; exact show FiresAs s f.pr (execSrd f s) from ⟨_, rfl⟩
  | swr f => cases h; exact show FiresAs s f.pr (execSwr f s) from ⟨_, rfl⟩
  | bkpt f => cases h; exact show FiresAs s f.pr (execBkpt f s) from ⟨_, rfl⟩
  | enrd f => cases h; exact show FiresAs s f.pr (execEnrd f s) from ⟨_, rfl⟩
  | perfrd f => cases h; exact show FiresAs s f.pr (execPerfrd f s) from ⟨_, rfl⟩
  | clk f => cases h; exact show FiresAs s f.pr (execClk f s) from ⟨_, rfl⟩
  | snuff f => cases h; exact show FiresAs s f.pr (execSnuff f s) from ⟨_, rfl⟩
  | fwcall f => cases h; exact show FiresAs s f.pr (execFwcall f s) from ⟨_, rfl⟩
  | assert f => cases h; exact show FiresAs s f.pr (execAssert f s) from ⟨_, rfl⟩
  | _ => cases h

theorem bitOf_eq_testBit (n i : Nat) : bitOf n i = n.testBit i := Nat.testBit_eq_decide_div_mod_eq.symm

/-- A null matches neither pr 10 (on 0) nor pr 11 (on 1), and a value does not match the one its bit 0 is not of (R77). -/
theorem predicate_mismatch {t : Option Tok} (hpr : pr = 2 ∨ pr = 3)
    (ht : t = some .null ∨ ∃ w : Word, t = some (.val w) ∧ w.getLsbD 0 = (pr == 2)) : predicate pr t = some false := by
  obtain rfl | ⟨w, rfl, hw⟩ := ht
  · rcases hpr with rfl | rfl <;> rfl
  · rw [← BitVec.testBit_toNat, ← bitOf_eq_testBit] at hw
    rcases hpr with rfl | rfl <;> simp [predicate, Word.bit, hw]
end

/-! ### Nulls on data ports -/

section
variable {s : State} {l : Lane} {i : Inst} {ts : List (BitVec 9)} {n : Nat}

/-- Three tokens of which one is null (R81). -/
theorem Operands.three?_null {o : Operands} (hl : o.left.isSome) (hr : o.right.isSome) (ht : o.third.isSome)
    (hn : o.left = some .null ∨ o.right = some .null ∨ o.third = some .null) : o.three? = some none := by
  obtain ⟨a, ha⟩ := Option.isSome_iff_exists.1 hl
  obtain ⟨b, hb⟩ := Option.isSome_iff_exists.1 hr
  obtain ⟨c, hc⟩ := Option.isSome_iff_exists.1 ht
  unfold Operands.three?
  rw [ha, hb, hc] at hn ⊢
  rcases hn with hn | hn | hn <;> cases hn
  · rfl
  · cases a <;> rfl
  · cases a <;> cases b <;> rfl

theorem value3_null (h : Fires s 0 l i) (hn : l.ops.three? = some none) (f : Lane → Inst → Word → Word → Word → Word × Nat) :
    value3 s ts f = sends s l ts .null := by
  rw [value3, firing_fires h, hn]
  rfl

theorem exit3_null (h : Fires s 0 l i) (hn : l.ops.three? = some none)
    (k : Lane → Inst → Word → Word → Word → State → Out) : exit3 s k = .next s.issued := by
  rw [exit3, firing_fires h, hn]

theorem execSteer_null {f : FmtG} (h : Fires s f.pr l i) (hn : l.ops.two? = some none) :
    execSteer f s = sends s l [f.t0, f.t1] .null := by
  rw [execSteer, firing_fires h, hn]
  rfl

theorem execRetag_null {f : FmtG} (h : Fires s f.pr l i) (hn : l.ops.two? = some none) :
    execRetag f s = sends s l [f.t0, f.t1] .null := by
  rw [execRetag, firing_fires h, hn]
  rfl

theorem execSparam_null {f : FmtE} (h : Fires s f.pr l i) (hn : l.ops.two? = some none) : execSparam f s =
    .next ((s.issued.resolveLsid l.inst f.lsid.toNat).deliver l.inst l.slot .null [f.t0, f.t1]) := by
  rw [execSparam, firing_fires h, hn]

variable (hn : l.ops.left = some .null)
include hn

theorem nearLoad_null {f : FmtL} (h : Fires s f.pr l i) (signed : Bool) :
    nearLoad n signed f s = sends s l [f.t0] .null := by
  rw [nearLoad, firing_fires h, Operands.one?, hn]
  rfl

theorem execHquery_null {f : FmtE} (h : Fires s f.pr l i) : execHquery f s =
    .next ((s.issued.resolveLsid l.inst f.lsid.toNat).deliver l.inst l.slot .null [f.t0, f.t1]) := by
  rw [execHquery, firing_fires h, Operands.one?, hn]

theorem execRsquery_null {f : FmtE} (h : Fires s f.pr l i) : execRsquery f s =
    .next ((s.issued.resolveLsid l.inst f.lsid.toNat).deliver l.inst l.slot .null [f.t0, f.t1]) := by
  rw [execRsquery, firing_fires h, Operands.one?, hn]

theorem execFwcall_null {f : FmtG} (h : Fires s f.pr l i) : execFwcall f s = sends s l [f.t0, f.t1] .null := by
  rw [execFwcall, firing_fires h, Operands.one?, hn]
  rfl

theorem execSwr_null {f : FmtI} (h : Fires s f.pr l i) : execSwr f s = .next s.issued := by
  rw [execSwr, firing_fires h, Operands.one?, hn]

theorem execSnuff_null {f : FmtG} (h : Fires s f.pr l i) : execSnuff f s = .next s.issued := by
  rw [execSnuff, firing_fires h, Operands.one?, hn]

theorem execAssert_null {f : FmtG} (h : Fires s f.pr l i) : execAssert f s = .next s.issued := by
  rw [execAssert, firing_fires h, Operands.one?, hn]

/-- FENCE, BARARR and TSFREE with their trigger take an operand, as any effect of one does (R218, R269, R282). -/
theorem triggered_null {f : FmtS} (h : Fires s f.pr l i) (ht : f.imm16.getLsbD 15 = true)
    (k : Lane → Inst → Word → State → Out) (o : Out) :
    (if trigOf f then effect1 s f.pr f.lsid.toNat k else o) = .next (s.issued.resolveLsid l.inst f.lsid.toNat) := by
  have htrig : trigOf f = true := (bitOf_eq_testBit _ _).trans ht
  rw [if_pos htrig, effect1_null h hn]
end
end Sys2Proof.Machine

namespace Sys2Proof.Proofs
open Sys2Proof Sys2Proof.Machine

/-- Settles O20: every form looks at its predicate first, and a form that fires then looks for nulls. -/
theorem predicatesAndNulls : Obligations.PredicatesAndNulls := by
  unfold Obligations.PredicatesAndNulls
  refine ⟨fun ins op flds s l i hwf hform hl hi hpr ht => (exec_firesAs hwf hform).absorbs hl hi (predicate_mismatch hpr ht),
    fun s l i => ⟨fun hnull => ?_, fun hn => ?_, fun hnull f h => ?_, fun hnull => ?_⟩⟩
  · have hn : l.ops.two? = some none := Operands.two?_null hnull
    refine ⟨fun f h => ?_, fun f h => ?_, fun f h => ?_, fun f h => ?_⟩
    · iterate 37 refine List.forall_mem_cons.2 ⟨value2_null h hn _, ?_⟩
      refine List.forall_mem_cons.2 ⟨execSteer_null h hn, ?_⟩
      refine List.forall_mem_cons.2 ⟨execRetag_null h hn, ?_⟩
      iterate 16 refine List.forall_mem_cons.2 ⟨value2_null h hn _, ?_⟩
      exact List.forall_mem_nil _
    · have near (n d : Nat) (e : Nat → Word → Effect) :
          nearEffect n d f s e = .next (s.issued.resolveLsid l.inst f.lsid.toNat) := effect2_null h hn _
      refine List.forall_mem_cons.2 ⟨show execStd f s = _ from near .., ?_⟩
      refine List.forall_mem_cons.2 ⟨show execStw f s = _ from near .., ?_⟩
      refine List.forall_mem_cons.2 ⟨show execSth f s = _ from near .., ?_⟩
      refine List.forall_mem_cons.2 ⟨show execStb f s = _ from near .., ?_⟩
      refine List.forall_mem_cons.2 ⟨show execAadd f s = _ from near .., ?_⟩
      refine List.forall_mem_cons.2 ⟨show execAmins f s = _ from near .., ?_⟩
      refine List.forall_mem_cons.2 ⟨show execAminu f s = _ from near .., ?_⟩
      refine List.forall_mem_cons.2 ⟨show execAmaxs f s = _ from near .., ?_⟩
      refine List.forall_mem_cons.2 ⟨show execAmaxu f s = _ from near .., ?_⟩
      refine List.forall_mem_cons.2 ⟨show execAand f s = _ from near .., ?_⟩
      refine List.forall_mem_cons.2 ⟨show execAor f s = _ from near .., ?_⟩
      refine List.forall_mem_cons.2 ⟨show execAxor f s = _ from near .., ?_⟩
      refine List.forall_mem_cons.2 ⟨show execAfadd f s = _ from near .., ?_⟩
      exact List.forall_mem_nil _
    · have far (n d : Nat) (e : Nat → Word → Effect) :
          farPosted n d f s e = .next (s.issued.resolveLsid l.inst f.lsid.toNat) := effect2_null h hn _
      refine List.forall_mem_cons.2 ⟨show execFst f s = _ from far .., ?_⟩
      refine List.forall_mem_cons.2 ⟨show execFstr f s = _ from far .., ?_⟩
      refine List.forall_mem_cons.2 ⟨show execFradd f s = _ from far .., ?_⟩
      refine List.forall_mem_cons.2 ⟨show execFrfadd f s = _ from far .., ?_⟩
      exact List.forall_mem_nil _
    · iterate 10 refine List.forall_mem_cons.2 ⟨exit2_null h hn _, ?_⟩
      exact List.forall_mem_nil _
  · refine ⟨fun f h => ?_, fun f h => ?_, fun f h => value1_null h hn _, fun f h => value1_null h hn _, fun f h => ?_,
      fun f h => ?_, fun f h => ?_, fun f h => execSwr_null hn h, fun f h => execFwcall_null hn h,
      fun f h => value1_null h hn _, fun f h => ⟨?_, fun ht => ?_⟩, fun f h => ⟨?_, ?_⟩⟩
    · iterate 24 refine List.forall_mem_cons.2 ⟨value1_null h hn _, ?_⟩
      exact List.forall_mem_nil _
    · iterate 27 refine List.forall_mem_cons.2 ⟨value1_null h hn _, ?_⟩
      exact List.forall_mem_nil _
    · iterate 7 refine List.forall_mem_cons.2 ⟨nearLoad_null hn h _, ?_⟩
      exact List.forall_mem_nil _
    · iterate 4 refine List.forall_mem_cons.2 ⟨exit1_null h hn _, ?_⟩
      exact List.forall_mem_nil _
    · iterate 3 refine List.forall_mem_cons.2 ⟨exit1_null h hn _, ?_⟩
      refine List.forall_mem_cons.2 ⟨execSnuff_null hn h, ?_⟩
      refine List.forall_mem_cons.2 ⟨execAssert_null hn h, ?_⟩
      exact List.forall_mem_nil _
    · refine List.forall_mem_cons.2 ⟨show execTagrel f s = _ from effect1_null h hn _, ?_⟩
      refine List.forall_mem_cons.2 ⟨show execTrace f s = _ from effect1_null h hn _, ?_⟩
      exact List.forall_mem_nil _
    · iterate 3 refine List.forall_mem_cons.2 ⟨triggered_null hn h ht _ _, ?_⟩
      exact List.forall_mem_nil _
    · refine List.forall_mem_cons.2 ⟨show execXmit f s = _ from effect1_null h hn _, ?_⟩
      refine List.forall_mem_cons.2 ⟨show execSpawn f s = _ from effect1_null h hn _, ?_⟩
      exact List.forall_mem_nil _
    · refine List.forall_mem_cons.2 ⟨execHquery_null hn h, ?_⟩
      refine List.forall_mem_cons.2 ⟨execRsquery_null hn h, ?_⟩
      exact List.forall_mem_nil _
  · have hn : l.ops.two? = some none := Operands.two?_null hnull
    exact ⟨show execSpawnr f s = _ from effect2_null h hn _, execSparam_null h hn⟩
  · obtain ⟨hl, hr, ht, hsome⟩ := hnull
    have hn : l.ops.three? = some none := Operands.three?_null hl hr ht hsome
    refine ⟨fun f h => ?_, fun f h => show execFacas f s = _ from exit3_null h hn _⟩
    iterate 10 refine List.forall_mem_cons.2 ⟨value3_null h hn _, ?_⟩
    exact List.forall_mem_nil _

end Sys2Proof.Proofs
end

section
/-!
PROOFS. The exact results of chapter 05 as rational numbers (R104-R107): what each exact operation gives, and the statement about
them.
-/

namespace Sys2Proof.Machine

/-! ### Exact results as rational numbers -/

@[simp] theorem Ex.rat_nan : Ex.nan.rat = 0 := rfl
@[simp] theorem Ex.rat_inf (g : Bool) : (Ex.inf g).rat = 0 := rfl
@[simp] theorem Ex.rat_zero (g : Bool) : (Ex.zero g).rat = 0 := rfl
theorem Ex.rat_fin (s : Bool) (n d : Nat) : (Ex.fin s n d).rat = (if s then -(n : Rat) else n) / d := rfl

@[simp] theorem Ex.isNumber_nan : ¬ Ex.nan.isNumber := id
@[simp] theorem Ex.isNumber_inf (g : Bool) : ¬ (Ex.inf g).isNumber := id
@[simp] theorem Ex.isNumber_zero (g : Bool) : (Ex.zero g).isNumber := trivial
@[simp] theorem Ex.isNumber_fin (s : Bool) (n d : Nat) : (Ex.fin s n d).isNumber ↔ 0 < n ∧ 0 < d := Iff.rfl

@[simp] theorem Ex.sign_zero (g : Bool) : (Ex.zero g).sign = g := rfl
@[simp] theorem Ex.sign_inf (g : Bool) : (Ex.inf g).sign = g := rfl
@[simp] theorem Ex.sign_fin (s : Bool) (n d : Nat) : (Ex.fin s n d).sign = s := rfl

theorem Ex.rat_fin_ne_zero {s : Bool} {n d : Nat} (hn : 0 < n) (hd : 0 < d) : (Ex.fin s n d).rat ≠ 0 := by
  have hn' : (n : Rat) ≠ 0 := by positivity
  have hd' : (d : Rat) ≠ 0 := by positivity
  cases s <;> simp [Ex.rat_fin, hn', hd']

theorem Ex.abs_rat_fin (s : Bool) (n d : Nat) : |(Ex.fin s n d).rat| = (n : Rat) / d := by
  cases s <;> simp [Ex.rat_fin, abs_div]

/-- A number's value by its numerator and denominator; a zero is 0 / 1. -/
theorem Ex.rat_eq_ratio (x : Ex) : x.rat = (x.ratio.1 : Rat) / (x.ratio.2 : Nat) := by
  cases x with
  | fin s n d => cases s <;> simp [Ex.rat_fin, Ex.ratio]
  | _ => simp [Ex.ratio]

theorem Ex.ratio_snd_pos {x : Ex} (h : x.isNumber) : 0 < x.ratio.2 := by
  cases x with
  | fin s n d => exact h.2
  | _ => exact Nat.one_pos

theorem ofRatio_isNumber (g : Bool) (z : Int) {d : Nat} (hd : 0 < d) : (ofRatio g z d).isNumber := by
  unfold ofRatio
  split
  · trivial
  · exact ⟨Int.natAbs_pos.2 ‹_›, hd⟩

theorem ofRatio_rat (g : Bool) (z : Int) (d : Nat) : (ofRatio g z d).rat = (z : Rat) / d := by
  unfold ofRatio
  split
  · next hz => simp [hz]
  · rw [Ex.rat_fin, Nat.cast_natAbs]
    rcases lt_or_ge z 0 with hz | hz
    · simp [hz, abs_of_neg hz]
    · simp [not_lt.2 hz, abs_of_nonneg hz]

/-- The only numbers of value 0 are the zeros. -/
theorem Ex.rat_eq_zero_iff {x : Ex} (h : x.isNumber) : x.rat = 0 ↔ ∃ g, x = .zero g := by
  cases x with
  | zero g => simp
  | fin s n d => simp [Ex.rat_fin_ne_zero h.1 h.2]
  | _ => cases h

/-! ### Sums (R107) -/

/-- A sum of numbers that are not both zeros is the sum of their ratios. -/
theorem Ex.add_eq_ofRatio {x y : Ex} (hx : x.isNumber) (hy : y.isNumber) (h : ¬ ((∃ g, x = .zero g) ∧ ∃ g, y = .zero g)) :
    x.add y = ofRatio false (x.ratio.1 * y.ratio.2 + y.ratio.1 * x.ratio.2) (x.ratio.2 * y.ratio.2) := by
  cases x with
  | zero s => cases y with
    | zero t => exact absurd ⟨⟨s, rfl⟩, t, rfl⟩ h
    | fin => rfl
    | _ => cases hy
  | fin => cases y with
    | zero | fin => rfl
    | _ => cases hy
  | _ => cases hx

theorem Ex.add_number {x y : Ex} (hx : x.isNumber) (hy : y.isNumber) : (x.add y).isNumber ∧ (x.add y).rat = x.rat + y.rat := by
  by_cases h : (∃ g, x = .zero g) ∧ ∃ g, y = .zero g
  · obtain ⟨⟨g, rfl⟩, g', rfl⟩ := h
    exact ⟨trivial, (add_zero 0).symm⟩
  · have hdx := Ex.ratio_snd_pos hx
    have hdy := Ex.ratio_snd_pos hy
    rw [Ex.add_eq_ofRatio hx hy h, ofRatio_rat, Ex.rat_eq_ratio x, Ex.rat_eq_ratio y]
    refine ⟨ofRatio_isNumber _ _ (Nat.mul_pos hdx hdy), ?_⟩
    push_cast
    field_simp

/-- An exact zero sum is +0, unless both terms are -0. -/
theorem Ex.add_eq_zero {x y : Ex} (hx : x.isNumber) (hy : y.isNumber) (h0 : x.rat + y.rat = 0) :
    x.add y = .zero (x = .zero true ∧ y = .zero true) := by
  by_cases h : (∃ g, x = .zero g) ∧ ∃ g, y = .zero g
  · obtain ⟨⟨g, rfl⟩, g', rfl⟩ := h
    cases g <;> cases g' <;> rfl
  · have hno : ¬ (x = .zero true ∧ y = .zero true) := fun h' => h ⟨⟨_, h'.1⟩, _, h'.2⟩
    have hsum := (Ex.add_number hx hy).2
    rw [h0, Ex.add_eq_ofRatio hx hy h, ofRatio_rat, div_eq_zero_iff] at hsum
    have hd : ((x.ratio.2 * y.ratio.2 : Nat) : Rat) ≠ 0 := by
      have := Nat.mul_pos (Ex.ratio_snd_pos hx) (Ex.ratio_snd_pos hy)
      positivity
    rw [Ex.add_eq_ofRatio hx hy h, ofRatio, if_pos (Int.cast_eq_zero.1 (hsum.resolve_right hd))]
    simp [hno]

/-! ### Products, quotients, negations (R107) -/

/-- A product of quotients of natural numbers with signs. -/
theorem Ex.rat_fin_mul (s t : Bool) (n d m e : Nat) :
    (Ex.fin (s != t) (n * m) (d * e)).rat = (Ex.fin s n d).rat * (Ex.fin t m e).rat := by
  cases s <;> cases t <;> simp [Ex.rat_fin, div_mul_div_comm, neg_div]

theorem Ex.rat_fin_div (s t : Bool) (n d m e : Nat) :
    (Ex.fin (s != t) (n * e) (d * m)).rat = (Ex.fin s n d).rat / (Ex.fin t m e).rat := by
  cases s <;> cases t <;> simp [Ex.rat_fin, div_div_div_eq, neg_div, div_neg]

theorem Ex.mul_number {x y : Ex} (hx : x.isNumber) (hy : y.isNumber) :
    (x.mul y).isNumber ∧ (x.mul y).rat = x.rat * y.rat ∧ (x.mul y).sign = (x.sign ^^ y.sign) := by
  cases x with
  | zero s => cases y with
    | nan | inf => cases hy
    | zero t | fin t m e => simp [Ex.mul]
  | fin s n d => cases y with
    | nan | inf => cases hy
    | zero t => simp [Ex.mul]
    | fin t m e =>
      exact ⟨⟨Nat.mul_pos hx.1 hy.1, Nat.mul_pos hx.2 hy.2⟩, Ex.rat_fin_mul .., by simp [Ex.mul]⟩
  | _ => cases hx

/-- A number is determined by its sign when its value is 0. -/
theorem Ex.eq_zero_of_rat {x : Ex} (h : x.isNumber) (h0 : x.rat = 0) : x = .zero x.sign := by
  obtain ⟨g, rfl⟩ := (Ex.rat_eq_zero_iff h).1 h0
  rfl

/-- A quotient by a number that is not zero. -/
theorem Ex.div_number {x y : Ex} (hx : x.isNumber) (hy : y.isNumber) (h0 : y.rat ≠ 0) :
    (x.div y).2 = false ∧ (x.div y).1.isNumber ∧ (x.div y).1.rat = x.rat / y.rat ∧ (x.div y).1.sign = (x.sign ^^ y.sign) := by
  cases y with
  | zero t => exact absurd rfl h0
  | fin t m e => cases x with
    | zero s => simp [Ex.div]
    | fin s n d =>
      exact ⟨rfl, ⟨Nat.mul_pos hx.1 hy.2, Nat.mul_pos hx.2 hy.1⟩, Ex.rat_fin_div .., by simp [Ex.div]⟩
    | _ => cases hx
  | _ => cases hy

/-- A quotient by a zero (R144). -/
theorem Ex.div_zero {x y : Ex} (hx : x.isNumber) (hy : y.isNumber) (h0 : y.rat = 0) :
    (x.rat ≠ 0 → x.div y = (.inf (x.sign ^^ y.sign), true)) ∧ (x.rat = 0 → x.div y = (.nan, false)) := by
  obtain ⟨t, rfl⟩ := (Ex.rat_eq_zero_iff hy).1 h0
  cases x with
  | zero s => exact ⟨fun h => absurd rfl h, fun _ => rfl⟩
  | fin s n d => exact ⟨fun _ => by simp [Ex.div], fun h => absurd h (Ex.rat_fin_ne_zero hx.1 hx.2)⟩
  | _ => cases hx

theorem Ex.neg_number {x : Ex} (hx : x.isNumber) : x.neg.isNumber ∧ x.neg.rat = -x.rat ∧ x.neg.sign = !x.sign := by
  cases x with
  | zero s => simp [Ex.neg]
  | fin s n d => exact ⟨hx, by cases s <;> simp [Ex.neg, Ex.rat_fin, neg_div], rfl⟩
  | _ => cases hx

/-! ### Infinities and NaN -/

/-- An infinity beside a number (R105: as IEEE 754-2019 has it). -/
theorem Ex.inf_number (g : Bool) {y : Ex} (hy : y.isNumber) : (Ex.inf g).add y = .inf g ∧ y.add (.inf g) = .inf g ∧
    (y.rat = 0 → (Ex.inf g).mul y = .nan ∧ y.mul (.inf g) = .nan) ∧
    (y.rat ≠ 0 → (Ex.inf g).mul y = .inf (g ^^ y.sign) ∧ y.mul (.inf g) = .inf (y.sign ^^ g)) ∧
    (Ex.inf g).div y = (.inf (g ^^ y.sign), false) ∧ y.div (.inf g) = (.zero (y.sign ^^ g), false) := by
  cases y with
  | zero t => simp [Ex.add, Ex.mul, Ex.div]
  | fin t m e => simp [Ex.add, Ex.mul, Ex.div, Ex.rat_fin_ne_zero hy.1 hy.2]
  | _ => cases hy

theorem Ex.inf_inf (g h : Bool) : (Ex.inf g).add (.inf h) = (if g = h then .inf g else .nan) ∧
    (Ex.inf g).mul (.inf h) = .inf (g ^^ h) ∧ (Ex.inf g).div (.inf h) = (.nan, false) ∧ (Ex.inf g).neg = .inf !g := by
  simp [Ex.add, Ex.mul, Ex.div, Ex.neg]

theorem Ex.nan_any (x : Ex) : Ex.nan.add x = .nan ∧ x.add .nan = .nan ∧ Ex.nan.mul x = .nan ∧ x.mul .nan = .nan ∧
    Ex.nan.div x = (.nan, false) ∧ x.div .nan = (.nan, false) := by
  cases x <;> exact ⟨rfl, rfl, rfl, rfl, rfl, rfl⟩

end Sys2Proof.Machine

namespace Sys2Proof.Proofs

open Sys2Proof Sys2Proof.Machine

/-- Settles O9: numbers operation by operation, then infinities and NaN. -/
theorem exactOperations : Obligations.ExactOperations := by
  unfold Obligations.ExactOperations
  refine ⟨fun x y hx hy => ⟨⟨(Ex.add_number hx hy).1, (Ex.add_number hx hy).2, Ex.add_eq_zero hx hy⟩, ?_, fun h0 => ?_,
    Ex.div_zero hx hy, Ex.neg_number hx⟩, fun g y => Ex.inf_number g, Ex.inf_inf, Ex.nan_any, rfl⟩
  · obtain ⟨hnum, hrat, hsign⟩ := Ex.mul_number hx hy
    exact ⟨hnum, hrat, hsign, fun h => hsign ▸ Ex.eq_zero_of_rat hnum (hrat.trans h)⟩
  · obtain ⟨hflag, hnum, hrat, hsign⟩ := Ex.div_number hx hy h0
    exact ⟨hflag, hnum, hrat, fun h => hsign ▸ Ex.eq_zero_of_rat hnum (by rw [hrat, h, zero_div])⟩

end Sys2Proof.Proofs
end

section
/-!
PROOFS. Rounding as a function of a rational number (R108, R114): the model's rounding of a quotient of natural numbers to a
multiple of a power of two depends on the quotient alone.
-/

namespace Sys2Proof.Machine

/-! ### Powers of two -/

theorem two_zpow_of_nonneg {e : Int} (h : 0 ≤ e) : (2 : Rat) ^ e = ((2 ^ e.toNat : Nat) : Rat) := by
  obtain ⟨n, rfl⟩ := Int.eq_ofNat_of_zero_le h
  simp

theorem two_zpow_of_neg {e : Int} (h : e < 0) : (2 : Rat) ^ e = 1 / ((2 ^ (-e).toNat : Nat) : Rat) := by
  rw [one_div, ← two_zpow_of_nonneg (Int.neg_nonneg.2 h.le), zpow_neg, inv_inv]

theorem two_zpow_pos (e : Int) : (0 : Rat) < (2 : Rat) ^ e := by positivity

/-- A power of two against a quotient, in natural numbers. -/
theorem two_zpow_le_div_iff {n d : Nat} (hd : 0 < d) (e : Int) :
    (2 : Rat) ^ e ≤ (n : Rat) / d ↔ if 0 ≤ e then d * 2 ^ e.toNat ≤ n else d ≤ n * 2 ^ (-e).toNat := by
  have hd' : (0 : Rat) < d := Nat.cast_pos.2 hd
  split
  · next h =>
    rw [two_zpow_of_nonneg h, le_div_iff₀ hd', mul_comm]
    exact_mod_cast Iff.rfl
  · next h =>
    rw [two_zpow_of_neg (not_le.1 h), div_le_div_iff₀ (by positivity) hd', one_mul]
    exact_mod_cast Iff.rfl

/-- The library's logarithm against powers of two. -/
theorem two_zpow_le_iff {x : Rat} (hx : 0 < x) (z : Int) : (2 : Rat) ^ z ≤ x ↔ z ≤ Int.log 2 x := by
  simpa using Int.zpow_le_iff_le_log (x := z) Nat.one_lt_two hx

theorem lt_two_zpow_iff {x : Rat} (hx : 0 < x) (z : Int) : x < (2 : Rat) ^ z ↔ Int.log 2 x < z := by
  simpa using Int.lt_zpow_iff_log_lt (x := z) Nat.one_lt_two hx

/-- floorLog2 is the library's logarithm of the quotient. -/
theorem floorLog2_eq_log {n d : Nat} (hn : 0 < n) (hd : 0 < d) : floorLog2 n d = Int.log 2 ((n : Rat) / d) := by
  have hn' : (0 : Rat) < n := Nat.cast_pos.2 hn
  have hd' : (0 : Rat) < d := Nat.cast_pos.2 hd
  have hx : (0 : Rat) < (n : Rat) / d := by positivity
  set e : Int := (n.log2 : Int) - d.log2 with he
  have hpow : (2 : Rat) ^ e = 2 ^ n.log2 / 2 ^ d.log2 := by rw [he, zpow_sub₀ two_ne_zero, zpow_natCast, zpow_natCast]
  have hn1 : (2 : Rat) ^ n.log2 ≤ n := by exact_mod_cast Nat.log2_self_le hn.ne'
  have hn2 : (n : Rat) < 2 ^ n.log2 * 2 := by rw [← pow_succ]; exact_mod_cast Nat.lt_log2_self
  have hd1 : (2 : Rat) ^ d.log2 ≤ d := by exact_mod_cast Nat.log2_self_le hd.ne'
  have hd2 : (d : Rat) < 2 ^ d.log2 * 2 := by rw [← pow_succ]; exact_mod_cast Nat.lt_log2_self
  have hlow : (2 : Rat) ^ (e - 1) ≤ (n : Rat) / d := by
    rw [zpow_sub_one₀ two_ne_zero, hpow, ← div_eq_mul_inv, div_div, div_le_div_iff₀ (by positivity) hd']
    exact mul_le_mul hn1 hd2.le hd'.le hn'.le
  have hhigh : (n : Rat) / d < (2 : Rat) ^ (e + 1) := by
    rw [zpow_add_one₀ two_ne_zero, hpow, div_mul_eq_mul_div, div_lt_div_iff₀ hd' (by positivity)]
    exact mul_lt_mul hn2 hd1 (by positivity) (by positivity)
  have hle : e - 1 ≤ Int.log 2 ((n : Rat) / d) := (two_zpow_le_iff hx _).1 hlow
  have hlt : Int.log 2 ((n : Rat) / d) < e + 1 := (lt_two_zpow_iff hx _).1 hhigh
  have hiff : e ≤ Int.log 2 ((n : Rat) / d) ↔ (2 : Rat) ^ e ≤ (n : Rat) / d :=
    (two_zpow_le_iff hx e).symm
  rw [two_zpow_le_div_iff hd] at hiff
  unfold floorLog2
  simp only [← he]
  split_ifs at hiff ⊢ <;> omega

theorem log_eq_of_bounds {x : Rat} {e : Int} (h1 : (2 : Rat) ^ e ≤ x) (h2 : x < (2 : Rat) ^ (e + 1)) : Int.log 2 x = e := by
  have hx : 0 < x := (two_zpow_pos e).trans_le h1
  have hle : e ≤ Int.log 2 x := (two_zpow_le_iff hx e).1 h1
  have hlt : Int.log 2 x < e + 1 := (lt_two_zpow_iff hx _).1 h2
  omega

theorem two_zpow_log_le {x : Rat} (hx : 0 < x) : (2 : Rat) ^ Int.log 2 x ≤ x :=
  (two_zpow_le_iff hx _).2 le_rfl

theorem lt_two_zpow_log_succ (x : Rat) : x < (2 : Rat) ^ (Int.log 2 x + 1) :=
  mod_cast Int.lt_zpow_succ_log_self Nat.one_lt_two x

/-! ### n · 2^e as an exact magnitude -/

theorem scaled_rat (neg : Bool) (n : Nat) (e : Int) :
    (scaled neg n e).rat = (if neg then -((n : Rat) * (2 : Rat) ^ e) else n * (2 : Rat) ^ e) := by
  unfold scaled
  split
  · next h0 => simp [h0]
  · split
    · next he => rw [Ex.rat_fin, two_zpow_of_nonneg he]; push_cast; rw [div_one]
    · next he => rw [Ex.rat_fin, two_zpow_of_neg (not_le.1 he), mul_one_div, ← neg_div]; split <;> rfl

theorem scaled_isNumber (neg : Bool) (n : Nat) (e : Int) : (scaled neg n e).isNumber := by
  unfold scaled
  split_ifs with h0 he
  · trivial
  · exact ⟨Nat.mul_pos (Nat.pos_of_ne_zero h0) (Nat.two_pow_pos _), Nat.one_pos⟩
  · exact ⟨Nat.pos_of_ne_zero h0, Nat.two_pow_pos _⟩

theorem scaled_sign (neg : Bool) (n : Nat) (e : Int) : (scaled neg n e).sign = neg := by
  unfold scaled
  split_ifs <;> rfl

/-! ### Rounding a rational number -/

/-- R108's choice of the upper neighbour, for the number k + e with 0 < e < 1. -/
def roundsUp (mode u : Nat) (neg : Bool) (k : Nat) (e : Rat) : Bool :=
  match mode with
  | 0 => decide (1 / 2 < e) || (decide (e = 1 / 2) && k % 2 == 1)
  | 1 => false
  | 2 => !neg
  | 3 => neg
  | 4 => decide (1 / 2 ≤ e)
  | _ => decide ((u : Int) < (e * 2 ^ 24).floor)

/-- A number that is not negative rounded to an integer, and whether it differs. -/
def roundRat (mode u : Nat) (neg : Bool) (x : Rat) : Nat × Bool :=
  if x = ⌊x⌋₊ then (⌊x⌋₊, false) else (if roundsUp mode u neg ⌊x⌋₊ (x - ⌊x⌋₊) then ⌊x⌋₊ + 1 else ⌊x⌋₊, true)

theorem roundUp_eq_roundsUp (mode u : Nat) (neg : Bool) (k r : Nat) {d : Nat} (hd : 0 < d) :
    roundUp mode u neg k r d = roundsUp mode u neg k ((r : Rat) / d) := by
  have hd' : (0 : Rat) < d := Nat.cast_pos.2 hd
  have hlt : d < 2 * r ↔ (1 / 2 : Rat) < r / d := by
    rw [div_lt_div_iff₀ two_pos hd', one_mul, mul_comm]; exact_mod_cast Iff.rfl
  have hle : d ≤ 2 * r ↔ (1 / 2 : Rat) ≤ r / d := by
    rw [div_le_div_iff₀ two_pos hd', one_mul, mul_comm]; exact_mod_cast Iff.rfl
  have heq : 2 * r = d ↔ (r / d : Rat) = 1 / 2 := by
    rw [div_eq_div_iff hd'.ne' two_ne_zero, one_mul, mul_comm]; exact_mod_cast Iff.rfl
  have hpow : ((r * 2 ^ 24 : Nat) : Rat) = r * 2 ^ 24 := by rw [Nat.cast_mul, Nat.cast_pow, Nat.cast_ofNat]
  have hdraw : u < r * 2 ^ 24 / d ↔ (u : Int) < ((r / d : Rat) * 2 ^ 24).floor := by
    rw [← Nat.succ_le_iff, Nat.le_div_iff_mul_le hd, ← Int.add_one_le_iff, Rat.le_floor_iff, div_mul_eq_mul_div, le_div_iff₀ hd',
      ← Nat.cast_le (α := Rat), hpow, Nat.cast_mul, Nat.cast_succ, Int.cast_add, Int.cast_natCast, Int.cast_one]
  match mode with
  | 0 => simp only [roundUp, roundsUp, hlt, ← heq, beq_eq_decide]
  | 1 | 2 | 3 => simp only [roundUp, roundsUp]
  | 4 => simp only [roundUp, roundsUp, hle]
  | _ + 5 => simp only [roundUp, roundsUp, hdraw]

/-- The model's rounding to a multiple of 2^q is that of the quotient by 2^q. -/
theorem roundAt_eq_roundRat (mode u : Nat) (neg : Bool) (n : Nat) {d : Nat} (q : Int) (hd : 0 < d) :
    roundAt mode u neg n d q = roundRat mode u neg ((n : Rat) / d / (2 : Rat) ^ q) := by
  unfold roundAt
  set n' := if 0 ≤ q then n else n * 2 ^ (-q).toNat with hn'
  set d' := if 0 ≤ q then d * 2 ^ q.toNat else d with hd'
  have hpos : 0 < d' := by rw [hd']; split <;> positivity
  have hpos' : (0 : Rat) < d' := Nat.cast_pos.2 hpos
  have hx : (n : Rat) / d / (2 : Rat) ^ q = (n' : Rat) / d' := by
    rw [hn', hd']
    split
    · next h => rw [two_zpow_of_nonneg h]; push_cast; rw [div_div]
    · next h => rw [two_zpow_of_neg (not_le.1 h)]; push_cast; field_simp
  have hfloor : ⌊(n' : Rat) / d'⌋₊ = n' / d' := Nat.floor_div_eq_div n' d'
  have hfract : (n' : Rat) / d' - (n' / d' : Nat) = ((n' % d' : Nat) : Rat) / d' := by
    rw [sub_eq_iff_eq_add, div_add' _ _ _ hpos'.ne']
    congr 1
    exact_mod_cast (Nat.mod_add_div' n' d').symm
  have hzero : n' % d' = 0 ↔ (n' : Rat) / d' = (n' / d' : Nat) := by
    rw [← sub_eq_zero (a := (n' : Rat) / d'), hfract, div_eq_zero_iff, Nat.cast_eq_zero, or_iff_left hpos'.ne']
  rw [hx, roundRat, hfloor, hfract, ← roundUp_eq_roundsUp _ _ _ _ _ hpos]
  simp only [hzero]

section
variable {mode u : Nat} {neg : Bool} {x : Rat}

/-- An integer stays. -/
theorem roundRat_natCast (mode u : Nat) (neg : Bool) (k : Nat) : roundRat mode u neg k = (k, false) := by
  simp [roundRat]

theorem roundRat_floor_or (mode u : Nat) (neg : Bool) (x : Rat) :
    (roundRat mode u neg x).1 = ⌊x⌋₊ ∨ (roundRat mode u neg x).1 = ⌊x⌋₊ + 1 := by
  unfold roundRat
  split_ifs <;> simp

/-- A rounded number is inexact exactly when it is no integer. -/
theorem roundRat_snd : (roundRat mode u neg x).2 = false ↔ ((roundRat mode u neg x).1 : Rat) = x := by
  by_cases h : x = ⌊x⌋₊
  · rw [h, roundRat_natCast]; simp
  · have hne : ((roundRat mode u neg x).1 : Rat) ≠ x := fun h' => h (by rw [← h', Nat.floor_natCast])
    have htrue : (roundRat mode u neg x).2 = true := by rw [roundRat, if_neg h]
    simp [hne, htrue]

/-- Rounding does not pass an integer. -/
theorem roundRat_fst_le (hx : 0 ≤ x) {k : Nat} (h : x ≤ k) : (roundRat mode u neg x).1 ≤ k := by
  rcases h.eq_or_lt with rfl | hlt
  · rw [roundRat_natCast]
  · have := (Nat.floor_lt hx).2 hlt
    rcases roundRat_floor_or mode u neg x with h' | h' <;> omega

theorem le_roundRat_fst {k : Nat} (h : (k : Rat) ≤ x) : k ≤ (roundRat mode u neg x).1 := by
  have := Nat.le_floor h
  rcases roundRat_floor_or mode u neg x with h' | h' <;> omega

/-- To the nearest. -/
theorem roundRat_nearest (hx : 0 ≤ x) : |((roundRat 0 u neg x).1 : Rat) - x| ≤ 1 / 2 := by
  have hlow := Nat.floor_le hx
  have hhigh := Nat.lt_floor_add_one x
  unfold roundRat
  split
  · next h => rw [← h]; norm_num
  · rw [abs_le]
    by_cases hup : roundsUp 0 u neg ⌊x⌋₊ (x - ⌊x⌋₊) = true
    · have : 1 / 2 ≤ x - ⌊x⌋₊ := by
        simp only [roundsUp, Bool.or_eq_true, Bool.and_eq_true, decide_eq_true_eq] at hup
        rcases hup with h | h
        · exact h.le
        · exact h.1.ge
      rw [if_pos hup]
      push_cast
      constructor <;> linarith
    · have : x - ⌊x⌋₊ ≤ 1 / 2 := by
        simp only [roundsUp, Bool.or_eq_true, decide_eq_true_eq, not_or, not_lt] at hup
        exact hup.1
      rw [if_neg hup]
      constructor <;> linarith

/-- Toward zero. -/
theorem roundRat_toward_zero (u : Nat) (neg : Bool) (x : Rat) : (roundRat 1 u neg x).1 = ⌊x⌋₊ := by
  unfold roundRat
  split <;> rfl

end

end Sys2Proof.Machine
end

section
/-!
PROOFS. The grid of a float format (R103, R104, R114): the values of its magnitudes, and rounding to it.
-/

namespace Sys2Proof.Machine

/-! ### The values of magnitudes (R104) -/

/-- The exact value of a magnitude of a format, as if its exponents went on without a limit (R114). -/
def magEx (f : FloatFmt) (neg : Bool) (mag : Nat) : Ex :=
  if mag / 2 ^ f.m = 0 then scaled neg (mag % 2 ^ f.m) (f.emin - f.m)
  else scaled neg (2 ^ f.m + mag % 2 ^ f.m) ((mag / 2 ^ f.m : Nat) - f.bias - f.m)

/-- That value as a rational number, without its sign. -/
def magValue (f : FloatFmt) (mag : Nat) : Rat := (magEx f false mag).rat

theorem magEx_rat (f : FloatFmt) (neg : Bool) (mag : Nat) :
    (magEx f neg mag).rat = if neg then -magValue f mag else magValue f mag := by
  unfold magValue magEx
  split <;> simp only [scaled_rat] <;> rfl

theorem magEx_isNumber (f : FloatFmt) (neg : Bool) (mag : Nat) : (magEx f neg mag).isNumber := by
  unfold magEx
  split <;> exact scaled_isNumber ..

theorem magEx_sign (f : FloatFmt) (neg : Bool) (mag : Nat) : (magEx f neg mag).sign = neg := by
  unfold magEx
  split <;> exact scaled_sign ..

/-- Subnormal values and the least binade: multiples of the smallest step. -/
theorem magValue_low {f : FloatFmt} {k : Nat} (hk : k < 2 ^ f.m) : magValue f k = k * (2 : Rat) ^ (f.emin - f.m) := by
  unfold magValue magEx
  rw [if_pos (Nat.div_eq_of_lt hk), scaled_rat, Nat.mod_eq_of_lt hk]
  rfl

/-- A binade and its upper end. -/
theorem magValue_binade {f : FloatFmt} {E k : Nat} (hE : 0 < E) (hk : k ≤ 2 ^ f.m) :
    magValue f (E * 2 ^ f.m + k) = (2 ^ f.m + k) * (2 : Rat) ^ ((E : Int) - f.bias - f.m) := by
  have hpos := Nat.two_pow_pos f.m
  rcases hk.lt_or_eq with hlt | rfl
  · have hdiv : (E * 2 ^ f.m + k) / 2 ^ f.m = E := by
      rw [Nat.add_comm, Nat.add_mul_div_right _ _ hpos, Nat.div_eq_of_lt hlt, zero_add]
    have hmod : (E * 2 ^ f.m + k) % 2 ^ f.m = k := by rw [Nat.mul_add_mod', Nat.mod_eq_of_lt hlt]
    unfold magValue magEx
    rw [hdiv, hmod, if_neg hE.ne', scaled_rat]
    push_cast
    rfl
  · have hnext : E * 2 ^ f.m + 2 ^ f.m = (E + 1) * 2 ^ f.m := by ring
    have hstep : ((E + 1 : Nat) : Int) - f.bias - f.m = ((E : Int) - f.bias - f.m) + 1 := by push_cast; ring
    unfold magValue magEx
    rw [hnext, Nat.mul_div_cancel _ hpos, Nat.mul_mod_left, if_neg (Nat.succ_ne_zero E), scaled_rat, hstep,
      zpow_add_one₀ two_ne_zero]
    push_cast
    ring

theorem magValue_zero (f : FloatFmt) : magValue f 0 = 0 := by
  rw [magValue_low (Nat.two_pow_pos _), Nat.cast_zero, zero_mul]

theorem magValue_strictMono (f : FloatFmt) : StrictMono (magValue f) := by
  refine strictMono_nat_of_lt_succ fun mag => ?_
  have hpos := Nat.two_pow_pos f.m
  have hr : mag % 2 ^ f.m < 2 ^ f.m := Nat.mod_lt _ hpos
  rcases Nat.eq_zero_or_pos (mag / 2 ^ f.m) with hE | hE
  · have hlt : mag < 2 ^ f.m := by rwa [Nat.div_eq_zero_iff_lt hpos] at hE
    rw [magValue_low hlt]
    rcases Nat.lt_or_eq_of_le (Nat.succ_le_of_lt hlt) with hs | hs
    · rw [magValue_low hs]
      exact mul_lt_mul_of_pos_right (by push_cast; linarith) (two_zpow_pos _)
    · have hone : magValue f (mag + 1) = 2 ^ f.m * (2 : Rat) ^ (f.emin - f.m) := by
        have hbin := magValue_binade (f := f) Nat.one_pos (Nat.zero_le _)
        rw [one_mul, add_zero, Nat.cast_zero, add_zero] at hbin
        rw [show mag + 1 = 2 ^ f.m from hs, hbin]
        rfl
      rw [hone]
      exact mul_lt_mul_of_pos_right (by exact_mod_cast hlt) (two_zpow_pos _)
  · rw [← Nat.div_add_mod' mag (2 ^ f.m), add_assoc, magValue_binade hE hr.le, magValue_binade hE hr]
    exact mul_lt_mul_of_pos_right (by push_cast; linarith) (two_zpow_pos _)

theorem magValue_pos {f : FloatFmt} {mag : Nat} (h : 0 < mag) : 0 < magValue f mag := by
  rw [← magValue_zero f]
  exact magValue_strictMono f h

theorem magValue_nonneg (f : FloatFmt) (mag : Nat) : 0 ≤ magValue f mag := by
  rw [← magValue_zero f]
  exact (magValue_strictMono f).monotone (Nat.zero_le _)

/-- The encoding of k · 2^q stands for it, where q is a step that the format has at k. -/
theorem magValue_encodeMag {f : FloatFmt} {k : Nat} {q : Int} (hk : k ≤ 2 ^ (f.m + 1)) (hq : f.emin - f.m ≤ q)
    (hlow : k < 2 ^ f.m → q = f.emin - f.m) : magValue f (encodeMag f k q) = k * (2 : Rat) ^ q := by
  unfold encodeMag
  split
  · next h => rw [magValue_low h, hlow h]
  · next h =>
    rw [pow_succ] at hk
    have hE : (((q + f.m + f.bias).toNat : Nat) : Int) = q + f.m + f.bias :=
      Int.toNat_of_nonneg (by unfold FloatFmt.emin at hq; omega)
    have hstep : q + f.m + f.bias - f.bias - f.m = q := by ring
    rw [magValue_binade (by unfold FloatFmt.emin at hq; omega) (by omega), hE, hstep, Nat.cast_sub (not_lt.1 h)]
    push_cast
    ring

/-! ### Encodings (R100, R103) -/

/-- The sign bit of an encoding of a type, and its magnitude. -/
def encNeg (t enc : Nat) : Bool := enc % 2 ^ (floatFmt t).bits / 2 ^ ((floatFmt t).bits - 1) == 1
def encMag (t enc : Nat) : Nat := enc % 2 ^ (floatFmt t).bits % 2 ^ ((floatFmt t).bits - 1)

theorem floatValue_of_le {t enc : Nat} (ht : t ≠ 0xE) (h : encMag t enc ≤ (floatFmt t).max) :
    floatValue t enc = ⟨magEx (floatFmt t) (encNeg t enc) (encMag t enc), false⟩ := by
  unfold floatValue magEx
  rw [if_neg ht]
  simp only [← encNeg.eq_def, ← encMag.eq_def]
  rw [if_neg (not_lt.2 h)]
  split <;> rfl

theorem floatValue_of_gt {t enc : Nat} (ht : t ≠ 0xE) (h : (floatFmt t).max < encMag t enc) :
    floatValue t enc = if hasInf t && encMag t enc == (floatFmt t).max + 1 then ⟨.inf (encNeg t enc), false⟩
      else ⟨.nan, t != 0xB && !bitOf (encMag t enc) ((floatFmt t).m - 1)⟩ := by
  unfold floatValue
  rw [if_neg ht]
  simp only [← encNeg.eq_def, ← encMag.eq_def]
  rw [if_pos h]

/-- The weight of a type's sign bit for a sign. -/
def signBit (t : Nat) (neg : Bool) : Nat := if neg then 2 ^ ((floatFmt t).bits - 1) else 0

theorem floatFmt_cases (t : Nat) : floatFmt t = ⟨32, 23, 127, 0x7F7FFFFF⟩ ∨ floatFmt t = ⟨16, 10, 15, 0x7BFF⟩ ∨
    floatFmt t = ⟨16, 7, 127, 0x7F7F⟩ ∨ floatFmt t = ⟨8, 3, 7, 0x7E⟩ ∨ floatFmt t = ⟨8, 2, 15, 0x7B⟩ ∨
    floatFmt t = ⟨4, 1, 1, 7⟩ := by
  unfold floatFmt
  split <;> simp

/-- The largest finite magnitude leaves the sign bit free; its encodings, but E2M1's, are not the last ones. -/
theorem floatFmt_max_lt (t : Nat) : (floatFmt t).max < 2 ^ ((floatFmt t).bits - 1) := by
  rcases floatFmt_cases t with h | h | h | h | h | h <;> rw [h] <;> decide

theorem floatFmt_bits_pos (t : Nat) : 0 < (floatFmt t).bits := by
  rcases floatFmt_cases t with h | h | h | h | h | h <;> rw [h] <;> decide

theorem two_pow_bits (t : Nat) : 2 ^ (floatFmt t).bits = 2 * 2 ^ ((floatFmt t).bits - 1) := by
  rw [← Nat.pow_succ', Nat.succ_eq_add_one, Nat.sub_add_cancel (floatFmt_bits_pos t)]

section
variable {t : Nat} {neg : Bool} {mag : Nat} (h : mag < 2 ^ ((floatFmt t).bits - 1))
include h

theorem signBit_add_lt : signBit t neg + mag < 2 ^ (floatFmt t).bits := by
  rw [two_pow_bits]
  unfold signBit
  split <;> omega

theorem encMag_signBit : encMag t (signBit t neg + mag) = mag := by
  unfold encMag
  rw [Nat.mod_eq_of_lt (signBit_add_lt h)]
  unfold signBit
  split
  · rw [Nat.add_mod_left, Nat.mod_eq_of_lt h]
  · rw [Nat.zero_add, Nat.mod_eq_of_lt h]

theorem encNeg_signBit : encNeg t (signBit t neg + mag) = neg := by
  unfold encNeg
  rw [Nat.mod_eq_of_lt (signBit_add_lt h)]
  unfold signBit
  cases neg
  · rw [if_neg Bool.false_ne_true, Nat.zero_add, Nat.div_eq_of_lt h]; rfl
  · rw [if_pos rfl, Nat.add_div_left _ (Nat.two_pow_pos _), Nat.div_eq_of_lt h]; rfl

end

/-- A magnitude up to the largest finite one takes any sign. -/
theorem withSign_of_le {t mag : Nat} (neg : Bool) (h : mag ≤ (floatFmt t).max) : withSign t neg mag = signBit t neg + mag := by
  have hno : (t == 0xB && mag == 0x7F) = false := by
    by_contra hc
    simp only [Bool.not_eq_false, Bool.and_eq_true, beq_iff_eq] at hc
    obtain ⟨rfl, rfl⟩ := hc
    exact absurd h (by decide)
  unfold withSign signBit
  rw [hno]
  cases neg <;> simp

/-- What the encoding of a signed finite magnitude stands for. -/
theorem floatValue_signBit {t mag : Nat} (ht : t ≠ 0xE) (neg : Bool) (h : mag ≤ (floatFmt t).max) :
    floatValue t (signBit t neg + mag) = ⟨magEx (floatFmt t) neg mag, false⟩ := by
  have hlt := h.trans_lt (floatFmt_max_lt t)
  rw [floatValue_of_le ht (by rwa [encMag_signBit hlt]), encMag_signBit hlt, encNeg_signBit hlt]

theorem floatValue_max {t : Nat} (ht : t ≠ 0xE) : (floatValue t (floatFmt t).max).ex.rat = magValue (floatFmt t) (floatFmt t).max := by
  have h := floatValue_signBit ht false (le_refl _)
  rw [signBit, if_neg Bool.false_ne_true, Nat.zero_add] at h
  rw [h]
  rfl

/-! ### Rounding to the grid (R109, R112, R114) -/

/-- The exponent of the grid's step at a positive number. -/
def stepExp (f : FloatFmt) (x : Rat) : Int := max (Int.log 2 x) f.emin - f.m

/-- The number of steps that a positive number is rounded to, and whether it differs. -/
def roundSteps (f : FloatFmt) (mode u : Nat) (neg : Bool) (x : Rat) : Nat × Bool :=
  roundRat mode u neg (x / (2 : Rat) ^ stepExp f x)

/-- The grid value it is rounded to. -/
def roundValue (f : FloatFmt) (mode u : Nat) (neg : Bool) (x : Rat) : Rat :=
  ((roundSteps f mode u neg x).1 : Rat) * (2 : Rat) ^ stepExp f x

/-- The number rounded with unbounded exponent range below lies under the smallest normal value (R112). -/
def isTiny (f : FloatFmt) (mode u : Nat) (neg : Bool) (x : Rat) : Bool :=
  decide (((roundRat mode u neg (x / (2 : Rat) ^ (Int.log 2 x - f.m))).1 : Rat) * (2 : Rat) ^ (Int.log 2 x - f.m) <
    (2 : Rat) ^ f.emin)

section
variable {f : FloatFmt} {mode u : Nat} {neg : Bool} {x : Rat}

theorem div_two_zpow_lt {q : Int} (hq : Int.log 2 x - f.m ≤ q) : x / (2 : Rat) ^ q < ((2 ^ (f.m + 1) : Nat) : Rat) := by
  rw [div_lt_iff₀ (two_zpow_pos q), Nat.cast_pow, Nat.cast_two, ← zpow_natCast, ← zpow_add₀ two_ne_zero]
  exact (lt_two_zpow_log_succ x).trans_le (zpow_le_zpow_right₀ one_le_two (by push_cast; omega))

theorem le_div_two_zpow (hx : 0 < x) : ((2 ^ f.m : Nat) : Rat) ≤ x / (2 : Rat) ^ (Int.log 2 x - f.m) := by
  rw [le_div_iff₀ (two_zpow_pos _), Nat.cast_pow, Nat.cast_two, ← zpow_natCast, ← zpow_add₀ two_ne_zero, add_sub_cancel]
  exact two_zpow_log_le hx

theorem stepExp_of_normal (h : f.emin ≤ Int.log 2 x) : stepExp f x = Int.log 2 x - f.m := by rw [stepExp, max_eq_left h]

theorem stepExp_of_subnormal (h : Int.log 2 x ≤ f.emin) : stepExp f x = f.emin - f.m := by rw [stepExp, max_eq_right h]

theorem log_le_stepExp : Int.log 2 x - f.m ≤ stepExp f x := sub_le_sub_right (le_max_left _ _) _

theorem emin_le_stepExp : f.emin - f.m ≤ stepExp f x := sub_le_sub_right (le_max_right _ _) _

theorem roundSteps_le (hx : 0 < x) : (roundSteps f mode u neg x).1 ≤ 2 ^ (f.m + 1) :=
  roundRat_fst_le (by positivity) (div_two_zpow_lt log_le_stepExp).le

theorem le_roundSteps (hx : 0 < x) (h : f.emin ≤ Int.log 2 x) : 2 ^ f.m ≤ (roundSteps f mode u neg x).1 := by
  unfold roundSteps
  rw [stepExp_of_normal h]
  exact le_roundRat_fst (le_div_two_zpow hx)

theorem magValue_roundSteps (hx : 0 < x) :
    magValue f (encodeMag f (roundSteps f mode u neg x).1 (stepExp f x)) = roundValue f mode u neg x := by
  refine magValue_encodeMag (roundSteps_le hx) emin_le_stepExp fun hlt => stepExp_of_subnormal ?_
  by_contra hno
  exact absurd (le_roundSteps hx (not_le.1 hno).le) (not_le.2 hlt)

/-- When the model finds a result tiny. -/
theorem isTiny_iff (hx : 0 < x) : isTiny f mode u neg x = true ↔ Int.log 2 x < f.emin ∧
    ¬ (Int.log 2 x + 1 = f.emin ∧ (roundRat mode u neg (x / (2 : Rat) ^ (Int.log 2 x - f.m))).1 = 2 ^ (f.m + 1)) := by
  rw [isTiny, decide_eq_true_iff]
  set e := Int.log 2 x
  have hlow : 2 ^ f.m ≤ (roundRat mode u neg (x / (2 : Rat) ^ (e - f.m))).1 := le_roundRat_fst (le_div_two_zpow hx)
  have hhigh : (roundRat mode u neg (x / (2 : Rat) ^ (e - f.m))).1 ≤ 2 ^ (f.m + 1) :=
    roundRat_fst_le (by positivity) (div_two_zpow_lt le_rfl).le
  generalize (roundRat mode u neg (x / (2 : Rat) ^ (e - f.m))).1 = k at hlow hhigh
  have hscale (j : Int) (N : Nat) (hj : j = e - f.m + N) : (2 : Rat) ^ j = ((2 ^ N : Nat) : Rat) * (2 : Rat) ^ (e - f.m) := by
    rw [hj, zpow_add₀ two_ne_zero, zpow_natCast, mul_comm]; push_cast; rfl
  rcases lt_trichotomy (e + 1) f.emin with h | h | h
  · have hpow : (2 : Rat) ^ (e + 1) < (2 : Rat) ^ f.emin := zpow_lt_zpow_right₀ one_lt_two h
    rw [hscale (e + 1) (f.m + 1) (by push_cast; ring)] at hpow
    have hk : (k : Rat) * (2 : Rat) ^ (e - f.m) ≤ ((2 ^ (f.m + 1) : Nat) : Rat) * (2 : Rat) ^ (e - f.m) :=
      mul_le_mul_of_nonneg_right (by exact_mod_cast hhigh) (two_zpow_pos _).le
    exact iff_of_true (hk.trans_lt hpow) ⟨by omega, by omega⟩
  · rw [← h, hscale (e + 1) (f.m + 1) (by push_cast; ring), mul_lt_mul_iff_left₀ (two_zpow_pos _), Nat.cast_lt]
    omega
  · have hpow : (2 : Rat) ^ f.emin ≤ (2 : Rat) ^ e := zpow_le_zpow_right₀ one_le_two (by omega)
    rw [hscale e f.m (by ring)] at hpow
    have hk : ((2 ^ f.m : Nat) : Rat) * (2 : Rat) ^ (e - f.m) ≤ (k : Rat) * (2 : Rat) ^ (e - f.m) :=
      mul_le_mul_of_nonneg_right (by exact_mod_cast hlow) (two_zpow_pos _).le
    exact iff_of_false (not_lt.2 (hpow.trans hk)) (by omega)

end

section
variable {t mode u n d : Nat} {sat inexact neg : Bool} (hn : 0 < n) (hd : 0 < d)
include hn hd

/-- The model's rounding by the number of steps. -/
theorem roundFin_eq : roundFin t mode u sat inexact neg n d =
    let x : Rat := (n : Rat) / d
    let k := roundSteps (floatFmt t) mode u neg x
    let enc := encodeMag (floatFmt t) k.1 (stepExp (floatFmt t) x)
    if (floatFmt t).max < enc then (withSign t neg (overflowMag t mode sat neg), 20)
    else (withSign t neg enc, roundFlags (k.2 || inexact) (isTiny (floatFmt t) mode u neg x)) := by
  have hx : (0 : Rat) < (n : Rat) / d := by positivity
  have htiny := Bool.eq_iff_iff.2 ((isTiny_iff (f := floatFmt t) (mode := mode) (u := u) (neg := neg) hx).trans
    (decide_eq_true_iff).symm)
  unfold roundFin
  simp only [roundAt_eq_roundRat _ _ _ _ _ hd, floorLog2_eq_log hn hd, htiny, Bool.decide_and, decide_not, beq_eq_decide]
  rfl

/-- Within the format's range: the encoding of the grid value, with its sign. -/
theorem roundFin_of_le (h : roundValue (floatFmt t) mode u neg ((n : Rat) / d) ≤ magValue (floatFmt t) (floatFmt t).max) :
    ∃ mag ≤ (floatFmt t).max, magValue (floatFmt t) mag = roundValue (floatFmt t) mode u neg ((n : Rat) / d) ∧
      roundFin t mode u sat inexact neg n d = (signBit t neg + mag,
        roundFlags ((roundSteps (floatFmt t) mode u neg ((n : Rat) / d)).2 || inexact)
          (isTiny (floatFmt t) mode u neg ((n : Rat) / d))) := by
  have hx : (0 : Rat) < (n : Rat) / d := by positivity
  have hval := magValue_roundSteps (f := floatFmt t) (mode := mode) (u := u) (neg := neg) hx
  have hle := (magValue_strictMono _).le_iff_le.1 (hval.trans_le h)
  refine ⟨_, hle, hval, ?_⟩
  rw [roundFin_eq hn hd]
  simp only [not_lt.2 hle, if_false, withSign_of_le neg hle]

/-- Beyond it: R109's entry, with OF and NX. -/
theorem roundFin_of_gt (h : magValue (floatFmt t) (floatFmt t).max < roundValue (floatFmt t) mode u neg ((n : Rat) / d)) :
    roundFin t mode u sat inexact neg n d = (withSign t neg (overflowMag t mode sat neg), 20) := by
  have hx : (0 : Rat) < (n : Rat) / d := by positivity
  have hval := magValue_roundSteps (f := floatFmt t) (mode := mode) (u := u) (neg := neg) hx
  rw [roundFin_eq hn hd]
  simp only [(magValue_strictMono _).lt_iff_lt.1 (h.trans_eq hval.symm), if_true]

end

end Sys2Proof.Machine
end

section
/-!
PROOFS. round_mode (R108, R109, R112-R114): the neighbour each mode chooses, integer types, float types.
-/

namespace Sys2Proof.Machine

/-! ### The neighbour each mode chooses (R108) -/

/-- A mode's choice for a number that is no integer. -/
theorem roundRat_choice (mode u : Nat) (neg : Bool) {x : Rat} (h : x ≠ ⌊x⌋₊) : roundRat mode u neg x =
    (if roundsUp mode u neg ⌊x⌋₊ (x - ⌊x⌋₊) then ⌊x⌋₊ + 1 else ⌊x⌋₊, true) := by
  rw [roundRat, if_neg h]

section
variable {u k : Nat} {neg : Bool} {e : Rat}

theorem roundsUp_nearest_even : (e < 1 / 2 → roundsUp 0 u neg k e = false) ∧ (1 / 2 < e → roundsUp 0 u neg k e = true) ∧
    (e = 1 / 2 → (if roundsUp 0 u neg k e then k + 1 else k) % 2 = 0) := by
  refine ⟨fun h => ?_, fun h => ?_, fun h => ?_⟩
  · simp only [roundsUp, not_lt.2 h.le, h.ne, decide_false, Bool.false_and, Bool.or_self]
  · simp only [roundsUp, h, decide_true, Bool.true_or]
  · simp only [roundsUp, h, lt_self_iff_false, decide_false, decide_true, Bool.false_or, Bool.true_and, beq_iff_eq]
    split <;> omega

end

/-- An upper neighbour is the one chosen exactly when the mode takes it. -/
theorem ite_succ_eq_iff (b : Bool) (k : Nat) : (if b then k + 1 else k) = k + 1 ↔ b = true := by cases b <;> simp

/-- R108: the neighbour k or k + 1 of k + e that each mode chooses. -/
theorem roundRat_modes (mode u : Nat) (neg : Bool) (x : Rat) :
    let k := ⌊x⌋₊
    let e := x - k
    let r := roundRat mode u neg x
    (e = 0 → r = (k, false)) ∧
    (e ≠ 0 → r.2 = true ∧ (r.1 = k ∨ r.1 = k + 1) ∧
      (mode = 0 → (e < 1 / 2 → r.1 = k) ∧ (1 / 2 < e → r.1 = k + 1) ∧ (e = 1 / 2 → r.1 % 2 = 0)) ∧
      (mode = 1 → r.1 = k) ∧
      (mode = 2 → r.1 = if neg then k else k + 1) ∧
      (mode = 3 → r.1 = if neg then k + 1 else k) ∧
      (mode = 4 → (r.1 = k + 1 ↔ 1 / 2 ≤ e)) ∧
      (mode = 5 → (r.1 = k + 1 ↔ (u : Int) < (e * 2 ^ 24).floor))) := by
  intro k e r
  refine ⟨fun h0 => ?_, fun h0 => ?_⟩
  · have hx : x = k := sub_eq_zero.1 h0
    exact (congrArg (roundRat mode u neg) hx).trans (roundRat_natCast ..)
  · have hr : r = (if roundsUp mode u neg k e then k + 1 else k, true) := roundRat_choice mode u neg fun h => h0 (sub_eq_zero.2 h)
    rw [hr]
    refine ⟨rfl, by split <;> simp, ?_, ?_, ?_, ?_, ?_, ?_⟩
    · rintro rfl
      obtain ⟨hlt, hgt, heq⟩ := roundsUp_nearest_even (u := u) (k := k) (neg := neg) (e := e)
      exact ⟨fun h => by simp [hlt h], fun h => by simp [hgt h], heq⟩
    · rintro rfl; rfl
    · rintro rfl; cases neg <;> rfl
    · rintro rfl; cases neg <;> rfl
    · rintro rfl; exact (ite_succ_eq_iff _ k).trans (by simp only [roundsUp, decide_eq_true_iff])
    · rintro rfl; exact (ite_succ_eq_iff _ k).trans (by simp only [roundsUp, decide_eq_true_iff])

/-! ### Integer types (R113) -/

section
variable {w : Nat} {signed : Bool} {z : Int}

theorem satInt_below (h : z < intMin w signed) : satInt w signed z = intMin w signed := by rw [satInt, if_pos h]

theorem satInt_above (hle : intMin w signed ≤ intMax w signed) (h : intMax w signed < z) : satInt w signed z = intMax w signed := by
  rw [satInt, if_neg (by omega), if_pos h]

theorem satInt_inside (h1 : intMin w signed ≤ z) (h2 : z ≤ intMax w signed) : satInt w signed z = z := by
  rw [satInt, if_neg (not_lt.2 h1), if_neg (not_lt.2 h2)]

theorem intMin_eq (w : Nat) (signed : Bool) : intMin w signed = if signed then -(2 : Int) ^ (w - 1) else 0 := by
  unfold intMin; push_cast; rfl

theorem intMax_eq (w : Nat) (signed : Bool) :
    intMax w signed = if signed then (2 : Int) ^ (w - 1) - 1 else (2 : Int) ^ w - 1 := by
  unfold intMax; push_cast; rfl

end

/-- An integer rounded from a quotient, in the type's range and out of it. -/
theorem roundInt_fin (w : Nat) (signed : Bool) (mode u : Nat) (neg : Bool) (n d : Nat) :
    let r := roundAt mode u neg n d 0
    let z : Int := if neg then -(r.1 : Int) else r.1
    (z < intMin w signed → intMin w signed ≤ intMax w signed → roundInt w signed mode u (.fin neg n d) = (intMin w signed, 1)) ∧
    (intMax w signed < z → intMin w signed ≤ intMax w signed → roundInt w signed mode u (.fin neg n d) = (intMax w signed, 1)) ∧
    (intMin w signed ≤ z → z ≤ intMax w signed →
      roundInt w signed mode u (.fin neg n d) = (z, if r.2 then 16 else 0)) := by
  intro r z
  have heq : roundInt w signed mode u (.fin neg n d) =
      if satInt w signed z ≠ z then (satInt w signed z, 1) else (z, if r.2 then 16 else 0) := rfl
  refine ⟨fun h hle => ?_, fun h hle => ?_, fun h1 h2 => ?_⟩
  · rw [heq, satInt_below h, if_pos h.ne']
  · rw [heq, satInt_above hle h, if_pos h.ne]
  · rw [heq, satInt_inside h1 h2, if_neg (not_not.2 rfl)]

/-! ### Float types (R109, R113) -/

section
variable {t mode u n d : Nat} {sat neg : Bool}

/-- E4M3's overflow takes no sign. -/
theorem withSign_e4m3_nan (neg : Bool) : withSign 0xB neg 0x7F = 0x7F := by cases neg <;> rfl

/-- A magnitude of another type takes any sign. -/
theorem withSign_of_ne (ht : t ≠ 0xB) (neg : Bool) (mag : Nat) : withSign t neg mag = signBit t neg + mag := by
  unfold withSign signBit
  cases neg <;> simp [ht]

/-- The encoding of an overflow (R109). -/
theorem withSign_overflowMag : withSign t neg (overflowMag t mode sat neg) =
    if t = 0xD ∨ sat = true then signBit t neg + (floatFmt t).max
    else if t = 0xB then 0x7F
    else if mode = 1 ∨ (mode = 2 ∧ neg = true) ∨ (mode = 3 ∧ neg = false) then signBit t neg + (floatFmt t).max
    else signBit t neg + ((floatFmt t).max + 1) := by
  have hmax : withSign t neg (floatFmt t).max = signBit t neg + (floatFmt t).max := withSign_of_le neg le_rfl
  unfold overflowMag
  dsimp only
  by_cases hD : t = 0xD
  · rw [if_pos hD, if_pos (.inl hD), hmax]
  by_cases hsat : sat = true
  · rw [if_neg hD, if_pos hsat, if_pos (.inr hsat), hmax]
  rw [if_neg hD, if_neg hsat, if_neg (not_or.2 ⟨hD, hsat⟩)]
  by_cases hB : t = 0xB
  · rw [if_pos hB, if_pos hB, hB, withSign_e4m3_nan]
  · rw [if_neg hB, if_neg hB, withSign_of_ne hB]
    split <;> rfl

/-- R113's entries for a NaN, a zero and an infinity. -/
theorem roundFloat_nan (ht : 8 ≤ t) (ht' : t ≤ 0xD) : roundFloat t mode u sat .nan =
    (([0x7FC00000, 0x7E00, 0x7FC0, 0x7F, 0x7E, 0][t - 8]?).getD 0, if t = 0xD then 1 else 0) := by
  interval_cases t <;> rfl

theorem roundFloat_zero (t mode u : Nat) (sat g : Bool) : roundFloat t mode u sat (.zero g) = (signBit t g, 0) := by
  show (withSign t g 0, 0) = _
  rw [withSign_of_le g (Nat.zero_le _), add_zero]

theorem roundFloat_inf (t mode u : Nat) (sat g : Bool) : roundFloat t mode u sat (.inf g) =
    if t = 0xD then (signBit t g + (floatFmt t).max, 1) else if sat then (signBit t g + (floatFmt t).max, 0)
    else if t = 0xB then (0x7F, 0) else (signBit t g + ((floatFmt t).max + 1), 0) := by
  have hmax : withSign t g (floatFmt t).max = signBit t g + (floatFmt t).max := withSign_of_le g le_rfl
  rw [← hmax]
  unfold roundFloat
  by_cases hB : t = 0xB
  · simp only [hB, if_true]; rfl
  · simp only [withSign_of_ne hB]; rfl

/-- An inexact number's flags (R112). -/
theorem roundFlags_of_inexact (tiny : Bool) : roundFlags true tiny = if tiny then 24 else 16 := by cases tiny <;> rfl

/-- R109, R112 and R114 for a number. -/
theorem roundFloat_fin (ht : t ≠ 0xE) (mode u : Nat) (sat neg : Bool) (hn : 0 < n) (hd : 0 < d) :
    let f := floatFmt t
    let x : Rat := (n : Rat) / d
    let r := roundSteps f mode u neg x
    let value := roundValue f mode u neg x
    let out := roundFloat t mode u sat (.fin neg n d)
    (value ≤ magValue f f.max → out.1 < 2 ^ f.bits ∧ (floatValue t out.1).ex.rat = (if neg then -value else value) ∧
      (floatValue t out.1).ex.sign = neg ∧ (r.2 = false → out.2 = 0) ∧
      (r.2 = true → out.2 = if isTiny f mode u neg x then 24 else 16)) ∧
    (magValue f f.max < value → out = (withSign t neg (overflowMag t mode sat neg), 20)) := by
  intro f x r value out
  refine ⟨fun h => ?_, roundFin_of_gt hn hd⟩
  obtain ⟨mag, hmag, hval, hout⟩ := roundFin_of_le (sat := sat) (inexact := false) hn hd h
  have hout' : out = _ := hout
  rw [hout', Bool.or_false]
  refine ⟨signBit_add_lt (hmag.trans_lt (floatFmt_max_lt t)), ?_, ?_, fun hr => ?_, fun hr => ?_⟩
  · rw [floatValue_signBit ht neg hmag, magEx_rat, hval]
  · rw [floatValue_signBit ht neg hmag, magEx_sign]
  · exact congrArg (roundFlags · _) hr
  · exact (congrArg (roundFlags · _) hr).trans (roundFlags_of_inexact _)

end
end Sys2Proof.Machine

namespace Sys2Proof.Proofs

open Sys2Proof Sys2Proof.Machine

/-- Settles O10: the model's rounding of a quotient is that of a rational number, whose grid below 2^(e + 1) has the step that
the statement names. -/
theorem roundingModes : Obligations.RoundingModes := by
  unfold Obligations.RoundingModes
  refine ⟨?_, ?_, ?_⟩
  · intro mode u neg n d q hd
    rw [roundAt_eq_roundRat mode u neg n q hd]
    exact roundRat_modes mode u neg _
  · intro w signed mode u lo hi
    rw [show lo = intMin w signed from (intMin_eq w signed).symm, show hi = intMax w signed from (intMax_eq w signed).symm]
    exact ⟨rfl, fun g => ⟨rfl, rfl⟩, fun neg n d _ => roundInt_fin w signed mode u neg n d⟩
  · intro t mode u sat ht ht' f top canon
    refine ⟨rfl, roundFloat_nan ht ht', fun g => ⟨roundFloat_zero t mode u sat g, roundFloat_inf t mode u sat g⟩, ?_⟩
    intro neg n d e hn hd h1 h2 emin r value tiny big out
    have hlog : Int.log 2 ((n : Rat) / d) = e := log_eq_of_bounds h1 h2
    have hstep : max e emin - f.m = stepExp f ((n : Rat) / d) := by rw [stepExp, hlog]; rfl
    have hr : r = roundSteps f mode u neg ((n : Rat) / d) := by
      rw [roundSteps, ← hstep]; exact roundAt_eq_roundRat mode u neg n _ hd
    have hvalue : value = roundValue f mode u neg ((n : Rat) / d) := by rw [roundValue, ← hr, ← hstep]
    have htiny : isTiny f mode u neg ((n : Rat) / d) = true ↔ tiny := by
      rw [isTiny, decide_eq_true_iff, hlog, ← roundAt_eq_roundRat mode u neg n _ hd]; rfl
    have htE : t ≠ 0xE := by omega
    have hbig : big = magValue f f.max := floatValue_max htE
    obtain ⟨hle, hgt⟩ := roundFloat_fin htE mode u sat neg hn hd
    rw [hbig, hvalue, hr]
    refine ⟨fun h => ?_, fun h => ?_⟩
    · obtain ⟨hlt, hrat, hsign, hexact, hinexact⟩ := hle h
      refine ⟨hlt, hrat, hsign, hexact, fun h2 hno => ?_, fun h2 hyes => ?_⟩
      · exact (hinexact h2).trans (if_neg (mt htiny.1 hno))
      · exact (hinexact h2).trans (if_pos (htiny.2 hyes))
    · have hout : out = _ := hgt h
      rw [hout, withSign_overflowMag]
      exact ⟨rfl, rfl⟩

end Sys2Proof.Proofs
end

section
/-!
PROOFS. The element float formats FP32, FP16 and BF16 (R103, R141): their parameters, what an operand's encoding stands for, and
how a float instruction's value and flags are sent; the arithmetic instructions of chapter 07.
-/

namespace Sys2Proof.Machine

/-! ### Numbers among exact results -/

theorem Ex.isNan_of_isNumber {x : Ex} (h : x.isNumber) : x.isNan = false := by
  cases x with
  | nan => cases h
  | _ => rfl

theorem Ex.isNan_iff (x : Ex) : x.isNan = true ↔ x = .nan := by cases x <;> simp [Ex.isNan]

theorem magEx_zero (f : FloatFmt) (neg : Bool) : magEx f neg 0 = .zero neg := by simp [magEx, scaled]

/-- A magnitude other than zero is a quotient of positive numbers. -/
theorem magEx_pos {f : FloatFmt} {mag : Nat} (neg : Bool) (h : 0 < mag) :
    ∃ n d, magEx f neg mag = .fin neg n d ∧ 0 < n ∧ 0 < d ∧ (n : Rat) / d = magValue f mag := by
  have hnum := magEx_isNumber f neg mag
  have hsign := magEx_sign f neg mag
  have hrat := magEx_rat f neg mag
  have hpos := magValue_pos (f := f) h
  cases hx : magEx f neg mag with
  | zero g =>
    rw [hx, Ex.rat_zero] at hrat
    exact absurd hrat (by cases neg <;> simp [hpos.ne, hpos.ne'])
  | fin g n d =>
    rw [hx] at hnum hsign hrat
    obtain rfl : g = neg := hsign
    refine ⟨n, d, rfl, hnum.1, hnum.2, ?_⟩
    rw [← Ex.abs_rat_fin g n d, hrat]
    cases g
    · exact abs_of_pos hpos
    · rw [if_pos rfl, abs_neg, abs_of_pos hpos]
  | _ => rw [hx] at hnum; cases hnum

/-! ### Parameters (R103) -/

/-- The model's format of a float format field. -/
def fltFmt (xop : BitVec 3) : FloatFmt := floatFmt (8 + xop.toNat)

section
variable {xop : BitVec 3}

theorem fltMag_lt (a : Word) : fltMag xop a < 2 ^ (fltWidth xop - 1) := Nat.mod_lt _ (Nat.two_pow_pos _)

/-- Every operand is a NaN, an infinity or finite. -/
theorem flt_cases (a : Word) : fltIsNan xop a = true ∨ fltMag xop a = fltInf xop ∨ fltMag xop a < fltInf xop := by
  rcases lt_trichotomy (fltMag xop a) (fltInf xop) with hlt | heq | hgt
  · exact .inr (.inr hlt)
  · exact .inr (.inl heq)
  · exact .inl (decide_eq_true hgt)

theorem not_fltIsNan {a : Word} (ha : fltMag xop a ≤ fltInf xop) : fltIsNan xop a = false := decide_eq_false (not_lt.2 ha)

theorem not_fltIsSnan {a : Word} (ha : fltMag xop a ≤ fltInf xop) : fltIsSnan xop a = false := by
  unfold fltIsSnan
  rw [decide_eq_false (not_lt.2 ha), Bool.false_and]

end

/-- The first fraction bit of a magnitude above the infinity `2 * P * c`, P being that bit's weight. -/
theorem bitOf_above {c y i : Nat} (hy : y < 2 * 2 ^ i) : bitOf (2 * 2 ^ i * c + y) i = decide (2 ^ i ≤ y) := by
  have hdiv : (2 * 2 ^ i * c + y) / 2 ^ i = 2 * c + y / 2 ^ i := by
    rw [Nat.mul_comm 2, Nat.mul_assoc, Nat.mul_add_div (Nat.two_pow_pos i)]
  unfold bitOf
  rw [hdiv]
  rcases Nat.lt_or_ge y (2 ^ i) with hlt | hge
  · rw [Nat.div_eq_of_lt hlt, decide_eq_false (by omega)]
    simp
  · rw [Nat.div_eq_of_lt_le (k := 1) (by omega) (by omega), decide_eq_true hge]
    simp

section
variable {xop : BitVec 3} (h : xop.toNat < 3)
include h

theorem fltXop_cases : xop = 0 ∨ xop = 1 ∨ xop = 2 := by
  have hcases : xop.toNat = 0 ∨ xop.toNat = 1 ∨ xop.toNat = 2 := by omega
  exact hcases.imp BitVec.eq_of_toNat_eq (Or.imp BitVec.eq_of_toNat_eq BitVec.eq_of_toNat_eq)

theorem fltFmt_bits : (fltFmt xop).bits = fltWidth xop := by rcases fltXop_cases h with rfl | rfl | rfl <;> rfl
theorem fltFmt_m : (fltFmt xop).m = fltFrac xop := by rcases fltXop_cases h with rfl | rfl | rfl <;> rfl
theorem fltFmt_max : (fltFmt xop).max + 1 = fltInf xop := by rcases fltXop_cases h with rfl | rfl | rfl <;> rfl
theorem canonNan_flt : canonNan (8 + xop.toNat) = fltNan xop := by rcases fltXop_cases h with rfl | rfl | rfl <;> rfl

/-- NaN magnitudes lie above the infinity, the quiet ones from the canonical one on. -/
theorem fltNan_bounds : fltNan xop = fltInf xop + 2 ^ ((fltFmt xop).m - 1) ∧
    2 ^ (fltWidth xop - 1) = fltInf xop + 2 * 2 ^ ((fltFmt xop).m - 1) ∧ 2 * 2 ^ ((fltFmt xop).m - 1) ∣ fltInf xop := by
  rcases fltXop_cases h with rfl | rfl | rfl <;> decide

/-! ### Operands (R104, R106) -/

theorem encMag_flt (a : Word) : encMag (8 + xop.toNat) a.toNat = fltMag xop a := by
  unfold encMag fltMag
  rw [← fltFmt_bits h, fltFmt, Nat.mod_mod_of_dvd _ (Nat.pow_dvd_pow 2 (Nat.sub_le _ _))]

theorem encNeg_flt (a : Word) : encNeg (8 + xop.toNat) a.toNat = fltNeg xop a := by
  unfold encNeg fltNeg
  rw [← fltFmt_bits h, fltFmt, two_pow_bits, Nat.mul_comm, Nat.mod_mul_right_div_self]
  rw [BitVec.getLsbD, Nat.testBit_eq_decide_div_mod_eq]
  rfl

/-- A NaN operand; it is signalling when its first fraction bit is 0. -/
theorem floatValue_nan {a : Word} (ha : fltIsNan xop a = true) :
    floatValue (8 + xop.toNat) a.toNat = ⟨.nan, fltIsSnan xop a⟩ := by
  have hgt : fltInf xop < fltMag xop a := of_decide_eq_true ha
  obtain ⟨hnan, htop, c, hc⟩ := fltNan_bounds h
  have hlt := fltMag_lt (xop := xop) a
  have hmax := fltFmt_max h
  have hmag := encMag_flt h a
  obtain ⟨y, hy⟩ := Nat.exists_eq_add_of_lt hgt
  have hbit := bitOf_above (c := c) (y := y + 1) (i := (fltFmt xop).m - 1) (by omega)
  rw [← hc, ← Nat.add_assoc, ← hy] at hbit
  have hno : (fltMag xop a == (fltFmt xop).max + 1) = false := beq_false_of_ne (by omega)
  have hB : (8 + xop.toNat != 0xB) = true := bne_iff_ne.2 (by omega)
  have hs : fltIsSnan xop a = !decide (2 ^ ((fltFmt xop).m - 1) ≤ y + 1) := by
    unfold fltIsSnan
    rw [decide_eq_true hgt, Bool.true_and, ← decide_not]
    exact decide_eq_decide.2 (by omega)
  rw [floatValue_of_gt (by omega) (by rw [hmag, ← fltFmt]; omega), hmag, ← fltFmt, hno, Bool.and_false,
    if_neg Bool.false_ne_true, hbit, hB, Bool.true_and, hs]

theorem floatValue_inf {a : Word} (ha : fltMag xop a = fltInf xop) :
    floatValue (8 + xop.toNat) a.toNat = ⟨.inf (fltNeg xop a), false⟩ := by
  have hmax := fltFmt_max h
  have hmag := encMag_flt h a
  have hinf : hasInf (8 + xop.toNat) = true := by rcases fltXop_cases h with rfl | rfl | rfl <;> rfl
  rw [floatValue_of_gt (by omega) (by rw [hmag, ha, ← hmax]; exact Nat.lt_succ_self _), hmag, encNeg_flt h, ← fltFmt, ha, ← hmax,
    hinf, beq_self_eq_true, Bool.and_self, if_pos rfl]

/-- A finite operand. -/
theorem floatValue_fin {a : Word} (ha : fltMag xop a < fltInf xop) :
    floatValue (8 + xop.toNat) a.toNat = ⟨magEx (fltFmt xop) (fltNeg xop a) (fltMag xop a), false⟩ := by
  have hle : fltMag xop a ≤ (fltFmt xop).max := by have := fltFmt_max h; omega
  have hmag := encMag_flt h a
  rw [floatValue_of_le (by omega) (hmag ▸ hle), hmag, encNeg_flt h]
  rfl



/-- The NaN and signalling NaN of an operand (R106). -/
theorem fltEx_isNan (a : Word) : (fltEx xop a).isNan = fltIsNan xop a := by
  unfold fltEx
  rcases flt_cases (xop := xop) a with ha | ha | ha
  · rw [floatValue_nan h ha, ha]; rfl
  · rw [floatValue_inf h ha, not_fltIsNan ha.le]; rfl
  · rw [floatValue_fin h ha, not_fltIsNan ha.le]
    exact Ex.isNan_of_isNumber (magEx_isNumber ..)

theorem floatValue_snan (a : Word) : (floatValue (8 + xop.toNat) a.toNat).snan = fltIsSnan xop a := by
  rcases flt_cases (xop := xop) a with ha | ha | ha
  · rw [floatValue_nan h ha]
  · rw [floatValue_inf h ha, not_fltIsSnan ha.le]
  · rw [floatValue_fin h ha, not_fltIsSnan ha.le]

theorem fltEx_nan {a : Word} (ha : fltIsNan xop a = true) : fltEx xop a = .nan := congrArg Opd.ex (floatValue_nan h ha)

theorem fltEx_inf {a : Word} (ha : fltMag xop a = fltInf xop) : fltEx xop a = .inf (fltNeg xop a) :=
  congrArg Opd.ex (floatValue_inf h ha)

theorem fltEx_fin {a : Word} (ha : fltMag xop a < fltInf xop) :
    fltEx xop a = magEx (fltFmt xop) (fltNeg xop a) (fltMag xop a) := congrArg Opd.ex (floatValue_fin h ha)

theorem fltInf_pos : 0 < fltInf xop := fltFmt_max h ▸ Nat.succ_pos _

theorem fltEx_zero {a : Word} (ha : fltMag xop a = 0) : fltEx xop a = .zero (fltNeg xop a) := by
  rw [fltEx_fin h (ha ▸ fltInf_pos h), ha, magEx_zero]

/-- A finite operand that is not zero is a quotient of positive numbers, the value of its magnitude. -/
theorem fltEx_ordinary {a : Word} (h0 : 0 < fltMag xop a) (ha : fltMag xop a < fltInf xop) :
    ∃ n d, fltEx xop a = .fin (fltNeg xop a) n d ∧ 0 < n ∧ 0 < d ∧ (n : Rat) / d = magValue (fltFmt xop) (fltMag xop a) := by
  obtain ⟨n, d, heq, hn, hd, hval⟩ := magEx_pos (f := fltFmt xop) (fltNeg xop a) h0
  exact ⟨n, d, (fltEx_fin h ha).trans heq, hn, hd, hval⟩

/-- An operand is a NaN, an infinity, a zero, or an ordinary one. -/
theorem fltEx_cases (a : Word) : (fltIsNan xop a = true ∧ fltEx xop a = .nan) ∨
    (fltMag xop a = fltInf xop ∧ fltEx xop a = .inf (fltNeg xop a)) ∨ (fltMag xop a = 0 ∧ fltEx xop a = .zero (fltNeg xop a)) ∨
    (0 < fltMag xop a ∧ fltMag xop a < fltInf xop ∧ ∃ n d, fltEx xop a = .fin (fltNeg xop a) n d ∧ 0 < n ∧ 0 < d) := by
  rcases flt_cases (xop := xop) a with ha | ha | ha
  · exact .inl ⟨ha, fltEx_nan h ha⟩
  · exact .inr (.inl ⟨ha, fltEx_inf h ha⟩)
  · rcases Nat.eq_zero_or_pos (fltMag xop a) with h0 | h0
    · exact .inr (.inr (.inl ⟨h0, fltEx_zero h h0⟩))
    · obtain ⟨n, d, heq, hn, hd, -⟩ := fltEx_ordinary h h0 ha
      exact .inr (.inr (.inr ⟨h0, ha, n, d, heq, hn, hd⟩))

/-- An operand that is a quotient is an ordinary one. -/
theorem fltEx_fin_pos {a : Word} {g : Bool} {n d : Nat} (ha : fltEx xop a = .fin g n d) :
    g = fltNeg xop a ∧ 0 < fltMag xop a ∧ fltMag xop a < fltInf xop ∧ 0 < n ∧ 0 < d := by
  rcases fltEx_cases h a with ⟨-, heq⟩ | ⟨-, heq⟩ | ⟨-, heq⟩ | ⟨h0, hlt, n', d', heq, hn, hd⟩ <;> rw [ha] at heq
  · cases heq
  · cases heq
  · cases heq
  · obtain ⟨rfl, rfl, rfl⟩ := Ex.fin.inj heq
    exact ⟨rfl, h0, hlt, hn, hd⟩

theorem fltEx_eq_zero_iff (a : Word) : (∃ g, fltEx xop a = .zero g) ↔ fltMag xop a = 0 := by
  refine ⟨fun ⟨g, hg⟩ => ?_, fun h0 => ⟨_, fltEx_zero h h0⟩⟩
  rcases fltEx_cases h a with ⟨-, heq⟩ | ⟨-, heq⟩ | ⟨h0, -⟩ | ⟨-, -, n, d, heq, -⟩
  · rw [hg] at heq; cases heq
  · rw [hg] at heq; cases heq
  · exact h0
  · rw [hg] at heq; cases heq

theorem fltEx_eq_fin_iff (a : Word) : (∃ g n d, fltEx xop a = .fin g n d) ↔ 0 < fltMag xop a ∧ fltMag xop a < fltInf xop := by
  refine ⟨fun ⟨g, n, d, hfin⟩ => ?_, fun ⟨h0, hlt⟩ => ?_⟩
  · obtain ⟨-, h0, hlt, -⟩ := fltEx_fin_pos h hfin
    exact ⟨h0, hlt⟩
  · obtain ⟨n, d, heq, -⟩ := fltEx_ordinary h h0 hlt
    exact ⟨_, n, d, heq⟩

/-- The sum, product and quotient of operands that are no NaN keep the flags of R112: the model's rounding with flags is the
one the statements name. -/
theorem fltPair_rounded (ops : List Word) (y : Ex) :
    fltPair (rounded xop.toNat (ops.map fun a => opd xop.toNat a.toNat) y) = fltRound xop ops y := by
  have hsnan : (ops.map fun a => opd xop.toNat a.toNat).any (·.snan) = ops.any (fltIsSnan xop) := by
    rw [List.any_map]
    exact congrArg ops.any (funext (floatValue_snan h))
  have hnan : (ops.map fun a => opd xop.toNat a.toNat).any (·.ex.isNan) = ops.any (fltIsNan xop) := by
    rw [List.any_map]
    exact congrArg ops.any (funext (fltEx_isNan h))
  unfold rounded nanFlags
  rw [hsnan, hnan]
  rfl

end

/-! ### Values and flags sent -/

section
variable {f : FmtG} {s : State} {l : Lane} {i : Inst} {a b : Word}

theorem fltOne_fires (h : Fires s f.pr l i) (ha : One l a) (v : Nat → Nat → Nat × Nat) :
    fltOne f s v = sendsFlags s l [f.t0, f.t1] (fltPair (v f.xop.toNat a.toNat)) := value1_fires h ha _

theorem fltTwo_fires (h : Fires s f.pr l i) (hab : Two l a b) (v : Nat → Nat → Nat → Nat × Nat) :
    fltTwo f s v = sendsFlags s l [f.t0, f.t1] (fltPair (v f.xop.toNat a.toNat b.toNat)) := value2_fires h hab _

end

/-! ### FDIV and FSCALE (R144) -/

/-- The quotient that raises DZ. -/
theorem Ex.div_snd (x y : Ex) : (x.div y).2 = true ↔ (∃ s n d, x = .fin s n d) ∧ ∃ g, y = .zero g := by
  cases x <;> cases y <;> simp [Ex.div]

/-- A finite operand that is not zero over a zero. -/
theorem fltEx_div_snd {xop : BitVec 3} (h : xop.toNat < 3) (a b : Word) : ((fltEx xop a).div (fltEx xop b)).2 =
    (!fltIsNan xop a && fltMag xop a != fltInf xop && fltMag xop a != 0 && fltMag xop b == 0) := by
  rw [Bool.eq_iff_iff, Ex.div_snd, fltEx_eq_fin_iff h, fltEx_eq_zero_iff h]
  simp only [Bool.and_eq_true, Bool.not_eq_true', bne_iff_ne, beq_iff_eq]
  refine and_congr_left' ⟨fun ⟨h0, hlt⟩ => ⟨⟨not_fltIsNan hlt.le, hlt.ne⟩, h0.ne'⟩, fun ⟨⟨hnan, hinf⟩, h0⟩ => ?_⟩
  exact ⟨Nat.pos_of_ne_zero h0, lt_of_le_of_ne (not_lt.1 (of_decide_eq_false hnan)) hinf⟩

/-- FSCALE's exponent: bits [31:0] of its right operand, signed. -/
theorem signedOf_mod (w n : Nat) : signedOf w (n % 2 ^ w) = signedOf w n := by unfold signedOf; rw [Nat.mod_mod]

theorem signedOf_setWidth (b : Word) (w : Nat) : signedOf w b.toNat = (b.setWidth w).toInt := by
  rw [← signedOf_toNat, BitVec.toNat_setWidth, signedOf_mod]

/-- A number scaled by a power of two that the clamp of assumption 73 leaves alone. -/
theorem scaleEx_number {x : Ex} (hx : x.isNumber) {n : Int} (hn : n.natAbs ≤ 400) :
    (scaleEx x n).isNumber ∧ (scaleEx x n).rat = x.rat * (2 : Rat) ^ n := by
  cases x with
  | zero g => exact ⟨trivial, (zero_mul _).symm⟩
  | fin g m d =>
    unfold scaleEx
    dsimp only
    rcases lt_or_ge n 0 with hneg | hpos
    · have hmin : min (-n).toNat 400 = (-n).toNat := min_eq_left (by omega)
      rw [if_neg (not_le.2 hneg), hmin, two_zpow_of_neg hneg, Ex.rat_fin, Ex.rat_fin]
      refine ⟨⟨hx.1, Nat.mul_pos hx.2 (Nat.two_pow_pos _)⟩, ?_⟩
      rw [Nat.cast_mul, mul_one_div, div_div]
    · have hmin : min n.toNat 400 = n.toNat := min_eq_left (by omega)
      rw [if_pos hpos, hmin, two_zpow_of_nonneg hpos, Ex.rat_fin, Ex.rat_fin]
      refine ⟨⟨Nat.mul_pos hx.1 (Nat.two_pow_pos _), hx.2⟩, ?_⟩
      cases g <;> simp only [Bool.false_eq_true, if_true, if_false, Nat.cast_mul] <;> ring
  | _ => cases hx

end Sys2Proof.Machine

namespace Sys2Proof.Proofs

open Sys2Proof Sys2Proof.Machine

/-- Settles O11: each instruction is the rounding with flags of one exact operation. -/
theorem floatArithmeticResults : Obligations.FloatArithmeticResults := by
  unfold Obligations.FloatArithmeticResults
  intro f s l i a b hf hab hx x y gives
  have two (z : Ex) := fltPair_rounded hx [a, b] z
  refine ⟨?_, ?_, ?_, ?_, scaleEx x (b.setWidth 32).toInt, ?_, fun m d neg hfin => ?_, fun hspecial => ?_⟩
  · exact (fltTwo_fires hf hab faddV).trans (congrArg gives (two _))
  · exact (fltTwo_fires hf hab fsubV).trans (congrArg gives (two _))
  · exact (fltTwo_fires hf hab fmulV).trans (congrArg gives (two _))
  · refine (fltTwo_fires hf hab fdivV).trans (congrArg gives ?_)
    rw [← fltEx_div_snd hx, ← two]
    rfl
  · refine (fltTwo_fires hf hab fscaleV).trans (congrArg gives ?_)
    rw [← signedOf_setWidth]
    exact fltPair_rounded hx [a] _
  · intro hlt
    obtain ⟨-, -, -, hn, hd⟩ := fltEx_fin_pos hx hfin
    exact scaleEx_number (show x.isNumber from hfin ▸ ⟨hn, hd⟩) (by omega)
  · rcases hspecial with hnan | ⟨g, hg⟩ | ⟨g, hg⟩
    · rw [(Ex.isNan_iff x).1 hnan]; rfl
    · rw [hg]; rfl
    · rw [hg]; rfl

end Sys2Proof.Proofs
end

section
/-!
PROOFS. The operations behind the special functions and the square root (R115): truncation to 34 significant bits, the root bit by
bit, powers of two, multiples of one half.
-/

namespace Sys2Proof.Machine

/-! ### Truncation (R115) -/

/-- k · 2^e, k positive, as a quotient. -/
theorem scaled_pos (neg : Bool) {k : Nat} (hk : 0 < k) (e : Int) :
    ∃ n d, scaled neg k e = .fin neg n d ∧ 0 < n ∧ 0 < d ∧ (n : Rat) / d = k * (2 : Rat) ^ e := by
  unfold scaled
  rw [if_neg hk.ne']
  rcases lt_or_ge e 0 with he | he
  · refine ⟨k, _, if_neg (not_le.2 he), hk, Nat.two_pow_pos _, ?_⟩
    rw [two_zpow_of_neg he, mul_one_div]
  · refine ⟨_, 1, if_pos he, Nat.mul_pos hk (Nat.two_pow_pos _), Nat.one_pos, ?_⟩
    rw [two_zpow_of_nonneg he, Nat.cast_mul, Nat.cast_one, div_one]

/-- A positive number truncated to 34 significant bits. -/
theorem trunc34_eq (neg inexact : Bool) {n d : Nat} (hn : 0 < n) (hd : 0 < d) :
    ∃ (k : Nat) (g : Int), 2 ^ 33 ≤ k ∧ k < 2 ^ 34 ∧ g = Int.log 2 ((n : Rat) / d) - 33 ∧
      (k : Rat) * (2 : Rat) ^ g ≤ (n : Rat) / d ∧ (n : Rat) / d < ((k : Rat) + 1) * (2 : Rat) ^ g ∧
      trunc34 neg inexact n d = ⟨scaled neg k g, inexact || decide ((k : Rat) * (2 : Rat) ^ g ≠ (n : Rat) / d), 0⟩ := by
  have hx : (0 : Rat) < (n : Rat) / d := by positivity
  set x : Rat := (n : Rat) / d with hxdef
  set g : Int := Int.log 2 x - 33 with hg
  have hpos := two_zpow_pos g
  have hlow : ((2 ^ 33 : Nat) : Rat) ≤ x / (2 : Rat) ^ g := le_div_two_zpow (f := ⟨0, 33, 0, 0⟩) hx
  have hhigh : x / (2 : Rat) ^ g < ((2 ^ 34 : Nat) : Rat) := div_two_zpow_lt (f := ⟨0, 33, 0, 0⟩) le_rfl
  have hround : roundAt 1 0 neg n d g = roundRat 1 0 neg (x / (2 : Rat) ^ g) := roundAt_eq_roundRat 1 0 neg n g hd
  have hk := roundRat_toward_zero 0 neg (x / (2 : Rat) ^ g)
  refine ⟨⌊x / (2 : Rat) ^ g⌋₊, g, Nat.le_floor hlow, (Nat.floor_lt (by positivity)).2 hhigh, rfl, ?_, ?_, ?_⟩
  · exact (le_div_iff₀ hpos).1 (Nat.floor_le (by positivity))
  · exact (div_lt_iff₀ hpos).1 (Nat.lt_floor_add_one _)
  · have hnx : (roundRat 1 0 neg (x / (2 : Rat) ^ g)).2 = decide (((⌊x / (2 : Rat) ^ g⌋₊ : Nat) : Rat) * (2 : Rat) ^ g ≠ x) := by
      rw [Bool.eq_iff_iff, decide_eq_true_iff, ← Bool.not_eq_false, roundRat_snd, hk, eq_div_iff hpos.ne']
    unfold trunc34
    rw [floorLog2_eq_log hn hd]
    dsimp only
    rw [← hxdef, ← hg, hround, hk, hnx]

/-! ### The root (R115, R149) -/

/-- The root bit by bit: between r and r + 2^i it is the integer part of the root. -/
theorem sqrtBits_eq (n : Nat) : ∀ i r : Nat, r * r ≤ n → n < (r + 2 ^ i) * (r + 2 ^ i) →
    sqrtBits n i r * sqrtBits n i r ≤ n ∧ n < (sqrtBits n i r + 1) * (sqrtBits n i r + 1)
  | 0, _, hlow, hhigh => ⟨hlow, hhigh⟩
  | i + 1, r, hlow, hhigh => by
    unfold sqrtBits
    split
    · next h => exact sqrtBits_eq n i _ h (by rw [pow_succ] at hhigh; convert hhigh using 2 <;> ring)
    · next h => exact sqrtBits_eq n i _ hlow (not_le.1 h)

/-- The number whose integer root the model takes: the quotient scaled by 4^s. -/
theorem rootOf_quotient (n d : Nat) (s : Int) : (((if 0 ≤ s then n * 2 ^ (2 * s.toNat) else n : Nat) : Rat) /
    ((if 0 ≤ s then d else d * 2 ^ (2 * (-s).toNat) : Nat) : Rat)) = (n : Rat) / d * (2 : Rat) ^ (2 * s) := by
  split
  · next h =>
    rw [two_zpow_of_nonneg (by omega), show (2 * s).toNat = 2 * s.toNat by omega, Nat.cast_mul, div_mul_eq_mul_div]
  · next h =>
    rw [two_zpow_of_neg (by omega), show (-(2 * s)).toNat = 2 * (-s).toNat by omega, Nat.cast_mul, mul_one_div, div_div]

/-- Scaled so, it has 73 or 74 bits before the point. -/
theorem root_scale_bounds {x : Rat} (hx : 0 < x) : ((2 ^ 36 * 2 ^ 36 : Nat) : Rat) ≤ x * (2 : Rat) ^ (2 * (36 - Int.log 2 x / 2)) ∧
    x * (2 : Rat) ^ (2 * (36 - Int.log 2 x / 2)) < ((2 ^ 37 * 2 ^ 37 : Nat) : Rat) := by
  set L := Int.log 2 x with hL
  have hpos := two_zpow_pos (2 * (36 - L / 2))
  constructor
  · calc ((2 ^ 36 * 2 ^ 36 : Nat) : Rat) = (2 : Rat) ^ (72 : Int) := by norm_num
      _ ≤ (2 : Rat) ^ (L + 2 * (36 - L / 2)) := zpow_le_zpow_right₀ one_le_two (by omega)
      _ = (2 : Rat) ^ L * (2 : Rat) ^ (2 * (36 - L / 2)) := zpow_add₀ two_ne_zero _ _
      _ ≤ _ := mul_le_mul_of_nonneg_right (two_zpow_log_le hx) hpos.le
  · calc x * (2 : Rat) ^ (2 * (36 - L / 2)) < (2 : Rat) ^ (L + 1) * (2 : Rat) ^ (2 * (36 - L / 2)) :=
          mul_lt_mul_of_pos_right (lt_two_zpow_log_succ _) hpos
      _ = (2 : Rat) ^ (L + 1 + 2 * (36 - L / 2)) := (zpow_add₀ two_ne_zero _ _).symm
      _ ≤ (2 : Rat) ^ (74 : Int) := zpow_le_zpow_right₀ one_le_two (by omega)
      _ = ((2 ^ 37 * 2 ^ 37 : Nat) : Rat) := by norm_num

/-- The integer root of such a number has 37 bits. -/
theorem sqrtBits_floor {y : Rat} (h1 : ((2 ^ 36 * 2 ^ 36 : Nat) : Rat) ≤ y) (h2 : y < ((2 ^ 37 * 2 ^ 37 : Nat) : Rat)) :
    let k := sqrtBits ⌊y⌋₊ 40 0
    2 ^ 36 ≤ k ∧ k < 2 ^ 37 ∧ (k : Rat) ^ 2 ≤ y ∧ y < ((k : Rat) + 1) ^ 2 := by
  have hy0 : 0 ≤ y := (Nat.cast_nonneg _).trans h1
  have hlow := Nat.le_floor h1
  have hhigh := (Nat.floor_lt hy0).2 h2
  obtain ⟨hk1, hk2⟩ := sqrtBits_eq ⌊y⌋₊ 40 0 (Nat.zero_le _) (by omega)
  generalize sqrtBits ⌊y⌋₊ 40 0 = k at hk1 hk2
  refine ⟨?_, ?_, ?_, ?_⟩
  · by_contra hlt
    have : (k + 1) * (k + 1) ≤ 2 ^ 36 * 2 ^ 36 := Nat.mul_le_mul (by omega) (by omega)
    omega
  · by_contra hge
    have : 2 ^ 37 * 2 ^ 37 ≤ k * k := Nat.mul_le_mul (by omega) (by omega)
    omega
  · rw [pow_two, ← Nat.cast_mul]
    exact (Nat.le_floor_iff hy0).1 hk1
  · rw [pow_two, ← Nat.cast_succ, ← Nat.cast_mul]
    exact (Nat.floor_lt hy0).1 hk2

/-- The digits of a root: 37 bits, below the root by less than one of the last of them. -/
theorem rootOf_eq {n d : Nat} (hn : 0 < n) (hd : 0 < d) :
    ∃ (k : Nat) (e : Int), 2 ^ 36 ≤ k ∧ k < 2 ^ 37 ∧ e = Int.log 2 ((n : Rat) / d) / 2 - 36 ∧
      ((k : Rat) * (2 : Rat) ^ e) ^ 2 ≤ (n : Rat) / d ∧ (n : Rat) / d < (((k : Rat) + 1) * (2 : Rat) ^ e) ^ 2 ∧
      rootOf n d = (k, e, decide (((k : Rat) * (2 : Rat) ^ e) ^ 2 = (n : Rat) / d)) := by
  have hx : (0 : Rat) < (n : Rat) / d := by positivity
  obtain ⟨h1, h2⟩ := root_scale_bounds hx
  set s : Int := 36 - Int.log 2 ((n : Rat) / d) / 2 with hs
  have hquot := rootOf_quotient n d s
  set n' := if 0 ≤ s then n * 2 ^ (2 * s.toNat) else n with hn'
  set d' := if 0 ≤ s then d else d * 2 ^ (2 * (-s).toNat) with hd'
  have hpos : (d' : Rat) ≠ 0 := Nat.cast_ne_zero.2 (by rw [hd']; split <;> positivity)
  have hscale (a : Rat) : (a * (2 : Rat) ^ (-s)) ^ 2 = a ^ 2 / (2 : Rat) ^ (2 * s) := by
    rw [mul_pow, ← zpow_natCast ((2 : Rat) ^ (-s)), ← zpow_mul, div_eq_mul_inv, ← zpow_neg]
    congr 2
    push_cast
    ring
  rw [← hquot] at h1 h2
  obtain ⟨hk1, hk2, hlow, hhigh⟩ := sqrtBits_floor h1 h2
  rw [Nat.floor_div_eq_div] at hk1 hk2 hlow hhigh
  set k := sqrtBits (n' / d') 40 0 with hk
  have hexact : (k * k * d' == n') = decide (((k : Rat) * (2 : Rat) ^ (-s)) ^ 2 = (n : Rat) / d) := by
    rw [Bool.eq_iff_iff, beq_iff_eq, decide_eq_true_iff, hscale, div_eq_iff (two_zpow_pos _).ne', ← hquot, eq_div_iff hpos, pow_two]
    exact_mod_cast Iff.rfl
  refine ⟨k, -s, hk1, hk2, by omega, ?_, ?_, ?_⟩
  · rw [hscale, div_le_iff₀ (two_zpow_pos _), ← hquot]
    exact hlow
  · rw [hscale, lt_div_iff₀ (two_zpow_pos _), ← hquot]
    exact hhigh
  · unfold rootOf
    rw [floorLog2_eq_log hn hd, ← hexact]

end Sys2Proof.Machine
end

section
/-!
PROOFS. The reciprocal root, truncated to 34 significant bits, and the root, rounded to nearest (R115, R149), both from the 37
digits of the root that the model computes.
-/

namespace Sys2Proof.Machine

/-! ### The reciprocal root -/

/-- A number's value k · 2^e with k of 37 bits has its leading bit at e + 36. -/
theorem log_of_digits {c : Rat} {e : Int} (h1 : 2 ^ 36 ≤ c) (h2 : c < 2 ^ 37) : Int.log 2 (c * (2 : Rat) ^ e) = e + 36 := by
  have hp := two_zpow_pos e
  apply log_eq_of_bounds
  · rw [add_comm, zpow_add₀ two_ne_zero]
    exact mul_le_mul_of_nonneg_right (mod_cast h1) hp.le
  · rw [show e + 36 + 1 = 37 + e by ring, zpow_add₀ two_ne_zero]
    exact mul_lt_mul_of_pos_right (mod_cast h2) hp

/-- The reciprocal root by the digits of the root. The two functions are made variables before the definition is compared with
what it stands for: otherwise the kernel computes the root's forty steps on the way. -/
theorem rsqrtVal_of_root {n d k a b : Nat} {e : Int} {exact : Bool} (hroot : rootOf d n = (k, e, exact))
    (hab : scaled false k e = .fin false a b) : rsqrtVal n d = trunc34 false (!exact) a b := by
  obtain ⟨F, hF⟩ : ∃ F, F = rsqrtVal := ⟨_, rfl⟩
  rw [← hF]
  delta rsqrtVal at hF
  generalize trunc34 = T, rootOf = R at *
  revert T R
  refine id fun T R hroot hF => ?_
  rw [hF]
  simp only [hroot, hab]

theorem sqrtVal_of_root {n d k : Nat} {e : Int} {exact : Bool} (hroot : rootOf n d = (k, e, exact)) :
    sqrtVal n d = if exact then exactly (scaled false k e) else ⟨scaled false (2 * k + 1) (e - 1), true, 0⟩ := by
  unfold sqrtVal
  rw [hroot]

/-- Where r is below a root of 1 / x and t below r, t is that root exactly when r is and t is r. -/
theorem sq_mul_eq_one_iff {t r x : Rat} (ht : 0 ≤ t) (htr : t ≤ r) (hx : 0 < x) (hr : r ^ 2 * x ≤ 1) :
    t ^ 2 * x = 1 ↔ r ^ 2 * x = 1 ∧ t = r := by
  refine ⟨fun h => ?_, fun ⟨h1, h2⟩ => h2 ▸ h1⟩
  have hle : t ^ 2 * x ≤ r ^ 2 * x := mul_le_mul_of_nonneg_right (pow_le_pow_left₀ ht htr 2) hx.le
  have h1 : r ^ 2 * x = 1 := le_antisymm hr (h ▸ hle)
  exact ⟨h1, (pow_left_inj₀ ht (ht.trans htr) two_ne_zero).1 (mul_right_cancel₀ hx.ne' (h.trans h1.symm))⟩

/-- The reciprocal root of a positive number x, truncated to 34 significant bits: three of the 37 digits fall away. -/
theorem rsqrtVal_eq {n d : Nat} (hn : 0 < n) (hd : 0 < d) :
    ∃ (k : Nat) (g : Int), 2 ^ 33 ≤ k ∧ k < 2 ^ 34 ∧ ((k : Rat) * (2 : Rat) ^ g) ^ 2 * ((n : Rat) / d) ≤ 1 ∧
      1 < (((k : Rat) + 1) * (2 : Rat) ^ g) ^ 2 * ((n : Rat) / d) ∧
      rsqrtVal n d = ⟨scaled false k g, decide (((k : Rat) * (2 : Rat) ^ g) ^ 2 * ((n : Rat) / d) ≠ 1), 0⟩ := by
  have hx : (0 : Rat) < (n : Rat) / d := by positivity
  have hinv : (d : Rat) / n = 1 / ((n : Rat) / d) := (one_div_div _ _).symm
  obtain ⟨K, e, hK1, hK2, -, hlow, hhigh, hroot⟩ := rootOf_eq hd hn
  obtain ⟨a, b, hab, ha, hb, habK⟩ := scaled_pos false (Nat.lt_of_lt_of_le (by decide) hK1 : 0 < K) e
  obtain ⟨k, g, hk1, hk2, hg, hklow, hkhigh, htrunc⟩ := trunc34_eq false (!decide (((K : Rat) * (2 : Rat) ^ e) ^ 2 = (d : Rat) / n)) ha hb
  rw [habK] at hg hklow hkhigh htrunc
  rw [hinv, le_div_iff₀ hx] at hlow
  rw [hinv, div_lt_iff₀ hx] at hhigh
  have hpos := two_zpow_pos e
  have hstep : (2 : Rat) ^ g = 8 * (2 : Rat) ^ e := by
    rw [hg, log_of_digits (mod_cast hK1) (mod_cast hK2), show e + 36 - 33 = 3 + e by ring, zpow_add₀ two_ne_zero]
    norm_num
  have hnext : ((K : Rat) + 1) * (2 : Rat) ^ e ≤ ((k : Rat) + 1) * (2 : Rat) ^ g := by
    rw [hstep, ← mul_assoc] at hkhigh ⊢
    have hlt : (K : Rat) < ((k : Rat) + 1) * 8 := lt_of_mul_lt_mul_right hkhigh hpos.le
    have hle : K + 1 ≤ (k + 1) * 8 := by exact_mod_cast hlt
    exact mul_le_mul_of_nonneg_right (mod_cast hle) hpos.le
  have hmono {t r : Rat} (ht : 0 ≤ t) (htr : t ≤ r) : t ^ 2 * ((n : Rat) / d) ≤ r ^ 2 * ((n : Rat) / d) :=
    mul_le_mul_of_nonneg_right (pow_le_pow_left₀ ht htr 2) hx.le
  refine ⟨k, g, hk1, hk2, (hmono (by positivity) hklow).trans hlow, hhigh.trans_le (hmono (by positivity) hnext), ?_⟩
  have hinexact : (!decide (((K : Rat) * (2 : Rat) ^ e) ^ 2 = (d : Rat) / n) || decide ((k : Rat) * (2 : Rat) ^ g ≠ K * (2 : Rat) ^ e)) =
      decide (((k : Rat) * (2 : Rat) ^ g) ^ 2 * ((n : Rat) / d) ≠ 1) := by
    rw [← decide_not, ← Bool.decide_or, decide_eq_decide, ← not_and_or, not_iff_not, hinv, eq_div_iff hx.ne']
    exact (sq_mul_eq_one_iff (by positivity) hklow hx hlow).symm
  rw [rsqrtVal_of_root hroot hab, htrunc, hinexact]

/-! ### The root -/

/-- What a root's digits give when rounded to a format of at most 24 significant bits in its normal range: a multiple of the
last digit, apart from the digits by at most the half step, which is one too. -/
theorem root_rounded {f : FloatFmt} {k : Nat} {e : Int} {c : Rat} (hm : f.m ≤ 23) (hk1 : 2 ^ 36 ≤ k) (hk2 : k < 2 ^ 37)
    (hc1 : (k : Rat) ≤ c) (hc2 : c < k + 1) (he : f.emin ≤ e + 36) :
    ∃ J : Nat, roundValue f 0 0 false (c * (2 : Rat) ^ e) = J * (2 : Rat) ^ e ∧ 2 ^ 36 ≤ J ∧
      J ≤ k + 2 ^ (35 - f.m) ∧ c ≤ ((J + 2 ^ (35 - f.m) : Nat) : Rat) ∧
      ((roundSteps f 0 0 false (c * (2 : Rat) ^ e)).2 = false ↔ (J : Rat) = c) ∧
      isTiny f 0 0 false (c * (2 : Rat) ^ e) = false := by
  have hk1' : (2 : Rat) ^ 36 ≤ k := mod_cast hk1
  have hk2' : (k : Rat) + 1 ≤ 2 ^ 37 := mod_cast hk2
  have hlog : Int.log 2 (c * (2 : Rat) ^ e) = e + 36 := log_of_digits (hk1'.trans hc1) (hc2.trans_le hk2')
  have hpos := two_zpow_pos e
  have hc : (0 : Rat) < c := by linarith
  have hz : 0 < c * (2 : Rat) ^ e := by positivity
  have hnormal : f.emin ≤ Int.log 2 (c * (2 : Rat) ^ e) := hlog ▸ he
  have hstep : (2 : Rat) ^ stepExp f (c * (2 : Rat) ^ e) = ((2 * 2 ^ (35 - f.m) : Nat) : Rat) * (2 : Rat) ^ e := by
    rw [stepExp_of_normal hnormal, hlog, ← pow_succ', Nat.cast_pow, Nat.cast_ofNat, ← zpow_natCast, ← zpow_add₀ two_ne_zero]
    congr 1
    omega
  set H := 2 ^ (35 - f.m) with hH
  set K := (roundSteps f 0 0 false (c * (2 : Rat) ^ e)).1 with hK
  have hHpos : (0 : Rat) < ((2 * H : Nat) : Rat) := by positivity
  have hquot : c * (2 : Rat) ^ e / (2 : Rat) ^ stepExp f (c * (2 : Rat) ^ e) = c / ((2 * H : Nat) : Rat) := by
    rw [hstep, mul_div_mul_right _ _ hpos.ne']
  have hnear : |(K : Rat) - c / ((2 * H : Nat) : Rat)| ≤ 1 / 2 := by
    rw [← hquot]
    exact roundRat_nearest (by positivity)
  have hdist : |((K * (2 * H) : Nat) : Rat) - c| ≤ (H : Nat) := by
    have := mul_le_mul_of_nonneg_right hnear hHpos.le
    rw [← abs_of_pos hHpos, ← abs_mul, abs_of_pos hHpos, sub_mul, div_mul_cancel₀ _ hHpos.ne'] at this
    push_cast at this ⊢
    linarith
  obtain ⟨hd1, hd2⟩ := abs_le.1 hdist
  refine ⟨K * (2 * H), ?_, ?_, ?_, by rw [Nat.cast_add]; linarith, ?_, ?_⟩
  · rw [roundValue, hstep]
    push_cast
    ring
  · have hKlow : 2 ^ f.m ≤ K := le_roundSteps hz hnormal
    calc 2 ^ 36 = 2 ^ f.m * (2 * H) := by rw [hH, ← pow_succ', ← pow_add]; congr 1; omega
      _ ≤ K * (2 * H) := Nat.mul_le_mul_right _ hKlow
  · have hlt : ((K * (2 * H) : Nat) : Rat) < ((k + 1 + H : Nat) : Rat) := by push_cast at hd2 ⊢; linarith
    have hlt' : K * (2 * H) < k + 1 + H := Nat.cast_lt.1 hlt
    omega
  · rw [roundSteps, roundRat_snd, ← roundSteps, hquot, eq_div_iff hHpos.ne', ← hK, Nat.cast_mul K]
  · rw [← Bool.not_eq_true, isTiny_iff hz]
    exact fun h => absurd h.1 (not_lt.2 hnormal)

/-- A root that is a multiple of the last digit's weight is the number of the digits. -/
theorem root_digits_unique {J k : Nat} {e : Int} {x : Rat} (hlow : ((k : Rat) * (2 : Rat) ^ e) ^ 2 ≤ x)
    (hhigh : x < (((k : Rat) + 1) * (2 : Rat) ^ e) ^ 2) (hJ : ((J : Rat) * (2 : Rat) ^ e) ^ 2 = x) : J = k := by
  have hpos := two_zpow_pos e
  rw [← hJ] at hlow hhigh
  have h1 : (k : Rat) ≤ J := le_of_mul_le_mul_right ((pow_le_pow_iff_left₀ (by positivity) (by positivity) two_ne_zero).1 hlow) hpos
  have h2 : (J : Rat) < ((k + 1 : Nat) : Rat) := by
    push_cast
    exact lt_of_mul_lt_mul_right ((pow_lt_pow_iff_left₀ (by positivity) (by positivity) two_ne_zero).1 hhigh) hpos.le
  have h1' := Nat.cast_le.1 h1
  have h2' := Nat.cast_lt.1 h2
  omega

/-- The root of x lies no higher than any multiple of the last digit's weight that the digits, or the digits and a half, lie
below. -/
theorem root_le_of_digits_le {k M : Nat} {e : Int} {c x : Rat} (hhigh : x < (((k : Rat) + 1) * (2 : Rat) ^ e) ^ 2)
    (hc : c = if ((k : Rat) * (2 : Rat) ^ e) ^ 2 = x then (k : Rat) else k + 1 / 2) (hM : c ≤ (M : Rat)) :
    x ≤ ((M : Rat) * (2 : Rat) ^ e) ^ 2 := by
  have hpos := two_zpow_pos e
  split at hc
  · next hx =>
    rw [← hx]
    exact pow_le_pow_left₀ (by positivity) (mul_le_mul_of_nonneg_right (hc ▸ hM) hpos.le) 2
  · have hlt : (k : Rat) < M := by linarith
    have hle : ((k : Rat) + 1) ≤ M := by exact_mod_cast Nat.cast_lt.1 hlt
    exact hhigh.le.trans (pow_le_pow_left₀ (by positivity) (mul_le_mul_of_nonneg_right hle hpos.le) 2)

/-- The rounded root lies within half a unit in the last place of the root of x, and is exact when its square is x. -/
theorem root_rounded_bounds {f : FloatFmt} {k : Nat} {e : Int} {c x : Rat} (hm : f.m ≤ 23) (hk1 : 2 ^ 36 ≤ k) (hk2 : k < 2 ^ 37)
    (he : f.emin ≤ e + 36) (hlow : ((k : Rat) * (2 : Rat) ^ e) ^ 2 ≤ x) (hhigh : x < (((k : Rat) + 1) * (2 : Rat) ^ e) ^ 2)
    (hc : c = if ((k : Rat) * (2 : Rat) ^ e) ^ 2 = x then (k : Rat) else k + 1 / 2) :
    let y := roundValue f 0 0 false (c * (2 : Rat) ^ e)
    0 < y ∧ (((roundSteps f 0 0 false (c * (2 : Rat) ^ e)).2 || !decide (((k : Rat) * (2 : Rat) ^ e) ^ 2 = x)) = false ↔ y ^ 2 = x) ∧
      ∀ g : Int, (2 : Rat) ^ g ≤ y → y < (2 : Rat) ^ (g + 1) →
        (y - (2 : Rat) ^ (g - f.m - 1)) ^ 2 ≤ x ∧ x ≤ (y + (2 : Rat) ^ (g - f.m - 1)) ^ 2 := by
  have hpos := two_zpow_pos e
  have hc1 : (k : Rat) ≤ c := by rw [hc]; split <;> linarith
  have hc2 : c < k + 1 := by rw [hc]; split <;> linarith
  obtain ⟨J, hy, hJ36, hJk, hcJ, hexact, -⟩ := root_rounded hm hk1 hk2 hc1 hc2 he
  rw [hy]
  refine ⟨?_, ?_, fun g hg1 hg2 => ?_⟩
  · have hJ : (0 : Rat) < J := Nat.cast_pos.2 (Nat.lt_of_lt_of_le (Nat.two_pow_pos 36) hJ36)
    positivity
  · have hiff : ((J : Rat) * (2 : Rat) ^ e) ^ 2 = x ↔ J = k ∧ ((k : Rat) * (2 : Rat) ^ e) ^ 2 = x :=
      ⟨fun h => have hJ := root_digits_unique hlow hhigh h; ⟨hJ, hJ ▸ h⟩, fun ⟨hJ, h⟩ => hJ ▸ h⟩
    rw [hiff, Bool.or_eq_false_iff, hexact, Bool.not_eq_false', decide_eq_true_iff]
    refine and_congr_left fun hx => ?_
    rw [hc, if_pos hx, Nat.cast_inj]
  · have hge : e + 36 ≤ g := by
      have h36 : (2 : Rat) ^ (36 : Int) ≤ J := mod_cast hJ36
      have hlt : (2 : Rat) ^ (36 + e) < (2 : Rat) ^ (g + 1) := by
        rw [zpow_add₀ two_ne_zero]
        exact (mul_le_mul_of_nonneg_right h36 hpos.le).trans_lt hg2
      have := (zpow_lt_zpow_iff_right₀ one_lt_two).1 hlt
      omega
    have hhalf : ((2 ^ (35 - f.m) : Nat) : Rat) * (2 : Rat) ^ e ≤ (2 : Rat) ^ (g - f.m - 1) := by
      rw [Nat.cast_pow, Nat.cast_ofNat, ← zpow_natCast, ← zpow_add₀ two_ne_zero]
      exact zpow_le_zpow_right₀ one_le_two (by omega)
    have hbelow : (2 : Rat) ^ (g - f.m - 1) ≤ (J : Rat) * (2 : Rat) ^ e := (zpow_le_zpow_right₀ one_le_two (by omega)).trans hg1
    constructor
    · have hJk' : (J : Rat) * (2 : Rat) ^ e ≤ (k + ((2 ^ (35 - f.m) : Nat) : Rat)) * (2 : Rat) ^ e :=
        mul_le_mul_of_nonneg_right (mod_cast hJk) hpos.le
      exact (pow_le_pow_left₀ (by linarith) (by linarith) 2).trans hlow
    · refine (root_le_of_digits_le hhigh hc hcJ).trans (pow_le_pow_left₀ (by positivity) ?_ 2)
      rw [Nat.cast_add, add_mul]
      linarith

end Sys2Proof.Machine
end

section
/-!
PROOFS. Operands at which the special functions have rational values (R115, R116), and what lies beyond a format's range or below
it.
-/

namespace Sys2Proof.Machine

/-! ### EX2 of integers, LG2 of powers of two -/

theorem exp2Val_int (neg : Bool) {n d j : Nat} (hd : 0 < d) (h : n = d * j) : exp2Val neg n d =
    if 1024 ≤ j then ⟨scaled false 1 (if neg then -1024 else 1024), true, 0⟩
    else exactly (scaled false 1 (if neg then -(j : Int) else j)) := by
  have hle : 1024 * d ≤ n ↔ 1024 ≤ j := by rw [h, Nat.mul_comm]; exact Nat.mul_le_mul_left_iff hd
  have hfix : n * 2 ^ fixBits / d = j * 2 ^ fixBits := by rw [h, Nat.mul_assoc, Nat.mul_div_cancel_left _ hd]
  have hx : (if neg then -1 else 1 : Int) * ((n * 2 ^ fixBits / d : Nat) : Int) =
      (if neg then -(j : Int) else j) * ((2 ^ fixBits : Nat) : Int) := by
    rw [hfix]
    cases neg <;> simp
  have hpos : ((2 ^ fixBits : Nat) : Int) ≠ 0 := by positivity
  unfold exp2Val
  simp only [hle]
  split
  · rfl
  · rw [hx, Int.mul_ediv_cancel _ hpos, Int.mul_emod_left]
    rfl

theorem log2Val_pow {n d : Nat} {z : Int} (hn : 0 < n) (hd : 0 < d) (h : (n : Rat) / d = (2 : Rat) ^ z) :
    log2Val n d = exactly (intEx z) := by
  have hd' : (d : Rat) ≠ 0 := by positivity
  have hlog : floorLog2 n d = z := by
    rw [floorLog2_eq_log hn hd, h]
    exact log_eq_of_bounds le_rfl (zpow_lt_zpow_right₀ one_lt_two (lt_add_one z))
  have heq : (if 0 ≤ z then n else n * 2 ^ (-z).toNat) = (if 0 ≤ z then d * 2 ^ z.toNat else d) := by
    rw [div_eq_iff hd'] at h
    split
    · next hz =>
      rw [two_zpow_of_nonneg hz, mul_comm] at h
      exact_mod_cast h
    · next hz =>
      rw [two_zpow_of_neg (not_le.1 hz), div_mul_eq_mul_div, one_mul, eq_div_iff (by positivity)] at h
      exact_mod_cast h
  unfold log2Val
  simp only [hlog]
  rw [if_pos heq]

/-! ### SINP and COSP of multiples of one half -/

theorem mod_two_mul {n d j : Nat} (h : n = d * j) : n % (2 * d) = d * (j % 2) := by
  rw [h, Nat.mul_comm 2, Nat.mul_mod_mul_left]

theorem sinpVal_int (neg : Bool) {n d j : Nat} (h : n = d * j) : sinpVal neg n d = exactly (.zero neg) := by
  unfold sinpVal
  dsimp only
  rw [mod_two_mul h, Nat.mul_mod_right, if_pos rfl]

section
variable {n d j : Nat} (neg : Bool) (hd : 0 < d)
include hd

theorem cospVal_int (h : n = d * j) : cospVal n d = exactly (.fin (j % 2 == 1) 1 1) := by
  have hodd : decide (d ≤ d * (j % 2)) = (j % 2 == 1) := by
    rcases Nat.mod_two_eq_zero_or_one j with hj | hj <;> rw [hj]
    · rw [Nat.mul_zero, decide_eq_false (not_le.2 hd)]; rfl
    · rw [Nat.mul_one, decide_eq_true le_rfl]; rfl
  unfold cospVal
  dsimp only
  rw [mod_two_mul h, Nat.mul_mod_right, if_pos rfl, hodd]

/-- An odd multiple of d / 2, modulo 2 d and modulo d. -/
theorem half_mod (h : 2 * n = d * (2 * j + 1)) : 2 * (n % (2 * d) % d) = d ∧ n % (2 * d) % d ≠ 0 ∧
    decide (d ≤ n % (2 * d)) = (j % 2 == 1) := by
  obtain ⟨m, rfl⟩ : 2 ∣ d := by
    have heven : 2 ∣ d * (2 * j + 1) := ⟨n, h.symm⟩
    exact (Nat.prime_two.dvd_mul.1 heven).resolve_right (by omega)
  have hn : n = m * (2 * j + 1) := by
    rw [Nat.mul_assoc] at h
    exact Nat.eq_of_mul_eq_mul_left two_pos h
  have hm : 0 < m := by omega
  rcases Nat.even_or_odd' j with ⟨q, rfl | rfl⟩
  · have hr : n % (2 * (2 * m)) = m := by
      rw [hn, show m * (2 * (2 * q) + 1) = m + 2 * (2 * m) * q by ring, Nat.add_mul_mod_self_left]
      exact Nat.mod_eq_of_lt (by omega)
    have hg : m % (2 * m) = m := Nat.mod_eq_of_lt (by omega)
    rw [hr, hg, Nat.mul_mod_right, decide_eq_false (by omega)]
    exact ⟨rfl, hm.ne', rfl⟩
  · have hr : n % (2 * (2 * m)) = 3 * m := by
      rw [hn, show m * (2 * (2 * q + 1) + 1) = 3 * m + 2 * (2 * m) * q by ring, Nat.add_mul_mod_self_left]
      exact Nat.mod_eq_of_lt (by omega)
    have hg : 3 * m % (2 * m) = m := by
      rw [show 3 * m = m + 2 * m by ring, Nat.add_mod_right]
      exact Nat.mod_eq_of_lt (by omega)
    rw [hr, hg, Nat.mul_add_mod, decide_eq_true (by omega)]
    exact ⟨rfl, hm.ne', rfl⟩

theorem sinpVal_half (h : 2 * n = d * (2 * j + 1)) : sinpVal neg n d = exactly (.fin (neg != (j % 2 == 1)) 1 1) := by
  obtain ⟨hg, h0, hodd⟩ := half_mod hd h
  unfold sinpVal
  dsimp only
  rw [if_neg h0, if_pos hg, hodd]

theorem cospVal_half (h : 2 * n = d * (2 * j + 1)) : cospVal n d = exactly (.zero false) := by
  obtain ⟨hg, h0, -⟩ := half_mod hd h
  unfold cospVal
  dsimp only
  rw [if_neg h0, if_pos hg]

end

/-! ### Results beyond a format's range and below it -/

/-- A magnitude below E · 2^m lies below the binade of E. -/
theorem magValue_lt {f : FloatFmt} {E mag : Nat} (hE : 0 < E) (h : mag < E * 2 ^ f.m) :
    magValue f mag < (2 : Rat) ^ ((E : Int) - f.bias) := by
  have hbin := magValue_binade (f := f) hE (Nat.zero_le _)
  rw [add_zero, Nat.cast_zero, add_zero, ← zpow_natCast, ← zpow_add₀ two_ne_zero, add_sub_cancel] at hbin
  exact hbin ▸ magValue_strictMono f h

/-- The values of every format lie below 2^128. -/
theorem magValue_max_lt (t : Nat) : magValue (floatFmt t) (floatFmt t).max < (2 : Rat) ^ (128 : Int) := by
  have hmono {z : Int} (hz : z ≤ 128) : (2 : Rat) ^ z ≤ (2 : Rat) ^ (128 : Int) := zpow_le_zpow_right₀ one_le_two hz
  rcases floatFmt_cases t with h | h | h | h | h | h <;> rw [h]
  · exact (magValue_lt (E := 255) (by decide) (by decide)).trans_le (hmono (by decide))
  · exact (magValue_lt (E := 31) (by decide) (by decide)).trans_le (hmono (by decide))
  · exact (magValue_lt (E := 255) (by decide) (by decide)).trans_le (hmono (by decide))
  · exact (magValue_lt (E := 16) (by decide) (by decide)).trans_le (hmono (by decide))
  · exact (magValue_lt (E := 31) (by decide) (by decide)).trans_le (hmono (by decide))
  · exact (magValue_lt (E := 4) (by decide) (by decide)).trans_le (hmono (by decide))

section
variable {f : FloatFmt} {mode u : Nat} {neg : Bool} {x : Rat}

/-- In the normal range a rounded number stays in its binade, the upper end included. -/
theorem two_zpow_log_le_roundValue (hx : 0 < x) (h : f.emin ≤ Int.log 2 x) :
    (2 : Rat) ^ Int.log 2 x ≤ roundValue f mode u neg x := by
  have hk : ((2 ^ f.m : Nat) : Rat) ≤ ((roundSteps f mode u neg x).1 : Rat) := Nat.cast_le.2 (le_roundSteps hx h)
  calc (2 : Rat) ^ Int.log 2 x = ((2 ^ f.m : Nat) : Rat) * (2 : Rat) ^ stepExp f x := by
        rw [stepExp_of_normal h, Nat.cast_pow, Nat.cast_ofNat, ← zpow_natCast, ← zpow_add₀ two_ne_zero, add_sub_cancel]
    _ ≤ roundValue f mode u neg x := mul_le_mul_of_nonneg_right hk (two_zpow_pos _).le

theorem roundValue_le_two_zpow (hx : 0 < x) (h : f.emin ≤ Int.log 2 x) :
    roundValue f mode u neg x ≤ (2 : Rat) ^ (Int.log 2 x + 1) := by
  have hk : ((roundSteps f mode u neg x).1 : Rat) ≤ ((2 ^ (f.m + 1) : Nat) : Rat) := Nat.cast_le.2 (roundSteps_le hx)
  calc roundValue f mode u neg x ≤ ((2 ^ (f.m + 1) : Nat) : Rat) * (2 : Rat) ^ stepExp f x :=
        mul_le_mul_of_nonneg_right hk (two_zpow_pos _).le
    _ = (2 : Rat) ^ (Int.log 2 x + 1) := by
        rw [stepExp_of_normal h, Nat.cast_pow, Nat.cast_ofNat, ← zpow_natCast, ← zpow_add₀ two_ne_zero]
        congr 1
        push_cast
        ring

/-- A number below half the smallest step rounds to zero to the nearest. -/
theorem roundSteps_of_small (hx : 0 < x) (h : Int.log 2 x + 1 < f.emin - f.m) : roundSteps f 0 u neg x = (0, true) := by
  have hp := two_zpow_pos (f.emin - f.m)
  have hstep : stepExp f x = f.emin - f.m := stepExp_of_subnormal (by omega)
  have hlt : x / (2 : Rat) ^ (f.emin - f.m) < 1 / 2 := by
    rw [div_lt_div_iff₀ hp two_pos, one_mul]
    calc x * 2 < (2 : Rat) ^ (Int.log 2 x + 1) * 2 := mul_lt_mul_of_pos_right (lt_two_zpow_log_succ x) two_pos
      _ = (2 : Rat) ^ (Int.log 2 x + 1 + 1) := (zpow_add_one₀ two_ne_zero _).symm
      _ ≤ (2 : Rat) ^ (f.emin - f.m) := zpow_le_zpow_right₀ one_le_two (by omega)
  have hpos : 0 < x / (2 : Rat) ^ (f.emin - f.m) := by positivity
  have hfloor : ⌊x / (2 : Rat) ^ (f.emin - f.m)⌋₊ = 0 := Nat.floor_eq_zero.2 (hlt.trans (by norm_num))
  unfold roundSteps
  rw [hstep, roundRat_choice 0 u neg (by rw [hfloor, Nat.cast_zero]; exact hpos.ne'), hfloor, Nat.cast_zero, sub_zero,
    (roundsUp_nearest_even).1 hlt]
  rfl

end

end Sys2Proof.Machine
end

section
/-!
PROOFS. The special functions and FSQRT (R115, R149).
-/

namespace Sys2Proof.Machine

/-! ### What a function's value gives -/

/-- The instruction of a function. -/
def fnInstr : Fn → FmtG → Instr
  | .ex2 => .ex2 | .lg2 => .lg2 | .sinp => .sinp | .cosp => .cosp | .tanh => .tanh | .frcp => .frcp | .frsq => .frsq
  | .fsqrt => .fsqrt

/-- The encoding and the flags that a function's value gives, for an operand that is no NaN. -/
def fnGives (xop : BitVec 3) (v : FnVal) : Nat × Nat :=
  let r := roundFloat (8 + xop.toNat) 0 0 false v.ex v.inexact
  (r.1, r.2 ||| v.flags)

/-- A magnitude with a sign, and the magnitude of 1. -/
def fltSigned (xop : BitVec 3) (g : Bool) (v : Nat) : Nat := if g then 2 ^ (fltWidth xop - 1) + v else v
def fltOneMag (xop : BitVec 3) : Nat := fltInf xop / 2 / fltNormal xop * fltNormal xop

/-- A value without flags of its own gives its rounding. -/
theorem fnGives_eq_roundFloat (xop : BitVec 3) (x : Ex) (inexact : Bool) :
    fnGives xop ⟨x, inexact, 0⟩ = roundFloat (8 + xop.toNat) 0 0 false x inexact := by
  unfold fnGives
  simp only [Nat.or_zero]

section
variable {xop : BitVec 3} (h : xop.toNat < 3)
include h

theorem withSign_flt (g : Bool) (v : Nat) : withSign (8 + xop.toNat) g v = fltSigned xop g v := by
  rw [withSign_of_ne (by omega), signBit, ← fltFmt, fltFmt_bits h]
  cases g
  · exact Nat.zero_add v
  · rfl

theorem fnGives_zero (g : Bool) : fnGives xop (exactly (.zero g)) = (fltSigned xop g 0, 0) := by
  rw [← withSign_flt h, exactly, fnGives_eq_roundFloat]
  rfl

theorem fnGives_inf (g : Bool) (fl : Nat) : fnGives xop ⟨.inf g, false, fl⟩ = (fltSigned xop g (fltInf xop), fl) := by
  have hD : ¬ 8 + xop.toNat = 0xD := by omega
  have hB : ¬ 8 + xop.toNat = 0xB := by omega
  unfold fnGives roundFloat
  dsimp only
  rw [if_neg hD, if_neg Bool.false_ne_true, if_neg hB, withSign_flt h, ← fltFmt, fltFmt_max h, Nat.zero_or]

theorem fnGives_invalid : fnGives xop invalidNan = (fltNan xop, 1) := by
  rcases fltXop_cases h with rfl | rfl | rfl <;> rfl

theorem fnGives_one (g : Bool) : fnGives xop (exactly (.fin g 1 1)) = (fltSigned xop g (fltOneMag xop), 0) := by
  rcases fltXop_cases h with rfl | rfl | rfl <;> cases g <;> rfl

theorem fnGives_nan : fnGives xop ⟨.nan, false, 0⟩ = (fltNan xop, 0) := by
  rcases fltXop_cases h with rfl | rfl | rfl <;> rfl

end

section
variable {f : FmtG} {s : State} {l : Lane} {i : Inst} {a : Word} (hf : Fires s f.pr l i) (ha : One l a) (hx : f.xop.toNat < 3)
include hf ha hx

/-- A function of an operand, whatever it is. -/
theorem fn_fires (fn : Fn) : exec (fnInstr fn f) s =
    sendsFlags s l [f.t0, f.t1] (BitVec.ofNat 64 (fnGives f.xop (fnVal fn (fltEx f.xop a))).1,
      (fnGives f.xop (fnVal fn (fltEx f.xop a))).2 ||| if fltIsSnan f.xop a then 1 else 0) := by
  have hval : fltPair (functionV fn f.xop.toNat a.toNat) = (BitVec.ofNat 64 (fnGives f.xop (fnVal fn (fltEx f.xop a))).1,
      (fnGives f.xop (fnVal fn (fltEx f.xop a))).2 ||| if fltIsSnan f.xop a then 1 else 0) := by
    rw [← floatValue_snan hx]
    rfl
  rw [← hval]
  cases fn with
  | ex2 => exact fltOne_fires hf ha ex2V
  | lg2 => exact fltOne_fires hf ha lg2V
  | sinp => exact fltOne_fires hf ha sinpV
  | cosp => exact fltOne_fires hf ha cospV
  | tanh => exact fltOne_fires hf ha tanhV
  | frcp => exact fltOne_fires hf ha frcpV
  | frsq => exact fltOne_fires hf ha frsqV
  | fsqrt => exact fltOne_fires hf ha fsqrtV

/-- A function of an operand that is no NaN. -/
theorem fn_fires_value (fn : Fn) (hle : fltMag f.xop a ≤ fltInf f.xop) {x : Ex} (hval : fltEx f.xop a = x) : exec (fnInstr fn f) s =
    sendsFlags s l [f.t0, f.t1] (BitVec.ofNat 64 (fnGives f.xop (fnVal fn x)).1, (fnGives f.xop (fnVal fn x)).2) := by
  rw [fn_fires hf ha hx, hval, not_fltIsSnan hle, if_neg Bool.false_ne_true, Nat.or_zero]

/-- A function's row in the table of R149. -/
theorem fn_table (fn : Fn) {minusInf plusInf zero : Nat × Nat} (h1 : fnGives f.xop (fnVal fn (.inf true)) = minusInf)
    (h2 : fnGives f.xop (fnVal fn (.inf false)) = plusInf) (h3 : ∀ g, fltNeg f.xop a = g → fnGives f.xop (fnVal fn (.zero g)) = zero) :
    let gives := fun (v fl : Nat) => sendsFlags s l [f.t0, f.t1] (BitVec.ofNat 64 v, fl)
    (fltIsNan f.xop a → exec (fnInstr fn f) s = gives (fltNan f.xop) (if fltIsSnan f.xop a then 1 else 0)) ∧
    (fltMag f.xop a = fltInf f.xop ∧ fltNeg f.xop a = true → exec (fnInstr fn f) s = gives minusInf.1 minusInf.2) ∧
    (fltMag f.xop a = fltInf f.xop ∧ fltNeg f.xop a = false → exec (fnInstr fn f) s = gives plusInf.1 plusInf.2) ∧
    (fltMag f.xop a = 0 → exec (fnInstr fn f) s = gives zero.1 zero.2) := by
  intro gives
  refine ⟨fun hnan => ?_, fun ⟨hinf, hneg⟩ => ?_, fun ⟨hinf, hneg⟩ => ?_, fun h0 => ?_⟩
  · have hval : fnVal fn .nan = ⟨.nan, false, 0⟩ := by cases fn <;> rfl
    rw [fn_fires hf ha hx, fltEx_nan hx hnan, hval, fnGives_nan hx, Nat.zero_or]
  · rw [fn_fires_value hf ha hx fn hinf.le (fltEx_inf hx hinf), hneg, h1]
  · rw [fn_fires_value hf ha hx fn hinf.le (fltEx_inf hx hinf), hneg, h2]
  · rw [fn_fires_value hf ha hx fn (h0 ▸ Nat.zero_le _) (fltEx_zero hx h0), h3 _ rfl]

end

end Sys2Proof.Machine
end

section
/-!
PROOFS. The special functions and FSQRT on ordinary operands (R115, R149): what their last rounding starts from.
-/

namespace Sys2Proof.Machine

/-! ### Reciprocals, roots, logarithms, powers of ordinary operands -/

section
variable (xop : BitVec 3) {n d : Nat} (hn : 0 < n) (hd : 0 < d)
include hn hd

/-- FRCP rounds the 34-bit truncation of the reciprocal. -/
theorem fnGives_frcp (s : Bool) : ∃ (k n' d' : Nat) (g : Int), 2 ^ 33 ≤ k ∧ k < 2 ^ 34 ∧ 0 < d' ∧
    (n' : Rat) / d' = k * (2 : Rat) ^ g ∧ (k : Rat) * (2 : Rat) ^ g ≤ (d : Rat) / n ∧
    (d : Rat) / n < ((k : Rat) + 1) * (2 : Rat) ^ g ∧ fnGives xop (fnVal .frcp (.fin s n d)) =
      roundFloat (8 + xop.toNat) 0 0 false (.fin s n' d') (decide ((k : Rat) * (2 : Rat) ^ g ≠ (d : Rat) / n)) := by
  obtain ⟨k, g, hk1, hk2, -, hlow, hhigh, htrunc⟩ := trunc34_eq s false hd hn
  obtain ⟨n', d', hfin, -, hd', hval⟩ := scaled_pos s (Nat.lt_of_lt_of_le (Nat.two_pow_pos 33) hk1) g
  refine ⟨k, n', d', g, hk1, hk2, hd', hval, hlow, hhigh, ?_⟩
  rw [show fnVal .frcp (.fin s n d) = trunc34 s false d n from rfl, htrunc, hfin, Bool.false_or, fnGives_eq_roundFloat]

/-- FRSQ rounds the 34-bit truncation of the reciprocal root. -/
theorem fnGives_frsq : ∃ (k n' d' : Nat) (g : Int), 2 ^ 33 ≤ k ∧ k < 2 ^ 34 ∧ 0 < d' ∧
    (n' : Rat) / d' = k * (2 : Rat) ^ g ∧ ((k : Rat) * (2 : Rat) ^ g) ^ 2 * ((n : Rat) / d) ≤ 1 ∧
    1 < (((k : Rat) + 1) * (2 : Rat) ^ g) ^ 2 * ((n : Rat) / d) ∧ fnGives xop (fnVal .frsq (.fin false n d)) =
      roundFloat (8 + xop.toNat) 0 0 false (.fin false n' d')
        (decide (((k : Rat) * (2 : Rat) ^ g) ^ 2 * ((n : Rat) / d) ≠ 1)) := by
  obtain ⟨k, g, hk1, hk2, hlow, hhigh, hroot⟩ := rsqrtVal_eq hn hd
  obtain ⟨n', d', hfin, -, hd', hval⟩ := scaled_pos false (Nat.lt_of_lt_of_le (Nat.two_pow_pos 33) hk1) g
  refine ⟨k, n', d', g, hk1, hk2, hd', hval, hlow, hhigh, ?_⟩
  rw [show fnVal .frsq (.fin false n d) = rsqrtVal n d from rfl, hroot, hfin, fnGives_eq_roundFloat]

/-- LG2 of 2^z rounds z. -/
theorem fnGives_lg2 {z : Int} (h : (n : Rat) / d = (2 : Rat) ^ z) : fnGives xop (fnVal .lg2 (.fin false n d)) =
    if z = 0 then fnGives xop (exactly (.zero false)) else roundFloat (8 + xop.toNat) 0 0 false (.fin (z < 0) z.natAbs 1) := by
  rw [show fnVal .lg2 (.fin false n d) = log2Val n d from rfl, log2Val_pow hn hd h, intEx]
  split
  · rfl
  · rw [exactly, fnGives_eq_roundFloat]

end

/-- A quotient that is an integer. -/
theorem eq_mul_of_div_eq {n d j : Nat} (hd : 0 < d) (h : (n : Rat) / d = j) : n = d * j := by
  rw [div_eq_iff (Nat.cast_ne_zero.2 hd.ne'), mul_comm] at h
  exact_mod_cast h

/-- The root of a positive number: its digits, with a half of the last one where they are not exact. -/
theorem sqrtVal_eq {n d : Nat} (hn : 0 < n) (hd : 0 < d) : ∃ (k a b : Nat) (e : Int) (c : Rat), 2 ^ 36 ≤ k ∧ k < 2 ^ 37 ∧
    e = Int.log 2 ((n : Rat) / d) / 2 - 36 ∧ ((k : Rat) * (2 : Rat) ^ e) ^ 2 ≤ (n : Rat) / d ∧
    (n : Rat) / d < (((k : Rat) + 1) * (2 : Rat) ^ e) ^ 2 ∧
    (c = if ((k : Rat) * (2 : Rat) ^ e) ^ 2 = (n : Rat) / d then (k : Rat) else k + 1 / 2) ∧
    0 < a ∧ 0 < b ∧ (a : Rat) / b = c * (2 : Rat) ^ e ∧
    sqrtVal n d = ⟨.fin false a b, !decide (((k : Rat) * (2 : Rat) ^ e) ^ 2 = (n : Rat) / d), 0⟩ := by
  obtain ⟨k, e, hk1, hk2, he, hlow, hhigh, hroot⟩ := rootOf_eq hn hd
  have hk : 0 < k := Nat.lt_of_lt_of_le (Nat.two_pow_pos 36) hk1
  by_cases hex : ((k : Rat) * (2 : Rat) ^ e) ^ 2 = (n : Rat) / d
  · obtain ⟨a, b, hfin, ha, hb, hval⟩ := scaled_pos false hk e
    refine ⟨k, a, b, e, k, hk1, hk2, he, hlow, hhigh, (if_pos hex).symm, ha, hb, hval, ?_⟩
    rw [sqrtVal_of_root hroot, decide_eq_true hex, if_pos rfl, hfin]
    rfl
  · obtain ⟨a, b, hfin, ha, hb, hval⟩ := scaled_pos false (show 0 < 2 * k + 1 by omega) (e - 1)
    refine ⟨k, a, b, e, k + 1 / 2, hk1, hk2, he, hlow, hhigh, (if_neg hex).symm, ha, hb, ?_, ?_⟩
    · rw [hval, zpow_sub_one₀ two_ne_zero]
      push_cast
      ring
    · rw [sqrtVal_of_root hroot, decide_eq_false hex, if_neg Bool.false_ne_true, hfin]
      rfl

section
variable {xop : BitVec 3} (h : xop.toNat < 3)
include h

/-- The exponent ranges of the three formats, wide enough for every root. -/
theorem fltFmt_range : (fltFmt xop).m ≤ 23 ∧ (fltFmt xop).m + 1 ≤ (fltFmt xop).bias ∧ 15 ≤ (fltFmt xop).bias ∧
    (fltFmt xop).bias ≤ 127 ∧ 2 * (fltFmt xop).bias * 2 ^ (fltFmt xop).m ≤ (fltFmt xop).max ∧
    (fltFmt xop).max < (2 * (fltFmt xop).bias + 1) * 2 ^ (fltFmt xop).m := by
  rcases fltXop_cases h with rfl | rfl | rfl <;> decide

theorem two_zpow_bias_le : (2 : Rat) ^ ((fltFmt xop).bias : Int) ≤ magValue (fltFmt xop) (fltFmt xop).max := by
  obtain ⟨-, -, hbias, -, hmax, -⟩ := fltFmt_range h
  have hbin := magValue_binade (f := fltFmt xop) (E := 2 * (fltFmt xop).bias) (by omega) (Nat.zero_le _)
  have hexp : ((2 * (fltFmt xop).bias : Nat) : Int) - (fltFmt xop).bias - (fltFmt xop).m = (fltFmt xop).bias - (fltFmt xop).m := by
    push_cast
    ring
  rw [add_zero, Nat.cast_zero, add_zero, hexp, ← zpow_natCast, ← zpow_add₀ two_ne_zero, add_sub_cancel] at hbin
  exact hbin ▸ (magValue_strictMono _).monotone hmax

/-- The leading bit of an ordinary operand. -/
theorem log_magValue {mag : Nat} (h0 : 0 < mag) (hlt : mag < fltInf xop) :
    (fltFmt xop).emin - (fltFmt xop).m ≤ Int.log 2 (magValue (fltFmt xop) mag) ∧
      Int.log 2 (magValue (fltFmt xop) mag) ≤ (fltFmt xop).bias := by
  obtain ⟨-, -, -, -, -, hmax⟩ := fltFmt_range h
  have hinf := fltFmt_max h
  have hpos := magValue_pos (f := fltFmt xop) h0
  constructor
  · refine (two_zpow_le_iff hpos _).1 ?_
    have hone := magValue_low (f := fltFmt xop) (k := 1) (by rcases fltXop_cases h with rfl | rfl | rfl <;> decide)
    rw [Nat.cast_one, one_mul] at hone
    exact hone ▸ (magValue_strictMono _).monotone h0
  · have hlt' := magValue_lt (f := fltFmt xop) (E := 2 * (fltFmt xop).bias + 1) (mag := mag) (by omega) (by omega)
    have hexp : ((2 * (fltFmt xop).bias + 1 : Nat) : Int) - (fltFmt xop).bias = (fltFmt xop).bias + 1 := by
      push_cast
      ring
    rw [hexp] at hlt'
    exact Int.lt_add_one_iff.1 ((lt_two_zpow_iff hpos _).1 hlt')

/-- An encoding read back from a payload. -/
theorem toNat_ofNat_flt {v : Nat} (hv : v < 2 ^ fltWidth xop) : (BitVec.ofNat 64 v).toNat = v := by
  have hw : 2 ^ fltWidth xop ≤ 2 ^ 64 := by rcases fltXop_cases h with rfl | rfl | rfl <;> decide
  rw [BitVec.toNat_ofNat, Nat.mod_eq_of_lt (hv.trans_le hw)]

theorem fltEx_ofNat {v : Nat} (hv : v < 2 ^ fltWidth xop) : fltEx xop (BitVec.ofNat 64 v) = (floatValue (8 + xop.toNat) v).ex := by
  unfold fltEx
  rw [toNat_ofNat_flt h hv]

/-- FSQRT of an ordinary positive operand. -/
theorem fnGives_fsqrt {n d mag : Nat} (h0 : 0 < mag) (hlt : mag < fltInf xop) (hn : 0 < n) (hd : 0 < d)
    (hval : (n : Rat) / d = magValue (fltFmt xop) mag) :
    ∃ v ≤ (fltFmt xop).max, let y := magValue (fltFmt xop) v
      0 < y ∧ fnGives xop (fnVal .fsqrt (.fin false n d)) = (v, if y ^ 2 = (n : Rat) / d then 0 else 16) ∧
      ∀ g : Int, (2 : Rat) ^ g ≤ y → y < (2 : Rat) ^ (g + 1) →
        (y - (2 : Rat) ^ (g - (fltFmt xop).m - 1)) ^ 2 ≤ (n : Rat) / d ∧
          (n : Rat) / d ≤ (y + (2 : Rat) ^ (g - (fltFmt xop).m - 1)) ^ 2 := by
  obtain ⟨k, a, b, e, c, hk1, hk2, he, hlow, hhigh, hc, ha, hb, hab, hsqrt⟩ := sqrtVal_eq hn hd
  obtain ⟨hm, hmb, hbias, -, -, -⟩ := fltFmt_range h
  obtain ⟨hL1, hL2⟩ := log_magValue h h0 hlt
  rw [hval] at he
  have hemin : (fltFmt xop).emin = 1 - (fltFmt xop).bias := rfl
  have hnormal : (fltFmt xop).emin ≤ e + 36 := by omega
  have hc1 : (k : Rat) ≤ c := by rw [hc]; split <;> linarith
  have hc2 : c < k + 1 := by rw [hc]; split <;> linarith
  have hlog : Int.log 2 (c * (2 : Rat) ^ e) = e + 36 := by
    refine log_of_digits ?_ ?_
    · exact le_trans (by exact_mod_cast hk1) hc1
    · exact hc2.trans_le (by exact_mod_cast hk2)
  have hz : 0 < c * (2 : Rat) ^ e := by rw [← hab]; positivity
  obtain ⟨-, -, -, -, -, -, htiny⟩ := root_rounded hm hk1 hk2 hc1 hc2 hnormal
  obtain ⟨hy0, hflag, hbounds⟩ := root_rounded_bounds hm hk1 hk2 hnormal hlow hhigh hc
  have hle : roundValue (fltFmt xop) 0 0 false (c * (2 : Rat) ^ e) ≤ magValue (fltFmt xop) (fltFmt xop).max :=
    calc _ ≤ (2 : Rat) ^ (e + 36 + 1) := hlog ▸ roundValue_le_two_zpow hz (hlog ▸ hnormal)
      _ ≤ (2 : Rat) ^ ((fltFmt xop).bias : Int) := zpow_le_zpow_right₀ one_le_two (by omega)
      _ ≤ _ := two_zpow_bias_le h
  obtain ⟨v, hv, hvval, hround⟩ := roundFin_of_le (t := 8 + xop.toNat) (mode := 0) (u := 0) (sat := false) (neg := false)
    (inexact := !decide (((k : Rat) * (2 : Rat) ^ e) ^ 2 = (n : Rat) / d)) ha hb (by rw [hab]; exact hle)
  refine ⟨v, hv, ?_⟩
  rw [← fltFmt, hab] at hvval
  rw [← fltFmt, hab, htiny, signBit, if_neg Bool.false_ne_true, Nat.zero_add] at hround
  intro y
  rw [show y = _ from hvval]
  refine ⟨hy0, ?_, hbounds⟩
  rw [show fnVal .fsqrt (.fin false n d) = sqrtVal n d from rfl, hsqrt, fnGives_eq_roundFloat]
  refine hround.trans (congrArg (Prod.mk v) ?_)
  by_cases hexact : roundValue (fltFmt xop) 0 0 false (c * (2 : Rat) ^ e) ^ 2 = (n : Rat) / d
  · rw [if_pos hexact, hflag.2 hexact]
    rfl
  · rw [if_neg hexact, Bool.of_not_eq_false (mt hflag.1 hexact)]
    rfl

end
end Sys2Proof.Machine
end

section
/-!
PROOFS. The special functions on integers and halves of odd numbers, the range of their results, and the statement about them
(R115, R149).
-/

namespace Sys2Proof.Machine

/-! ### Operands that are integers or halves of odd ones -/

section
variable {g : Bool} {n d : Nat} {z : Int} (hn : 0 < n) (hd : 0 < d)
include hn hd

theorem Ex.fin_rat_int (h : (Ex.fin g n d).rat = z) : n = d * z.natAbs ∧ g = decide (z < 0) := by
  have hpos : (0 : Rat) < (n : Rat) / d := by positivity
  constructor
  · refine eq_mul_of_div_eq hd ?_
    rw [← Ex.abs_rat_fin g, h, Nat.cast_natAbs, Int.cast_abs]
  · cases g with
    | false =>
      have hz : (0 : Rat) < z := h ▸ hpos
      exact (decide_eq_false (not_lt.2 (Int.cast_pos.1 hz).le)).symm
    | true =>
      have hz : (z : Rat) < 0 := by rw [← h, Ex.rat_fin, if_pos rfl, neg_div]; exact neg_neg_of_pos hpos
      exact (decide_eq_true (Int.cast_lt_zero.1 hz)).symm

/-- Half of an odd number; the sign is taken into the parity that SINP asks for. -/
theorem Ex.fin_rat_half (h : (Ex.fin g n d).rat = z + 1 / 2) :
    ∃ j : Nat, 2 * n = d * (2 * j + 1) ∧ (g != (j % 2 == 1)) = !decide (z % 2 = 0) := by
  have hd' : (d : Rat) ≠ 0 := by positivity
  have hpos : (0 : Rat) < (n : Rat) / d := by positivity
  have key (j : Nat) (hj : (n : Rat) / d = j + 1 / 2) : 2 * n = d * (2 * j + 1) := by
    rw [div_eq_iff hd'] at hj
    have : (2 * n : Rat) = d * (2 * j + 1) := by rw [hj]; ring
    exact_mod_cast this
  cases g with
  | false =>
    have hz : 0 ≤ z := by
      have hgt : (-1 : Rat) < z := by
        rw [Ex.rat_fin, if_neg Bool.false_ne_true] at h
        linarith
      have : (-1 : Int) < z := by exact_mod_cast hgt
      omega
    obtain ⟨j, rfl⟩ := Int.eq_ofNat_of_zero_le hz
    refine ⟨j, key j h, ?_⟩
    rcases Nat.mod_two_eq_zero_or_one j with hj | hj <;> simp [hj] <;> omega
  | true =>
    have hneg : (n : Rat) / d = -z - 1 / 2 := by
      rw [Ex.rat_fin, if_pos rfl, neg_div] at h
      linarith
    have hz : 0 ≤ -z - 1 := by
      have hgt : (z : Rat) < 0 := by linarith
      have : z < 0 := by exact_mod_cast hgt
      omega
    obtain ⟨j, hj⟩ := Int.eq_ofNat_of_zero_le hz
    refine ⟨j, key j ?_, ?_⟩
    · rw [hneg, show z = -j - 1 by omega]
      push_cast
      ring
    · rcases Nat.mod_two_eq_zero_or_one j with hj' | hj' <;> simp [hj'] <;> omega

end

/-! ### EX2 of integers -/

theorem log_two_zpow (y : Int) : Int.log 2 ((2 : Rat) ^ y) = y :=
  log_eq_of_bounds le_rfl (zpow_lt_zpow_right₀ one_lt_two (lt_add_one y))

/-- 2^z, which stands for itself up to 2^1023 and down to 2^-1023. -/
theorem exp2Val_of_int {n d : Nat} {z : Int} (hd : 0 < d) (hz : n = d * z.natAbs) : ∃ (y : Int) (inexact : Bool),
    exp2Val (decide (z < 0)) n d = ⟨scaled false 1 y, inexact, 0⟩ ∧ (z.natAbs ≤ 300 → y = z ∧ inexact = false) ∧
      (300 < z → 300 < y) ∧ (z < -300 → y < -300) := by
  rw [exp2Val_int _ hd hz]
  rcases lt_or_ge z 0 with hneg | hpos
  · rw [decide_eq_true hneg, if_pos rfl, if_pos rfl]
    by_cases h : 1024 ≤ z.natAbs
    · exact ⟨-1024, true, if_pos h, by omega, by omega, by omega⟩
    · exact ⟨-z.natAbs, false, if_neg h, fun _ => ⟨by omega, rfl⟩, by omega, by omega⟩
  · rw [decide_eq_false (not_lt.2 hpos), if_neg Bool.false_ne_true, if_neg Bool.false_ne_true]
    by_cases h : 1024 ≤ z.natAbs
    · exact ⟨1024, true, if_pos h, by omega, by omega, by omega⟩
    · exact ⟨z.natAbs, false, if_neg h, fun _ => ⟨by omega, rfl⟩, by omega, by omega⟩

section
variable {xop : BitVec 3} (h : xop.toNat < 3) {y : Int} (inexact : Bool)
include h

/-- A power of two beyond every format's range (R109). -/
theorem fnGives_pow_high (hy : 300 < y) : fnGives xop ⟨scaled false 1 y, inexact, 0⟩ = (fltInf xop, 20) := by
  obtain ⟨a, b, hfin, ha, hb, hval⟩ := scaled_pos false Nat.one_pos y
  rw [Nat.cast_one, one_mul] at hval
  obtain ⟨-, -, -, hbias, -⟩ := fltFmt_range h
  have hemin : (fltFmt xop).emin = 1 - (fltFmt xop).bias := rfl
  have hx : (0 : Rat) < (a : Rat) / b := by positivity
  have hlog : Int.log 2 ((a : Rat) / b) = y := by rw [hval, log_two_zpow]
  have hgt : magValue (fltFmt xop) (fltFmt xop).max < roundValue (fltFmt xop) 0 0 false ((a : Rat) / b) :=
    calc magValue (fltFmt xop) (fltFmt xop).max < (2 : Rat) ^ (128 : Int) := magValue_max_lt _
      _ ≤ (2 : Rat) ^ Int.log 2 ((a : Rat) / b) := zpow_le_zpow_right₀ one_le_two (by omega)
      _ ≤ _ := two_zpow_log_le_roundValue hx (by omega)
  have hD : ¬ (8 + xop.toNat = 0xD ∨ false = true) := by simp; omega
  have hB : ¬ 8 + xop.toNat = 0xB := by omega
  rw [fnGives_eq_roundFloat, hfin]
  refine (roundFin_of_gt ha hb hgt).trans ?_
  rw [withSign_overflowMag, if_neg hD, if_neg hB, if_neg (by decide), signBit, if_neg Bool.false_ne_true, ← fltFmt,
    fltFmt_max h, Nat.zero_add]

/-- A power of two below half of every format's smallest value (R112). -/
theorem fnGives_pow_low (hy : y < -300) : fnGives xop ⟨scaled false 1 y, inexact, 0⟩ = (0, 24) := by
  obtain ⟨a, b, hfin, ha, hb, hval⟩ := scaled_pos false Nat.one_pos y
  rw [Nat.cast_one, one_mul] at hval
  obtain ⟨hm, -, -, hbias, -⟩ := fltFmt_range h
  have hemin : (fltFmt xop).emin = 1 - (fltFmt xop).bias := rfl
  have hx : (0 : Rat) < (a : Rat) / b := by positivity
  have hlog : Int.log 2 ((a : Rat) / b) = y := by rw [hval, log_two_zpow]
  have hsteps : roundSteps (fltFmt xop) 0 0 false ((a : Rat) / b) = (0, true) := roundSteps_of_small hx (by omega)
  have hzero : roundValue (fltFmt xop) 0 0 false ((a : Rat) / b) = 0 := by
    rw [roundValue, hsteps, Nat.cast_zero, zero_mul]
  have htiny : isTiny (fltFmt xop) 0 0 false ((a : Rat) / b) = true := (isTiny_iff hx).2 ⟨by omega, by omega⟩
  obtain ⟨mag, -, hmag, hround⟩ := roundFin_of_le (t := 8 + xop.toNat) (mode := 0) (u := 0) (sat := false) (neg := false)
    (inexact := inexact) ha hb (by rw [← fltFmt, hzero]; exact magValue_nonneg _ _)
  rw [← fltFmt, hzero, ← magValue_zero (fltFmt xop)] at hmag
  rw [← fltFmt, (magValue_strictMono _).injective hmag, hsteps, htiny] at hround
  rw [fnGives_eq_roundFloat, hfin]
  exact hround

/-- Every result fits its format. -/
theorem fnGives_lt (v : FnVal) : (fnGives xop v).1 < 2 ^ fltWidth xop := by
  have hmax : (fltFmt xop).max + 1 < 2 ^ ((floatFmt (8 + xop.toNat)).bits - 1) := by
    rcases fltXop_cases h with rfl | rfl | rfl <;> decide
  have hsign (g : Bool) {mag : Nat} (hle : mag ≤ (fltFmt xop).max + 1) : withSign (8 + xop.toNat) g mag < 2 ^ fltWidth xop := by
    rw [withSign_of_ne (by omega), ← fltFmt_bits h]
    exact signBit_add_lt (hle.trans_lt hmax)
  have hover (g : Bool) : overflowMag (8 + xop.toNat) 0 false g ≤ (fltFmt xop).max + 1 := by
    unfold overflowMag
    rw [← fltFmt]
    dsimp only
    split_ifs <;> omega
  obtain ⟨x, i, fl⟩ := v
  show (roundFloat (8 + xop.toNat) 0 0 false x i).1 < _
  cases x with
  | nan =>
    show canonNan (8 + xop.toNat) < _
    rcases fltXop_cases h with rfl | rfl | rfl <;> decide
  | zero g => exact hsign g (Nat.zero_le _)
  | inf g =>
    unfold roundFloat
    dsimp only
    rw [if_neg (by omega), if_neg Bool.false_ne_true, if_neg (by omega)]
    exact hsign g le_rfl
  | fin g n d =>
    unfold roundFloat roundFin
    dsimp only
    split_ifs with hgt
    · exact hsign g (hover g)
    · exact hsign g ((not_lt.1 hgt).trans (Nat.le_succ _))

end

/-! ### The instructions on ordinary operands -/

theorem fltSigned_not_decide (xop : BitVec 3) (c : Prop) [Decidable c] (v : Nat) :
    fltSigned xop (!decide c) v = if c then v else 2 ^ (fltWidth xop - 1) + v := by
  by_cases hc : c <;> simp [fltSigned, hc]

/-- The value of a positive finite encoding read back from a payload. -/
theorem fltEx_rat_ofNat {xop : BitVec 3} (hx : xop.toNat < 3) {v : Nat} (hv : v ≤ (fltFmt xop).max) :
    v < 2 ^ (fltWidth xop - 1) ∧ (fltEx xop (BitVec.ofNat 64 v)).rat = magValue (fltFmt xop) v := by
  have hlt : v < 2 ^ ((floatFmt (8 + xop.toNat)).bits - 1) := hv.trans_lt (floatFmt_max_lt _)
  have hval := floatValue_signBit (t := 8 + xop.toNat) (by omega) false hv
  rw [signBit, if_neg Bool.false_ne_true, Nat.zero_add] at hval
  rw [← fltFmt, fltFmt_bits hx] at hlt
  refine ⟨hlt, ?_⟩
  rw [fltEx_ofNat hx (hlt.trans_le (Nat.pow_le_pow_right two_pos (Nat.sub_le _ _))), hval]
  rfl

/-- A finite operand whose value is not zero. -/
theorem fltEx_of_rat_ne {xop : BitVec 3} (hx : xop.toNat < 3) {a : Word} (hlt : fltMag xop a < fltInf xop) (h0 : (fltEx xop a).rat ≠ 0) :
    ∃ n d, fltEx xop a = .fin (fltNeg xop a) n d ∧ 0 < n ∧ 0 < d := by
  have hpos : 0 < fltMag xop a := by
    by_contra hno
    exact h0 (by rw [fltEx_zero hx (by omega), Ex.rat_zero])
  obtain ⟨n, d, heq, hn, hd, -⟩ := fltEx_ordinary hx hpos hlt
  exact ⟨n, d, heq, hn, hd⟩

section
variable {f : FmtG} {s : State} {l : Lane} {i : Inst} {a : Word} (hf : Fires s f.pr l i) (ha : One l a) (hx : f.xop.toNat < 3)
include hf ha hx

/-- What a function gives for an operand that is no NaN, once its value is known. -/
theorem fn_fires_gives (fn : Fn) (hle : fltMag f.xop a ≤ fltInf f.xop) {x : Ex} (hval : fltEx f.xop a = x) {v fl : Nat}
    (hp : fnGives f.xop (fnVal fn x) = (v, fl)) : exec (fnInstr fn f) s = sendsFlags s l [f.t0, f.t1] (BitVec.ofNat 64 v, fl) := by
  rw [fn_fires_value hf ha hx fn hle hval, hp]

/-- SINP and COSP of integers. -/
theorem sinp_cosp_int {z : Int} (hz : z ≠ 0) (hrat : (fltEx f.xop a).rat = z) (hlt : fltMag f.xop a < fltInf f.xop) :
    exec (.sinp f) s = sendsFlags s l [f.t0, f.t1] (BitVec.ofNat 64 (fltSigned f.xop (fltNeg f.xop a) 0), 0) ∧
    exec (.cosp f) s = sendsFlags s l [f.t0, f.t1]
      (BitVec.ofNat 64 (fltSigned f.xop (!decide (z % 2 = 0)) (fltOneMag f.xop)), 0) := by
  obtain ⟨n, d, heq, hn, hd⟩ := fltEx_of_rat_ne hx hlt (by rw [hrat]; exact_mod_cast hz)
  rw [heq] at hrat
  obtain ⟨hnd, -⟩ := Ex.fin_rat_int hn hd hrat
  have hodd : (z.natAbs % 2 == 1) = !decide (z % 2 = 0) := by
    rw [Bool.eq_iff_iff]
    simp
    omega
  refine ⟨fn_fires_gives hf ha hx .sinp hlt.le heq ?_, fn_fires_gives hf ha hx .cosp hlt.le heq ?_⟩
  · rw [show fnVal .sinp (.fin (fltNeg f.xop a) n d) = sinpVal (fltNeg f.xop a) n d from rfl, sinpVal_int _ hnd, fnGives_zero hx]
  · rw [show fnVal .cosp (.fin (fltNeg f.xop a) n d) = cospVal n d from rfl, cospVal_int hd hnd, fnGives_one hx, hodd]

/-- SINP and COSP of halves of odd numbers. -/
theorem sinp_cosp_half {z : Int} (hrat : (fltEx f.xop a).rat = z + 1 / 2) (hlt : fltMag f.xop a < fltInf f.xop) :
    exec (.sinp f) s = sendsFlags s l [f.t0, f.t1]
      (BitVec.ofNat 64 (fltSigned f.xop (!decide (z % 2 = 0)) (fltOneMag f.xop)), 0) ∧
    exec (.cosp f) s = sendsFlags s l [f.t0, f.t1] (BitVec.ofNat 64 0, 0) := by
  have hne : (z : Rat) + 1 / 2 ≠ 0 := fun h => by
    have h2 : ((2 * z + 1 : Int) : Rat) = 0 := by push_cast; linarith
    have : 2 * z + 1 = 0 := by exact_mod_cast h2
    omega
  obtain ⟨n, d, heq, hn, hd⟩ := fltEx_of_rat_ne hx hlt (hrat ▸ hne)
  rw [heq] at hrat
  obtain ⟨j, hj, hsign⟩ := Ex.fin_rat_half hn hd hrat
  refine ⟨fn_fires_gives hf ha hx .sinp hlt.le heq ?_, fn_fires_gives hf ha hx .cosp hlt.le heq ?_⟩
  · rw [show fnVal .sinp (.fin (fltNeg f.xop a) n d) = sinpVal (fltNeg f.xop a) n d from rfl, sinpVal_half _ hd hj,
      fnGives_one hx, hsign]
  · rw [show fnVal .cosp (.fin (fltNeg f.xop a) n d) = cospVal n d from rfl, cospVal_half hd hj, fnGives_zero hx]
    rfl

/-- EX2 of integers. -/
theorem ex2_int {z : Int} (hrat : (fltEx f.xop a).rat = z) (hlt : fltMag f.xop a < fltInf f.xop) :
    (z.natAbs ≤ 300 → ∃ n d : Nat, 0 < d ∧ (n : Rat) / d = (2 : Rat) ^ z ∧ exec (.ex2 f) s =
      sendsFlags s l [f.t0, f.t1] (BitVec.ofNat 64 (roundFloat (8 + f.xop.toNat) 0 0 false (.fin false n d) false).1,
        (roundFloat (8 + f.xop.toNat) 0 0 false (.fin false n d) false).2)) ∧
    (300 < z → exec (.ex2 f) s = sendsFlags s l [f.t0, f.t1] (BitVec.ofNat 64 (fltInf f.xop), 20)) ∧
    (z < -300 → exec (.ex2 f) s = sendsFlags s l [f.t0, f.t1] (BitVec.ofNat 64 0, 24)) := by
  by_cases hz : z = 0
  · have h0 : fltMag f.xop a = 0 := by
      have hnum : (fltEx f.xop a).isNumber := by rw [fltEx_fin hx hlt]; exact magEx_isNumber ..
      exact (fltEx_eq_zero_iff hx a).1 ((Ex.rat_eq_zero_iff hnum).1 (by rw [hrat, hz, Int.cast_zero]))
    refine ⟨fun _ => ⟨1, 1, Nat.one_pos, by rw [hz]; norm_num, ?_⟩, by omega, by omega⟩
    exact fn_fires_gives hf ha hx .ex2 hlt.le (fltEx_zero hx h0) (fnGives_eq_roundFloat ..)
  · obtain ⟨n, d, heq, hn, hd⟩ := fltEx_of_rat_ne hx hlt (by rw [hrat]; exact_mod_cast hz)
    rw [heq] at hrat
    obtain ⟨hnd, hsign⟩ := Ex.fin_rat_int hn hd hrat
    obtain ⟨y, inexact, hexp, hsmall, hhigh, hlow⟩ := exp2Val_of_int hd hnd
    have hval : fnVal .ex2 (.fin (fltNeg f.xop a) n d) = ⟨scaled false 1 y, inexact, 0⟩ := by
      rw [← hexp, ← hsign]
      rfl
    refine ⟨fun h => ?_, fun h => ?_, fun h => ?_⟩
    · obtain ⟨rfl, rfl⟩ := hsmall h
      obtain ⟨n', d', hfin, -, hd', hquot⟩ := scaled_pos false Nat.one_pos y
      refine ⟨n', d', hd', by rw [hquot, Nat.cast_one, one_mul], fn_fires_gives hf ha hx .ex2 hlt.le heq ?_⟩
      rw [hval, hfin, fnGives_eq_roundFloat]
    · exact fn_fires_gives hf ha hx .ex2 hlt.le heq (hval ▸ fnGives_pow_high hx inexact (hhigh h))
    · exact fn_fires_gives hf ha hx .ex2 hlt.le heq (hval ▸ fnGives_pow_low hx inexact (hlow h))

end
end Sys2Proof.Machine

namespace Sys2Proof.Proofs

open Sys2Proof Sys2Proof.Machine

/-- Settles O15: a row of R149's table for each function, then what integers, halves, ordinary operands and powers of two
give. -/
theorem specialFunctionResults : Obligations.SpecialFunctionResults := by
  unfold Obligations.SpecialFunctionResults
  intro f s l i a hf ha hx m neg top inf nan one gives signed table
  refine ⟨?_, ?_, ?_, ?_, ?_, ?_, ?_, ?_, ?_, ?_, ?_, ?_, ?_⟩
  · exact fn_table hf ha hx .ex2 (fnGives_zero hx false) (fnGives_inf hx false 0) (fun _ _ => fnGives_one hx false)
  · exact fn_table hf ha hx .lg2 (fnGives_invalid hx) (fnGives_inf hx false 0) (fun _ _ => fnGives_inf hx true 2)
  · exact fn_table hf ha hx .sinp (fnGives_invalid hx) (fnGives_invalid hx) (fun _ hg => hg ▸ fnGives_zero hx _)
  · exact fn_table hf ha hx .cosp (fnGives_invalid hx) (fnGives_invalid hx) (fun _ _ => fnGives_one hx false)
  · exact fn_table hf ha hx .tanh (fnGives_one hx true) (fnGives_one hx false) (fun _ hg => hg ▸ fnGives_zero hx _)
  · exact fn_table hf ha hx .frcp (fnGives_zero hx true) (fnGives_zero hx false) (fun _ hg => hg ▸ fnGives_inf hx _ 2)
  · exact fn_table hf ha hx .frsq (fnGives_invalid hx) (fnGives_zero hx false) (fun _ hg => hg ▸ fnGives_inf hx _ 2)
  · exact fn_table hf ha hx .fsqrt (fnGives_invalid hx) (fnGives_inf hx false 0) (fun _ hg => hg ▸ fnGives_zero hx _)
  · rintro ⟨h0, hlt, hneg⟩
    obtain ⟨n, d, heq, -⟩ := fltEx_ordinary hx h0 hlt
    rw [show fltNeg f.xop a = true from hneg] at heq
    exact ⟨fn_fires_gives hf ha hx .lg2 hlt.le heq (fnGives_invalid hx), fn_fires_gives hf ha hx .frsq hlt.le heq (fnGives_invalid hx),
      fn_fires_gives hf ha hx .fsqrt hlt.le heq (fnGives_invalid hx)⟩
  · rintro z hz ⟨hrat, hlt⟩
    obtain ⟨hsin, hcos⟩ := sinp_cosp_int hf ha hx hz hrat hlt
    rw [fltSigned_not_decide] at hcos
    exact ⟨hsin, hcos⟩
  · rintro z ⟨hrat, hlt⟩
    obtain ⟨hsin, hcos⟩ := sinp_cosp_half hf ha hx hrat hlt
    rw [fltSigned_not_decide] at hsin
    exact ⟨hsin, hcos⟩
  · intro x rounds
    refine ⟨?_, ?_, ?_⟩
    · rintro ⟨h0, hlt⟩
      obtain ⟨n, d, heq, hn, hd, -⟩ := fltEx_ordinary hx h0 hlt
      obtain ⟨k, n', d', g, hk1, hk2, hd', hval, hlow, hhigh, hgives⟩ := fnGives_frcp f.xop hn hd (fltNeg f.xop a)
      have hinv : 1 / |x| = (d : Rat) / n := by rw [show x = (fltEx f.xop a).rat from rfl, heq, Ex.abs_rat_fin, one_div_div]
      rw [hinv]
      exact ⟨k, n', d', g, hk1, hk2, hd', hval, hlow, hhigh, fn_fires_gives hf ha hx .frcp hlt.le heq hgives⟩
    · rintro ⟨h0, hlt, hneg⟩
      obtain ⟨n, d, heq, hn, hd, hquot⟩ := fltEx_ordinary hx h0 hlt
      rw [show fltNeg f.xop a = false from hneg] at heq
      have hxr : x = (n : Rat) / d := by rw [show x = (fltEx f.xop a).rat from rfl, heq]; rfl
      rw [hxr]
      refine ⟨?_, ?_, fun z hz => ?_⟩
      · obtain ⟨k, n', d', g, hk1, hk2, hd', hval, hlow, hhigh, hgives⟩ := fnGives_frsq f.xop hn hd
        exact ⟨k, n', d', g, hk1, hk2, hd', hval, hlow, hhigh, fn_fires_gives hf ha hx .frsq hlt.le heq hgives⟩
      · obtain ⟨v, hv, hpos, hgives, hbounds⟩ := fnGives_fsqrt hx h0 hlt hn hd hquot
        obtain ⟨htop, hy⟩ := fltEx_rat_ofNat hx hv
        refine ⟨v, htop, ?_⟩
        rw [hy]
        refine ⟨hpos, fn_fires_gives hf ha hx .fsqrt hlt.le heq hgives, fun g h1 h2 => ?_⟩
        rw [← fltFmt_m hx]
        exact hbounds g h1 h2
      · have hgives := fnGives_lg2 f.xop hn hd hz
        split at hgives
        · next hz0 =>
          rw [if_pos hz0]
          exact fn_fires_gives hf ha hx .lg2 hlt.le heq (hgives.trans (fnGives_zero hx false))
        · next hz0 =>
          rw [if_neg hz0]
          exact fn_fires_gives hf ha hx .lg2 hlt.le heq hgives
    · intro z hlt hz
      exact ex2_int hf ha hx hz hlt
  · have every (fn : Fn) : ∃ v fl, exec (fnInstr fn f) s = gives v fl ∧ v < 2 ^ fltWidth f.xop :=
      ⟨_, _, fn_fires hf ha hx fn, fnGives_lt hx _⟩
    exact List.forall_mem_map (f := (fnInstr · f)) (l := [.fsqrt, .frcp, .frsq, .ex2, .lg2, .sinp, .cosp, .tanh])
      (P := fun op => ∃ v fl, exec op s = gives v fl ∧ v < 2 ^ fltWidth f.xop) |>.2 fun fn _ => every fn

end Sys2Proof.Proofs
end

section
/-!
PROOFS. Conversions (R150, R152-R157): the fields of a conversion, the operands of every type, FRND, and the scales of MXSCL.
-/

namespace Sys2Proof.Machine

/-! ### Fields and operands -/

theorem bitsOf_toNat {w : Nat} (x : BitVec w) (hi lo : Nat) : bitsOf x.toNat hi lo = (x.extractLsb' lo (hi + 1 - lo)).toNat := by
  rw [BitVec.extractLsb'_toNat, Nat.shiftRight_eq_div_pow]
  rfl

theorem srcOf_imm (x : BitVec 9) : srcOf x.toNat = (x.extractLsb' 5 4).toNat := bitsOf_toNat x 8 5
theorem dstOf_imm (x : BitVec 9) : dstOf x.toNat = (x.extractLsb' 1 4).toNat := bitsOf_toNat x 4 1
theorem satOf_imm (x : BitVec 9) : bitOf x.toNat 0 = x.getLsbD 0 := bitOf_eq_testBit _ _

/-- An integer of a type read from a payload (R155). -/
theorem intValue_toNat (t : Nat) (a : Word) : intValue t a.toNat = if t % 2 = 1 then (a.setWidth (8 * 2 ^ (t / 2))).toInt
    else ((a.setWidth (8 * 2 ^ (t / 2))).toNat : Int) := by
  unfold intValue intBits
  rw [signedOf_setWidth, BitVec.toNat_setWidth]

theorem toWord_lowBits (w : Nat) (z : Int) : toWord (lowBits w z) = (BitVec.ofInt w z).setWidth 64 := by
  rw [← BitVec.ofNat_toNat, BitVec.toNat_ofInt]
  rfl

/-- An operand of any type code: a NaN, an infinity, or a number below 2^128. Only a NaN signals. -/
theorem floatValue_cases (t enc : Nat) : (floatValue t enc).ex = .nan ∨ (floatValue t enc).snan = false ∧
    ((∃ g, (floatValue t enc).ex = .inf g) ∨ (floatValue t enc).ex.isNumber ∧ |(floatValue t enc).ex.rat| < (2 : Rat) ^ (128 : Int)) := by
  by_cases ht : t = 0xE
  · unfold floatValue
    rw [if_pos ht]
    split
    · exact .inl rfl
    · next h =>
      refine .inr ⟨rfl, .inr ⟨scaled_isNumber false 1 _, ?_⟩⟩
      dsimp only
      rw [scaled_rat, if_neg Bool.false_ne_true, Nat.cast_one, one_mul, abs_of_pos (two_zpow_pos _)]
      exact zpow_lt_zpow_right₀ one_lt_two (by omega)
  · rcases le_or_gt (encMag t enc) (floatFmt t).max with hle | hgt
    · rw [floatValue_of_le ht hle]
      refine .inr ⟨rfl, .inr ⟨magEx_isNumber .., ?_⟩⟩
      have hlt := ((magValue_strictMono (floatFmt t)).monotone hle).trans_lt (magValue_max_lt t)
      rw [magEx_rat]
      split
      · rwa [abs_neg, abs_of_nonneg (magValue_nonneg _ _)]
      · rwa [abs_of_nonneg (magValue_nonneg _ _)]
    · rw [floatValue_of_gt ht hgt]
      split
      · exact .inr ⟨rfl, .inl ⟨_, rfl⟩⟩
      · exact .inl rfl

theorem floatValue_not_snan {t enc : Nat} (h : (floatValue t enc).ex ≠ .nan) : (floatValue t enc).snan = false :=
  ((floatValue_cases t enc).resolve_left h).1

section
variable {f : FmtI} {s : State} {l : Lane} {i : Inst} {a : Word}

theorem convert_fires (h : Fires s f.pr l i) (ha : One l a) (v : Nat → Nat → Nat → Nat → Nat × Nat) :
    convert f s v = sendsFlags s l [f.t0] (fltPair (v f.xop.toNat (laneDraw l i) f.imm9.toNat a.toNat)) := value1_fires h ha _

theorem frnd_fires (h : Fires s f.pr l i) (ha : One l a) : exec (.frnd f) s =
    sendsFlags s l [f.t0] (fltPair (frndV (f.imm9.toNat % 8) (laneDraw l i) f.xop.toNat a.toNat)) := value1_fires h ha _

end

/-! ### FRND (R150) -/

/-- A grid value is an integer of at most m + 1 bits times a step. -/
theorem magValue_eq_steps (f : FloatFmt) (mag : Nat) :
    ∃ (k : Nat) (q : Int), k < 2 ^ (f.m + 1) ∧ f.emin - f.m ≤ q ∧ magValue f mag = k * (2 : Rat) ^ q := by
  have hr := Nat.mod_lt mag (Nat.two_pow_pos f.m)
  have hpow : 2 ^ (f.m + 1) = 2 ^ f.m + 2 ^ f.m := by rw [pow_succ, mul_two]
  unfold magValue magEx
  split
  · exact ⟨mag % 2 ^ f.m, _, by omega, le_rfl, scaled_rat ..⟩
  · next hE =>
    refine ⟨2 ^ f.m + mag % 2 ^ f.m, _, by omega, ?_, scaled_rat ..⟩
    generalize mag / 2 ^ f.m = E at hE
    unfold FloatFmt.emin
    omega

/-- Such a number is rounded to itself. -/
theorem roundSteps_of_steps {f : FloatFmt} {mode u : Nat} {neg : Bool} {k : Nat} {q : Int} (hk0 : 0 < k) (hk : k < 2 ^ (f.m + 1))
    (hq : f.emin - f.m ≤ q) : (roundSteps f mode u neg (k * (2 : Rat) ^ q)).2 = false ∧
      roundValue f mode u neg (k * (2 : Rat) ^ q) = k * (2 : Rat) ^ q := by
  have hp := two_zpow_pos q
  have hk0' : (0 : Rat) < k := Nat.cast_pos.2 hk0
  set x : Rat := k * (2 : Rat) ^ q with hx
  have hx0 : 0 < x := by positivity
  have hlog : Int.log 2 x < f.m + 1 + q := by
    refine (lt_two_zpow_iff hx0 _).1 ?_
    rw [zpow_add₀ two_ne_zero]
    exact mul_lt_mul_of_pos_right (mod_cast hk) hp
  have hstep : stepExp f x ≤ q := by
    unfold stepExp
    omega
  obtain ⟨j, hj⟩ := Int.le.dest hstep
  have hquot : x / (2 : Rat) ^ stepExp f x = ((k * 2 ^ j : Nat) : Rat) := by
    have hpow : (2 : Rat) ^ q = (2 : Rat) ^ stepExp f x * 2 ^ j := by
      rw [← zpow_natCast, ← zpow_add₀ two_ne_zero, hj]
    rw [div_eq_iff (two_zpow_pos _).ne', Nat.cast_mul, Nat.cast_pow, Nat.cast_ofNat, mul_assoc, mul_comm (2 ^ j : Rat), ← hpow]
  have hsteps : roundSteps f mode u neg x = (k * 2 ^ j, false) := by rw [roundSteps, hquot, roundRat_natCast]
  refine ⟨by rw [hsteps], ?_⟩
  rw [roundValue, hsteps, ← hquot, div_mul_cancel₀ _ (two_zpow_pos _).ne']

/-- An ordinary operand rounded to an integer is a value of its format. -/
theorem roundRat_on_grid {xop : BitVec 3} (h : xop.toNat < 3) (mode u : Nat) (neg : Bool) {mag : Nat} (hle : mag ≤ (fltFmt xop).max) :
    ∃ (k : Nat) (q : Int), k < 2 ^ ((fltFmt xop).m + 1) ∧ (fltFmt xop).emin - (fltFmt xop).m ≤ q ∧
      ((roundRat mode u neg (magValue (fltFmt xop) mag)).1 : Rat) = k * (2 : Rat) ^ q ∧
      ((roundRat mode u neg (magValue (fltFmt xop) mag)).1 : Rat) ≤ magValue (fltFmt xop) (fltFmt xop).max := by
  obtain ⟨k, q, hk, hq, hval⟩ := magValue_eq_steps (fltFmt xop) mag
  rcases lt_or_ge q 0 with hneg | hpos
  · have hlt : magValue (fltFmt xop) mag ≤ ((2 ^ (fltFmt xop).m : Nat) : Rat) := by
      calc magValue (fltFmt xop) mag = k * (2 : Rat) ^ q := hval
        _ ≤ ((2 ^ ((fltFmt xop).m + 1) : Nat) : Rat) * (2 : Rat) ^ (-1 : Int) :=
          mul_le_mul (Nat.cast_le.2 hk.le) (zpow_le_zpow_right₀ one_le_two (by omega)) (two_zpow_pos q).le (Nat.cast_nonneg _)
        _ = ((2 ^ (fltFmt xop).m : Nat) : Rat) := by rw [pow_succ]; push_cast; ring
    have hk' := roundRat_fst_le (mode := mode) (u := u) (neg := neg) (magValue_nonneg _ _) hlt
    obtain ⟨-, hmb, -⟩ := fltFmt_range h
    refine ⟨_, 0, ?_, ?_, (by rw [zpow_zero, mul_one]), ?_⟩
    · exact hk'.trans_lt (Nat.pow_lt_pow_right one_lt_two (Nat.lt_succ_self _))
    · unfold FloatFmt.emin; omega
    · calc ((roundRat mode u neg (magValue (fltFmt xop) mag)).1 : Rat) ≤ ((2 ^ (fltFmt xop).m : Nat) : Rat) := Nat.cast_le.2 hk'
        _ = (2 : Rat) ^ ((fltFmt xop).m : Int) := by rw [zpow_natCast]; push_cast; rfl
        _ ≤ (2 : Rat) ^ ((fltFmt xop).bias : Int) := zpow_le_zpow_right₀ one_le_two (by omega)
        _ ≤ _ := two_zpow_bias_le h
  · have hint : magValue (fltFmt xop) mag = ((k * 2 ^ q.toNat : Nat) : Rat) := by
      rw [hval, two_zpow_of_nonneg hpos, Nat.cast_mul]
    have hround : ((roundRat mode u neg (magValue (fltFmt xop) mag)).1 : Rat) = magValue (fltFmt xop) mag := by
      rw [hint, roundRat_natCast]
    rw [hround]
    exact ⟨k, q, hk, hq, hval, (magValue_strictMono _).monotone hle⟩

/-- FRND of an ordinary operand: the encoding of the integer it is rounded to. -/
theorem frndV_ordinary {xop : BitVec 3} (h : xop.toNat < 3) {mode : Nat} (u : Nat) {a : Word} (h0 : 0 < fltMag xop a)
    (hlt : fltMag xop a < fltInf xop) :
    let r := roundAt mode u (fltNeg xop a) (fltEx xop a).rat.num.natAbs (fltEx xop a).rat.den 0
    ∃ mag ≤ (fltFmt xop).max, magValue (fltFmt xop) mag = r.1 ∧
      frndV mode u xop.toNat a.toNat = (signBit (8 + xop.toNat) (fltNeg xop a) + mag, if r.2 then 16 else 0) := by
  intro r
  obtain ⟨n, d, heq, hn, hd, hval⟩ := fltEx_ordinary h h0 hlt
  have hmax : fltMag xop a ≤ (fltFmt xop).max := by have := fltFmt_max h; omega
  have hr : r = roundRat mode u (fltNeg xop a) (magValue (fltFmt xop) (fltMag xop a)) := by
    have habs : ((fltEx xop a).rat.num.natAbs : Rat) / (fltEx xop a).rat.den = (n : Rat) / d := by
      have hden : ((fltEx xop a).rat.den : Rat) = |((fltEx xop a).rat.den : Rat)| := (abs_of_nonneg (Nat.cast_nonneg _)).symm
      rw [Nat.cast_natAbs, Int.cast_abs, hden, ← abs_div, Rat.num_div_den, heq, Ex.abs_rat_fin]
    rw [← hval, ← habs]
    refine (roundAt_eq_roundRat mode u (fltNeg xop a) _ 0 (Rat.den_pos _)).trans ?_
    rw [zpow_zero, div_one]
  have hround : roundAt mode u (fltNeg xop a) n d 0 = r := by
    rw [roundAt_eq_roundRat mode u (fltNeg xop a) n 0 hd, zpow_zero, div_one, hval, hr]
  have hfrnd : frndV mode u xop.toNat a.toNat =
      ((roundRne (8 + xop.toNat) (scaled (fltNeg xop a) r.1 0)).1, if r.2 then 16 else 0) := by
    unfold frndV
    dsimp only
    rw [show (opd xop.toNat a.toNat).ex = .fin (fltNeg xop a) n d from heq]
    dsimp only
    rw [hround]
    rfl
  obtain ⟨k, q, hk, hq, hgrid, hrange⟩ := roundRat_on_grid h mode u (fltNeg xop a) hmax
  rw [← hr] at hgrid hrange
  rcases Nat.eq_zero_or_pos r.1 with hzero | hpos
  · refine ⟨0, Nat.zero_le _, by rw [magValue_zero, hzero, Nat.cast_zero], hfrnd.trans (congrArg (Prod.mk · _) ?_)⟩
    rw [hzero]
    exact congrArg Prod.fst (roundFloat_zero (8 + xop.toNat) 0 0 false (fltNeg xop a))
  · obtain ⟨n', d', hfin, hn', hd', hquot⟩ := scaled_pos (fltNeg xop a) hpos 0
    rw [zpow_zero, mul_one, hgrid] at hquot
    have hk0 : 0 < k := by
      refine Nat.pos_of_ne_zero fun hk0 => hpos.ne' ?_
      rw [hk0, Nat.cast_zero, zero_mul] at hgrid
      exact Nat.cast_eq_zero.1 hgrid
    obtain ⟨-, hvalue⟩ := roundSteps_of_steps (f := fltFmt xop) (mode := 0) (u := 0) (neg := fltNeg xop a) hk0 hk hq
    obtain ⟨mag, hmag, hmagval, hfin'⟩ := roundFin_of_le (t := 8 + xop.toNat) (mode := 0) (u := 0) (sat := false)
      (inexact := false) (neg := fltNeg xop a) hn' hd' (by rw [← fltFmt, hquot, hvalue, ← hgrid]; exact hrange)
    rw [← fltFmt, hquot, hvalue, ← hgrid] at hmagval
    refine ⟨mag, hmag, hmagval, hfrnd.trans (congrArg (Prod.mk · _) ?_)⟩
    rw [hfin]
    exact congrArg Prod.fst hfin'

end Sys2Proof.Machine
end

section
/-!
PROOFS. MXSCL, MXQ and FRND on every operand (R150, R156, R157), and the statement about the conversions.
-/

namespace Sys2Proof.Machine

/-! ### The scale of MXSCL (R156) -/

/-- The scale code of the exponent k, clamped. -/
def clampScale (k : Int) : Nat × Nat :=
  if 254 < k + 127 then (254, 4) else if k + 127 < 0 then (0, 8) else ((k + 127).toNat, 0)

theorem clampScale_below {k : Int} (h : k < -127) : clampScale k = (0, 8) := by
  rw [clampScale, if_neg (by omega), if_pos (by omega)]

theorem clampScale_above {k : Int} (h : 127 < k) : clampScale k = (254, 4) := by rw [clampScale, if_pos (by omega)]

theorem clampScale_inside {k : Int} (h1 : -127 ≤ k) (h2 : k ≤ 127) :
    (clampScale k).2 = 0 ∧ ((clampScale k).1 : Int) - 127 = k := by
  rw [clampScale, if_neg (by omega), if_neg (by omega)]
  exact ⟨rfl, by dsimp only; omega⟩

theorem clampScale_le (k : Int) : (clampScale k).1 ≤ 254 := by
  unfold clampScale
  split_ifs <;> dsimp only <;> omega

/-- The least exponent c with x ≤ 2^c, as the model finds it. -/
def ceilLog2 (n d : Nat) : Int :=
  let fl := floorLog2 n d
  if n * 2 ^ (-fl).toNat = d * 2 ^ fl.toNat then fl else fl + 1

theorem ceilLog2_le_iff {n d : Nat} (hn : 0 < n) (hd : 0 < d) (c : Int) : ceilLog2 n d ≤ c ↔ (n : Rat) / d ≤ (2 : Rat) ^ c := by
  have hx : (0 : Rat) < (n : Rat) / d := by positivity
  have hd' : (d : Rat) ≠ 0 := by positivity
  unfold ceilLog2
  rw [floorLog2_eq_log hn hd]
  set e := Int.log 2 ((n : Rat) / d) with he
  have hexact : n * 2 ^ (-e).toNat = d * 2 ^ e.toNat ↔ (n : Rat) / d = (2 : Rat) ^ e := by
    rw [div_eq_iff hd']
    rcases lt_or_ge e 0 with hneg | hpos
    · rw [two_zpow_of_neg hneg, div_mul_eq_mul_div, one_mul, eq_div_iff (by positivity), Int.toNat_of_nonpos hneg.le, pow_zero, mul_one]
      exact_mod_cast Iff.rfl
    · rw [two_zpow_of_nonneg hpos, Int.toNat_of_nonpos (neg_nonpos.2 hpos), pow_zero, mul_one, mul_comm]
      exact_mod_cast Iff.rfl
  dsimp only
  split
  · next h =>
    rw [hexact.1 h, zpow_le_zpow_iff_right₀ one_lt_two]
  · next h =>
    have hlt : (2 : Rat) ^ e < (n : Rat) / d := lt_of_le_of_ne (two_zpow_log_le hx) (fun h' => h (hexact.2 h'.symm))
    refine ⟨fun hc => (lt_two_zpow_log_succ _).le.trans (zpow_le_zpow_right₀ one_le_two hc), fun hc => ?_⟩
    exact (zpow_lt_zpow_iff_right₀ one_lt_two).1 (hlt.trans_le hc)

/-- MXSCL of a number that is not zero. -/
theorem mxsclV_fin {mode imm p n d : Nat} {g : Bool} (h : (floatValue (srcOf imm) p).ex = .fin g n d) :
    mxsclV mode imm p = clampScale (if mode = 3 then floorLog2 n d - (mxType (dstOf imm)).2
      else ceilLog2 (n * 64) (d * (mxType (dstOf imm)).1)) := by
  unfold mxsclV
  dsimp only
  rw [h]
  rfl

theorem mxsclV_nan {mode imm p : Nat} (h : (floatValue (srcOf imm) p).ex = .nan) :
    mxsclV mode imm p = (0xFF, if (floatValue (srcOf imm) p).snan then 1 else 0) := by
  unfold mxsclV
  dsimp only
  rw [h]
  rfl

theorem mxsclV_inf {mode imm p : Nat} {g : Bool} (h : (floatValue (srcOf imm) p).ex = .inf g) : mxsclV mode imm p = (0xFF, 1) := by
  unfold mxsclV
  dsimp only
  rw [h]
  rfl

theorem mxsclV_zero {mode imm p : Nat} {g : Bool} (h : (floatValue (srcOf imm) p).ex = .zero g) : mxsclV mode imm p = (0, 0) := by
  unfold mxsclV
  dsimp only
  rw [h]

/-- An operand whose value is not zero is a quotient of positive numbers. -/
theorem floatValue_of_abs_pos {t p : Nat} (h : 0 < |(floatValue t p).ex.rat|) : ∃ g n d, (floatValue t p).ex = .fin g n d ∧
    0 < n ∧ 0 < d ∧ |(floatValue t p).ex.rat| = (n : Rat) / d ∧ (n : Rat) / d < (2 : Rat) ^ (128 : Int) := by
  have hrat : (floatValue t p).ex.rat ≠ 0 := abs_pos.1 h
  have hcases := floatValue_cases t p
  cases hx : (floatValue t p).ex with
  | fin g n d =>
    rw [hx, Ex.abs_rat_fin] at hcases
    rcases hcases with hno | ⟨-, ⟨g', hno⟩ | ⟨hnum, hlt⟩⟩
    · cases hno
    · cases hno
    · exact ⟨g, n, d, rfl, hnum.1, hnum.2, Ex.abs_rat_fin .., hlt⟩
  | _ => exact absurd (by rw [hx]; rfl) hrat

/-- Mt and emax_t of the four types. -/
theorem mxType_pos (t : Nat) : 0 < (mxType t).1 ∧ 0 ≤ (mxType t).2 := by
  unfold mxType
  split_ifs <;> decide

theorem mxType_eq {t : Nat} (ht : t = 1 ∨ t = 0xB ∨ t = 0xC ∨ t = 0xD) :
    (if t = 0xB then 448 else if t = 0xC then 57344 else if t = 0xD then 6 else 127 / 64 : Rat) = ((mxType t).1 : Rat) / 64 ∧
    (if t = 0xB then 8 else if t = 0xC then 15 else if t = 0xD then 2 else 0 : Int) = (mxType t).2 := by
  rcases ht with rfl | rfl | rfl | rfl <;> norm_num [mxType]

section
variable {n d mt : Nat} (hn : 0 < n) (hd : 0 < d) (hmt : 0 < mt)
include hn hd hmt

/-- The exponent that the ceiling rule gives for x = n / d and the largest value Mt = mt / 64. -/
theorem ceilLog2_scale (c : Int) : ceilLog2 (n * 64) (d * mt) ≤ c ↔ (n : Rat) / d ≤ (mt : Rat) / 64 * (2 : Rat) ^ c := by
  have hmt' : (0 : Rat) < mt := Nat.cast_pos.2 hmt
  have hd' : (0 : Rat) < d := Nat.cast_pos.2 hd
  have hquot : ((n * 64 : Nat) : Rat) / ((d * mt : Nat) : Rat) = (n : Rat) / d / ((mt : Rat) / 64) := by
    push_cast
    field_simp
  rw [ceilLog2_le_iff (by omega) (Nat.mul_pos hd hmt), hquot, div_le_iff₀ (by positivity), mul_comm]

end

/-- MXSCL's code for a number that is not zero, by the rules of R156. -/
theorem clampScale_floor {n d : Nat} {emax : Int} (hn : 0 < n) (hd : 0 < d) (hemax : 0 ≤ emax)
    (hlt : (n : Rat) / d < (2 : Rat) ^ (128 : Int)) :
    let p := clampScale (floorLog2 n d - emax)
    let k : Int := (p.1 : Int) - 127
    ((n : Rat) / d < (2 : Rat) ^ (emax - 127) → p.1 = 0 ∧ p.2 = 8) ∧
    ((2 : Rat) ^ (emax - 127) ≤ (n : Rat) / d →
      p.2 = 0 ∧ (2 : Rat) ^ (k + emax) ≤ (n : Rat) / d ∧ (n : Rat) / d < (2 : Rat) ^ (k + emax + 1)) := by
  have hx : (0 : Rat) < (n : Rat) / d := by positivity
  rw [floorLog2_eq_log hn hd]
  have h128 := (lt_two_zpow_iff hx _).1 hlt
  refine ⟨fun h => ?_, fun h => ?_⟩
  · have := (lt_two_zpow_iff hx _).1 h
    rw [clampScale_below (by omega)]
    exact ⟨rfl, rfl⟩
  · have := (two_zpow_le_iff hx _).1 h
    obtain ⟨hflag, hk⟩ := clampScale_inside (k := Int.log 2 ((n : Rat) / d) - emax) (by omega) (by omega)
    rw [hk, sub_add_cancel]
    exact ⟨hflag, two_zpow_log_le hx, lt_two_zpow_log_succ _⟩

theorem clampScale_ceil {n d mt : Nat} (hn : 0 < n) (hd : 0 < d) (hmt : 0 < mt) :
    let p := clampScale (ceilLog2 (n * 64) (d * mt))
    let top : Rat := (mt : Rat) / 64
    let k : Int := (p.1 : Int) - 127
    ((n : Rat) / d ≤ top * (2 : Rat) ^ (-128 : Int) → p.1 = 0 ∧ p.2 = 8) ∧
    (top * (2 : Rat) ^ (127 : Int) < (n : Rat) / d → p.1 = 254 ∧ p.2 = 4) ∧
    (top * (2 : Rat) ^ (-128 : Int) < (n : Rat) / d → (n : Rat) / d ≤ top * (2 : Rat) ^ (127 : Int) →
      p.2 = 0 ∧ top * (2 : Rat) ^ (k - 1) < (n : Rat) / d ∧ (n : Rat) / d ≤ top * (2 : Rat) ^ k) := by
  have hle := ceilLog2_scale hn hd hmt
  have hlt (c : Int) : c < ceilLog2 (n * 64) (d * mt) ↔ (mt : Rat) / 64 * (2 : Rat) ^ c < (n : Rat) / d := by
    rw [← not_le, hle, not_le]
  refine ⟨fun h => ?_, fun h => ?_, fun h1 h2 => ?_⟩
  · have := (hle _).2 h
    rw [clampScale_below (by omega)]
    exact ⟨rfl, rfl⟩
  · rw [clampScale_above ((hlt _).2 h)]
    exact ⟨rfl, rfl⟩
  · have := (hlt _).2 h1
    obtain ⟨hflag, hk⟩ := clampScale_inside (k := ceilLog2 (n * 64) (d * mt)) (by omega) ((hle _).2 h2)
    rw [hk]
    exact ⟨hflag, (hlt _).1 (by omega), (hle _).1 le_rfl⟩

/-- MXSCL of the four types, for every operand. -/
theorem mxsclV_spec {mode imm p : Nat} (ht : dstOf imm = 1 ∨ dstOf imm = 0xB ∨ dstOf imm = 0xC ∨ dstOf imm = 0xD) :
    let dst := dstOf imm
    let x := floatValue (srcOf imm) p
    let r := mxsclV mode imm p
    let top : Rat := if dst = 0xB then 448 else if dst = 0xC then 57344 else if dst = 0xD then 6 else 127 / 64
    let emax : Int := if dst = 0xB then 8 else if dst = 0xC then 15 else if dst = 0xD then 2 else 0
    let k : Int := (r.1 : Int) - 127
    let y := |x.ex.rat|
    (x.ex = .nan → r.1 = 0xFF ∧ r.2 = if x.snan then 1 else 0) ∧ ((∃ g, x.ex = .inf g) → r.1 = 0xFF ∧ r.2 = 1) ∧
    ((∃ g, x.ex = .zero g) → r.1 = 0 ∧ r.2 = 0) ∧ (x.ex.isNumber → r.1 ≤ 254) ∧
    (0 < y → mode = 3 →
      (y < (2 : Rat) ^ (emax - 127) → r.1 = 0 ∧ r.2 = 8) ∧
      ((2 : Rat) ^ (emax - 127) ≤ y →
        r.2 = 0 ∧ (2 : Rat) ^ (k + emax) ≤ y ∧ y < (2 : Rat) ^ (k + emax + 1))) ∧
    (0 < y → mode = 2 →
      (y ≤ top * (2 : Rat) ^ (-128 : Int) → r.1 = 0 ∧ r.2 = 8) ∧ (top * (2 : Rat) ^ (127 : Int) < y → r.1 = 254 ∧ r.2 = 4) ∧
      (top * (2 : Rat) ^ (-128 : Int) < y → y ≤ top * (2 : Rat) ^ (127 : Int) →
        r.2 = 0 ∧ top * (2 : Rat) ^ (k - 1) < y ∧ y ≤ top * (2 : Rat) ^ k)) := by
  intro dst x r top emax k y
  obtain ⟨htop, hemax⟩ := mxType_eq ht
  obtain ⟨hmt, hemax0⟩ := mxType_pos dst
  refine ⟨fun h => ?_, fun ⟨g, h⟩ => ?_, fun ⟨g, h⟩ => ?_, fun h => ?_, fun hy hmode => ?_, fun hy hmode => ?_⟩
  · rw [show r = _ from mxsclV_nan h]
    exact ⟨rfl, rfl⟩
  · rw [show r = _ from mxsclV_inf h]
    exact ⟨rfl, rfl⟩
  · rw [show r = _ from mxsclV_zero h]
    exact ⟨rfl, rfl⟩
  · cases hx : x.ex with
    | zero g => rw [show r = _ from mxsclV_zero hx]; exact Nat.zero_le _
    | fin g n d => rw [show r = _ from mxsclV_fin hx]; exact clampScale_le _
    | _ => rw [hx] at h; cases h
  · obtain ⟨g, n, d, hfin, hn, hd, hval, hlt⟩ := floatValue_of_abs_pos hy
    have hr : r = _ := mxsclV_fin hfin
    rw [if_pos hmode] at hr
    rw [show y = _ from hval, show emax = _ from hemax, show k = (r.1 : Int) - 127 from rfl, hr]
    exact clampScale_floor hn hd hemax0 hlt
  · obtain ⟨g, n, d, hfin, hn, hd, hval, -⟩ := floatValue_of_abs_pos hy
    have hr : r = _ := mxsclV_fin hfin
    rw [if_neg (by omega)] at hr
    rw [show y = _ from hval, show top = _ from htop, show k = (r.1 : Int) - 127 from rfl, hr]
    exact clampScale_ceil hn hd hmt

/-! ### MXQ (R157) -/

/-- The quotient that MXQ rounds. -/
def mxqEx (k : Nat) (x : Ex) : Ex := if k = 0xFF then .nan else scaleEx x (127 - (k : Int))

theorem mxqEx_nan {k : Nat} {x : Ex} (h : x = .nan ∨ k = 0xFF) : mxqEx k x = .nan := by
  unfold mxqEx
  split
  · rfl
  · next hk => rw [h.resolve_right hk]; rfl

theorem mxqEx_inf {k : Nat} (hk : k < 0xFF) (g : Bool) : mxqEx k (.inf g) = .inf g := if_neg hk.ne

theorem mxqEx_number {k : Nat} {x : Ex} (hk : k < 0xFF) (hx : x.isNumber) :
    (mxqEx k x).isNumber ∧ (mxqEx k x).rat = x.rat * (2 : Rat) ^ (127 - (k : Int)) := by
  rw [mxqEx, if_neg hk.ne]
  exact scaleEx_number hx (by omega)

/-- MXQ by its quotient. -/
theorem mxqV_eq (mode u imm p : Nat) :
    let x := floatValue (srcOf imm) p
    let q := mxqEx (bitsOf p 63 56) x.ex
    mxqV mode u imm p = if dstOf imm = 1 then
        (lowBits 8 (roundInt 8 true mode u (scaleEx q 6)).1, (roundInt 8 true mode u (scaleEx q 6)).2 ||| nvIf x.snan)
      else ((roundFloat (dstOf imm) mode u (bitOf imm 0) q).1, (roundFloat (dstOf imm) mode u (bitOf imm 0) q).2 ||| nvIf x.snan) := by
  intro x q
  unfold mxqV
  dsimp only
  split <;> rfl

/-- A NaN, or a scale that is one. -/
theorem mxqV_nan {mode u imm p : Nat} (ht : dstOf imm = 1 ∨ dstOf imm = 0xB ∨ dstOf imm = 0xC ∨ dstOf imm = 0xD)
    (h : (floatValue (srcOf imm) p).ex = .nan ∨ bitsOf p 63 56 = 0xFF) : mxqV mode u imm p =
      (if dstOf imm = 0xB then 0x7F else if dstOf imm = 0xC then 0x7E else 0,
        if dstOf imm = 1 ∨ dstOf imm = 0xD then 1 else if (floatValue (srcOf imm) p).snan then 1 else 0) := by
  have hnv (c : Bool) : 1 ||| nvIf c = 1 ∧ 0 ||| nvIf c = if c then 1 else 0 := by cases c <;> decide
  rw [mxqV_eq, mxqEx_nan h]
  rcases ht with ht | ht | ht | ht <;> rw [ht]
  · exact congrArg (Prod.mk 0) (hnv _).1
  · exact congrArg (Prod.mk 0x7F) (hnv _).2
  · exact congrArg (Prod.mk 0x7E) (hnv _).2
  · exact congrArg (Prod.mk 0) (hnv _).1

/-- An operand that is no NaN raises no flag of its own. -/
theorem mxqV_value {mode u imm p : Nat} (h : (floatValue (srcOf imm) p).ex ≠ .nan) : mxqV mode u imm p =
    if dstOf imm = 1 then
      (lowBits 8 (roundInt 8 true mode u (scaleEx (mxqEx (bitsOf p 63 56) (floatValue (srcOf imm) p).ex) 6)).1,
        (roundInt 8 true mode u (scaleEx (mxqEx (bitsOf p 63 56) (floatValue (srcOf imm) p).ex) 6)).2)
    else roundFloat (dstOf imm) mode u (bitOf imm 0) (mxqEx (bitsOf p 63 56) (floatValue (srcOf imm) p).ex) := by
  have hzero : nvIf false = 0 := rfl
  rw [mxqV_eq, floatValue_not_snan h, hzero]
  simp only [Nat.or_zero]

/-- MXQ of the four types, for every operand and scale. -/
theorem mxqV_spec {mode u imm p : Nat} (ht : dstOf imm = 1 ∨ dstOf imm = 0xB ∨ dstOf imm = 0xC ∨ dstOf imm = 0xD) :
    let dst := dstOf imm
    let x := floatValue (srcOf imm) p
    let k := bitsOf p 63 56
    let r := mxqV mode u imm p
    let sat := bitOf imm 0
    (x.ex.isNan ∨ k = 0xFF → r.1 = (if dst = 0xB then 0x7F else if dst = 0xC then 0x7E else 0) ∧
      r.2 = if dst = 1 ∨ dst = 0xD then 1 else if x.snan then 1 else 0) ∧
    (∀ g : Bool, x.ex = .inf g → k < 0xFF → (dst ≠ 1 → r = roundFloat dst mode u sat (.inf g)) ∧
      (dst = 1 → r.1 = (if g then 0x80 else 0x7F) ∧ r.2 = 1)) ∧
    (x.ex.isNumber → k < 0xFF → ∃ q : Ex, q.isNumber ∧ q.rat = x.ex.rat * (2 : Rat) ^ (127 - (k : Int)) ∧
      (dst ≠ 1 → r = roundFloat dst mode u sat q) ∧
      (dst = 1 → ∃ q' : Ex, q'.isNumber ∧ q'.rat = q.rat * 64 ∧
        r.1 = (BitVec.ofInt 8 (roundInt 8 true mode u q').1).toNat ∧ r.2 = (roundInt 8 true mode u q').2)) := by
  intro dst x k r sat
  refine ⟨fun h => ?_, fun g hg hk => ?_, fun hnum hk => ?_⟩
  · rw [show r = _ from mxqV_nan ht (h.imp_left (Ex.isNan_iff _).1)]
    exact ⟨rfl, rfl⟩
  · have hr : r = _ := mxqV_value (show x.ex ≠ .nan by rw [hg]; exact fun h => nomatch h)
    rw [show (floatValue (srcOf imm) p).ex = .inf g from hg, mxqEx_inf hk] at hr
    refine ⟨fun hne => hr.trans (if_neg hne), fun heq => ?_⟩
    rw [if_pos (show dstOf imm = 1 from heq)] at hr
    rw [hr]
    cases g <;> exact ⟨rfl, rfl⟩
  · have hr : r = _ := mxqV_value (show x.ex ≠ .nan from fun h => by rw [h] at hnum; exact hnum)
    obtain ⟨hqnum, hqrat⟩ := mxqEx_number hk hnum
    obtain ⟨hq'num, hq'rat⟩ := scaleEx_number hqnum (n := 6) (by decide)
    refine ⟨mxqEx k x.ex, hqnum, hqrat, fun hne => hr.trans (if_neg hne), fun heq => ?_⟩
    rw [if_pos (show dstOf imm = 1 from heq)] at hr
    refine ⟨scaleEx (mxqEx k x.ex) 6, hq'num, by rw [hq'rat]; norm_num, ?_, ?_⟩
    · rw [hr, BitVec.toNat_ofInt]
      rfl
    · rw [hr]

/-! ### FRND on every operand (R150) -/

section
variable {mode u xop p : Nat}

theorem frndV_nan (h : (opd xop p).ex = .nan) : frndV mode u xop p = (canonNan (8 + xop), nvIf (opd xop p).snan) := by
  unfold frndV
  dsimp only
  rw [h]
  rfl

theorem frndV_zero {g : Bool} (h : (opd xop p).ex = .zero g) : frndV mode u xop p = (encOf xop p, 0) := by
  unfold frndV
  dsimp only
  rw [h]

theorem frndV_inf {g : Bool} (h : (opd xop p).ex = .inf g) : frndV mode u xop p = (encOf xop p, 0) := by
  unfold frndV
  dsimp only
  rw [h]

end

/-- FRND of the three formats, for every operand. -/
theorem frndV_spec {xop : BitVec 3} (h : xop.toNat < 3) (mode u : Nat) (a : Word) :
    let p := frndV mode u xop.toNat a.toNat
    let r := roundAt mode u (fltNeg xop a) (fltEx xop a).rat.num.natAbs (fltEx xop a).rat.den 0
    (fltIsNan xop a → p.1 = fltNan xop ∧ p.2 = if fltIsSnan xop a then 1 else 0) ∧
    (fltMag xop a = 0 ∨ fltMag xop a = fltInf xop → p.1 = fltEnc xop a ∧ p.2 = 0) ∧
    (0 < fltMag xop a ∧ fltMag xop a < fltInf xop →
      (fltEx xop (BitVec.ofNat 64 p.1)).rat = (if fltNeg xop a then -(r.1 : Rat) else r.1) ∧
      fltNeg xop (BitVec.ofNat 64 p.1) = fltNeg xop a ∧ p.2 = if r.2 then 16 else 0) := by
  intro p r
  refine ⟨fun hnan => ?_, fun hspecial => ?_, fun ⟨h0, hlt⟩ => ?_⟩
  · have hp : p = (canonNan (8 + xop.toNat), nvIf (floatValue (8 + xop.toNat) a.toNat).snan) := frndV_nan (fltEx_nan h hnan)
    rw [hp, canonNan_flt h, floatValue_snan h]
    exact ⟨rfl, rfl⟩
  · have hp : p = (encOf xop.toNat a.toNat, 0) := by
      rcases hspecial with h0 | hinf
      · exact frndV_zero (fltEx_zero h h0)
      · exact frndV_inf (fltEx_inf h hinf)
    rw [hp, fltEnc, ← fltFmt_bits h]
    exact ⟨rfl, rfl⟩
  · obtain ⟨mag, hmag, hval, hp⟩ := frndV_ordinary h (mode := mode) u h0 hlt
    have hlt' : mag < 2 ^ ((floatFmt (8 + xop.toNat)).bits - 1) := hmag.trans_lt (floatFmt_max_lt _)
    have hfit : signBit (8 + xop.toNat) (fltNeg xop a) + mag < 2 ^ fltWidth xop := by
      rw [← fltFmt_bits h]
      exact signBit_add_lt hlt'
    rw [show p = _ from hp]
    refine ⟨?_, ?_, rfl⟩
    · rw [fltEx_ofNat h hfit, floatValue_signBit (by omega) _ hmag, magEx_rat, ← fltFmt, hval]
    · rw [← encNeg_flt h, toNat_ofNat_flt h hfit, encNeg_signBit hlt']

end Sys2Proof.Machine

namespace Sys2Proof.Proofs

open Sys2Proof Sys2Proof.Machine

/-- Settles O17: the conversions send what their value function gives; its fields are those of imm9. -/
theorem conversionResults : Obligations.ConversionResults := by
  unfold Obligations.ConversionResults
  intro f s l i a hf ha src dst sat mode u x nv gives bits int
  have hsrc : srcOf f.imm9.toNat = src := srcOf_imm f.imm9
  have hdst : dstOf f.imm9.toNat = dst := dstOf_imm f.imm9
  have hsat : bitOf f.imm9.toNat 0 = sat := satOf_imm f.imm9
  refine ⟨?_, ?_, ?_, ?_, ?_, ?_, ?_⟩
  · intro r
    have hval : fltPair (fcvtV mode u f.imm9.toNat a.toNat) = (BitVec.ofNat 64 r.1, r.2 ||| nv) := by
      unfold fcvtV
      rw [hsrc, hdst, hsat]
      simp only [Bool.and_eq_true, decide_eq_true_iff, Bool.not_eq_true']
      rfl
    exact (convert_fires hf ha fcvtV).trans (congrArg _ hval)
  · refine List.forall_mem_cons.2 ⟨⟨_, frnd_fires hf ha⟩, ?_⟩
    refine List.forall_mem_cons.2 ⟨⟨_, convert_fires hf ha fcvtV⟩, ?_⟩
    refine List.forall_mem_cons.2 ⟨⟨_, convert_fires hf ha fcvtIntV⟩, ?_⟩
    refine List.forall_mem_cons.2 ⟨⟨_, convert_fires hf ha fcvtIntV⟩, ?_⟩
    refine List.forall_mem_cons.2 ⟨⟨_, convert_fires hf ha intCvtV⟩, ?_⟩
    refine List.forall_mem_cons.2 ⟨⟨_, convert_fires hf ha intCvtV⟩, ?_⟩
    refine List.forall_mem_cons.2 ⟨⟨_, convert_fires hf ha fun mode _ imm l => mxsclV mode imm l⟩, ?_⟩
    exact List.forall_mem_cons.2 ⟨⟨_, convert_fires hf ha mxqV⟩, List.forall_mem_nil _⟩
  · intro _ _ _ r
    have hval : fltPair (fcvtIntV mode u f.imm9.toNat a.toNat) = ((BitVec.ofInt bits r.1).setWidth 64, r.2) := by
      rw [← toWord_lowBits]
      unfold fcvtIntV
      rw [hsrc, hdst]
      rfl
    exact ⟨(convert_fires hf ha fcvtIntV).trans (congrArg _ hval), (convert_fires hf ha fcvtIntV).trans (congrArg _ hval)⟩
  · intro _ r
    have hval : fltPair (intCvtV mode u f.imm9.toNat a.toNat) = (BitVec.ofNat 64 r.1, r.2) := by
      unfold intCvtV intEx
      rw [hsrc, hdst, hsat, intValue_toNat]
      rfl
    exact ⟨(convert_fires hf ha intCvtV).trans (congrArg _ hval), (convert_fires hf ha intCvtV).trans (congrArg _ hval)⟩
  · refine ⟨_, _, convert_fires hf ha mxqV, fun ht => ?_⟩
    rw [← hdst] at ht
    have hspec := mxqV_spec (mode := mode) (u := u) (p := a.toNat) ht
    rw [hsrc, hdst, hsat, bitsOf_toNat] at hspec
    exact hspec
  · refine ⟨_, _, convert_fires hf ha fun mode _ imm l => mxsclV mode imm l, fun ht => ?_⟩
    rw [← hdst] at ht
    have hspec := mxsclV_spec (mode := mode) (p := a.toNat) ht
    rw [hsrc, hdst] at hspec
    exact hspec
  · refine ⟨_, _, frnd_fires hf ha, fun hx himm => ?_⟩
    rw [Nat.mod_eq_of_lt (by omega)]
    exact frndV_spec hx _ _ a

end Sys2Proof.Proofs
end
